-- ==== Sys2Proof/Word.lean ====
section
/-! DEFINITION. The word types of the block: a register is 32 bits (R5), a byte is 8 bits. -/
namespace Sys2Proof

/-- One register, 32 bits wide (R5). -/
abbrev Word := BitVec 32

/-- One byte of DRAM, of host memory, of flash or of a packet. -/
abbrev Byte := BitVec 8

end Sys2Proof
end

