-- ==== Sys2Proof/Syntax.lean ====
section
/-! DEFINITION. The commands of the block: one constructor for each row of spec/opcode_table.json, in the
table's order. The table gives no operand fields, so the operands are the model's (DESIGN CHOICE, log entry 3): what the
outside hands over with the happening (an address, a value, a packet's bytes, the status a magazine returns),
or the physical number of the instance it happens to (R11). Numbered instances are `Fin`, so that no command
names an instance the part does not have. A mailbox command names only its mailbox: its parameter words were
fetched by COMMAND_FETCH and wait in the state. -/
namespace Sys2Proof

/-- What a master or the outside asks of, or does to, the RL1024. -/
inductive Instr where
  -- register space, host port and mailboxes (chapter 02)
  | registerWrite (mst : Fin 4096) (addr : Nat) (dws : List (Word × BitVec 4))
  | guardPairExpiry (page : Fin 512)
  | pgStatClr (mst : Fin 4096) (page : Fin 512) (seq : BitVec 8) (mask : BitVec 24)
  | resetReq (mst : Fin 4096) (page : Fin 512)
  | quiesce (mst : Fin 4096) (page : Fin 512)
  | enable (mst : Fin 4096) (page : Fin 512) (on : Bool)
  | resetDone (page : Fin 512)
  | pgLockWrite (mst : Fin 4096) (page : Fin 512) (v : Word)
  | powerRequest (mst : Fin 4096) (dom : Fin 202) (req : Fin 4) (idleUs : BitVec 16)
  | vote (page : Fin 512) (c0 c1 c2 : Word)
  | bar2Write (off : Nat) (data : List Byte)
  | bar2Read (off : Nat) (ndw : Fin 17)
  | hostBusMasterChange (bme d3hot : Bool)
  | hostPortLinkReset
  | mbxSqTail (m : Fin 16) (v : Word)
  | mbxCqHead (m : Fin 16) (v : Word)
  | mbxEnable (m : Fin 16) (cfg : Word)
  | mbxDisable (m : Fin 16) (cfg : Word)
  | commandFetch (m : Fin 16) (entry : Option (List Word))
  | commandCompletion (m : Fin 16)
  | mirrorWrite
  | modeRequest (mst : Fin 4096) (req : Word)
  -- mailbox commands (chapter 12)
  | fwInfo (m : Fin 16)
  | armRecord (m : Fin 16)
  | armDecode (m : Fin 16) (source : Option (List Byte))
  | armProxy (m : Fin 16) (tpl : Option (List Byte))
  | disarm (m : Fin 16)
  | release (m : Fin 16)
  | close (m : Fin 16)
  | streamStatus (m : Fin 16) (hostOk : Bool)
  | takeStart (m : Fin 16)
  | takeStop (m : Fin 16)
  | takeStopTime
  | setIngest (m : Fin 16)
  | forceI (m : Fin 16)
  | forceIdr (m : Fin 16)
  | getParamSets (m : Fin 16) (hostOk : Bool)
  | hostMeta (m : Fin 16) (data : Option (List Byte))
  | headCmd (m : Fin 16)
  | headWake (m : Fin 16)
  | allowAdd (m : Fin 16)
  | allowRemove (m : Fin 16)
  | bufAssign (m : Fin 16)
  | bufFree (m : Fin 16)
  | admissionForward
  -- head links (chapter 04)
  | blockLockGained (lane : Fin 1024)
  | blockLockLost (lane : Fin 1024)
  | align (lane : Fin 1024) (logical carry spares : BitVec 8) (count : BitVec 16) (badHeaders : Nat)
  | pstart (head : Fin 1024) (region : Fin 16) (picture : BitVec 24)
  | sample (head : Fin 1024) (packet : List Byte)
  | metaPacket (head : Fin 1024) (packet : List Byte)
  | motion (head : Fin 1024) (packet : List Byte)
  | hello (head : Fin 1024) (packet : List Byte)
  | response (head : Fin 1024) (packet : List Byte)
  | ack (head : Fin 1024) (packet : List Byte)
  | echo (head : Fin 1024) (packet : List Byte)
  | hostileIntervalEnd
  | policeCreditTick
  | replayFrame (head : Fin 1024)
  | laneMapFrame (head : Fin 1024)
  | triggerFrame (head : Fin 1024)
  | timeFrame (head : Fin 1024)
  | hostCmdFrame (head : Fin 1024)
  | challengeFrame (head : Fin 1024)
  | admitFrame (head : Fin 1024)
  | trainFrame (head : Fin 1024)
  | ackFrame (head : Fin 1024)
  | backchannelResendTimeout (head : Fin 1024) (tag : BitVec 8)
  | responseTimeout (head : Fin 1024)
  | linkLost (head : Fin 1024)
  | gtQrel (mst : Fin 4096) (bank : Fin 32) (v : Word)
  | gtLaneOn (mst : Fin 4096) (bank : Fin 32) (v : Word)
  | wakePattern (lane : Fin 1024)
  -- ingest, coding and rate control (chapters 05 to 09)
  | holdExpiry (slot : Fin 1024)
  | pictureDeadline (slot : Fin 1024)
  | missingPicture (slot : Fin 1024)
  | rowGrant (slot : Fin 1024)
  | tileDispatch (cluster : Fin 16)
  | stripCheckpoint (slot : Fin 1024) (row k : Nat)
  | tileCommit (pipe : Fin 68) (selfCheckOk : Bool)
  | tileRowEmit (slot : Fin 1024)
  | mrmDrainTick
  | restartCreditTick
  | machineCheck (decode : Bool) (pipe : Fin 68) (uaddr : BitVec 13) (groups : BitVec 8)
  | pipelineOrder (decode : Bool) (pipe : Fin 68) (order : Fin 5)
  | commitPoint (decode : Bool) (pipe : Fin 68) (gap : BitVec 12)
  -- Gaffer controllers and the event controller (chapter 12)
  | scanBoundary (ctl : Fin 8)
  | gafferHalt (ctl : Fin 8)
  | gafferHeartbeatTimeout (ctl : Fin 8)
  | eventAssert (src : Fin 256) (level : Bool)
  | externalFilterPass (src : Fin 256) (level : Bool)
  | evtSrcWrite (mst : Fin 4096) (src : Fin 256) (v : Word)
  | fabricHandshakeTimeout (block : Fin 183)
  -- queues, DMA and Cullet (chapter 13)
  | leaseRequest (ring : Fin 16384) (tag : BitVec 16)
  | leaseExpiry (ring : Fin 16384)
  | ringTailAdvance (ring : Fin 16384) (tag : BitVec 16) (tail : BitVec 16)
  | ringHeadAdvance (ring : Fin 16384) (head : BitVec 16)
  | quDb (mst : Fin 4096) (i : Fin 4096) (v : Word)
  | quRcfg (mst : Fin 4096) (v : Word)
  | dmaDescriptorDone (ring : Fin 4096) (desc : List Word) (status : Fin 5) (data : List Byte)
  | dmaRequestLine (line : Fin 256)
  | dmaBurstDone (ch : Fin 64) (data : List Byte)
  | chCfgWrite (mst : Fin 4096) (ch : Fin 64) (v : Word)
  | calendarSlot
  | pieceRelease (output : Fin 12)
  | ringSample
  | chunkAllocate (tag : BitVec 16) (cls : Fin 8) (large : Bool)
  | chunkRelease (handle : Word) (tag : BitVec 16)
  -- magazine ports (chapters 14 and 15)
  | magPresenceChange (port : Fin 8) (present : Bool)
  | magPerstRelease (port : Fin 8)
  | magLinkUp (port : Fin 8) (speed widthLog2 : Fin 8)
  | magLinkTimeout (port : Fin 8)
  | magReady (port : Fin 8) (mqes : BitVec 16) (mpsmin : BitVec 4)
  | magReadyTimeout (port : Fin 8)
  | nvmeAdminCompletion (port : Fin 8) (status : BitVec 15) (dw0 : Word) (data : List Byte)
  | nvmeWriteCompletion (port : Fin 8) (pair : Fin 257) (cid : Fin 1024) (status : BitVec 15)
  | nvmeReadCompletion (port : Fin 8) (pair : Fin 257) (cid : Fin 1024) (status : BitVec 15) (data : List Byte)
  | nvmeFlushCompletion (port : Fin 8) (status : BitVec 15)
  | writeTimeout (port : Fin 8)
  | magLinkDown (port : Fin 8)
  | pcieCompletionTimeout (port : Fin 8)
  | exchangeWaitTimeout
  | drainConfirmTimeout (slot : Fin 1024)
  | pacePublish
  | portShortTimeout (port : Fin 8)
  | smartPoll
  | magMount (m : Fin 16)
  | magUnmount (m : Fin 16)
  | magSwap (m : Fin 16)
  | magFlush (m : Fin 16)
  | magLog (m : Fin 16)
  | magIdent (m : Fin 16)
  | armOffload (m : Fin 16) (source : Option (List Byte))
  | journalWaitExpiry (port : Fin 8)
  -- memory (chapter 16)
  | memCorrectedRead (ch : Fin 10)
  | memUncorrectableRead (addr : Nat) (mst : Fin 4096) (user : Nat)
  | patrolScrub (addr : Nat) (result : Fin 3)
  | mcRetire (mst : Fin 4096) (v : Word)
  | retirementCopyDone
  | channelLost (ch : Fin 10)
  | refreshDue (ch : Fin 10) (rfm : Bool) (neighbours : Bool)
  | dqsTrack (ch : Fin 10) (adjusted beyondLimit : Bool)
  | channelTrainingDone (ch : Fin 10) (ok : Bool) (ms : BitVec 8)
  -- time base and network (chapter 17)
  | timeStepAdd (mst : Fin 4096) (v : Word)
  | timeSetAbsolute (mst : Fin 4096) (v : Word)
  | timeRateInstall (mst : Fin 4096) (v : Word)
  | tmNowRead
  | tmFreeRead
  | refclkLoss
  | refclkReturn
  | pinStamp (src : Fin 9) (rising : Bool)
  | ppsOut
  | triggerDue (head : Fin 1024)
  | ethFrameReceive (net : Fin 2) (frame : List Byte)
  | ptpFrameTransmit (net : Fin 2)
  | ptpMessageDue (net : Fin 2) (msg : Fin 16)
  | announceReceiptTimeout (net : Fin 2)
  | netLinkChange (net : Fin 2) (up : Bool)
  | ptpConfig (m : Fin 16)
  | ptpStatus (m : Fin 16) (hostOk : Bool)
  | timeSet (m : Fin 16)
  | trigSched (m : Fin 16)
  | trigCancel (m : Fin 16)
  | tcConfig (m : Fin 16)
  -- decode and proxy (chapters 10 and 11)
  | decodeTileDone (pipe : Fin 20)
  | decodePictureComplete (slot : Fin 256)
  | pacedRelease (slot : Fin 256)
  | proxySliceComplete (slot : Fin 256)
  | proxyPictureStart (slot : Fin 256)
  | rtcpSenderReport (slot : Fin 256)
  -- peer ports (chapter 18)
  | peerIdent (p : Fin 3) (member sizeM1 port : Fin 4) (serial : BitVec 64) (polarity : BitVec 8) (delay01ns : BitVec 16)
  | peerDataFlit (p : Fin 3) (flit : List Byte)
  | peerNak (p : Fin 3) (seq : BitVec 12)
  | peerLinkLost (p : Fin 3)
  | heartbeat
  | peerTime (p : Fin 3) (sentNs : BitVec 64) (sentFrac : Word)
  | peerTimeSend
  | offerReq (p : Fin 3) (streams : Nat) (sumMbps : Nat)
  | offer (p : Fin 3) (port : Fin 8)
  | offerTimeout
  | accept (p : Fin 3) (takeId : BitVec 16) (tStart srcVolume : BitVec 64) (streams : List (Nat × Nat × Nat × Nat × Nat))
  | offerReleaseTimeout (p : Fin 3)
  | confirm (p : Fin 3) (slot : Fin 1024) (endAddr : Nat)
  | readReq (p : Fin 3) (takeId : BitVec 16) (recStream : Fin 1024) (first : BitVec 24) (mbps : Nat)
  | partnerFailed (p : Fin 3)
  | peerStatus (m : Fin 16) (hostOk : Bool)
  | peerAccept (m : Fin 16)
  | peerRefuse (m : Fin 16)
  -- faults (chapter 19)
  | faultSourceEvent (src : Fin 2053) (mst : Fin 4096) (access : Fin 16) (detail : BitVec 16) (addr : Nat)
  | pathFault (src : Fin 2053)
  | quarantineClose
  | fcClr (mst : Fin 4096) (src : Fin 4096)
  | fcClrAll (mst : Fin 4096)
  | fcRestore (mst : Fin 4096) (v : Word)
  -- power, reset and boot (chapter 20)
  | idleTimerExpiry (dom : Fin 202)
  | domainEntryDone (dom : Fin 202)
  | domainWake (dom : Fin 202) (source : Fin 9)
  | domainExitDone (dom : Fin 202)
  | lpClreq (mst : Fin 4096) (v : Word)
  | lpTimerArm (mst : Fin 4096) (v : Word)
  | lpTimerExpiry
  | dip (rail : Fin 8) (mv : BitVec 16)
  | dipRecovery (rail : Fin 8) (mv : BitVec 16)
  | freezeLift
  | supplyReset (rail : Fin 8)
  | powerOnReset (gangId gangSzM1 : Fin 4)
  | seqRailGood (rail : Fin 8)
  | seqRailTimeout (rail : Fin 8)
  | seqRetry
  | pinReset
  | hostReset (mst : Fin 4096) (v : Word)
  | bootImageLoaded
  | configRecordWaitEnd
  | flashReadPage (mst : Fin 4096)
  | flashProgram (mst : Fin 4096)
  | flashErase (mst : Fin 4096)
  | flashCommandDone (error : Bool)
  -- latching reads
  | rcLog0Read
  | encTbytesRead (pipe : Fin 68)
  | decSmpRead (pipe : Fin 20)
  | pxBytesRead (engine : Fin 4)
  | prTxRead (p : Fin 3)
  -- board test and JTAG (chapter 21)
  | testGatherBank (mst : Fin 4096) (index : Fin 32) (loop : Fin 4)
  | testMagPort (mst : Fin 4096) (index : Fin 32) (loop : Fin 4)
  | testPeerPort (mst : Fin 4096) (index : Fin 32) (loop : Fin 4)
  | testNetPort (mst : Fin 4096) (index : Fin 32) (loop : Fin 4)
  | testDdr5Channel (mst : Fin 4096) (index : Fin 32) (loop : Fin 4)
  | testDone (errors : Nat) (failed : Word)
  | bypass
  | idcode
  | samplePreload (preload : Option (List Bool))
  | extest
  | clamp
  | highz
  | pinResetRelease
  | hostLinkUp (speed : Fin 8) (widthLog2 : Fin 4)
  | datasetManagementCompletion (port : Fin 8) (status : BitVec 15)
  | proxyPacketLeavesPort (slot : Fin 256)
  deriving DecidableEq, Repr

end Sys2Proof
end

