-- ==== Sys2Proof/Config.lean ====
section
/-! DEFINITION. The values the spec leaves open: constants without a body, which no proof can evaluate. Each is a
free value, named in the assumption log; a statement that meets one holds for every value of it. -/
namespace Sys2Proof.Config

/-- The rank that orders the points of one motion-search step among themselves; R151 fixes the points and says
that equal costs go to the point evaluated first, but gives no order within a step (DESIGN CHOICE, log entry 20). -/
opaque searchRank : Nat → Nat

/-- Candidates that are only valid for search (R151): the spec gives one example and no list. Arguments: the
picture number, the tile row, the tile column and the number of the PU (DESIGN CHOICE, log entry 21). -/
opaque searchExtra : Nat → Nat → Nat → Nat → List (Int × Int)

/-- The 32-byte nonce of challenge `k` of a head (R76): drawn fresh by the hardware (DESIGN CHOICE, log entry 22). -/
opaque nonce : Nat → Nat → BitVec 256

/-- The bytes that the packed form of a tile row takes in the reference pool (R157): the packed format is not part of
WRC and the spec gives only its average. Arguments: slot, picture, row (DESIGN CHOICE, log entry 23). -/
opaque packedRow : Nat → Nat → Nat → Nat

/-- Which of the free chunks Cullet hands out: the spec gives no rule (DESIGN CHOICE, log entry 24). Arguments: FREE and the number of
chunks in use; the result counts modulo the free chunks. -/
opaque chunkPick : Nat → Nat → Nat

/-- DETAIL and ADDR of an event of a fault source for which the spec names no content (DESIGN CHOICE, log entry 25). Arguments: the source
and FREE. -/
opaque faultDetail : Nat → Nat → Nat
opaque faultAddr : Nat → Nat → Nat

/-- Entries of an Ethernet port's PTP receive FIFO: the spec gives no number (DESIGN CHOICE, log entry 26). -/
opaque ptpFifoDepth : Nat

/-- What GAFFER0's IEEE 1588 stack makes of a received PTP frame (DESIGN CHOICE, log entry 26): the standard decides it, not the spec.
Arguments: port, role, port state, frame, receive stamp. Result: the port state next, the offset from master where the frame
completes a measurement, the mean path delay, the grandmaster identity, stepsRemoved, currentUtcOffset, and the message types of
the frames it answers with. -/
opaque ptpDecide : Nat → Nat → Nat → List Byte → Nat → Nat × Option Int × Nat × Nat × Nat × Option Nat × List Nat

/-- A PTP frame that GAFFER0 sends: port, message type, FREE (DESIGN CHOICE, log entry 26). -/
opaque ptpFrame : Nat → Nat → Nat → List Byte

/-- The rate the servo slews with for an offset and the rate in force, in 2^-32 ns per tick (R331 gives no law; DESIGN CHOICE, log entry 26). -/
opaque servoRate : Int → Nat → Nat

/-- The layout of the 64-byte records of PTP_STATUS and PEER_STATUS, which the spec does not give (DESIGN CHOICE, log entry 27). Arguments:
which record, and the values it holds. -/
opaque statusRecord : Nat → List Nat → List Byte

/-- The serial number of this device, and the VOLUME_ID that INIT makes of it and the time base (R292 gives no formula; DESIGN CHOICE, log
entry 28). -/
opaque deviceSerial : Nat
opaque volumeId : Nat → Nat → Nat

/-- The value of the scaler's 4-tap filter (R221 gives no coefficients; DESIGN CHOICE, log entry 29): the four samples, the phase of 64, the sizes of
the source axis and of the output axis. -/
opaque scalerTap : List Nat → Nat → Nat → Nat → Nat

/-- The H.265 bytes that an engine makes (R222 gives the tool set, not the bits; DESIGN CHOICE, log entry 29). Slices: proxy slot, picture number, IDR,
replacement, slice, the three planes. The NAL units before the first slice of a picture (SEI; parameter sets on an IDR), the filler
after its last, the parameter sets themselves. -/
opaque h265Slice : Nat → Nat → Bool → Nat → Nat → List (List Nat) → List Byte
opaque h265Before : Nat → Nat → Bool → List (List Byte)
opaque h265After : Nat → Nat → Nat → List (List Byte)
opaque h265ParamSets : Nat → List Byte

/-- The NTP time-stamp of an RTCP sender report for a time base reading: the spec names no mapping (DESIGN CHOICE, log entry 29). -/
opaque ntpStamp : Nat → BitVec 64

/-- The DRAM address of a ring that the firmware lays out, divided by 256 (R251, R274 give none; DESIGN CHOICE, log entry 31). -/
opaque ringBase : Nat → Nat

/-- Where BUF_ASSIGN places a buffer, in units of 64 KiB, for a size in the same units and FREE; none: no DRAM (R40 gives no rule; DESIGN CHOICE, log
entry 32). -/
opaque bufPick : Nat → Nat → Option Nat

/-- The mean rate in Mb/s of a stream recorded on a partner, by take and record stream: only the partner's volume shows it (R345,
Table 14.6; DESIGN CHOICE, log entry 33). -/
opaque partnerRate : Nat → Nat → Nat

/-- The peer port to which a decode stream's pictures go when DEST bit 3 is set, counted modulo 3: Table 12.5 names none (log entry
33). -/
opaque picturePort : Nat → Nat

/-- How a payload of channels 1 to 3 reads, and how one is made: the peer protocol is not published (DESIGN CHOICE, log entry 34). The read value is
(what, slot, address, end of unit, bytes) where `what` is 1 a piece, 2 a unit read, 3 a picture record, 4 an offload unit. -/
opaque flitRead : Nat → List Byte → Nat × Nat × Nat × Bool × List Byte
opaque flitMake : Nat → Nat → Nat → Bool → List Byte → List Byte

/-- Whether a level cause that only the world shows still holds: the temperature of a cluster, the lock of a bank's SerDes PLL, and, at
4,096 + the source, the equal rails of a path fault (R354, Table 19.1; DESIGN CHOICE, log entry 35). Arguments: the source and FREE. -/
opaque causeHolds : Nat → Nat → Bool

/-- The version of the firmware that an image's firmware section carries (GF_FW_VER; the section's layout is not given; DESIGN CHOICE, log entry 36). -/
opaque firmwareVersion : List Byte → Nat

/-- ECDSA P-384 verification of a firmware section against the fused key (R385): section, signature (DESIGN CHOICE, log entry 36). -/
opaque signatureOk : List Byte → List Byte → Bool

/-- What a register reads that only the silicon or the world determines (a temperature, a burst count, a microprogram counter): the
register's address and FREE (DESIGN CHOICE, log entry 37). -/
opaque sampled : Nat → Nat → BitVec 32

/-- What a byte of the flash becomes when it is programmed without an erase before: the spec names no result (DESIGN CHOICE, log entry 39). Arguments:
the byte that stands there and the byte programmed. -/
opaque overProgram : BitVec 8 → BitVec 8 → BitVec 8

/-- The microcode ROM as the indirect window reads it back: half 0 to 3, dword (DESIGN CHOICE, log entry 40). -/
opaque romWord : Nat → Nat → BitVec 32

/-- Whether a load that is no whole number of units is shown rounded up: the spec gives the unit alone (DESIGN CHOICE, log entry 41). Arguments: the
load and the unit. -/
opaque loadRound : Nat → Nat → Bool

end Sys2Proof.Config
end

