-- ==== Sys2Proof/Machine/Bits.lean ====
section
/-! DEFINITION. Bytes, byte orders and checks: little-endian and big-endian fields (R5, R69), CRC-32C (R166), and
SHA-256 with HMAC-SHA-256 (FIPS 180-4 and RFC 2104, Table 0.2), which R76 and R386 use. -/
namespace Sys2Proof.Machine

/-- ceil(a / b). -/
def cdiv (a b : Nat) : Nat := (a + b - 1) / b

/-- a rounded up to a multiple of b. -/
def roundUp (a b : Nat) : Nat := cdiv a b * b

/-- Byte `i` of a number. -/
def byteOf (n i : Nat) : Byte := BitVec.ofNat 8 (n / 2 ^ (8 * i))

/-- `k` bytes of a number, least significant first (R5). -/
def leBytes (k n : Nat) : List Byte := (List.range k).map fun i => byteOf n i

/-- `k` bytes of a number, most significant first (R69). -/
def beBytes (k n : Nat) : List Byte := (List.range k).reverse.map fun i => byteOf n i

/-- The number that little-endian bytes spell. -/
def ofLe : List Byte → Nat
  | [] => 0
  | b :: t => b.toNat + 256 * ofLe t

/-- The number that big-endian bytes spell. -/
def ofBe (bs : List Byte) : Nat := bs.foldl (fun a b => a * 256 + b.toNat) 0

/-- Little-endian field: `k` bytes from offset `o`; bytes beyond the end count 0. -/
def fieldLe (bs : List Byte) (o k : Nat) : Nat := ofLe ((bs.drop o).take k)

/-- Big-endian field: `k` bytes from offset `o`. -/
def fieldBe (bs : List Byte) (o k : Nat) : Nat := ofBe ((bs.drop o).take k)

/-- Two's complement of an integer in `bits` bits, as a natural number. -/
def toTwos (bits : Nat) (v : Int) : Nat := (v % (2 ^ bits : Int)).toNat

/-- The integer that `bits` bits of two's complement spell. -/
def ofTwos (bits n : Nat) : Int :=
  let m := n % 2 ^ bits
  if m < 2 ^ (bits - 1) then (m : Int) else (m : Int) - 2 ^ bits

/-- A 32-bit word's bytes, little-endian (R5). -/
def wordBytes (w : Word) : List Byte := leBytes 4 w.toNat

/-- Words from bytes, little-endian. -/
def bytesToWords : List Byte → List Word
  | a :: b :: c :: d :: t => BitVec.ofNat 32 (ofLe [a, b, c, d]) :: bytesToWords t
  | _ => []

/-- One bit of the reflected CRC-32C (R166). -/
def crcBit (c : BitVec 32) : BitVec 32 := if c.getLsbD 0 then (c >>> 1) ^^^ 0x82F63B78#32 else c >>> 1

/-- One byte of CRC-32C. -/
def crcByte (c : BitVec 32) (b : Byte) : BitVec 32 :=
  crcBit (crcBit (crcBit (crcBit (crcBit (crcBit (crcBit (crcBit (c ^^^ b.setWidth 32))))))))

/-- CRC-32C of a byte string: Castagnoli, reflected, initial value and final exclusive-or 0xFFFF_FFFF (R166). -/
def crc32c (bs : List Byte) : Nat := (bs.foldl crcByte 0xFFFFFFFF#32 ^^^ 0xFFFFFFFF#32).toNat

/-- SHA-256's sixty-four round constants (FIPS 180-4). -/
def shaK : List (BitVec 32) :=
  [0x428a2f98#32, 0x71374491#32, 0xb5c0fbcf#32, 0xe9b5dba5#32, 0x3956c25b#32, 0x59f111f1#32, 0x923f82a4#32, 0xab1c5ed5#32,
   0xd807aa98#32, 0x12835b01#32, 0x243185be#32, 0x550c7dc3#32, 0x72be5d74#32, 0x80deb1fe#32, 0x9bdc06a7#32, 0xc19bf174#32] ++
  [0xe49b69c1#32, 0xefbe4786#32, 0x0fc19dc6#32, 0x240ca1cc#32, 0x2de92c6f#32, 0x4a7484aa#32, 0x5cb0a9dc#32, 0x76f988da#32,
   0x983e5152#32, 0xa831c66d#32, 0xb00327c8#32, 0xbf597fc7#32, 0xc6e00bf3#32, 0xd5a79147#32, 0x06ca6351#32, 0x14292967#32] ++
  [0x27b70a85#32, 0x2e1b2138#32, 0x4d2c6dfc#32, 0x53380d13#32, 0x650a7354#32, 0x766a0abb#32, 0x81c2c92e#32, 0x92722c85#32,
   0xa2bfe8a1#32, 0xa81a664b#32, 0xc24b8b70#32, 0xc76c51a3#32, 0xd192e819#32, 0xd6990624#32, 0xf40e3585#32, 0x106aa070#32] ++
  [0x19a4c116#32, 0x1e376c08#32, 0x2748774c#32, 0x34b0bcb5#32, 0x391c0cb3#32, 0x4ed8aa4a#32, 0x5b9cca4f#32, 0x682e6ff3#32,
   0x748f82ee#32, 0x78a5636f#32, 0x84c87814#32, 0x8cc70208#32, 0x90befffa#32, 0xa4506ceb#32, 0xbef9a3f7#32, 0xc67178f2#32]

/-- SHA-256's initial hash value. -/
def shaInit : List (BitVec 32) :=
  [0x6a09e667#32, 0xbb67ae85#32, 0x3c6ef372#32, 0xa54ff53a#32, 0x510e527f#32, 0x9b05688c#32, 0x1f83d9ab#32, 0x5be0cd19#32]

/-- The message schedule, newest word first, extended by `n` words. -/
def shaExtend : Nat → List (BitVec 32) → List (BitVec 32)
  | 0, w => w
  | n + 1, w =>
    let g := fun i => w.getD i 0
    let s0 := (g 14).rotateRight 7 ^^^ (g 14).rotateRight 18 ^^^ (g 14 >>> 3)
    let s1 := (g 1).rotateRight 17 ^^^ (g 1).rotateRight 19 ^^^ (g 1 >>> 10)
    shaExtend n ((g 15 + s0 + g 6 + s1) :: w)

/-- One round. -/
def shaRound (st : List (BitVec 32)) (kw : BitVec 32 × BitVec 32) : List (BitVec 32) :=
  match st with
  | [a, b, c, d, e, f, g, h] =>
    let s1 := e.rotateRight 6 ^^^ e.rotateRight 11 ^^^ e.rotateRight 25
    let ch := (e &&& f) ^^^ (~~~e &&& g)
    let t1 := h + s1 + ch + kw.1 + kw.2
    let s0 := a.rotateRight 2 ^^^ a.rotateRight 13 ^^^ a.rotateRight 22
    let mj := (a &&& b) ^^^ (a &&& c) ^^^ (b &&& c)
    [t1 + (s0 + mj), a, b, c, d + t1, e, f, g]
  | _ => st

/-- One 64-byte block. -/
def shaBlock (st : List (BitVec 32)) (blk : List Byte) : List (BitVec 32) :=
  let w16 := (List.range 16).map fun i => BitVec.ofNat 32 (fieldBe blk (4 * i) 4)
  let w := (shaExtend 48 w16.reverse).reverse
  let st' := (shaK.zip w).foldl shaRound st
  (st.zip st').map fun p => p.1 + p.2

/-- Fold over 64-byte blocks; `n` bounds the count. -/
def shaBlocks : Nat → List (BitVec 32) → List Byte → List (BitVec 32)
  | 0, st, _ => st
  | n + 1, st, bs => if bs.length < 64 then st else shaBlocks n (shaBlock st (bs.take 64)) (bs.drop 64)

/-- SHA-256 of a byte string. -/
def sha256 (msg : List Byte) : List Byte :=
  let z := (119 - msg.length % 64) % 64
  let padded := msg ++ [0x80#8] ++ List.replicate z 0#8 ++ beBytes 8 (8 * msg.length)
  ((shaBlocks (padded.length / 64) shaInit padded).map fun w => beBytes 4 w.toNat).flatten

/-- HMAC-SHA-256 (RFC 2104) with a key of at most 64 bytes. -/
def hmacSha256 (key msg : List Byte) : List Byte :=
  let k := key ++ List.replicate (64 - key.length) 0#8
  sha256 (k.map (· ^^^ 0x5C#8) ++ sha256 (k.map (· ^^^ 0x36#8) ++ msg))

/-- The bits of a byte, bit 7 first (R177). -/
def byteBits (b : Byte) : List Bool := (List.range 8).map fun i => b.getLsbD (7 - i)

/-- A byte string's bits, in reading order (R177). -/
def bitsOf (bs : List Byte) : List Bool := (bs.map byteBits).flatten

/-- The byte eight bits spell, first bit most significant; missing bits count 0. -/
def byteFromBits (bits : List Bool) : Byte :=
  BitVec.ofNat 8 ((List.range 8).foldl (fun a i => a * 2 + (if bits.getD i false then 1 else 0)) 0)

/-- Bytes from bits; `n` bounds the count. -/
def packBits : Nat → List Bool → List Byte
  | 0, _ => []
  | n + 1, bits => if bits.isEmpty then [] else byteFromBits (bits.take 8) :: packBits n (bits.drop 8)

/-- A segment's bytes: its bits, then the fewest zero bits that reach a multiple of 32 (R177). -/
def segBytes (bits : List Bool) : List Byte :=
  let n := roundUp bits.length 32
  packBits (n / 8) (bits ++ List.replicate (n - bits.length) false)

end Sys2Proof.Machine
end

