-- ==== Sys2Proof/Machine/RegMap.lean ====
section
/-! DEFINITION. The register map: every field of every register table of spec/, one row each. A row gives
the register's byte offset in its page, the stride and count of an array of registers, the field's bits, its access
code (Table 2.7), its class (Table 2.4), the value after a reset that clears it, and the bit of PG_LOCK that locks
it (none: only PAGE_LOCK does). Fields whose reset the spec gives per instance carry 0 here; `resetWord` in
RegLayout.lean gives their value. -/
namespace Sys2Proof.Machine

/-- Access codes (Table 2.7). -/
inductive Acc where
  | ro | rs | wo | rw | rwg | rw1
  deriving DecidableEq, Repr

/-- Field classes (Table 2.4). -/
inductive Cls where
  | id | cfg | ctl | sts | cnt | lck | ao
  deriving DecidableEq, Repr

/-- One field of one register, or of an array of like registers. -/
structure FieldRow where
  off : Nat
  stride : Nat
  count : Nat
  hi : Nat
  lo : Nat
  acc : Acc
  cls : Cls
  reset : Nat
  lock : Option Nat
  deriving DecidableEq, Repr


/-! ## The common page header (Table 2.5) -/

def fPG_ID_BLOCK_TYPE : FieldRow := ⟨0x0, 4, 1, 31, 16, .ro, .id, 0, none⟩
def fPG_ID_INSTANCE : FieldRow := ⟨0x0, 4, 1, 15, 8, .ro, .id, 0, none⟩
def fPG_ID_LAYOUT_VER : FieldRow := ⟨0x0, 4, 1, 7, 0, .ro, .id, 1, none⟩
def fPG_CAP_BLOCK_CAP : FieldRow := ⟨0x4, 4, 1, 31, 16, .ro, .id, 0, none⟩
def fPG_CAP_PAGE_COUNT : FieldRow := ⟨0x4, 4, 1, 15, 8, .ro, .id, 1, none⟩
def fPG_CAP_GUARDED : FieldRow := ⟨0x4, 4, 1, 7, 7, .ro, .id, 0, none⟩
def fPG_CAP_TRIPLE : FieldRow := ⟨0x4, 4, 1, 6, 6, .ro, .id, 0, none⟩
def fPG_CAP_PWR : FieldRow := ⟨0x4, 4, 1, 5, 5, .ro, .id, 0, none⟩
def fPG_CAP_LOCKS : FieldRow := ⟨0x4, 4, 1, 4, 4, .ro, .id, 0, none⟩
def fPG_CTL_RESET_REQ : FieldRow := ⟨0x8, 4, 1, 2, 2, .rw, .ctl, 0, none⟩
def fPG_CTL_QUIESCE : FieldRow := ⟨0x8, 4, 1, 1, 1, .rw, .ctl, 0, none⟩
def fPG_CTL_ENABLE : FieldRow := ⟨0x8, 4, 1, 0, 0, .rw, .ctl, 0, none⟩
def fPG_STAT_SEQ : FieldRow := ⟨0xC, 4, 1, 31, 24, .rs, .sts, 0, none⟩
def fPG_STAT_LOCK_VIOLATION : FieldRow := ⟨0xC, 4, 1, 23, 23, .rs, .sts, 0, none⟩
def fPG_STAT_GUARD_MISS : FieldRow := ⟨0xC, 4, 1, 22, 22, .rs, .sts, 0, none⟩
def fPG_STAT_RESET_DONE : FieldRow := ⟨0xC, 4, 1, 21, 21, .rs, .sts, 0, none⟩
def fPG_STAT_FAULT_RAISED : FieldRow := ⟨0xC, 4, 1, 20, 20, .rs, .sts, 0, none⟩
def fPG_STAT_BLOCK : FieldRow := ⟨0xC, 4, 1, 15, 0, .rs, .sts, 0, none⟩
def fPG_STAT_CLR_SEQ : FieldRow := ⟨0x10, 4, 1, 31, 24, .wo, .ctl, 0, none⟩
def fPG_STAT_CLR_MASK : FieldRow := ⟨0x10, 4, 1, 23, 0, .wo, .ctl, 0, none⟩
def fPG_FLT_GROUP : FieldRow := ⟨0x14, 4, 1, 31, 0, .ro, .sts, 0, none⟩
def fPG_PWR_REQ : FieldRow := ⟨0x18, 4, 1, 31, 30, .rw, .cfg, 0, none⟩
def fPG_PWR_IDLE_US : FieldRow := ⟨0x18, 4, 1, 15, 0, .rw, .cfg, 0, none⟩
def fPG_PWR_STAT_STATE : FieldRow := ⟨0x1C, 4, 1, 31, 30, .ro, .sts, 0, none⟩
def fPG_PWR_STAT_QUIESCED : FieldRow := ⟨0x1C, 4, 1, 29, 29, .ro, .sts, 0, none⟩
def fPG_PWR_STAT_RESET_BUSY : FieldRow := ⟨0x1C, 4, 1, 28, 28, .ro, .sts, 0, none⟩
def fPG_PWR_STAT_REFUSALS : FieldRow := ⟨0x1C, 4, 1, 27, 16, .ro, .cnt, 0, none⟩
def fPG_PWR_STAT_REFUSER : FieldRow := ⟨0x1C, 4, 1, 15, 0, .ro, .cnt, 0xffff, none⟩
def fPG_LOCK_PAGE_LOCK : FieldRow := ⟨0x20, 4, 1, 31, 31, .rw1, .lck, 0, none⟩
def fPG_LOCK_GROUP : FieldRow := ⟨0x20, 4, 1, 30, 0, .rw1, .lck, 0, none⟩
def fPG_EVT_CLEAR_MISS : FieldRow := ⟨0x24, 4, 1, 31, 24, .ro, .cnt, 0, none⟩
def fPG_EVT_GUARD_MISS : FieldRow := ⟨0x24, 4, 1, 23, 16, .ro, .cnt, 0, none⟩
def fPG_EVT_LOCK_VIOL : FieldRow := ⟨0x24, 4, 1, 15, 8, .ro, .cnt, 0, none⟩
def fPG_EVT_VOTE_CORR : FieldRow := ⟨0x24, 4, 1, 7, 0, .ro, .cnt, 0, none⟩

/-- The header registers, on every page (Table 2.3). -/
def headerFields : List FieldRow :=
  [fPG_ID_BLOCK_TYPE, fPG_ID_INSTANCE, fPG_ID_LAYOUT_VER, fPG_CAP_BLOCK_CAP, fPG_CAP_PAGE_COUNT, fPG_CAP_GUARDED, fPG_CAP_TRIPLE, fPG_CAP_PWR, fPG_CAP_LOCKS, fPG_CTL_RESET_REQ, fPG_CTL_QUIESCE, fPG_CTL_ENABLE] ++
  [fPG_STAT_SEQ, fPG_STAT_LOCK_VIOLATION, fPG_STAT_GUARD_MISS, fPG_STAT_RESET_DONE, fPG_STAT_FAULT_RAISED, fPG_STAT_BLOCK, fPG_STAT_CLR_SEQ, fPG_STAT_CLR_MASK, fPG_FLT_GROUP, fPG_PWR_REQ, fPG_PWR_IDLE_US, fPG_PWR_STAT_STATE] ++
  [fPG_PWR_STAT_QUIESCED, fPG_PWR_STAT_RESET_BUSY, fPG_PWR_STAT_REFUSALS, fPG_PWR_STAT_REFUSER, fPG_LOCK_PAGE_LOCK, fPG_LOCK_GROUP, fPG_EVT_CLEAR_MISS, fPG_EVT_GUARD_MISS, fPG_EVT_LOCK_VIOL, fPG_EVT_VOTE_CORR]


/-! ## hostport (Table 2.11) -/

def fHP_LINK_SPEED : FieldRow := ⟨0x40, 4, 1, 7, 4, .ro, .sts, 0, none⟩
def fHP_LINK_WIDTH : FieldRow := ⟨0x40, 4, 1, 3, 1, .ro, .sts, 0, none⟩
def fHP_LINK_BME : FieldRow := ⟨0x40, 4, 1, 0, 0, .ro, .sts, 0, none⟩
def fHP_DROP_CNT_DROPS : FieldRow := ⟨0x44, 4, 1, 31, 0, .ro, .cnt, 0, none⟩
def fHP_IWIN_SEL_SEL3 : FieldRow := ⟨0x48, 4, 1, 31, 24, .rw, .cfg, 0, none⟩
def fHP_IWIN_SEL_SEL2 : FieldRow := ⟨0x48, 4, 1, 23, 16, .rw, .cfg, 0, none⟩
def fHP_IWIN_SEL_SEL1 : FieldRow := ⟨0x48, 4, 1, 15, 8, .rw, .cfg, 0, none⟩
def fHP_IWIN_SEL_SEL0 : FieldRow := ⟨0x48, 4, 1, 7, 0, .rw, .cfg, 0, none⟩
def fHP_BAR2_CTL_WINDOW : FieldRow := ⟨0x4C, 4, 1, 3, 1, .rwg, .cfg, 0, none⟩
def fHP_BAR2_CTL_WR_EN : FieldRow := ⟨0x4C, 4, 1, 0, 0, .rwg, .cfg, 0, none⟩
def fHP_MIRROR_LO_ADDR_LO : FieldRow := ⟨0x50, 4, 1, 31, 8, .rwg, .cfg, 0, none⟩
def fHP_MIRROR_HI_ADDR_HI : FieldRow := ⟨0x54, 4, 1, 31, 0, .rwg, .cfg, 0, none⟩
def fHP_MIRROR_CTL_EN : FieldRow := ⟨0x58, 4, 1, 31, 31, .rwg, .cfg, 0, none⟩
def fHP_MIRROR_CTL_PERIOD_US : FieldRow := ⟨0x58, 4, 1, 15, 0, .rwg, .cfg, 0, none⟩
def fMBX_SQ_LO_ADDR_LO : FieldRow := ⟨0x100, 32, 16, 31, 6, .rwg, .cfg, 0, none⟩
def fMBX_SQ_HI_ADDR_HI : FieldRow := ⟨0x104, 32, 16, 31, 0, .rwg, .cfg, 0, none⟩
def fMBX_CQ_LO_ADDR_LO : FieldRow := ⟨0x108, 32, 16, 31, 4, .rwg, .cfg, 0, none⟩
def fMBX_CQ_HI_ADDR_HI : FieldRow := ⟨0x10C, 32, 16, 31, 0, .rwg, .cfg, 0, none⟩
def fMBX_CFG_EN : FieldRow := ⟨0x110, 32, 16, 31, 31, .rwg, .cfg, 0, none⟩
def fMBX_CFG_TARGET : FieldRow := ⟨0x110, 32, 16, 18, 16, .rwg, .cfg, 0, none⟩
def fMBX_CFG_CQ_LOG2 : FieldRow := ⟨0x110, 32, 16, 11, 8, .rwg, .cfg, 4, none⟩
def fMBX_CFG_SQ_LOG2 : FieldRow := ⟨0x110, 32, 16, 3, 0, .rwg, .cfg, 4, none⟩
def fMBX_SQ_TAIL_TAIL : FieldRow := ⟨0x114, 32, 16, 11, 0, .rw, .ctl, 0, none⟩
def fMBX_CQ_HEAD_HEAD : FieldRow := ⟨0x118, 32, 16, 11, 0, .rw, .ctl, 0, none⟩
def fMBX_STAT_IDLE : FieldRow := ⟨0x11C, 32, 16, 31, 31, .ro, .sts, 1, none⟩
def fMBX_STAT_ERR : FieldRow := ⟨0x11C, 32, 16, 30, 30, .ro, .sts, 0, none⟩
def fMBX_STAT_ERR_CODE : FieldRow := ⟨0x11C, 32, 16, 29, 24, .ro, .sts, 0, none⟩
def fMBX_STAT_SQ_HEAD : FieldRow := ⟨0x11C, 32, 16, 11, 0, .ro, .sts, 0, none⟩

/-- Every field of Table 2.11. -/
def hostportFields : List FieldRow :=
  [fHP_LINK_SPEED, fHP_LINK_WIDTH, fHP_LINK_BME, fHP_DROP_CNT_DROPS, fHP_IWIN_SEL_SEL3, fHP_IWIN_SEL_SEL2, fHP_IWIN_SEL_SEL1, fHP_IWIN_SEL_SEL0, fHP_BAR2_CTL_WINDOW, fHP_BAR2_CTL_WR_EN, fHP_MIRROR_LO_ADDR_LO, fHP_MIRROR_HI_ADDR_HI] ++
  [fHP_MIRROR_CTL_EN, fHP_MIRROR_CTL_PERIOD_US, fMBX_SQ_LO_ADDR_LO, fMBX_SQ_HI_ADDR_HI, fMBX_CQ_LO_ADDR_LO, fMBX_CQ_HI_ADDR_HI, fMBX_CFG_EN, fMBX_CFG_TARGET, fMBX_CFG_CQ_LOG2, fMBX_CFG_SQ_LOG2, fMBX_SQ_TAIL_TAIL, fMBX_CQ_HEAD_HEAD] ++
  [fMBX_STAT_IDLE, fMBX_STAT_ERR, fMBX_STAT_ERR_CODE, fMBX_STAT_SQ_HEAD]


/-! ## device (Tables 3.8 and 21.12, R43) -/

def fDEV_MODE_REQ_SEQ : FieldRow := ⟨0x48, 4, 1, 31, 24, .ro, .sts, 0, none⟩
def fDEV_MODE_RESULT : FieldRow := ⟨0x48, 4, 1, 23, 20, .ro, .sts, 0, none⟩
def fDEV_MODE_SH_CAUSE : FieldRow := ⟨0x48, 4, 1, 15, 12, .ro, .sts, 0, none⟩
def fDEV_MODE_EXCHANGE : FieldRow := ⟨0x48, 4, 1, 11, 11, .ro, .sts, 0, none⟩
def fDEV_MODE_DEGRADED : FieldRow := ⟨0x48, 4, 1, 10, 10, .ro, .sts, 0, none⟩
def fDEV_MODE_BASE : FieldRow := ⟨0x48, 4, 1, 7, 4, .ro, .sts, 0, none⟩
def fDEV_MODE_MODE : FieldRow := ⟨0x48, 4, 1, 3, 0, .ro, .sts, 0, none⟩
def fDEV_MODE_REQ_REQ : FieldRow := ⟨0x4C, 4, 1, 3, 0, .rwg, .ctl, 0, none⟩
def fDEV_TAKE_TAKE_ID : FieldRow := ⟨0x50, 4, 1, 31, 16, .ro, .sts, 0, none⟩
def fDEV_TAKE_TAKE_STATE : FieldRow := ⟨0x50, 4, 1, 15, 12, .ro, .sts, 0, none⟩
def fDEV_TAKE_STREAMS : FieldRow := ⟨0x50, 4, 1, 10, 0, .ro, .sts, 0, none⟩
def fDEV_QLOAD_ENC : FieldRow := ⟨0x54, 4, 4, 31, 16, .ro, .sts, 0, none⟩
def fDEV_QLOAD_INTER : FieldRow := ⟨0x54, 4, 4, 15, 0, .ro, .sts, 0, none⟩
def fDEV_DLOAD_DEC : FieldRow := ⟨0x64, 4, 1, 31, 16, .ro, .sts, 0, none⟩
def fDEV_DLOAD_INTER : FieldRow := ⟨0x64, 4, 1, 15, 0, .ro, .sts, 0, none⟩
def fDEV_PLOAD_PIX : FieldRow := ⟨0x68, 4, 1, 31, 16, .ro, .sts, 0, none⟩
def fDEV_PLOAD_STREAMS : FieldRow := ⟨0x68, 4, 1, 8, 0, .ro, .sts, 0, none⟩
def fDEV_TCTX_USED : FieldRow := ⟨0x6C, 4, 1, 15, 0, .ro, .sts, 0, none⟩
def fDEV_LAST_CLOSE_STREAM : FieldRow := ⟨0x70, 4, 1, 26, 16, .ro, .sts, 0, none⟩
def fDEV_LAST_CLOSE_REASON : FieldRow := ⟨0x70, 4, 1, 7, 0, .ro, .sts, 0, none⟩
def fDEV_ADMIT_REFUSE_STREAM : FieldRow := ⟨0x74, 4, 1, 26, 16, .ro, .sts, 0, none⟩
def fDEV_ADMIT_REFUSE_CHECK : FieldRow := ⟨0x74, 4, 1, 7, 0, .ro, .sts, 0, none⟩
def fDEV_CLOSE_CNT_CAPACITY : FieldRow := ⟨0x78, 4, 1, 31, 0, .ro, .cnt, 0, none⟩
def fDEV_SSTATE_S7 : FieldRow := ⟨0x400, 4, 192, 31, 28, .ro, .sts, 0, none⟩
def fDEV_SSTATE_S6S0 : FieldRow := ⟨0x400, 4, 192, 27, 0, .ro, .sts, 0, none⟩
def fDEV_TEST_GO : FieldRow := ⟨0x80, 4, 1, 31, 31, .rwg, .ctl, 0, none⟩
def fDEV_TEST_KIND : FieldRow := ⟨0x80, 4, 1, 27, 24, .rwg, .ctl, 0, none⟩
def fDEV_TEST_INDEX : FieldRow := ⟨0x80, 4, 1, 20, 16, .rwg, .ctl, 0, none⟩
def fDEV_TEST_LOOP : FieldRow := ⟨0x80, 4, 1, 9, 8, .rwg, .ctl, 0, none⟩
def fDEV_TEST_STAT_BUSY : FieldRow := ⟨0x84, 4, 1, 31, 31, .ro, .sts, 0, none⟩
def fDEV_TEST_STAT_DONE : FieldRow := ⟨0x84, 4, 1, 30, 30, .ro, .sts, 0, none⟩
def fDEV_TEST_STAT_PASS : FieldRow := ⟨0x84, 4, 1, 29, 29, .ro, .sts, 0, none⟩
def fDEV_TEST_STAT_ERRORS : FieldRow := ⟨0x84, 4, 1, 15, 0, .ro, .sts, 0, none⟩
def fDEV_TEST_MASK_FAILED : FieldRow := ⟨0x88, 4, 1, 31, 0, .ro, .sts, 0, none⟩
def fDEV_TEMP_CLUSTER : FieldRow := ⟨0x8C, 4, 1, 19, 16, .ro, .sts, 0, none⟩
def fDEV_TEMP_TEMP : FieldRow := ⟨0x8C, 4, 1, 15, 0, .ro, .sts, 0, none⟩
def fDEV_ID_ID : FieldRow := ⟨0x40, 4, 1, 31, 0, .ro, .id, 0x5241024, none⟩
def fDEV_STEP_STEP : FieldRow := ⟨0x44, 4, 1, 31, 0, .ro, .id, 161, none⟩

/-- Every field of Tables 3.8 and 21.12, R43. -/
def deviceFields : List FieldRow :=
  [fDEV_MODE_REQ_SEQ, fDEV_MODE_RESULT, fDEV_MODE_SH_CAUSE, fDEV_MODE_EXCHANGE, fDEV_MODE_DEGRADED, fDEV_MODE_BASE, fDEV_MODE_MODE, fDEV_MODE_REQ_REQ, fDEV_TAKE_TAKE_ID, fDEV_TAKE_TAKE_STATE, fDEV_TAKE_STREAMS, fDEV_QLOAD_ENC] ++
  [fDEV_QLOAD_INTER, fDEV_DLOAD_DEC, fDEV_DLOAD_INTER, fDEV_PLOAD_PIX, fDEV_PLOAD_STREAMS, fDEV_TCTX_USED, fDEV_LAST_CLOSE_STREAM, fDEV_LAST_CLOSE_REASON, fDEV_ADMIT_REFUSE_STREAM, fDEV_ADMIT_REFUSE_CHECK, fDEV_CLOSE_CNT_CAPACITY, fDEV_SSTATE_S7] ++
  [fDEV_SSTATE_S6S0, fDEV_TEST_GO, fDEV_TEST_KIND, fDEV_TEST_INDEX, fDEV_TEST_LOOP, fDEV_TEST_STAT_BUSY, fDEV_TEST_STAT_DONE, fDEV_TEST_STAT_PASS, fDEV_TEST_STAT_ERRORS, fDEV_TEST_MASK_FAILED, fDEV_TEMP_CLUSTER, fDEV_TEMP_TEMP] ++
  [fDEV_ID_ID, fDEV_STEP_STEP]


/-! ## gather (Tables 4.10 and 5.9) -/

def fGT_CFG_HOSTILE_LIMIT : FieldRow := ⟨0x40, 4, 1, 31, 16, .rwg, .cfg, 0x400, some 0⟩
def fGT_CFG_REPLAY_MAX : FieldRow := ⟨0x40, 4, 1, 11, 8, .rwg, .cfg, 3, some 0⟩
def fGT_CFG_POLICY : FieldRow := ⟨0x40, 4, 1, 1, 0, .rwg, .cfg, 2, some 0⟩
def fGT_LOCK_STAT_LOCKED : FieldRow := ⟨0x44, 4, 1, 31, 0, .ro, .sts, 0, none⟩
def fGT_LANE_FAIL_FAILED : FieldRow := ⟨0x48, 4, 1, 31, 0, .ro, .sts, 0, none⟩
def fGT_LANE_ON_ON : FieldRow := ⟨0x4C, 4, 1, 31, 0, .rw, .cfg, 0xffffffff, some 0⟩
def fGT_QREL_RELEASE : FieldRow := ⟨0x50, 4, 1, 31, 0, .wo, .ctl, 0, none⟩
def fGT_WAKE_CNT_WAKES : FieldRow := ⟨0x54, 4, 1, 31, 0, .ro, .cnt, 0, none⟩
def fGT_ADMIT_CNT_ADMITTED : FieldRow := ⟨0x58, 4, 1, 31, 16, .ro, .cnt, 0, none⟩
def fGT_ADMIT_CNT_REFUSED : FieldRow := ⟨0x58, 4, 1, 15, 0, .ro, .cnt, 0, none⟩
def fGT_UNATTR_DISCARDS : FieldRow := ⟨0x5C, 4, 1, 31, 0, .ro, .cnt, 0, none⟩
def fGT_KEY_LOADED : FieldRow := ⟨0x60, 4, 1, 31, 31, .ro, .sts, 0, none⟩
def fGT_KEY_KEY_TAG : FieldRow := ⟨0x60, 4, 1, 15, 0, .ro, .sts, 0, none⟩
def fHD_STAT_STATE : FieldRow := ⟨0x100, 32, 32, 31, 28, .ro, .sts, 0, none⟩
def fHD_STAT_CARRY : FieldRow := ⟨0x100, 32, 32, 22, 17, .ro, .sts, 0, none⟩
def fHD_STAT_SPARES : FieldRow := ⟨0x100, 32, 32, 16, 15, .ro, .sts, 0, none⟩
def fHD_STAT_SPARES_USED : FieldRow := ⟨0x100, 32, 32, 14, 13, .ro, .sts, 0, none⟩
def fHD_STAT_CAUSE : FieldRow := ⟨0x100, 32, 32, 7, 0, .ro, .sts, 0, none⟩
def fHD_SERIAL_LO_SERIAL_LO : FieldRow := ⟨0x104, 32, 32, 31, 0, .ro, .sts, 0, none⟩
def fHD_SERIAL_HI_SERIAL_HI : FieldRow := ⟨0x108, 32, 32, 31, 0, .ro, .sts, 0, none⟩
def fHD_RATE_SAMPLE_RATE : FieldRow := ⟨0x10C, 32, 32, 31, 0, .ro, .sts, 0, none⟩
def fHD_CRC_CNT_CRC_FAILS : FieldRow := ⟨0x110, 32, 32, 31, 0, .ro, .cnt, 0, none⟩
def fHD_REPLAY_CNT_REQUESTS : FieldRow := ⟨0x114, 32, 32, 31, 16, .ro, .cnt, 0, none⟩
def fHD_REPLAY_CNT_EXHAUSTED : FieldRow := ⟨0x114, 32, 32, 15, 0, .ro, .cnt, 0, none⟩
def fHD_POLICE_CNT_DROPS : FieldRow := ⟨0x118, 32, 32, 31, 0, .ro, .cnt, 0, none⟩
def fHD_DISCARD_CNT_MALFORMED : FieldRow := ⟨0x11C, 32, 32, 31, 0, .ro, .cnt, 0, none⟩
def fGT_LMAP_IN_USE : FieldRow := ⟨0x500, 4, 32, 31, 31, .ro, .sts, 0, none⟩
def fGT_LMAP_ROLE : FieldRow := ⟨0x500, 4, 32, 30, 29, .ro, .sts, 0, none⟩
def fGT_LMAP_LOGICAL : FieldRow := ⟨0x500, 4, 32, 23, 16, .ro, .sts, 0, none⟩
def fGT_LMAP_HEAD : FieldRow := ⟨0x500, 4, 32, 15, 8, .ro, .sts, 0, none⟩
def fGT_LMAP_SYNC_ERR : FieldRow := ⟨0x500, 4, 32, 7, 0, .ro, .cnt, 0, none⟩
def fGT_ING_CFG_HOLD_US : FieldRow := ⟨0x580, 4, 1, 15, 0, .rwg, .cfg, 100, none⟩
def fGT_LATE_CNT_LATE : FieldRow := ⟨0x584, 4, 1, 31, 0, .ro, .cnt, 0, none⟩
def fGT_ABSENT_CNT_PICTURES : FieldRow := ⟨0x588, 4, 1, 31, 16, .ro, .cnt, 0, none⟩
def fGT_ABSENT_CNT_ROWS : FieldRow := ⟨0x588, 4, 1, 15, 0, .ro, .cnt, 0, none⟩
def fGT_ABSENT_SMP_SAMPLES : FieldRow := ⟨0x58C, 4, 1, 31, 0, .ro, .cnt, 0, none⟩
def fGT_DMAP_ERR_ORDER : FieldRow := ⟨0x590, 4, 1, 31, 16, .ro, .cnt, 0, none⟩
def fGT_DMAP_ERR_RANGE : FieldRow := ⟨0x590, 4, 1, 15, 0, .ro, .cnt, 0, none⟩
def fGT_REPLACED_CNT_REPLACED : FieldRow := ⟨0x594, 4, 1, 31, 0, .ro, .cnt, 0, none⟩
def fGT_CLIP_CNT_LOW : FieldRow := ⟨0x598, 4, 1, 31, 16, .ro, .cnt, 0, none⟩
def fGT_CLIP_CNT_HIGH : FieldRow := ⟨0x598, 4, 1, 15, 0, .ro, .cnt, 0, none⟩
def fGT_LBUF_KIB4 : FieldRow := ⟨0x59C, 4, 1, 15, 0, .ro, .sts, 0, none⟩

/-- Every field of Tables 4.10 and 5.9. -/
def gatherFields : List FieldRow :=
  [fGT_CFG_HOSTILE_LIMIT, fGT_CFG_REPLAY_MAX, fGT_CFG_POLICY, fGT_LOCK_STAT_LOCKED, fGT_LANE_FAIL_FAILED, fGT_LANE_ON_ON, fGT_QREL_RELEASE, fGT_WAKE_CNT_WAKES, fGT_ADMIT_CNT_ADMITTED, fGT_ADMIT_CNT_REFUSED, fGT_UNATTR_DISCARDS, fGT_KEY_LOADED] ++
  [fGT_KEY_KEY_TAG, fHD_STAT_STATE, fHD_STAT_CARRY, fHD_STAT_SPARES, fHD_STAT_SPARES_USED, fHD_STAT_CAUSE, fHD_SERIAL_LO_SERIAL_LO, fHD_SERIAL_HI_SERIAL_HI, fHD_RATE_SAMPLE_RATE, fHD_CRC_CNT_CRC_FAILS, fHD_REPLAY_CNT_REQUESTS, fHD_REPLAY_CNT_EXHAUSTED] ++
  [fHD_POLICE_CNT_DROPS, fHD_DISCARD_CNT_MALFORMED, fGT_LMAP_IN_USE, fGT_LMAP_ROLE, fGT_LMAP_LOGICAL, fGT_LMAP_HEAD, fGT_LMAP_SYNC_ERR, fGT_ING_CFG_HOLD_US, fGT_LATE_CNT_LATE, fGT_ABSENT_CNT_PICTURES, fGT_ABSENT_CNT_ROWS, fGT_ABSENT_SMP_SAMPLES] ++
  [fGT_DMAP_ERR_ORDER, fGT_DMAP_ERR_RANGE, fGT_REPLACED_CNT_REPLACED, fGT_CLIP_CNT_LOW, fGT_CLIP_CNT_HIGH, fGT_LBUF_KIB4]


/-! ## enc (Tables 6.10, 8.18 and 12.2) -/

def fENC_BLK_INTRA_BLOCKS : FieldRow := ⟨0x200, 4, 1, 31, 0, .ro, .cnt, 0, none⟩
def fENC_BLK_INTER_BLOCKS : FieldRow := ⟨0x204, 4, 1, 31, 0, .ro, .cnt, 0, none⟩
def fENC_BLK_TS_BLOCKS : FieldRow := ⟨0x208, 4, 1, 31, 0, .ro, .cnt, 0, none⟩
def fENC_GUARD_SMP_SAMPLES : FieldRow := ⟨0x20C, 4, 1, 31, 0, .ro, .cnt, 0, none⟩
def fENC_PCLIP_PLANE : FieldRow := ⟨0x210, 4, 1, 31, 16, .ro, .cnt, 0, none⟩
def fENC_PCLIP_SAMPLE : FieldRow := ⟨0x210, 4, 1, 15, 0, .ro, .cnt, 0, none⟩
def fENC_EXH_TILES_TILES : FieldRow := ⟨0x214, 4, 1, 31, 0, .ro, .cnt, 0, none⟩
def fENC_BOUND_FAIL_FAILS : FieldRow := ⟨0x218, 4, 1, 15, 0, .ro, .cnt, 0, none⟩
def fENC_LAST_BOUND : FieldRow := ⟨0x21C, 4, 1, 31, 16, .ro, .sts, 0, none⟩
def fENC_LAST_QP_BASE : FieldRow := ⟨0x21C, 4, 1, 5, 0, .ro, .sts, 0, none⟩
def fENC_TILES_TILES : FieldRow := ⟨0x220, 4, 1, 31, 0, .ro, .cnt, 0, none⟩
def fENC_TBYTES_LO_BYTES_LO : FieldRow := ⟨0x224, 4, 1, 31, 0, .ro, .cnt, 0, none⟩
def fENC_TBYTES_HI_BYTES_HI : FieldRow := ⟨0x228, 4, 1, 31, 0, .ro, .cnt, 0, none⟩
def fENC_ESCAPES_ESCAPES : FieldRow := ⟨0x22C, 4, 1, 31, 0, .ro, .cnt, 0, none⟩
def fENC_SEG_MAX_BYTES : FieldRow := ⟨0x230, 4, 1, 23, 0, .ro, .sts, 0, none⟩
def fMC_VER_VER : FieldRow := ⟨0x300, 4, 1, 31, 0, .ro, .id, 0, none⟩
def fMC_STAT_BUSY : FieldRow := ⟨0x304, 4, 1, 31, 31, .ro, .sts, 0, none⟩
def fMC_STAT_WAIT : FieldRow := ⟨0x304, 4, 1, 30, 30, .ro, .sts, 0, none⟩
def fMC_STAT_UPC : FieldRow := ⟨0x304, 4, 1, 12, 0, .ro, .sts, 0, none⟩
def fMC_MCHK_CNT_MCHK : FieldRow := ⟨0x308, 4, 1, 31, 16, .ro, .cnt, 0, none⟩
def fMC_MCHK_CNT_HANDED : FieldRow := ⟨0x308, 4, 1, 15, 0, .ro, .cnt, 0, none⟩
def fMC_MCHK_REC_VALID : FieldRow := ⟨0x30C, 4, 1, 31, 31, .ro, .sts, 0, none⟩
def fMC_MCHK_REC_GROUPS : FieldRow := ⟨0x30C, 4, 1, 20, 13, .ro, .sts, 0, none⟩
def fMC_MCHK_REC_ADDR : FieldRow := ⟨0x30C, 4, 1, 12, 0, .ro, .sts, 0, none⟩
def fMC_GAP_MAX : FieldRow := ⟨0x310, 4, 1, 11, 0, .ro, .sts, 0, none⟩
def fMC_COMMIT_CNT_TILES : FieldRow := ⟨0x314, 4, 1, 31, 0, .ro, .cnt, 0, none⟩

/-- Every field of Tables 6.10, 8.18 and 12.2. -/
def encFields : List FieldRow :=
  [fENC_BLK_INTRA_BLOCKS, fENC_BLK_INTER_BLOCKS, fENC_BLK_TS_BLOCKS, fENC_GUARD_SMP_SAMPLES, fENC_PCLIP_PLANE, fENC_PCLIP_SAMPLE, fENC_EXH_TILES_TILES, fENC_BOUND_FAIL_FAILS, fENC_LAST_BOUND, fENC_LAST_QP_BASE, fENC_TILES_TILES, fENC_TBYTES_LO_BYTES_LO] ++
  [fENC_TBYTES_HI_BYTES_HI, fENC_ESCAPES_ESCAPES, fENC_SEG_MAX_BYTES, fMC_VER_VER, fMC_STAT_BUSY, fMC_STAT_WAIT, fMC_STAT_UPC, fMC_MCHK_CNT_MCHK, fMC_MCHK_CNT_HANDED, fMC_MCHK_REC_VALID, fMC_MCHK_REC_GROUPS, fMC_MCHK_REC_ADDR] ++
  [fMC_GAP_MAX, fMC_COMMIT_CNT_TILES]


/-! ## me (Table 7.10) -/

def fME_CFG_LAMBDA_MUL : FieldRow := ⟨0x40, 4, 1, 15, 8, .rwg, .cfg, 16, some 0⟩
def fME_CFG_AVG_EN : FieldRow := ⟨0x40, 4, 1, 0, 0, .rwg, .cfg, 1, some 0⟩
def fME_PU_CNT_PUS : FieldRow := ⟨0x44, 4, 1, 31, 0, .ro, .cnt, 0, none⟩
def fME_EVAL_CNT_EVALS : FieldRow := ⟨0x48, 4, 1, 31, 0, .ro, .cnt, 0, none⟩
def fME_WIN0_LEFT : FieldRow := ⟨0x4C, 4, 1, 31, 16, .ro, .cnt, 0, none⟩
def fME_WIN0_ABOVE : FieldRow := ⟨0x4C, 4, 1, 15, 0, .ro, .cnt, 0, none⟩
def fME_WIN1_ABOVE_RIGHT : FieldRow := ⟨0x50, 4, 1, 31, 16, .ro, .cnt, 0, none⟩
def fME_WIN1_TEMPORAL : FieldRow := ⟨0x50, 4, 1, 15, 0, .ro, .cnt, 0, none⟩
def fME_WIN2_GLOBAL : FieldRow := ⟨0x54, 4, 1, 31, 16, .ro, .cnt, 0, none⟩
def fME_WIN2_ZERO : FieldRow := ⟨0x54, 4, 1, 15, 0, .ro, .cnt, 0, none⟩
def fME_AVG_CNT_AVG : FieldRow := ⟨0x58, 4, 1, 31, 0, .ro, .cnt, 0, none⟩
def fME_CACHE_FILLS : FieldRow := ⟨0x5C, 4, 1, 31, 0, .ro, .cnt, 0, none⟩
def fME_MOT_LATE_LATE : FieldRow := ⟨0x60, 4, 1, 31, 0, .ro, .cnt, 0, none⟩
def fME_LOAD_INTER : FieldRow := ⟨0x64, 4, 1, 15, 0, .ro, .sts, 0, none⟩

/-- Every field of Table 7.10. -/
def meFields : List FieldRow :=
  [fME_CFG_LAMBDA_MUL, fME_CFG_AVG_EN, fME_PU_CNT_PUS, fME_EVAL_CNT_EVALS, fME_WIN0_LEFT, fME_WIN0_ABOVE, fME_WIN1_ABOVE_RIGHT, fME_WIN1_TEMPORAL, fME_WIN2_GLOBAL, fME_WIN2_ZERO, fME_AVG_CNT_AVG, fME_CACHE_FILLS] ++
  [fME_MOT_LATE_LATE, fME_LOAD_INTER]


/-! ## memctl (Tables 7.11 and 16.6) -/

def fRP_BASE_LO_ADDR_LO : FieldRow := ⟨0x700, 4, 1, 31, 16, .rwg, .cfg, 0, some 4⟩
def fRP_BASE_HI_ADDR_HI : FieldRow := ⟨0x704, 4, 1, 31, 0, .rwg, .cfg, 0, some 4⟩
def fRP_SIZE_MIB : FieldRow := ⟨0x708, 4, 1, 19, 0, .rwg, .cfg, 0, some 4⟩
def fRP_OVF_MIB : FieldRow := ⟨0x70C, 4, 1, 19, 0, .rwg, .cfg, 0, some 4⟩
def fRP_RESERVED_KIB64 : FieldRow := ⟨0x710, 4, 1, 31, 0, .ro, .sts, 0, none⟩
def fRP_OVF_USED_PEAK : FieldRow := ⟨0x714, 4, 1, 31, 16, .ro, .sts, 0, none⟩
def fRP_OVF_USED_NOW : FieldRow := ⟨0x714, 4, 1, 15, 0, .ro, .sts, 0, none⟩
def fRP_OVF_FAIL_ENCODE : FieldRow := ⟨0x718, 4, 1, 31, 16, .ro, .cnt, 0, none⟩
def fRP_OVF_FAIL_DECODE : FieldRow := ⟨0x718, 4, 1, 15, 0, .ro, .cnt, 0, none⟩
def fRP_BUFS_REVOKED : FieldRow := ⟨0x71C, 4, 1, 31, 16, .ro, .cnt, 0, none⟩
def fRP_BUFS_LIVE : FieldRow := ⟨0x71C, 4, 1, 15, 0, .ro, .sts, 0, none⟩
def fMC_CFG_SCRUB_H : FieldRow := ⟨0x40, 4, 1, 31, 24, .rwg, .cfg, 24, some 0⟩
def fMC_CFG_AGE_CAP : FieldRow := ⟨0x40, 4, 1, 23, 16, .rwg, .cfg, 100, some 0⟩
def fMC_CFG_MIG_PCT : FieldRow := ⟨0x40, 4, 1, 15, 13, .rwg, .cfg, 1, some 0⟩
def fMC_CFG_NREF_2 : FieldRow := ⟨0x40, 4, 1, 12, 12, .rwg, .cfg, 0, some 0⟩
def fMC_CFG_NREF_K : FieldRow := ⟨0x40, 4, 1, 11, 8, .rwg, .cfg, 8, some 0⟩
def fMC_CFG_DENSITY : FieldRow := ⟨0x40, 4, 1, 7, 6, .rwg, .cfg, 1, some 0⟩
def fMC_CFG_RANKS : FieldRow := ⟨0x40, 4, 1, 5, 5, .rwg, .cfg, 0, some 0⟩
def fMC_CFG_WIDTH : FieldRow := ⟨0x40, 4, 1, 4, 4, .rwg, .cfg, 0, some 0⟩
def fMC_CFG_SPEED : FieldRow := ⟨0x40, 4, 1, 1, 0, .rwg, .cfg, 3, some 0⟩
def fMC_CFG2_DEAD_UE : FieldRow := ⟨0x44, 4, 1, 15, 0, .rwg, .cfg, 0x400, none⟩
def fMC_RETIRE_REQ : FieldRow := ⟨0x48, 4, 1, 31, 31, .rwg, .ctl, 0, some 0⟩
def fMC_RETIRE_CH : FieldRow := ⟨0x48, 4, 1, 3, 0, .rwg, .ctl, 0, some 0⟩
def fMC_STAT_MAP_GIB : FieldRow := ⟨0x4C, 4, 1, 31, 16, .ro, .sts, 0, none⟩
def fMC_STAT_RET_CH : FieldRow := ⟨0x4C, 4, 1, 15, 12, .ro, .sts, 15, none⟩
def fMC_STAT_RET_STATE : FieldRow := ⟨0x4C, 4, 1, 11, 10, .ro, .sts, 0, none⟩
def fMC_STAT_REFUSED : FieldRow := ⟨0x4C, 4, 1, 9, 4, .ro, .cnt, 0, none⟩
def fMC_STAT_WORKING : FieldRow := ⟨0x4C, 4, 1, 3, 0, .ro, .sts, 0, none⟩
def fMC_MIG_LINES : FieldRow := ⟨0x50, 4, 1, 31, 0, .ro, .sts, 0, none⟩

/-- Every field of Tables 7.11 and 16.6. -/
def memctlFields : List FieldRow :=
  [fRP_BASE_LO_ADDR_LO, fRP_BASE_HI_ADDR_HI, fRP_SIZE_MIB, fRP_OVF_MIB, fRP_RESERVED_KIB64, fRP_OVF_USED_PEAK, fRP_OVF_USED_NOW, fRP_OVF_FAIL_ENCODE, fRP_OVF_FAIL_DECODE, fRP_BUFS_REVOKED, fRP_BUFS_LIVE, fMC_CFG_SCRUB_H] ++
  [fMC_CFG_AGE_CAP, fMC_CFG_MIG_PCT, fMC_CFG_NREF_2, fMC_CFG_NREF_K, fMC_CFG_DENSITY, fMC_CFG_RANKS, fMC_CFG_WIDTH, fMC_CFG_SPEED, fMC_CFG2_DEAD_UE, fMC_RETIRE_REQ, fMC_RETIRE_CH, fMC_STAT_MAP_GIB] ++
  [fMC_STAT_RET_CH, fMC_STAT_RET_STATE, fMC_STAT_REFUSED, fMC_STAT_WORKING, fMC_MIG_LINES]


/-! ## marver0 (Table 9.7) -/

def fRC_CFG_DOWN_PICS : FieldRow := ⟨0x40, 4, 1, 31, 28, .rwg, .cfg, 4, some 0⟩
def fRC_CFG_DOWN_PCT : FieldRow := ⟨0x40, 4, 1, 27, 20, .rwg, .cfg, 75, some 0⟩
def fRC_CFG_RESTART_LAST : FieldRow := ⟨0x40, 4, 1, 19, 16, .rwg, .cfg, 4, some 0⟩
def fRC_CFG_GUARD_HI : FieldRow := ⟨0x40, 4, 1, 15, 8, .rwg, .cfg, 20, some 0⟩
def fRC_CFG_GUARD_LO : FieldRow := ⟨0x40, 4, 1, 7, 0, .rwg, .cfg, 5, some 0⟩
def fRC_CFG2_SHORT_MS : FieldRow := ⟨0x44, 4, 1, 31, 16, .rwg, .cfg, 40, some 0⟩
def fRC_CFG2_QADJ_LIM : FieldRow := ⟨0x44, 4, 1, 3, 0, .rwg, .cfg, 6, some 0⟩
def fRC_SEL_STREAM : FieldRow := ⟨0x48, 4, 1, 10, 0, .rw, .cfg, 0, none⟩
def fRC_LOG0_VALID : FieldRow := ⟨0x4C, 4, 1, 31, 31, .ro, .sts, 0, none⟩
def fRC_LOG0_KIND : FieldRow := ⟨0x4C, 4, 1, 30, 28, .ro, .sts, 0, none⟩
def fRC_LOG0_STREAM : FieldRow := ⟨0x4C, 4, 1, 27, 17, .ro, .sts, 0, none⟩
def fRC_LOG0_TROW : FieldRow := ⟨0x4C, 4, 1, 16, 8, .ro, .sts, 0, none⟩
def fRC_LOG0_FROM : FieldRow := ⟨0x4C, 4, 1, 7, 4, .ro, .sts, 0, none⟩
def fRC_LOG0_TO : FieldRow := ⟨0x4C, 4, 1, 3, 0, .ro, .sts, 0, none⟩
def fRC_LOG1_PICTURE : FieldRow := ⟨0x50, 4, 1, 23, 0, .ro, .sts, 0, none⟩
def fRC_LOG_LOST_LOST : FieldRow := ⟨0x54, 4, 1, 31, 0, .ro, .cnt, 0, none⟩
def fRC_LADDER_CNT_UP : FieldRow := ⟨0x58, 4, 1, 31, 16, .ro, .cnt, 0, none⟩
def fRC_LADDER_CNT_DOWN : FieldRow := ⟨0x58, 4, 1, 15, 0, .ro, .cnt, 0, none⟩
def fRC_ROW_CNT_RESTARTS : FieldRow := ⟨0x5C, 4, 1, 31, 16, .ro, .cnt, 0, none⟩
def fRC_ROW_CNT_EXHAUSTED : FieldRow := ⟨0x5C, 4, 1, 15, 0, .ro, .cnt, 0, none⟩
def fRC_WAIT_CNT_WAITS : FieldRow := ⟨0x60, 4, 1, 31, 16, .ro, .cnt, 0, none⟩
def fRC_WAIT_CNT_LATE : FieldRow := ⟨0x60, 4, 1, 15, 0, .ro, .cnt, 0, none⟩
def fRC_META_DROP_DROPS : FieldRow := ⟨0x64, 4, 1, 31, 0, .ro, .cnt, 0, none⟩
def fRC_CREDIT_SAMPLES : FieldRow := ⟨0x68, 4, 4, 23, 0, .ro, .sts, 0xffffff, none⟩

/-- Every field of Table 9.7. -/
def marver0Fields : List FieldRow :=
  [fRC_CFG_DOWN_PICS, fRC_CFG_DOWN_PCT, fRC_CFG_RESTART_LAST, fRC_CFG_GUARD_HI, fRC_CFG_GUARD_LO, fRC_CFG2_SHORT_MS, fRC_CFG2_QADJ_LIM, fRC_SEL_STREAM, fRC_LOG0_VALID, fRC_LOG0_KIND, fRC_LOG0_STREAM, fRC_LOG0_TROW] ++
  [fRC_LOG0_FROM, fRC_LOG0_TO, fRC_LOG1_PICTURE, fRC_LOG_LOST_LOST, fRC_LADDER_CNT_UP, fRC_LADDER_CNT_DOWN, fRC_ROW_CNT_RESTARTS, fRC_ROW_CNT_EXHAUSTED, fRC_WAIT_CNT_WAITS, fRC_WAIT_CNT_LATE, fRC_META_DROP_DROPS, fRC_CREDIT_SAMPLES]


/-! ## marver1 (Table 9.8) -/

def fRC_PACE_MBPS : FieldRow := ⟨0x40, 16, 8, 31, 0, .ro, .sts, 0, none⟩
def fRC_ALLOC_MBPS : FieldRow := ⟨0x44, 16, 8, 31, 0, .ro, .sts, 0, none⟩
def fRC_PORT_SHORT : FieldRow := ⟨0x48, 16, 8, 31, 31, .ro, .sts, 0, none⟩
def fRC_PORT_STREAMS : FieldRow := ⟨0x48, 16, 8, 10, 0, .ro, .sts, 0, none⟩
def fRC_SHORTCNT_MS : FieldRow := ⟨0x4C, 16, 8, 31, 0, .ro, .cnt, 0, none⟩

/-- Every field of Table 9.8. -/
def marver1Fields : List FieldRow :=
  [fRC_PACE_MBPS, fRC_ALLOC_MBPS, fRC_PORT_SHORT, fRC_PORT_STREAMS, fRC_SHORTCNT_MS]


/-! ## marver2 (Table 9.9) -/

def fRC_S_DRAIN_MBPS : FieldRow := ⟨0x40, 4, 1, 31, 0, .ro, .sts, 0, none⟩
def fRC_S_BUF_BYTES : FieldRow := ⟨0x44, 4, 1, 31, 0, .ro, .sts, 0, none⟩
def fRC_S_OCC_BYTES : FieldRow := ⟨0x48, 4, 1, 31, 0, .ro, .sts, 0, none⟩
def fRC_S_PEAK_BYTES : FieldRow := ⟨0x4C, 4, 1, 31, 0, .ro, .sts, 0, none⟩
def fRC_S_XPIC_BYTES : FieldRow := ⟨0x50, 4, 1, 31, 0, .ro, .sts, 0, none⟩
def fRC_S_RUNG_RUNG : FieldRow := ⟨0x54, 4, 1, 31, 28, .ro, .sts, 0, none⟩
def fRC_S_RUNG_TOP : FieldRow := ⟨0x54, 4, 1, 27, 24, .ro, .sts, 0, none⟩
def fRC_S_RUNG_QADJ : FieldRow := ⟨0x54, 4, 1, 23, 19, .ro, .sts, 0, none⟩
def fRC_S_RUNG_QP_BASE : FieldRow := ⟨0x54, 4, 1, 18, 13, .ro, .sts, 0, none⟩
def fRC_S_RUNG_E : FieldRow := ⟨0x54, 4, 1, 12, 0, .ro, .sts, 0, none⟩
def fRC_S_CARRY_BYTES : FieldRow := ⟨0x58, 4, 1, 31, 0, .ro, .sts, 0, none⟩
def fRC_S_GRANT_BYTES : FieldRow := ⟨0x5C, 4, 1, 31, 0, .ro, .sts, 0, none⟩
def fRC_S_ROWS_STRETCHED : FieldRow := ⟨0x60, 4, 1, 31, 16, .ro, .cnt, 0, none⟩
def fRC_S_ROWS_EXHAUSTED : FieldRow := ⟨0x60, 4, 1, 15, 0, .ro, .cnt, 0, none⟩
def fRC_S_LAT_MAX_US : FieldRow := ⟨0x64, 4, 1, 15, 0, .ro, .sts, 0, none⟩
def fRC_S_DOWN_PICS : FieldRow := ⟨0x68, 4, 1, 3, 0, .ro, .sts, 0, none⟩

/-- Every field of Table 9.9. -/
def marver2Fields : List FieldRow :=
  [fRC_S_DRAIN_MBPS, fRC_S_BUF_BYTES, fRC_S_OCC_BYTES, fRC_S_PEAK_BYTES, fRC_S_XPIC_BYTES, fRC_S_RUNG_RUNG, fRC_S_RUNG_TOP, fRC_S_RUNG_QADJ, fRC_S_RUNG_QP_BASE, fRC_S_RUNG_E, fRC_S_CARRY_BYTES, fRC_S_GRANT_BYTES] ++
  [fRC_S_ROWS_STRETCHED, fRC_S_ROWS_EXHAUSTED, fRC_S_LAT_MAX_US, fRC_S_DOWN_PICS]


/-! ## marver3 (Table 9.10) -/

def fRC_RUNG_R7 : FieldRow := ⟨0x400, 4, 128, 31, 28, .ro, .sts, 0, none⟩
def fRC_RUNG_R6R0 : FieldRow := ⟨0x400, 4, 128, 27, 0, .ro, .sts, 0, none⟩
def fRC_OCC_O3 : FieldRow := ⟨0x600, 4, 256, 31, 24, .ro, .sts, 0, none⟩
def fRC_OCC_O2O0 : FieldRow := ⟨0x600, 4, 256, 23, 0, .ro, .sts, 0, none⟩

/-- Every field of Table 9.10. -/
def marver3Fields : List FieldRow :=
  [fRC_RUNG_R7, fRC_RUNG_R6R0, fRC_OCC_O3, fRC_OCC_O2O0]


/-! ## dec (Tables 10.8 and 12.2) -/

def fDEC_PIC_CNT_PICTURES : FieldRow := ⟨0x40, 4, 1, 31, 0, .ro, .cnt, 0, none⟩
def fDEC_TILE_CNT_TILES : FieldRow := ⟨0x44, 4, 1, 31, 0, .ro, .cnt, 0, none⟩
def fDEC_SMP_LO_SAMPLES_LO : FieldRow := ⟨0x48, 4, 1, 31, 0, .ro, .cnt, 0, none⟩
def fDEC_SMP_HI_SAMPLES_HI : FieldRow := ⟨0x4C, 4, 1, 31, 0, .ro, .cnt, 0, none⟩
def fDEC_DMG_CNT_DAMAGE : FieldRow := ⟨0x50, 4, 1, 31, 16, .ro, .cnt, 0, none⟩
def fDEC_DMG_CNT_RETRIES : FieldRow := ⟨0x50, 4, 1, 15, 0, .ro, .cnt, 0, none⟩
def fDEC_DMG0_CAUSE : FieldRow := ⟨0x54, 4, 1, 31, 24, .ro, .sts, 0, none⟩
def fDEC_DMG0_STREAM : FieldRow := ⟨0x54, 4, 1, 10, 0, .ro, .sts, 0, none⟩
def fDEC_DMG1_PICTURE : FieldRow := ⟨0x58, 4, 1, 23, 0, .ro, .sts, 0, none⟩
def fDEC_DMG2_TROW : FieldRow := ⟨0x5C, 4, 1, 24, 16, .ro, .sts, 511, none⟩
def fDEC_DMG2_TCOL : FieldRow := ⟨0x5C, 4, 1, 6, 0, .ro, .sts, 127, none⟩
def fDEC_DMG3_DETAIL : FieldRow := ⟨0x60, 4, 1, 31, 0, .ro, .sts, 0, none⟩
def fDEC_VFY_CNT_PASS : FieldRow := ⟨0x64, 4, 1, 31, 16, .ro, .cnt, 0, none⟩
def fDEC_VFY_CNT_MISMATCH : FieldRow := ⟨0x64, 4, 1, 15, 0, .ro, .cnt, 0, none⟩
def fDEC_VFY_CNT2_STATEMENT : FieldRow := ⟨0x68, 4, 1, 31, 16, .ro, .cnt, 0, none⟩
def fDEC_VFY_CNT2_LAGGED : FieldRow := ⟨0x68, 4, 1, 15, 0, .ro, .cnt, 0, none⟩
def fDEC_VMIS0_KIND : FieldRow := ⟨0x6C, 4, 1, 31, 30, .ro, .sts, 0, none⟩
def fDEC_VMIS0_STREAM : FieldRow := ⟨0x6C, 4, 1, 10, 0, .ro, .sts, 0, none⟩
def fDEC_VMIS1_PICTURE : FieldRow := ⟨0x70, 4, 1, 23, 0, .ro, .sts, 0, none⟩
def fDEC_VMIS2_TROW : FieldRow := ⟨0x74, 4, 1, 24, 16, .ro, .sts, 511, none⟩
def fDEC_VMIS2_TCOL : FieldRow := ⟨0x74, 4, 1, 6, 0, .ro, .sts, 127, none⟩
def fDEC_REL_LATE_LATE : FieldRow := ⟨0x78, 4, 1, 31, 0, .ro, .cnt, 0, none⟩

/-- Every field of Tables 10.8 and 12.2. -/
def decFields : List FieldRow :=
  [fDEC_PIC_CNT_PICTURES, fDEC_TILE_CNT_TILES, fDEC_SMP_LO_SAMPLES_LO, fDEC_SMP_HI_SAMPLES_HI, fDEC_DMG_CNT_DAMAGE, fDEC_DMG_CNT_RETRIES, fDEC_DMG0_CAUSE, fDEC_DMG0_STREAM, fDEC_DMG1_PICTURE, fDEC_DMG2_TROW, fDEC_DMG2_TCOL, fDEC_DMG3_DETAIL] ++
  [fDEC_VFY_CNT_PASS, fDEC_VFY_CNT_MISMATCH, fDEC_VFY_CNT2_STATEMENT, fDEC_VFY_CNT2_LAGGED, fDEC_VMIS0_KIND, fDEC_VMIS0_STREAM, fDEC_VMIS1_PICTURE, fDEC_VMIS2_TROW, fDEC_VMIS2_TCOL, fDEC_REL_LATE_LATE, fMC_VER_VER, fMC_STAT_BUSY] ++
  [fMC_STAT_WAIT, fMC_STAT_UPC, fMC_MCHK_CNT_MCHK, fMC_MCHK_CNT_HANDED, fMC_MCHK_REC_VALID, fMC_MCHK_REC_GROUPS, fMC_MCHK_REC_ADDR, fMC_GAP_MAX, fMC_COMMIT_CNT_TILES]


/-! ## proxy (Table 11.6) -/

def fPX_CFG_RTCP_MS : FieldRow := ⟨0x40, 4, 1, 15, 0, .rwg, .cfg, 0x3e8, some 0⟩
def fPX_LOAD_MPIX : FieldRow := ⟨0x44, 4, 1, 31, 16, .ro, .sts, 0, none⟩
def fPX_LOAD_STREAMS : FieldRow := ⟨0x44, 4, 1, 6, 0, .ro, .sts, 0, none⟩
def fPX_BACKLOG_PIXELS : FieldRow := ⟨0x48, 4, 1, 21, 0, .ro, .sts, 0, none⟩
def fPX_PIC_CNT_PICTURES : FieldRow := ⟨0x4C, 4, 1, 31, 0, .ro, .cnt, 0, none⟩
def fPX_SUBST_SKIP : FieldRow := ⟨0x50, 4, 1, 31, 16, .ro, .cnt, 0, none⟩
def fPX_SUBST_FLAT_IDR : FieldRow := ⟨0x50, 4, 1, 15, 0, .ro, .cnt, 0, none⟩
def fPX_PKT_CNT_PACKETS : FieldRow := ⟨0x54, 4, 1, 31, 0, .ro, .cnt, 0, none⟩
def fPX_BYTES_LO_BYTES_LO : FieldRow := ⟨0x58, 4, 1, 31, 0, .ro, .cnt, 0, none⟩
def fPX_BYTES_HI_BYTES_HI : FieldRow := ⟨0x5C, 4, 1, 31, 0, .ro, .cnt, 0, none⟩
def fPX_LAT_LATE : FieldRow := ⟨0x60, 4, 1, 31, 16, .ro, .cnt, 0, none⟩
def fPX_LAT_MAX_US : FieldRow := ⟨0x60, 4, 1, 15, 0, .ro, .sts, 0, none⟩
def fPX_ABS_ROWS_ROWS : FieldRow := ⟨0x64, 4, 1, 31, 0, .ro, .cnt, 0, none⟩
def fPX_NET_DROP_PACKETS : FieldRow := ⟨0x68, 4, 1, 31, 0, .ro, .cnt, 0, none⟩

/-- Every field of Table 11.6. -/
def proxyFields : List FieldRow :=
  [fPX_CFG_RTCP_MS, fPX_LOAD_MPIX, fPX_LOAD_STREAMS, fPX_BACKLOG_PIXELS, fPX_PIC_CNT_PICTURES, fPX_SUBST_SKIP, fPX_SUBST_FLAT_IDR, fPX_PKT_CNT_PACKETS, fPX_BYTES_LO_BYTES_LO, fPX_BYTES_HI_BYTES_HI, fPX_LAT_LATE, fPX_LAT_MAX_US] ++
  [fPX_ABS_ROWS_ROWS, fPX_NET_DROP_PACKETS]


/-! ## gaffer (Table 12.10) -/

def fGF_FW_VER_MAJOR : FieldRow := ⟨0x40, 4, 1, 31, 24, .ro, .cfg, 0, none⟩
def fGF_FW_VER_MINOR : FieldRow := ⟨0x40, 4, 1, 23, 16, .ro, .cfg, 0, none⟩
def fGF_FW_VER_BUILD : FieldRow := ⟨0x40, 4, 1, 15, 0, .ro, .cfg, 0, none⟩
def fGF_STAT_RUNNING : FieldRow := ⟨0x44, 4, 1, 31, 31, .ro, .sts, 0, none⟩
def fGF_STAT_HALTED : FieldRow := ⟨0x44, 4, 1, 30, 30, .ro, .sts, 0, none⟩
def fGF_STAT_HOLDER : FieldRow := ⟨0x44, 4, 1, 29, 29, .ro, .sts, 0, none⟩
def fGF_STAT_STREAMS : FieldRow := ⟨0x44, 4, 1, 10, 0, .ro, .sts, 0, none⟩
def fGF_HEARTBEAT_SCANS : FieldRow := ⟨0x48, 4, 1, 31, 0, .ro, .cnt, 0, none⟩
def fGF_SCAN_MAX_US : FieldRow := ⟨0x4C, 4, 1, 15, 0, .ro, .sts, 0, none⟩
def fGF_CMD_CNT_DONE : FieldRow := ⟨0x50, 4, 1, 31, 16, .ro, .cnt, 0, none⟩
def fGF_CMD_CNT_FAILED : FieldRow := ⟨0x50, 4, 1, 15, 0, .ro, .cnt, 0, none⟩
def fGF_HDR_LATE_LATE : FieldRow := ⟨0x54, 4, 1, 31, 0, .ro, .cnt, 0, none⟩

/-- Every field of Table 12.10. -/
def gafferFields : List FieldRow :=
  [fGF_FW_VER_MAJOR, fGF_FW_VER_MINOR, fGF_FW_VER_BUILD, fGF_STAT_RUNNING, fGF_STAT_HALTED, fGF_STAT_HOLDER, fGF_STAT_STREAMS, fGF_HEARTBEAT_SCANS, fGF_SCAN_MAX_US, fGF_CMD_CNT_DONE, fGF_CMD_CNT_FAILED, fGF_HDR_LATE_LATE]


/-! ## event (Table 12.11) -/

def fEVT_PEND_PEND : FieldRow := ⟨0x40, 4, 8, 31, 0, .ro, .sts, 0, none⟩
def fEVT_ASLEEP_CTL : FieldRow := ⟨0x60, 4, 1, 7, 0, .ro, .sts, 0, none⟩
def fEVT_CNT_RETARGETS : FieldRow := ⟨0x64, 4, 1, 31, 16, .ro, .cnt, 0, none⟩
def fEVT_CNT_SATURATED : FieldRow := ⟨0x64, 4, 1, 15, 0, .ro, .cnt, 0, none⟩
def fEVT_WAKES_WAKES : FieldRow := ⟨0x68, 4, 1, 31, 0, .ro, .cnt, 0, none⟩
def fEVT_SRC_EXT : FieldRow := ⟨0x400, 4, 256, 31, 31, .ro, .id, 0, some 0⟩
def fEVT_SRC_PEND : FieldRow := ⟨0x400, 4, 256, 30, 30, .ro, .sts, 0, some 0⟩
def fEVT_SRC_COUNT : FieldRow := ⟨0x400, 4, 256, 29, 26, .ro, .cnt, 0, some 0⟩
def fEVT_SRC_WATCH : FieldRow := ⟨0x400, 4, 256, 25, 25, .rwg, .cfg, 0, some 0⟩
def fEVT_SRC_ENABLE : FieldRow := ⟨0x400, 4, 256, 24, 24, .rwg, .cfg, 1, some 0⟩
def fEVT_SRC_TARGET : FieldRow := ⟨0x400, 4, 256, 18, 16, .rwg, .cfg, 0, some 0⟩
def fEVT_SRC_FILT : FieldRow := ⟨0x400, 4, 256, 7, 0, .rwg, .cfg, 8, some 0⟩

/-- Every field of Table 12.11. -/
def eventFields : List FieldRow :=
  [fEVT_PEND_PEND, fEVT_ASLEEP_CTL, fEVT_CNT_RETARGETS, fEVT_CNT_SATURATED, fEVT_WAKES_WAKES, fEVT_SRC_EXT, fEVT_SRC_PEND, fEVT_SRC_COUNT, fEVT_SRC_WATCH, fEVT_SRC_ENABLE, fEVT_SRC_TARGET, fEVT_SRC_FILT]


/-! ## queue0 (Table 13.9, page 0) -/

def fQU_CFG_DELAY_WARN_US : FieldRow := ⟨0x40, 4, 1, 31, 16, .rwg, .cfg, 0x3e8, some 0⟩
def fQU_CFG_PACE_EN : FieldRow := ⟨0x40, 4, 1, 0, 0, .rwg, .cfg, 1, some 0⟩
def fQU_HSEL_RING : FieldRow := ⟨0x44, 4, 1, 13, 0, .rw, .cfg, 0, none⟩
def fQU_RSEL_RING : FieldRow := ⟨0x48, 4, 1, 13, 0, .rw, .cfg, 0x2000, none⟩
def fQU_RBASE_LO_ADDR_LO : FieldRow := ⟨0x4C, 4, 1, 31, 8, .rwg, .cfg, 0, none⟩
def fQU_RBASE_HI_ADDR_HI : FieldRow := ⟨0x50, 4, 1, 31, 0, .rwg, .cfg, 0, none⟩
def fQU_RCFG_EN : FieldRow := ⟨0x54, 4, 1, 31, 31, .rwg, .cfg, 0, none⟩
def fQU_RCFG_SIZE_LOG2 : FieldRow := ⟨0x54, 4, 1, 3, 0, .rwg, .cfg, 4, none⟩
def fQU_NOW_SLOT : FieldRow := ⟨0x58, 4, 1, 11, 0, .ro, .sts, 0, none⟩
def fQU_LEASE_CNT_EXPIRED : FieldRow := ⟨0x5C, 4, 1, 31, 16, .ro, .cnt, 0, none⟩
def fQU_LEASE_CNT_REVOKED : FieldRow := ⟨0x5C, 4, 1, 15, 0, .ro, .cnt, 0, none⟩
def fQU_CAL_CNT_CARRIED : FieldRow := ⟨0x60, 4, 1, 31, 16, .ro, .cnt, 0, none⟩
def fQU_CAL_CNT_LATE : FieldRow := ⟨0x60, 4, 1, 15, 0, .ro, .cnt, 0, none⟩
def fQU_DESC_ERR_SIZE : FieldRow := ⟨0x64, 4, 1, 31, 16, .ro, .cnt, 0, none⟩
def fQU_DESC_ERR_HOST : FieldRow := ⟨0x64, 4, 1, 15, 0, .ro, .cnt, 0, none⟩
def fQU_WARN_VALID : FieldRow := ⟨0x68, 4, 1, 31, 31, .ro, .sts, 0, none⟩
def fQU_WARN_RING : FieldRow := ⟨0x68, 4, 1, 13, 0, .ro, .sts, 0, none⟩
def fQU_HIST_DELAY : FieldRow := ⟨0x400, 4, 32, 31, 16, .ro, .sts, 0, none⟩
def fQU_HIST_DEPTH : FieldRow := ⟨0x400, 4, 32, 15, 0, .ro, .sts, 0, none⟩

/-- Every field of Table 13.9, page 0. -/
def queue0Fields : List FieldRow :=
  [fQU_CFG_DELAY_WARN_US, fQU_CFG_PACE_EN, fQU_HSEL_RING, fQU_RSEL_RING, fQU_RBASE_LO_ADDR_LO, fQU_RBASE_HI_ADDR_HI, fQU_RCFG_EN, fQU_RCFG_SIZE_LOG2, fQU_NOW_SLOT, fQU_LEASE_CNT_EXPIRED, fQU_LEASE_CNT_REVOKED, fQU_CAL_CNT_CARRIED] ++
  [fQU_CAL_CNT_LATE, fQU_DESC_ERR_SIZE, fQU_DESC_ERR_HOST, fQU_WARN_VALID, fQU_WARN_RING, fQU_HIST_DELAY, fQU_HIST_DEPTH]


/-! ## queueDb (Table 13.9, pages 1 to 8) -/

def fQU_DB_TAIL : FieldRow := ⟨0x40, 4, 512, 15, 0, .rw, .ctl, 0, none⟩

/-- Every field of Table 13.9, pages 1 to 8. -/
def queueDbFields : List FieldRow :=
  [fQU_DB_TAIL]


/-! ## queueCh (Table 13.9, pages 9 and 10) -/

def fCH_BASE_LO_ADDR_LO : FieldRow := ⟨0x40, 32, 32, 31, 12, .rwg, .cfg, 0, none⟩
def fCH_BASE_HI_ADDR_HI : FieldRow := ⟨0x44, 32, 32, 31, 0, .rwg, .cfg, 0, none⟩
def fCH_CFG_EN : FieldRow := ⟨0x48, 32, 32, 31, 31, .rwg, .cfg, 0, some 0⟩
def fCH_CFG_DIR : FieldRow := ⟨0x48, 32, 32, 30, 30, .rwg, .cfg, 0, some 0⟩
def fCH_CFG_LINE : FieldRow := ⟨0x48, 32, 32, 23, 16, .rwg, .cfg, 0, some 0⟩
def fCH_CFG_BURST_LOG2 : FieldRow := ⟨0x48, 32, 32, 11, 8, .rwg, .cfg, 6, some 0⟩
def fCH_CFG_SIZE_LOG2 : FieldRow := ⟨0x48, 32, 32, 4, 0, .rwg, .cfg, 12, some 0⟩
def fCH_PTR_PTR : FieldRow := ⟨0x4C, 32, 32, 31, 0, .ro, .sts, 0, none⟩
def fCH_OWNER_OWNER : FieldRow := ⟨0x50, 32, 32, 15, 0, .ro, .sts, 0xffff, none⟩
def fCH_CNT_BURSTS : FieldRow := ⟨0x54, 32, 32, 31, 16, .ro, .cnt, 0, none⟩
def fCH_CNT_MISSED : FieldRow := ⟨0x54, 32, 32, 15, 0, .ro, .cnt, 0, none⟩

/-- Every field of Table 13.9, pages 9 and 10. -/
def queueChFields : List FieldRow :=
  [fCH_BASE_LO_ADDR_LO, fCH_BASE_HI_ADDR_HI, fCH_CFG_EN, fCH_CFG_DIR, fCH_CFG_LINE, fCH_CFG_BURST_LOG2, fCH_CFG_SIZE_LOG2, fCH_PTR_PTR, fCH_OWNER_OWNER, fCH_CNT_BURSTS, fCH_CNT_MISSED]


/-! ## cullet0 (Table 13.10, page 0) -/

def fCU_LBASE_LO_ADDR_LO : FieldRow := ⟨0x40, 4, 1, 31, 21, .rwg, .cfg, 0, some 0⟩
def fCU_LBASE_HI_ADDR_HI : FieldRow := ⟨0x44, 4, 1, 31, 0, .rwg, .cfg, 0, some 0⟩
def fCU_LCOUNT_CHUNKS : FieldRow := ⟨0x48, 4, 1, 17, 0, .rwg, .cfg, 0, some 0⟩
def fCU_INFLIGHT_CHUNKS : FieldRow := ⟨0x4C, 4, 1, 7, 0, .rwg, .cfg, 32, some 0⟩
def fCU_FREE_SMALL : FieldRow := ⟨0x50, 4, 1, 31, 22, .ro, .sts, 512, none⟩
def fCU_FREE_LARGE : FieldRow := ⟨0x50, 4, 1, 17, 0, .ro, .sts, 0, none⟩
def fCU_LRES_UNUSED : FieldRow := ⟨0x54, 4, 1, 17, 0, .ro, .sts, 0, none⟩
def fCU_HOLDS_USED : FieldRow := ⟨0x58, 4, 1, 16, 0, .ro, .sts, 0, none⟩
def fCU_FAIL_LARGE : FieldRow := ⟨0x5C, 4, 1, 31, 16, .ro, .cnt, 0, none⟩
def fCU_FAIL_SMALL : FieldRow := ⟨0x5C, 4, 1, 15, 0, .ro, .cnt, 0, none⟩
def fCU_REVOKE_FREED : FieldRow := ⟨0x60, 4, 1, 31, 16, .ro, .cnt, 0, none⟩
def fCU_REVOKE_HOLDS : FieldRow := ⟨0x60, 4, 1, 15, 0, .ro, .cnt, 0, none⟩

/-- Every field of Table 13.10, page 0. -/
def cullet0Fields : List FieldRow :=
  [fCU_LBASE_LO_ADDR_LO, fCU_LBASE_HI_ADDR_HI, fCU_LCOUNT_CHUNKS, fCU_INFLIGHT_CHUNKS, fCU_FREE_SMALL, fCU_FREE_LARGE, fCU_LRES_UNUSED, fCU_HOLDS_USED, fCU_FAIL_LARGE, fCU_FAIL_SMALL, fCU_REVOKE_FREED, fCU_REVOKE_HOLDS]


/-! ## cullet1 (Table 13.10, page 1) -/

def fCU_CLIM_SMALL : FieldRow := ⟨0x40, 8, 8, 31, 22, .rwg, .cfg, 512, some 0⟩
def fCU_CLIM_LARGE : FieldRow := ⟨0x40, 8, 8, 17, 0, .rwg, .cfg, 0x3ffff, some 0⟩
def fCU_CUSE_SMALL : FieldRow := ⟨0x44, 8, 8, 31, 22, .ro, .sts, 0, none⟩
def fCU_CUSE_LARGE : FieldRow := ⟨0x44, 8, 8, 17, 0, .ro, .sts, 0, none⟩
def fCU_CFAIL_FAILS : FieldRow := ⟨0x100, 4, 8, 31, 0, .ro, .cnt, 0, none⟩

/-- Every field of Table 13.10, page 1. -/
def cullet1Fields : List FieldRow :=
  [fCU_CLIM_SMALL, fCU_CLIM_LARGE, fCU_CUSE_SMALL, fCU_CUSE_LARGE, fCU_CFAIL_FAILS]


/-! ## cullet2 (Table 13.10, page 2) -/

def fCU_QSEL_TAG : FieldRow := ⟨0x40, 4, 1, 15, 0, .rw, .cfg, 0, none⟩
def fCU_QUOTA_CHUNKS : FieldRow := ⟨0x44, 4, 1, 17, 0, .ro, .sts, 0, none⟩
def fCU_QHELD_CHUNKS : FieldRow := ⟨0x48, 4, 1, 17, 0, .ro, .sts, 0, none⟩

/-- Every field of Table 13.10, page 2. -/
def cullet2Fields : List FieldRow :=
  [fCU_QSEL_TAG, fCU_QUOTA_CHUNKS, fCU_QHELD_CHUNKS]


/-! ## cullet3 (Table 13.10, page 3) -/

def fCU_KSEL_HANDLE : FieldRow := ⟨0x40, 4, 1, 31, 0, .rw, .cfg, 0, none⟩
def fCU_KINFO_OWNER : FieldRow := ⟨0x44, 4, 1, 31, 16, .ro, .sts, 0xffff, none⟩
def fCU_KINFO_CLASS : FieldRow := ⟨0x44, 4, 1, 15, 13, .ro, .sts, 0, none⟩
def fCU_KINFO_FREE : FieldRow := ⟨0x44, 4, 1, 12, 12, .ro, .sts, 1, none⟩
def fCU_KINFO_COUNT : FieldRow := ⟨0x44, 4, 1, 7, 0, .ro, .sts, 0, none⟩

/-- Every field of Table 13.10, page 3. -/
def cullet3Fields : List FieldRow :=
  [fCU_KSEL_HANDLE, fCU_KINFO_OWNER, fCU_KINFO_CLASS, fCU_KINFO_FREE, fCU_KINFO_COUNT]


/-! ## mag (Table 14.10) -/

def fMAG_CFG_PACE_10M : FieldRow := ⟨0x40, 4, 1, 31, 16, .rwg, .cfg, 0x2d50, some 0⟩
def fMAG_CFG_RD_COST : FieldRow := ⟨0x40, 4, 1, 15, 12, .rwg, .cfg, 8, some 0⟩
def fMAG_CFG_ROLE : FieldRow := ⟨0x40, 4, 1, 9, 8, .rwg, .cfg, 0, some 0⟩
def fMAG_CFG_AUTO_MOUNT : FieldRow := ⟨0x40, 4, 1, 0, 0, .rwg, .cfg, 1, some 0⟩
def fMAG_CFG2_WR_TIMEOUT_MS : FieldRow := ⟨0x44, 4, 1, 31, 16, .rwg, .cfg, 250, some 0⟩
def fMAG_CFG2_XCHG_WAIT_MS : FieldRow := ⟨0x44, 4, 1, 15, 8, .rwg, .cfg, 40, some 0⟩
def fMAG_CFG2_QPAIRS_M1 : FieldRow := ⟨0x44, 4, 1, 7, 0, .rwg, .cfg, 255, some 0⟩
def fMAG_STAT_STATE : FieldRow := ⟨0x48, 4, 1, 31, 28, .ro, .sts, 0, none⟩
def fMAG_STAT_CAUSE : FieldRow := ⟨0x48, 4, 1, 27, 24, .ro, .sts, 0, none⟩
def fMAG_STAT_SPEED : FieldRow := ⟨0x48, 4, 1, 23, 20, .ro, .sts, 0, none⟩
def fMAG_STAT_WIDTH : FieldRow := ⟨0x48, 4, 1, 19, 17, .ro, .sts, 0, none⟩
def fMAG_STAT_PRESENT : FieldRow := ⟨0x48, 4, 1, 16, 16, .ro, .sts, 0, none⟩
def fMAG_STAT_QPAIRS : FieldRow := ⟨0x48, 4, 1, 8, 0, .ro, .sts, 0, none⟩
def fMAG_QDEPTH_DEPTH : FieldRow := ⟨0x4C, 4, 1, 10, 0, .ro, .sts, 0, none⟩
def fMAG_PACE_MBPS : FieldRow := ⟨0x50, 4, 1, 31, 0, .ro, .sts, 0, none⟩
def fMAG_READ_MBPS : FieldRow := ⟨0x54, 4, 1, 31, 0, .ro, .sts, 0, none⟩
def fMAG_OUTST_READS : FieldRow := ⟨0x58, 4, 1, 31, 16, .ro, .sts, 0, none⟩
def fMAG_OUTST_WRITES : FieldRow := ⟨0x58, 4, 1, 15, 0, .ro, .sts, 0, none⟩
def fMAG_WR_CNT_WRITES : FieldRow := ⟨0x5C, 4, 1, 31, 0, .ro, .cnt, 0, none⟩
def fMAG_RD_CNT_READS : FieldRow := ⟨0x60, 4, 1, 31, 0, .ro, .cnt, 0, none⟩
def fMAG_ERR_CNT_CMD_ERR : FieldRow := ⟨0x64, 4, 1, 31, 16, .ro, .cnt, 0, none⟩
def fMAG_ERR_CNT_TIMEOUT : FieldRow := ⟨0x64, 4, 1, 15, 0, .ro, .cnt, 0, none⟩
def fMAG_XCHG_COUNT : FieldRow := ⟨0x68, 4, 1, 31, 16, .ro, .cnt, 0, none⟩
def fMAG_XCHG_OUTCOME : FieldRow := ⟨0x68, 4, 1, 15, 12, .ro, .sts, 0, none⟩
def fMAG_XCHG_TARGET : FieldRow := ⟨0x68, 4, 1, 11, 8, .ro, .sts, 0, none⟩
def fMAG_XCHG_STREAMS : FieldRow := ⟨0x68, 4, 1, 7, 0, .ro, .sts, 0, none⟩
def fMAG_NSZE_LO_LBAS_LO : FieldRow := ⟨0x6C, 4, 1, 31, 0, .ro, .sts, 0, none⟩
def fMAG_NSZE_HI_LBAS_HI : FieldRow := ⟨0x70, 4, 1, 31, 0, .ro, .sts, 0, none⟩
def fMAG_LAT_MAX_US : FieldRow := ⟨0x74, 4, 1, 15, 0, .ro, .sts, 0, none⟩

/-- Every field of Table 14.10. -/
def magFields : List FieldRow :=
  [fMAG_CFG_PACE_10M, fMAG_CFG_RD_COST, fMAG_CFG_ROLE, fMAG_CFG_AUTO_MOUNT, fMAG_CFG2_WR_TIMEOUT_MS, fMAG_CFG2_XCHG_WAIT_MS, fMAG_CFG2_QPAIRS_M1, fMAG_STAT_STATE, fMAG_STAT_CAUSE, fMAG_STAT_SPEED, fMAG_STAT_WIDTH, fMAG_STAT_PRESENT] ++
  [fMAG_STAT_QPAIRS, fMAG_QDEPTH_DEPTH, fMAG_PACE_MBPS, fMAG_READ_MBPS, fMAG_OUTST_READS, fMAG_OUTST_WRITES, fMAG_WR_CNT_WRITES, fMAG_RD_CNT_READS, fMAG_ERR_CNT_CMD_ERR, fMAG_ERR_CNT_TIMEOUT, fMAG_XCHG_COUNT, fMAG_XCHG_OUTCOME] ++
  [fMAG_XCHG_TARGET, fMAG_XCHG_STREAMS, fMAG_NSZE_LO_LBAS_LO, fMAG_NSZE_HI_LBAS_HI, fMAG_LAT_MAX_US]


/-! ## mem (Table 16.7) -/

def fMEM_STAT_STATE : FieldRow := ⟨0x40, 4, 1, 31, 28, .ro, .sts, 0, none⟩
def fMEM_STAT_TEMP : FieldRow := ⟨0x40, 4, 1, 7, 0, .ro, .sts, 0, none⟩
def fMEM_CE_LIM_PER_S : FieldRow := ⟨0x44, 4, 1, 31, 0, .rwg, .cfg, 0x10000, some 0⟩
def fMEM_CE_CNT_CE : FieldRow := ⟨0x48, 4, 1, 31, 0, .ro, .cnt, 0, none⟩
def fMEM_UE_CNT_SCRUB : FieldRow := ⟨0x4C, 4, 1, 31, 16, .ro, .cnt, 0, none⟩
def fMEM_UE_CNT_READ : FieldRow := ⟨0x4C, 4, 1, 15, 0, .ro, .cnt, 0, none⟩
def fMEM_UE_ADDR_LO_ADDR_LO : FieldRow := ⟨0x50, 4, 1, 31, 6, .ro, .sts, 0, none⟩
def fMEM_UE_ADDR_HI_ADDR_HI : FieldRow := ⟨0x54, 4, 1, 31, 0, .ro, .sts, 0, none⟩
def fMEM_NREF_CNT_RFM : FieldRow := ⟨0x58, 4, 1, 31, 16, .ro, .cnt, 0, none⟩
def fMEM_NREF_CNT_NEIGHBOUR : FieldRow := ⟨0x58, 4, 1, 15, 0, .ro, .cnt, 0, none⟩
def fMEM_INORDER_CNT_ENTRIES : FieldRow := ⟨0x5C, 4, 1, 31, 0, .ro, .cnt, 0, none⟩
def fMEM_BURSTS_RD_BURSTS : FieldRow := ⟨0x60, 4, 1, 31, 0, .ro, .cnt, 0, none⟩
def fMEM_BURSTS_WR_BURSTS : FieldRow := ⟨0x64, 4, 1, 31, 0, .ro, .cnt, 0, none⟩
def fMEM_TRAIN_RETRAINS : FieldRow := ⟨0x68, 4, 1, 31, 16, .ro, .cnt, 0, none⟩
def fMEM_TRAIN_MS : FieldRow := ⟨0x68, 4, 1, 7, 0, .ro, .sts, 0, none⟩

/-- Every field of Table 16.7. -/
def memFields : List FieldRow :=
  [fMEM_STAT_STATE, fMEM_STAT_TEMP, fMEM_CE_LIM_PER_S, fMEM_CE_CNT_CE, fMEM_UE_CNT_SCRUB, fMEM_UE_CNT_READ, fMEM_UE_ADDR_LO_ADDR_LO, fMEM_UE_ADDR_HI_ADDR_HI, fMEM_NREF_CNT_RFM, fMEM_NREF_CNT_NEIGHBOUR, fMEM_INORDER_CNT_ENTRIES, fMEM_BURSTS_RD_BURSTS] ++
  [fMEM_BURSTS_WR_BURSTS, fMEM_TRAIN_RETRAINS, fMEM_TRAIN_MS]


/-! ## time (Table 17.5) -/

def fTM_NOW_LO_NS_LO : FieldRow := ⟨0x40, 4, 1, 31, 0, .ro, .sts, 0, none⟩
def fTM_NOW_HI_NS_HI : FieldRow := ⟨0x44, 4, 1, 31, 0, .ro, .sts, 0, none⟩
def fTM_NOW_FRAC_FRAC : FieldRow := ⟨0x48, 4, 1, 31, 0, .ro, .sts, 0, none⟩
def fTM_FREE_LO_FREE_LO : FieldRow := ⟨0x4C, 4, 1, 31, 0, .ro, .sts, 0, none⟩
def fTM_FREE_HI_FREE_HI : FieldRow := ⟨0x50, 4, 1, 31, 0, .ro, .sts, 0, none⟩
def fTM_SET_LO_SET : FieldRow := ⟨0x54, 4, 1, 31, 0, .rw, .cfg, 0, none⟩
def fTM_SET_HI_SET : FieldRow := ⟨0x58, 4, 1, 31, 0, .rw, .cfg, 0, none⟩
def fTM_SET_FRAC_SET : FieldRow := ⟨0x5C, 4, 1, 31, 0, .rw, .cfg, 0, none⟩
def fTM_RATE_INT_INT : FieldRow := ⟨0x60, 4, 1, 31, 0, .rw, .cfg, 1, none⟩
def fTM_RATE_FRAC_FRAC : FieldRow := ⟨0x64, 4, 1, 31, 0, .rw, .cfg, 0, none⟩
def fTM_APPLY_RATE_EN : FieldRow := ⟨0x68, 4, 1, 2, 2, .rwg, .ctl, 0, some 0⟩
def fTM_APPLY_OFS : FieldRow := ⟨0x68, 4, 1, 1, 0, .rwg, .ctl, 0, some 0⟩
def fTM_STEP_CNT_STEPS : FieldRow := ⟨0x6C, 4, 1, 31, 16, .ro, .cnt, 0, none⟩
def fTM_STEP_CNT_RATES : FieldRow := ⟨0x6C, 4, 1, 15, 0, .ro, .cnt, 0, none⟩
def fTM_LAST_STEP_NS : FieldRow := ⟨0x70, 4, 1, 31, 0, .ro, .sts, 0, none⟩
def fTM_STAT_VALID : FieldRow := ⟨0x74, 4, 1, 31, 31, .ro, .sts, 0, none⟩
def fTM_TRIG_CFG_LEAD_US : FieldRow := ⟨0x78, 4, 1, 15, 0, .rwg, .cfg, 0x7d0, none⟩
def fTM_TRIG_CNT_SENT : FieldRow := ⟨0x7C, 4, 1, 31, 16, .ro, .cnt, 0, none⟩
def fTM_TRIG_CNT_SKIPPED : FieldRow := ⟨0x7C, 4, 1, 15, 0, .ro, .cnt, 0, none⟩
def fTM_STAMP_EN_SRC : FieldRow := ⟨0x80, 4, 1, 8, 0, .rw, .cfg, 0, none⟩
def fTM_STAMP_LOST_LOST : FieldRow := ⟨0x84, 4, 1, 31, 0, .ro, .cnt, 0, none⟩
def fTM_PPS_OUT_EN : FieldRow := ⟨0x88, 4, 1, 31, 31, .rwg, .cfg, 0, none⟩
def fTM_PPS_WIDTH_US : FieldRow := ⟨0x88, 4, 1, 15, 0, .rwg, .cfg, 0x2710, none⟩
def fTM_TC_LOCAL_MIN : FieldRow := ⟨0x8C, 4, 1, 31, 16, .rwg, .cfg, 0, none⟩
def fTM_TC_UTC_OFS : FieldRow := ⟨0x8C, 4, 1, 15, 8, .rwg, .cfg, 37, none⟩
def fTM_TC_FALLBACK : FieldRow := ⟨0x8C, 4, 1, 7, 2, .rwg, .cfg, 24, none⟩
def fTM_TC_UTC_SRC : FieldRow := ⟨0x8C, 4, 1, 1, 1, .rwg, .cfg, 1, none⟩
def fTM_TC_DF : FieldRow := ⟨0x8C, 4, 1, 0, 0, .rwg, .cfg, 0, none⟩
def fPTP_STEP_NS_NS : FieldRow := ⟨0x90, 4, 1, 31, 0, .rwg, .cfg, 0x3e8, none⟩

/-- Every field of Table 17.5. -/
def timeFields : List FieldRow :=
  [fTM_NOW_LO_NS_LO, fTM_NOW_HI_NS_HI, fTM_NOW_FRAC_FRAC, fTM_FREE_LO_FREE_LO, fTM_FREE_HI_FREE_HI, fTM_SET_LO_SET, fTM_SET_HI_SET, fTM_SET_FRAC_SET, fTM_RATE_INT_INT, fTM_RATE_FRAC_FRAC, fTM_APPLY_RATE_EN, fTM_APPLY_OFS] ++
  [fTM_STEP_CNT_STEPS, fTM_STEP_CNT_RATES, fTM_LAST_STEP_NS, fTM_STAT_VALID, fTM_TRIG_CFG_LEAD_US, fTM_TRIG_CNT_SENT, fTM_TRIG_CNT_SKIPPED, fTM_STAMP_EN_SRC, fTM_STAMP_LOST_LOST, fTM_PPS_OUT_EN, fTM_PPS_WIDTH_US, fTM_TC_LOCAL_MIN] ++
  [fTM_TC_UTC_OFS, fTM_TC_FALLBACK, fTM_TC_UTC_SRC, fTM_TC_DF, fPTP_STEP_NS_NS]


/-! ## net (Table 17.7) -/

def fNET_CFG_PTP_UDP6 : FieldRow := ⟨0x40, 4, 1, 11, 11, .rwg, .cfg, 0, some 0⟩
def fNET_CFG_PTP_UDP4 : FieldRow := ⟨0x40, 4, 1, 10, 10, .rwg, .cfg, 1, some 0⟩
def fNET_CFG_PTP_L2 : FieldRow := ⟨0x40, 4, 1, 9, 9, .rwg, .cfg, 0, some 0⟩
def fNET_CFG_AN_EN : FieldRow := ⟨0x40, 4, 1, 8, 8, .rwg, .cfg, 1, some 0⟩
def fNET_CFG_MODE : FieldRow := ⟨0x40, 4, 1, 2, 0, .rwg, .cfg, 0, some 0⟩
def fNET_MAC_LO_MAC_LO : FieldRow := ⟨0x44, 4, 1, 31, 0, .rwg, .cfg, 0, some 0⟩
def fNET_MAC_HI_MAC_HI : FieldRow := ⟨0x48, 4, 1, 15, 0, .rwg, .cfg, 0, some 0⟩
def fNET_TS_ADJ_TX : FieldRow := ⟨0x4C, 4, 1, 31, 16, .rw, .cfg, 0, none⟩
def fNET_TS_ADJ_RX : FieldRow := ⟨0x4C, 4, 1, 15, 0, .rw, .cfg, 0, none⟩
def fNET_STAT_LINK : FieldRow := ⟨0x50, 4, 1, 31, 31, .ro, .sts, 0, none⟩
def fNET_STAT_FEC_LOCK : FieldRow := ⟨0x50, 4, 1, 30, 30, .ro, .sts, 0, none⟩
def fNET_STAT_MODE : FieldRow := ⟨0x50, 4, 1, 2, 0, .ro, .sts, 0, none⟩
def fNET_TX_FRAMES_FRAMES : FieldRow := ⟨0x54, 4, 1, 31, 0, .ro, .cnt, 0, none⟩
def fNET_RX_PTP_FRAMES : FieldRow := ⟨0x58, 4, 1, 31, 0, .ro, .cnt, 0, none⟩
def fNET_RX_DROP_FILTER : FieldRow := ⟨0x5C, 4, 1, 31, 16, .ro, .cnt, 0, none⟩
def fNET_RX_DROP_OVERRUN : FieldRow := ⟨0x5C, 4, 1, 15, 0, .ro, .cnt, 0, none⟩
def fNET_FEC_CORR_CODEWORDS : FieldRow := ⟨0x60, 4, 1, 31, 0, .ro, .cnt, 0, none⟩
def fNET_FEC_UNC_CODEWORDS : FieldRow := ⟨0x64, 4, 1, 31, 0, .ro, .cnt, 0, none⟩
def fNET_LINK_CNT_DOWNS : FieldRow := ⟨0x68, 4, 1, 31, 16, .ro, .cnt, 0, none⟩

/-- Every field of Table 17.7. -/
def netFields : List FieldRow :=
  [fNET_CFG_PTP_UDP6, fNET_CFG_PTP_UDP4, fNET_CFG_PTP_L2, fNET_CFG_AN_EN, fNET_CFG_MODE, fNET_MAC_LO_MAC_LO, fNET_MAC_HI_MAC_HI, fNET_TS_ADJ_TX, fNET_TS_ADJ_RX, fNET_STAT_LINK, fNET_STAT_FEC_LOCK, fNET_STAT_MODE] ++
  [fNET_TX_FRAMES_FRAMES, fNET_RX_PTP_FRAMES, fNET_RX_DROP_FILTER, fNET_RX_DROP_OVERRUN, fNET_FEC_CORR_CODEWORDS, fNET_FEC_UNC_CODEWORDS, fNET_LINK_CNT_DOWNS]


/-! ## peer (Table 18.8) -/

def fPR_CFG_EN : FieldRow := ⟨0x40, 4, 1, 31, 31, .rwg, .cfg, 1, some 0⟩
def fPR_CFG_OFFER_EN : FieldRow := ⟨0x40, 4, 1, 30, 30, .rwg, .cfg, 0, some 0⟩
def fPR_STAT_STATE : FieldRow := ⟨0x44, 4, 1, 31, 28, .ro, .sts, 0, none⟩
def fPR_STAT_PARTNER : FieldRow := ⟨0x44, 4, 1, 27, 26, .ro, .sts, 0, none⟩
def fPR_STAT_PSIZE_M1 : FieldRow := ⟨0x44, 4, 1, 25, 24, .ro, .sts, 0, none⟩
def fPR_STAT_POL_INV : FieldRow := ⟨0x44, 4, 1, 23, 16, .ro, .sts, 0, none⟩
def fPR_STAT_LOCKED : FieldRow := ⟨0x44, 4, 1, 15, 8, .ro, .sts, 0, none⟩
def fPR_GANG_MEMBER : FieldRow := ⟨0x48, 4, 1, 31, 30, .ro, .id, 0, none⟩
def fPR_GANG_SIZE_M1 : FieldRow := ⟨0x48, 4, 1, 29, 28, .ro, .id, 0, none⟩
def fPR_GANG_ROOT : FieldRow := ⟨0x48, 4, 1, 27, 26, .ro, .sts, 0, none⟩
def fPR_GANG_FAILED : FieldRow := ⟨0x48, 4, 1, 25, 22, .ro, .sts, 0, none⟩
def fPR_RESV_TX : FieldRow := ⟨0x4C, 4, 1, 31, 16, .ro, .sts, 0, none⟩
def fPR_RESV_RX : FieldRow := ⟨0x4C, 4, 1, 15, 0, .ro, .sts, 0, none⟩
def fPR_ERR_CNT_NAKS : FieldRow := ⟨0x50, 4, 1, 31, 16, .ro, .cnt, 0, none⟩
def fPR_ERR_CNT_LOSSES : FieldRow := ⟨0x50, 4, 1, 15, 0, .ro, .cnt, 0, none⟩
def fPR_CRED_WAIT_US : FieldRow := ⟨0x54, 4, 1, 31, 0, .ro, .cnt, 0, none⟩
def fPR_TX_LO_BYTES_LO : FieldRow := ⟨0x58, 4, 1, 31, 0, .ro, .cnt, 0, none⟩
def fPR_TX_HI_BYTES_HI : FieldRow := ⟨0x5C, 4, 1, 31, 0, .ro, .cnt, 0, none⟩
def fPR_TIME_OFS_NS : FieldRow := ⟨0x60, 4, 1, 31, 0, .ro, .sts, 0, none⟩
def fPR_DELAY_DELAY : FieldRow := ⟨0x64, 4, 1, 15, 0, .ro, .sts, 0, none⟩

/-- Every field of Table 18.8. -/
def peerFields : List FieldRow :=
  [fPR_CFG_EN, fPR_CFG_OFFER_EN, fPR_STAT_STATE, fPR_STAT_PARTNER, fPR_STAT_PSIZE_M1, fPR_STAT_POL_INV, fPR_STAT_LOCKED, fPR_GANG_MEMBER, fPR_GANG_SIZE_M1, fPR_GANG_ROOT, fPR_GANG_FAILED, fPR_RESV_TX] ++
  [fPR_RESV_RX, fPR_ERR_CNT_NAKS, fPR_ERR_CNT_LOSSES, fPR_CRED_WAIT_US, fPR_TX_LO_BYTES_LO, fPR_TX_HI_BYTES_HI, fPR_TIME_OFS_NS, fPR_DELAY_DELAY]


/-! ## fault0 (Table 19.9) -/

def fFC_CLR_ALL : FieldRow := ⟨0x40, 4, 1, 31, 31, .wo, .ctl, 0, none⟩
def fFC_CLR_SOURCE : FieldRow := ⟨0x40, 4, 1, 11, 0, .wo, .ctl, 0, none⟩
def fFC_LAST_REACT : FieldRow := ⟨0x44, 4, 1, 30, 24, .ro, .sts, 0, none⟩
def fFC_LAST_CLASS : FieldRow := ⟨0x44, 4, 1, 20, 16, .ro, .sts, 0, none⟩
def fFC_LAST_SOURCE : FieldRow := ⟨0x44, 4, 1, 11, 0, .ro, .sts, 0, none⟩
def fFC_CNT_SEVERE : FieldRow := ⟨0x48, 4, 1, 31, 16, .ro, .cnt, 0, none⟩
def fFC_CNT_RERAISE : FieldRow := ⟨0x48, 4, 1, 15, 0, .ro, .cnt, 0, none⟩
def fFC_CONSEQ_CNT_EVENTS : FieldRow := ⟨0x4C, 4, 1, 31, 0, .ro, .cnt, 0, none⟩
def fFC_LOST_PACKETS : FieldRow := ⟨0x50, 4, 1, 31, 0, .ro, .cnt, 0, none⟩
def fFC_QUAR_ACTIVE : FieldRow := ⟨0x54, 4, 1, 31, 31, .ro, .sts, 0, none⟩
def fFC_QUAR_OPEN : FieldRow := ⟨0x54, 4, 1, 7, 0, .ro, .sts, 0, none⟩
def fFC_CLASS_N : FieldRow := ⟨0x100, 8, 32, 31, 24, .rwg, .cfg, 0, some 0⟩
def fFC_CLASS_UNIT : FieldRow := ⟨0x100, 8, 32, 17, 16, .rwg, .cfg, 0, some 0⟩
def fFC_CLASS_W : FieldRow := ⟨0x100, 8, 32, 15, 0, .rwg, .cfg, 0, some 0⟩
def fFC_REACT_SEVERE : FieldRow := ⟨0x104, 8, 32, 22, 16, .rwg, .cfg, 0, some 0⟩
def fFC_REACT_MINOR : FieldRow := ⟨0x104, 8, 32, 6, 0, .rwg, .cfg, 0, some 0⟩

/-- Every field of Table 19.9. -/
def fault0Fields : List FieldRow :=
  [fFC_CLR_ALL, fFC_CLR_SOURCE, fFC_LAST_REACT, fFC_LAST_CLASS, fFC_LAST_SOURCE, fFC_CNT_SEVERE, fFC_CNT_RERAISE, fFC_CONSEQ_CNT_EVENTS, fFC_LOST_PACKETS, fFC_QUAR_ACTIVE, fFC_QUAR_OPEN, fFC_CLASS_N] ++
  [fFC_CLASS_UNIT, fFC_CLASS_W, fFC_REACT_SEVERE, fFC_REACT_MINOR]


/-! ## fault3 (Table 19.10) -/

def fFC_ESPARE_IN_USE : FieldRow := ⟨0x40, 4, 4, 31, 31, .ro, .sts, 0, none⟩
def fFC_ESPARE_WITHDRAWN : FieldRow := ⟨0x40, 4, 4, 30, 30, .ro, .sts, 0, none⟩
def fFC_ESPARE_ROLE : FieldRow := ⟨0x40, 4, 4, 6, 0, .ro, .sts, 0, none⟩
def fFC_DSPARE_IN_USE : FieldRow := ⟨0x50, 4, 4, 31, 31, .ro, .sts, 0, none⟩
def fFC_DSPARE_WITHDRAWN : FieldRow := ⟨0x50, 4, 4, 30, 30, .ro, .sts, 0, none⟩
def fFC_DSPARE_ROLE : FieldRow := ⟨0x50, 4, 4, 4, 0, .ro, .sts, 0, none⟩
def fFC_WD_ENC0_ENC : FieldRow := ⟨0x60, 4, 1, 31, 0, .ro, .sts, 0, none⟩
def fFC_WD_ENC1_ENC : FieldRow := ⟨0x64, 4, 1, 31, 0, .ro, .sts, 0, none⟩
def fFC_WD_ENC2_ENC : FieldRow := ⟨0x68, 4, 1, 3, 0, .ro, .sts, 0, none⟩
def fFC_WD_DEC_DEC : FieldRow := ⟨0x6C, 4, 1, 19, 0, .ro, .sts, 0, none⟩
def fFC_WD_OTHER_QUAD : FieldRow := ⟨0x70, 4, 1, 31, 28, .ro, .sts, 0, none⟩
def fFC_WD_OTHER_PROXY : FieldRow := ⟨0x70, 4, 1, 19, 16, .ro, .sts, 0, none⟩
def fFC_WD_OTHER_ME : FieldRow := ⟨0x70, 4, 1, 15, 0, .ro, .sts, 0, none⟩
def fFC_RESTORE_REQ : FieldRow := ⟨0x74, 4, 1, 31, 31, .rwg, .ctl, 0, none⟩
def fFC_RESTORE_KIND : FieldRow := ⟨0x74, 4, 1, 10, 8, .rwg, .ctl, 0, none⟩
def fFC_RESTORE_INSTANCE : FieldRow := ⟨0x74, 4, 1, 7, 0, .rwg, .ctl, 0, none⟩
def fFC_RESTORE_CNT_DONE : FieldRow := ⟨0x78, 4, 1, 31, 16, .ro, .cnt, 0, none⟩
def fFC_RESTORE_CNT_REFUSED : FieldRow := ⟨0x78, 4, 1, 15, 0, .ro, .cnt, 0, none⟩

/-- Every field of Table 19.10. -/
def fault3Fields : List FieldRow :=
  [fFC_ESPARE_IN_USE, fFC_ESPARE_WITHDRAWN, fFC_ESPARE_ROLE, fFC_DSPARE_IN_USE, fFC_DSPARE_WITHDRAWN, fFC_DSPARE_ROLE, fFC_WD_ENC0_ENC, fFC_WD_ENC1_ENC, fFC_WD_ENC2_ENC, fFC_WD_DEC_DEC, fFC_WD_OTHER_QUAD, fFC_WD_OTHER_PROXY] ++
  [fFC_WD_OTHER_ME, fFC_RESTORE_REQ, fFC_RESTORE_KIND, fFC_RESTORE_INSTANCE, fFC_RESTORE_CNT_DONE, fFC_RESTORE_CNT_REFUSED]


/-! ## lehrPower (Table 20.12) -/

def fLP_CLREQ_GO : FieldRow := ⟨0x40, 4, 1, 31, 31, .rwg, .ctl, 0, none⟩
def fLP_CLREQ_KIND : FieldRow := ⟨0x40, 4, 1, 17, 16, .rwg, .ctl, 0, none⟩
def fLP_CLREQ_INDEX : FieldRow := ⟨0x40, 4, 1, 3, 0, .rwg, .ctl, 0, none⟩
def fLP_CLSTAT_RESULT : FieldRow := ⟨0x44, 4, 1, 31, 30, .ro, .sts, 0, none⟩
def fLP_CLSTAT_REFUSER : FieldRow := ⟨0x44, 4, 1, 15, 0, .ro, .sts, 0xffff, none⟩
def fLP_CLCNT_ENTERED : FieldRow := ⟨0x48, 4, 1, 31, 16, .ro, .cnt, 0, none⟩
def fLP_CLCNT_ROLLED_BACK : FieldRow := ⟨0x48, 4, 1, 15, 0, .ro, .cnt, 0, none⟩
def fLP_TIMER_EN : FieldRow := ⟨0x4C, 4, 1, 31, 31, .rwg, .ctl, 0, none⟩
def fLP_TIMER_US : FieldRow := ⟨0x4C, 4, 1, 30, 0, .rwg, .cfg, 0, none⟩
def fLP_WAKE_CNT_WAKES : FieldRow := ⟨0x50, 4, 1, 31, 16, .ro, .cnt, 0, none⟩
def fLP_WAKE_CNT_RACES : FieldRow := ⟨0x50, 4, 1, 15, 0, .ro, .cnt, 0, none⟩
def fLP_LAST_WAKE_SOURCE : FieldRow := ⟨0x54, 4, 1, 31, 24, .ro, .sts, 0, none⟩
def fLP_LAST_WAKE_DOMAIN : FieldRow := ⟨0x54, 4, 1, 7, 0, .ro, .sts, 0, none⟩
def fLP_DOM_REQ : FieldRow := ⟨0x400, 4, 202, 31, 30, .rw, .cfg, 0, some 0⟩
def fLP_DOM_STATE : FieldRow := ⟨0x400, 4, 202, 29, 28, .ro, .sts, 0, some 0⟩
def fLP_DOM_BUSY : FieldRow := ⟨0x400, 4, 202, 27, 27, .ro, .sts, 0, some 0⟩
def fLP_DOM_TWAKE : FieldRow := ⟨0x400, 4, 202, 26, 26, .rw, .cfg, 0, some 0⟩
def fLP_DOM_IDLE_US : FieldRow := ⟨0x400, 4, 202, 15, 0, .rw, .cfg, 0, some 0⟩
def fLP_REF_REFUSALS : FieldRow := ⟨0xC00, 4, 202, 27, 16, .ro, .cnt, 0, none⟩
def fLP_REF_REFUSER : FieldRow := ⟨0xC00, 4, 202, 15, 0, .ro, .cnt, 0xffff, none⟩

/-- Every field of Table 20.12. -/
def lehrPowerFields : List FieldRow :=
  [fLP_CLREQ_GO, fLP_CLREQ_KIND, fLP_CLREQ_INDEX, fLP_CLSTAT_RESULT, fLP_CLSTAT_REFUSER, fLP_CLCNT_ENTERED, fLP_CLCNT_ROLLED_BACK, fLP_TIMER_EN, fLP_TIMER_US, fLP_WAKE_CNT_WAKES, fLP_WAKE_CNT_RACES, fLP_LAST_WAKE_SOURCE] ++
  [fLP_LAST_WAKE_DOMAIN, fLP_DOM_REQ, fLP_DOM_STATE, fLP_DOM_BUSY, fLP_DOM_TWAKE, fLP_DOM_IDLE_US, fLP_REF_REFUSALS, fLP_REF_REFUSER]


/-! ## lehrSupply (Table 20.13) -/

def fLS_RAIL_MV : FieldRow := ⟨0x40, 4, 8, 31, 16, .ro, .sts, 0, none⟩
def fLS_RAIL_WARN : FieldRow := ⟨0x40, 4, 8, 15, 15, .ro, .sts, 0, none⟩
def fLS_DIP_CNT_DIPS : FieldRow := ⟨0x60, 4, 1, 31, 16, .ro, .ao, 0, none⟩
def fLS_DIP_CNT_ESCALATIONS : FieldRow := ⟨0x60, 4, 1, 15, 0, .ro, .ao, 0, none⟩
def fLS_LAST_DIP_RAIL : FieldRow := ⟨0x64, 4, 1, 31, 29, .ro, .ao, 0, none⟩
def fLS_LAST_DIP_FROZEN : FieldRow := ⟨0x64, 4, 1, 28, 28, .ro, .sts, 0, none⟩
def fLS_LAST_DIP_US : FieldRow := ⟨0x64, 4, 1, 15, 0, .ro, .ao, 0, none⟩
def fLS_CFG_FREEZE_HOLD_US : FieldRow := ⟨0x68, 4, 1, 15, 0, .rwg, .cfg, 0x3e8, some 0⟩
def fLS_RST_REQ_REQ : FieldRow := ⟨0x6C, 4, 1, 31, 31, .rwg, .ctl, 0, none⟩
def fLS_RST_REQ_KIND : FieldRow := ⟨0x6C, 4, 1, 1, 0, .rwg, .ctl, 0, none⟩
def fLS_RST_CAUSE_LAST : FieldRow := ⟨0x70, 4, 1, 31, 28, .ro, .ao, 1, none⟩
def fLS_RST_CAUSE_BOOTS : FieldRow := ⟨0x70, 4, 1, 15, 0, .ro, .ao, 0, none⟩

/-- Every field of Table 20.13. -/
def lehrSupplyFields : List FieldRow :=
  [fLS_RAIL_MV, fLS_RAIL_WARN, fLS_DIP_CNT_DIPS, fLS_DIP_CNT_ESCALATIONS, fLS_LAST_DIP_RAIL, fLS_LAST_DIP_FROZEN, fLS_LAST_DIP_US, fLS_CFG_FREEZE_HOLD_US, fLS_RST_REQ_REQ, fLS_RST_REQ_KIND, fLS_RST_CAUSE_LAST, fLS_RST_CAUSE_BOOTS]


/-! ## config (Table 20.14) -/

def fCF_BOOT_SLOT : FieldRow := ⟨0x40, 4, 1, 31, 30, .ro, .sts, 2, none⟩
def fCF_BOOT_FALLBACK : FieldRow := ⟨0x40, 4, 1, 29, 29, .ro, .sts, 0, none⟩
def fCF_BOOT_REJ_A : FieldRow := ⟨0x40, 4, 1, 27, 24, .ro, .sts, 0, none⟩
def fCF_BOOT_REJ_B : FieldRow := ⟨0x40, 4, 1, 23, 20, .ro, .sts, 0, none⟩
def fCF_SEQ_LO_SEQ_LO : FieldRow := ⟨0x44, 4, 1, 31, 0, .ro, .sts, 0, none⟩
def fCF_SEQ_HI_SEQ_HI : FieldRow := ⟨0x48, 4, 1, 31, 0, .ro, .sts, 0, none⟩
def fCF_RECS_REJECTED : FieldRow := ⟨0x4C, 4, 1, 31, 16, .ro, .cnt, 0, none⟩
def fCF_RECS_APPLIED : FieldRow := ⟨0x4C, 4, 1, 15, 0, .ro, .cnt, 0, none⟩
def fCF_FADDR_PAGE : FieldRow := ⟨0x50, 4, 1, 25, 8, .rw, .cfg, 0, none⟩
def fCF_FCMD_GO : FieldRow := ⟨0x54, 4, 1, 31, 31, .rwg, .ctl, 0, none⟩
def fCF_FCMD_OP : FieldRow := ⟨0x54, 4, 1, 3, 0, .rwg, .ctl, 0, none⟩
def fCF_FSTAT_BUSY : FieldRow := ⟨0x58, 4, 1, 31, 31, .ro, .sts, 0, none⟩
def fCF_FSTAT_ERR : FieldRow := ⟨0x58, 4, 1, 30, 30, .ro, .sts, 0, none⟩
def fCF_FSTAT_ERR_CODE : FieldRow := ⟨0x58, 4, 1, 29, 27, .ro, .sts, 0, none⟩
def fCF_BUF_DATA : FieldRow := ⟨0x400, 4, 64, 31, 0, .rw, .sts, 0, none⟩

/-- Every field of Table 20.14. -/
def configFields : List FieldRow :=
  [fCF_BOOT_SLOT, fCF_BOOT_FALLBACK, fCF_BOOT_REJ_A, fCF_BOOT_REJ_B, fCF_SEQ_LO_SEQ_LO, fCF_SEQ_HI_SEQ_HI, fCF_RECS_REJECTED, fCF_RECS_APPLIED, fCF_FADDR_PAGE, fCF_FCMD_GO, fCF_FCMD_OP, fCF_FSTAT_BUSY] ++
  [fCF_FSTAT_ERR, fCF_FSTAT_ERR_CODE, fCF_BUF_DATA]


/-! ## fault1 (R368) -/

def fFC_FULL_FULL : FieldRow := ⟨0x400, 4, 65, 31, 0, .rw, .cfg, 0xffffffff, some 1⟩

/-- Every field of R368. -/
def fault1Fields : List FieldRow :=
  [fFC_FULL_FULL]


/-! ## fault2 (R368) -/

def fFC_STATE_STATE : FieldRow := ⟨0x400, 4, 65, 31, 0, .ro, .sts, 0, none⟩
def fFC_PATH_PATH : FieldRow := ⟨0x600, 4, 65, 31, 0, .ro, .sts, 0, none⟩

/-- Every field of R368. -/
def fault2Fields : List FieldRow :=
  [fFC_STATE_STATE, fFC_PATH_PATH]

end Sys2Proof.Machine
end

