-- ==== Sys2Proof/Machine/RegLayout.lean ====
section
/-! DEFINITION. Where the register pages lie (R23, Table 2.2), which registers a page holds, and the value and the
writable bits of each register word. A register is named by its byte address in BAR0; a register of block scope has
its one home on the first page of the block (R24). -/
namespace Sys2Proof.Machine

/-- What a page of BAR0 shows: one kind for each register table. -/
inductive PageKind where
  | device | lehrPower | lehrSupply | config | fault0 | fault1 | fault2 | fault3 | time | net | event | hostport
  | gaffer | cullet0 | cullet1 | cullet2 | cullet3 | marver0 | marver1 | marver2 | marver3
  | queue0 | queueDb | queueCh | queueRest | mag | peer | mem | memctl | proxy | me | gather | enc | dec
  deriving DecidableEq, Repr

/-- The page's place in the block base table: its kind, block type, PG_ID.INSTANCE, the first page of its block,
the pages of the block, and the power domain the block lies in (Table 20.1; 0 for the always-on domain, which has
no identifier, R371). -/
structure PageInfo where
  kind : PageKind
  btype : Nat
  inst : Nat
  first : Nat
  pages : Nat
  dom : Nat
  deriving DecidableEq, Repr

/-- One range of Table 2.2: `n` pages from `base`, each a block of its own unless `joined`. -/
def pageRange (page base n btype dom : Nat) (joined : Bool) (kind : Nat → PageKind) : Option PageInfo :=
  if base ≤ page ∧ page < base + n then
    some ⟨kind (page - base), btype, page - base, if joined then base else page, if joined then n else 1,
      if joined then dom else if dom = 0 ∨ dom = 0xC9 then dom else dom + (page - base)⟩
  else none

/-- The kind of page k of the FAULT block. -/
def faultKind (k : Nat) : PageKind :=
  if k = 0 then .fault0 else if k = 1 then .fault1 else if k = 2 then .fault2 else .fault3
/-- The kind of page k of the CULLET block. -/
def culletKind (k : Nat) : PageKind :=
  if k = 0 then .cullet0 else if k = 1 then .cullet1 else if k = 2 then .cullet2 else .cullet3
/-- The kind of page k of the MARVER block. -/
def marverKind (k : Nat) : PageKind :=
  if k = 0 then .marver0 else if k = 1 then .marver1 else if k = 2 then .marver2 else .marver3
/-- The kind of page k of the QUEUE block. -/
def queueKind (k : Nat) : PageKind :=
  if k = 0 then .queue0 else if k ≤ 8 then .queueDb else if k ≤ 10 then .queueCh else .queueRest

/-- The block base table (R23, Table 2.2), with the domains of Table 20.1. None: a reserved page or an aperture. -/
def pageInfo (page : Nat) : Option PageInfo :=
  if page < 0x40 then
    if page < 0x10 then
      (pageRange page 0x00 1 0x1 0xC9 true fun _ => .device) <|>
      (pageRange page 0x01 1 0x2 0 true fun _ => .lehrPower) <|>
      (pageRange page 0x02 1 0x3 0 true fun _ => .lehrSupply) <|>
      (pageRange page 0x03 1 0x4 0xC9 true fun _ => .config) <|>
      (pageRange page 0x04 4 0x5 0xC9 true faultKind) <|>
      (pageRange page 0x08 1 0x6 0xC9 true fun _ => .time) <|>
      (pageRange page 0x09 2 0x7 0xA6 false fun _ => .net) <|>
      (pageRange page 0x0B 1 0x8 0xC0 true fun _ => .event) <|>
      (pageRange page 0x0C 1 0x9 0xC4 true fun _ => .hostport)
    else
      (pageRange page 0x10 8 0xA 0x89 false fun _ => .gaffer) <|>
      (pageRange page 0x18 4 0xB 0xC1 true culletKind) <|>
      (pageRange page 0x1C 4 0xC 0xC2 true marverKind) <|>
      (pageRange page 0x20 16 0xD 0xC3 true queueKind) <|>
      (pageRange page 0x30 8 0xE 0x9B false fun _ => .mag) <|>
      (pageRange page 0x38 3 0xF 0xA3 false fun _ => .peer)
  else
    (pageRange page 0x40 10 0x10 0x91 false fun _ => .mem) <|>
    (pageRange page 0x4A 1 0x11 0xC9 true fun _ => .memctl) <|>
    (pageRange page 0x50 4 0x12 0xA8 false fun _ => .proxy) <|>
    (pageRange page 0x60 16 0x13 0x59 false fun _ => .me) <|>
    (pageRange page 0x80 32 0x14 0x69 false fun _ => .gather) <|>
    (pageRange page 0xA0 68 0x15 0x01 false fun _ => .enc) <|>
    (pageRange page 0xF0 20 0x16 0x45 false fun _ => .dec)

/-- The block registers of a kind of page (offsets 0x040 and above). -/
def kindFields : PageKind → List FieldRow
  | .device => deviceFields
  | .lehrPower => lehrPowerFields
  | .lehrSupply => lehrSupplyFields
  | .config => configFields
  | .fault0 => fault0Fields
  | .fault1 => fault1Fields
  | .fault2 => fault2Fields
  | .fault3 => fault3Fields
  | .time => timeFields
  | .net => netFields
  | .event => eventFields
  | .hostport => hostportFields
  | .gaffer => gafferFields
  | .cullet0 => cullet0Fields
  | .cullet1 => cullet1Fields
  | .cullet2 => cullet2Fields
  | .cullet3 => cullet3Fields
  | .marver0 => marver0Fields
  | .marver1 => marver1Fields
  | .marver2 => marver2Fields
  | .marver3 => marver3Fields
  | .queue0 => queue0Fields
  | .queueDb => queueDbFields
  | .queueCh => queueChFields
  | .queueRest => []
  | .mag => magFields
  | .peer => peerFields
  | .mem => memFields
  | .memctl => memctlFields
  | .proxy => proxyFields
  | .me => meFields
  | .gather => gatherFields
  | .enc => encFields
  | .dec => decFields

/-- Does the row have a field in the register at this offset? -/
def FieldRow.covers (r : FieldRow) (off : Nat) : Bool :=
  decide (r.off ≤ off ∧ (off - r.off) % r.stride = 0 ∧ (off - r.off) / r.stride < r.count)

/-- The fields of the register at an offset of a page of this kind; none: the offset is reserved (R22). LP_DOMn and
LP_REFn start at n = 1 (Table 20.12). -/
def regFields (k : PageKind) (off : Nat) : List FieldRow :=
  if off < 0x40 then headerFields.filter (·.covers off)
  else if k = .lehrPower ∧ (off = 0x400 ∨ off = 0xC00) then []
  else (kindFields k).filter (·.covers off)

/-- A field's width in bits. -/
def FieldRow.width (r : FieldRow) : Nat := r.hi + 1 - r.lo

/-- The bits of a field, in place. -/
def FieldRow.mask (r : FieldRow) : Word := BitVec.ofNat 32 ((2 ^ r.width - 1) <<< r.lo)

/-- Does the page hold guarded registers (PG_CAP.GUARDED, Table 2.5)? -/
def PageKind.guarded (k : PageKind) : Bool := (kindFields k).any fun r => r.acc = .rwg

/-- Does the block define lock groups (PG_CAP.LOCKS)? -/
def PageKind.locks : PageKind → Bool
  | .enc | .dec | .gaffer | .hostport | .device | .config => false
  | _ => true

/-- PG_CAP.BLOCK_CAP, where a chapter states it (chapter 04, R163, R217, R229); 0 elsewhere (DESIGN CHOICE, log entry 5). -/
def PageKind.blockCap : PageKind → Nat
  | .gather => 32
  | .me => 5000
  | .dec => 4000
  | .proxy => 1000
  | _ => 0

/-- PG_ID of a page (Table 2.5). -/
def pgIdWord (p : PageInfo) : Word := BitVec.ofNat 32 (p.btype <<< 16 ||| p.inst <<< 8 ||| 1)

/-- PG_CAP of a page (Table 2.5). -/
def pgCapWord (p : PageInfo) : Word :=
  BitVec.ofNat 32 (p.kind.blockCap <<< 16 ||| p.pages <<< 8 ||| (if p.kind.guarded then 0x80 else 0) |||
    (if p.dom = 0 ∨ p.dom = 0xC9 then 0 else 0x20) ||| (if p.kind.locks then 0x10 else 0))

/-- The reset target and the external flag of event source n (Table 12.7). -/
def evtReset (n : Nat) : Nat × Bool :=
  if n < 16 then (0, false)
  else if n < 48 then (2 * ((n - 16) / 8), false)
  else if n < 64 then (2 * ((n - 48) / 4) + 1, false)
  else if n < 84 then ((n - 64) % 8, false)
  else if n < 88 then (2 * (n - 84) + 1, false)
  else if n < 104 then
    let m := if n < 96 then n - 88 else n - 96
    (if m < 4 then 2 + m / 2 else 6 + (m - 4) / 2, decide (96 ≤ n))
  else if n < 107 then (0, false)
  else if n < 110 then (0, true)
  else if n < 113 then (if n = 111 then 4 else 0, false)
  else if n < 116 then (1, false)
  else if n < 120 then (0, false)
  else if n < 128 then (n - 120, false)
  else if n < 136 then (0, true)
  else (0, false)

/-- N, UNIT, W, the minor mask and the severe mask of fault class c at reset (Table 19.3). -/
def fcReset (c : Nat) : Nat × Nat × Nat × Nat × Nat :=
  match c with
  | 0 => (16, 2, 1, 0, 0x01)
  | 1 => (1, 0, 0, 0, 0x41)
  | 2 => (4, 1, 1, 0x01, 0x02)
  | 3 => (1, 0, 0, 0, 0x01)
  | 4 => (1, 0, 0, 0, 0x01)
  | 5 => (2, 2, 10, 0x01, 0x02)
  | 6 => (3, 2, 1, 0x01, 0x02)
  | 7 => (1, 0, 0, 0, 0x02)
  | 8 => (4, 2, 10, 0x01, 0x41)
  | 9 => (1, 0, 0, 0, 0x41)
  | 10 => (1, 0, 0, 0, 0x02)
  | 11 => (4, 2, 1, 0x01, 0x02)
  | 12 => (1, 0, 0, 0, 0x20)
  | 13 => (1, 0, 0, 0, 0x41)
  | 14 => (1, 0, 0, 0, 0x01)
  | 15 => (2, 2, 1, 0x01, 0x08)
  | 16 => (1, 0, 0, 0, 0x10)
  | 17 => (1, 0, 0, 0, 0x20)
  | 18 => (1, 0, 0, 0, 0x01)
  | _ => (0, 0, 0, 0, 0)

/-- Registers whose reset word the spec gives per page or per instance. -/
def resetOverride (p : PageInfo) (off : Nat) : Option Word :=
  if off = 0x000 then some (pgIdWord p)
  else if off = 0x004 then some (pgCapWord p)
  else match p.kind with
    | .enc => if off = 0x300 then some 0x45010017#32 else none
    | .dec => if off = 0x300 then some 0x44010017#32 else none
    | .event =>
      if 0x400 ≤ off ∧ off < 0x800 then
        let r := evtReset ((off - 0x400) / 4)
        some (BitVec.ofNat 32 ((if r.2 then 2 ^ 31 + 8 else 0) + 2 ^ 24 + r.1 * 2 ^ 16))
      else none
    | .fault0 =>
      if 0x100 ≤ off ∧ off < 0x200 then
        let r := fcReset ((off - 0x100) / 8)
        some (BitVec.ofNat 32
          (if off % 8 = 0 then r.1 * 2 ^ 24 + r.2.1 * 2 ^ 16 + r.2.2.1 else r.2.2.2.2 * 2 ^ 16 + r.2.2.2.1))
      else none
    | _ => none

/-- The reset word the field rows give. -/
def rowsReset (rows : List FieldRow) : Word :=
  BitVec.ofNat 32 (rows.foldl (fun a r => a ||| r.reset <<< r.lo) 0)

/-- The bits that hardware or a write may change: the fields that are not of class ID. Reserved bits read 0 (R22)
and fields of class ID never change (Table 2.4), so neither is among them. -/
def rowsMask (rows : List FieldRow) : Word :=
  rows.foldl (fun a r => if r.cls = .id then a else a ||| r.mask) 0

/-- The value the register at address `a` has after a reset that clears it (R25); 0 where no register lies. -/
def resetWord (a : Nat) : Word :=
  match pageInfo (a / 4096) with
  | none => 0
  | some p =>
    match resetOverride p (a % 4096) with
    | some w => w
    | none => rowsReset (regFields p.kind (a % 4096))

/-- The bits of the register at address `a` that can change. -/
def wrMask (a : Nat) : Word :=
  match pageInfo (a / 4096) with
  | none => 0
  | some p => rowsMask (regFields p.kind (a % 4096))

/-- The bits of the register at `a` whose fields are of class `c`. -/
def classMask (c : Cls) (a : Nat) : Word :=
  match pageInfo (a / 4096) with
  | none => 0
  | some p => (regFields p.kind (a % 4096)).foldl (fun m r => if r.cls = c then m ||| r.mask else m) 0

/-- The first page of the block whose instance `i` has this kind of page (Table 2.2). -/
def PageKind.page (k : PageKind) (i : Nat) : Nat :=
  match k with
  | .device => 0 | .lehrPower => 1 | .lehrSupply => 2 | .config => 3
  | .fault0 => 4 | .fault1 => 5 | .fault2 => 6 | .fault3 => 7
  | .time => 8 | .net => 9 + i | .event => 0xB | .hostport => 0xC
  | .gaffer => 0x10 + i
  | .cullet0 => 0x18 | .cullet1 => 0x19 | .cullet2 => 0x1A | .cullet3 => 0x1B
  | .marver0 => 0x1C | .marver1 => 0x1D | .marver2 => 0x1E | .marver3 => 0x1F
  | .queue0 => 0x20 | .queueDb => 0x21 + i | .queueCh => 0x29 + i | .queueRest => 0x2B + i
  | .mag => 0x30 + i | .peer => 0x38 + i | .mem => 0x40 + i | .memctl => 0x4A
  | .proxy => 0x50 + i | .me => 0x60 + i | .gather => 0x80 + i | .enc => 0xA0 + i | .dec => 0xF0 + i

/-- The address of the register that a field row names: instance `i` of the page, register `n` of the array. -/
def fieldAddr (k : PageKind) (i : Nat) (r : FieldRow) (n : Nat) : Nat :=
  k.page i * 4096 + r.off + r.stride * n

end Sys2Proof.Machine
end

