-- ==== Sys2Proof/Machine/StateBase.lean ====
section
/-! DEFINITION. The state of the host port, the mailboxes, the device mode and take, the fault collector, the event
controller, the Gaffer controllers, and of power, reset and boot (chapters 02, 03, 12, 19, 20 and 21). What a
register holds has its home in the register store; this file holds what no register shows. -/
namespace Sys2Proof.Machine

/-- A base of (key, value) pairs and the writes made on top of it, newest first. -/
structure Overlay (α : Type) where
  base : List (Nat × α)
  log : List (Nat × α)
  deriving DecidableEq, Repr

/-- A guarded value waiting for its complement (R30); `count` is the transactions to the page so far. -/
structure GuardPend where
  page : Nat
  off : Nat
  val : Word
  count : Nat
  deriving DecidableEq, Repr

/-- Where a fetched mailbox command stands: ready to be carried out, forwarded to the admission holder (R236),
carried out and waiting for a head or a magazine (R239), or done with its status and RESULT. -/
inductive CmdStage where
  | ready
  | forwarded
  | waiting
  | done (status : Nat) (r0 r1 : Word)
  deriving DecidableEq, Repr

/-- A command fetched from a mailbox ring and not yet completed: its sixteen words, its number in order of fetch,
and its stage. -/
structure MbxCmd where
  id : Nat
  words : List Word
  stage : CmdStage
  deriving DecidableEq, Repr

/-- What a mailbox holds beside its registers: the commands fetched and uncompleted, the next completion slot and
the PHASE it will be written with (R36), and the completion entries written and not yet returned by the host. -/
structure Mailbox where
  cmds : List MbxCmd
  cqTail : Nat
  phase : Bool
  unreturned : Nat
  deriving DecidableEq, Repr

/-- The host port (chapter 02). `rdata` is the data of the last read a command performed, `rPoison` its EP bit and
`rUr` its Unsupported Request status; `bufs` the buffers of BUF_ASSIGN as (address, bytes);
`modeReq` the mode request being handled (R46); `latched` the upper words that reads of 64-bit counters latched, by register address; `lockWritten` the blocks whose PG_LOCK was
written since a reset that clears it (R33). -/
structure HostPort where
  d3hot : Bool
  guards : List GuardPend
  mailboxes : List (Nat × Mailbox)
  nextCmd : Nat
  fwdQueue : List Nat
  mirrorSeq : Nat
  rdata : List Word
  rPoison : Bool
  rUr : Bool
  bufs : List (Nat × Nat)
  modeReq : Option Nat
  latched : List (Nat × Word)
  lockWritten : List Nat
  deriving DecidableEq, Repr

/-- Stream states (Table 3.3). -/
inductive SState where
  | idle | armed | running | draining | closed | faulted
  deriving DecidableEq, Repr

/-- What a stream reserves from its arming until it reaches CLOSED or FAULTED (R53): its quadrant, its encode, inter
encode, decode and inter decode loads in samples per second, its placement as (cluster, tile columns) runs in
column order (R54), its tile contexts, its bytes of the reference pool (R156), its proxy pixels per second, and the
magazine port it writes or reads, and the power domains that serve it (R55). -/
structure Resv where
  quad : Nat
  enc : Nat
  inter : Nat
  place : List (Nat × Nat)
  tctx : Nat
  pool : Nat
  dec : Nat
  interDec : Nat
  pix : Nat
  port : Nat
  doms : List Nat
  deriving DecidableEq, Repr

/-- A stream slot (R49): state, close reason (0 while open), the close reason that waits for the next picture boundary
(R58, Table 19.4), the last admission code, priority, the order of its arming, its serving controller (R235), the mark
of a stream that belongs to the take, and its reservation. -/
structure Slot where
  state : SState
  reason : Nat
  closePend : Option Nat
  check : Nat
  prio : Nat
  armSeq : Nat
  ctl : Nat
  inTake : Bool
  resv : Resv
  deriving DecidableEq, Repr

/-- The take that runs or stops (R56, R57); times are in nanoseconds of the time base. -/
structure Take where
  id : Nat
  tStart : Nat
  tStop : Option Nat
  slots : List Nat
  deriving DecidableEq, Repr

/-- Boot (Table 20.10): before the sequencer ends, waiting for the image, applying records, training channels,
running, and stopped without a valid slot (R390). -/
inductive BootPhase where
  | sequencing | image | records | training | running | noSlot | railFail | inReset
  deriving DecidableEq, Repr

/-- One configuration record as the loader reads it (R387). -/
structure CfgRec where
  op : Nat
  off : Nat
  val : Word
  mask : Word
  timeoutUs : Nat
  deriving DecidableEq, Repr

/-- The boot loader: records still to apply, every record of the loaded image (kept for R388), whether the boot
follows a host reset, during which most pages do not answer (R382), and the version of the firmware loaded. -/
structure Boot where
  phase : BootPhase
  recs : List CfgRec
  image : List CfgRec
  hostReset : Bool
  fwVer : Nat
  deriving DecidableEq, Repr

/-- The power-up sequencer (R378): the enables driven, rails above their warning level, attempts failed. -/
structure Sequencer where
  en0 : Bool
  en1 : Bool
  en2 : Bool
  good : List Nat
  fails : Nat
  waiting : Bool
  lehrFail : Bool
  deriving DecidableEq, Repr

/-- One head trigger schedule (R333): `k` is the next trigger. -/
structure TrigSched where
  mask : Nat
  tFirst : Nat
  num : Nat
  den : Nat
  picFirst : Nat
  count : Nat
  k : Nat
  deriving DecidableEq, Repr

/-- The time base (R321, R322): FREE in ticks, OFFSET and the rate in units of 2^-32 ns, FREE at the last rate change,
whether the 156.25 MHz reference runs, the latched words of TM_NOW and TM_FREE live in their registers; the stamp
FIFO with its sequence (R327), the trigger schedules by head (R333), the UTC offset of the grandmaster, and the last rise of
TIME_PPS_OUT as (FREE, width in µs). -/
structure TimeSt where
  free : Nat
  offset : Int
  freeR : Nat
  rate : Nat
  refPresent : Bool
  stamps : List (List Word)
  stampSeq : Nat
  trigs : List (Nat × TrigSched)
  gmUtc : Option Nat
  pps : Option (Nat × Nat)
  deriving DecidableEq, Repr

/-- A domain on its way to retention (1) or off (2), or back to on (0) from off or from retention (R373); `since` is FREE
at the request, and `wake` the wake source that waits for the entry to complete (R376). -/
structure DomMove where
  dom : Nat
  toState : Nat
  fromOff : Bool
  since : Nat
  wake : Option Nat
  deriving DecidableEq, Repr

/-- Lehr (chapter 20). `dips` lists the rails now below
their warning level, with the FREE reading at which each fell; `lastDip` the beginning of the previous dip. -/
structure Lehr where
  entering : List DomMove
  exiting : List DomMove
  timer : Option Nat
  dips : List (Nat × Nat)
  lastDip : Option Nat
  seq : Sequencer
  gangId : Nat
  gangSzM1 : Nat
  pinLow : Bool
  groupMembers : List Nat
  deriving DecidableEq, Repr

/-- The record of one fault source (Table 19.2), the start of its window on FREE, whether its level cause holds and
whether its rails are equal (R354). A source not listed is at rest with all counts zero. -/
structure FaultRec where
  state : Bool
  path : Bool
  conseq : Bool
  count : Nat
  total : Nat
  dw2 : Word
  addr : Nat
  time : Nat
  react : Nat
  winStart : Nat
  level : Bool
  railsEq : Bool
  captured : Bool
  deriving DecidableEq, Repr

/-- A quarantine window (R364): the block reset (its block index, or a quadrant), and whether the reset itself has
completed, after which 50 µs pass. -/
structure QuarWin where
  block : Nat
  quadrant : Option Nat
  resetDone : Bool
  deriving DecidableEq, Repr

/-- An event of a source on its way to the collector within one command. -/
structure FaultEvent where
  src : Nat
  mst : Nat
  access : Nat
  detail : Nat
  addr : Nat
  path : Bool
  deriving DecidableEq, Repr

/-- The fault collector (chapter 19). `fifo` holds the record packets, oldest first (R358); `holdAt` is FREE when a severe SAFE_HOLD was
last applied, for what else comes in that cycle (Table 19.8 case 3). -/
structure FaultSt where
  recs : List (Nat × FaultRec)
  raised : List FaultEvent
  fifo : List (List Word)
  fifoSeq : Nat
  windows : List QuarWin
  restoring : List Nat
  heldDown : List Nat
  holdAt : Option Nat
  deriving DecidableEq, Repr

/-- An event source (R241): the level it holds, the level last filtered, the target whose view still shows it while
a retarget waits for a scan boundary (R242), and when it became pending. -/
structure EvtSrc where
  level : Bool
  oldTarget : Option Nat
  since : Nat
  deriving DecidableEq, Repr

/-- A Gaffer controller (R243, R244): a handler running, the FREE reading of its last scan boundary, the mailbox
served last. -/
structure Gaffer where
  busy : Bool
  lastScan : Nat
  lastMbx : Nat
  deriving DecidableEq, Repr

/-- The board test of DEV_TEST (R408): kind, index and loop of the test that runs. -/
structure BoardTest where
  kind : Nat
  index : Nat
  loop : Nat
  deriving DecidableEq, Repr

/-- The JTAG instruction register's instruction (R409). -/
inductive JtagIr where
  | bypass | idcode | samplePreload | extest | clamp | highz
  deriving DecidableEq, Repr

/-- JTAG (R409): the instruction, the boundary-scan register, and the 32-bit data register that IDCODE loads. -/
structure Jtag where
  ir : JtagIr
  bsr : List Bool
  dr : Word
  drivesPins : Bool
  floatsPins : Bool
  deriving DecidableEq, Repr

end Sys2Proof.Machine
end

