-- ==== Sys2Proof/Machine/Sparse.lean ====
section
/-! DEFINITION. Sparse tables: lists of (key, value) pairs in one canonical form, keys strictly rising and no entry
equal to what an unlisted key reads as; and overlays, which collect the writes of one command on top of a table. -/
namespace Sys2Proof.Machine

/-- The value at a key: the first entry with that key, or the default. -/
def Sparse.get {α : Type} (d : Nat → α) : List (Nat × α) → Nat → α
  | [], k => d k
  | (a, v) :: m, k => if a = k then v else Sparse.get d m k

/-- Insert or replace an entry, in place by key. -/
def Sparse.ins {α : Type} (k : Nat) (v : α) : List (Nat × α) → List (Nat × α)
  | [] => [(k, v)]
  | (a, w) :: m => if k < a then (k, v) :: (a, w) :: m else if k = a then (k, v) :: m else (a, w) :: Sparse.ins k v m

/-- Remove every entry of a key. -/
def Sparse.del {α : Type} (k : Nat) : List (Nat × α) → List (Nat × α)
  | [] => []
  | (a, w) :: m => if a = k then Sparse.del k m else (a, w) :: Sparse.del k m

/-- Write a key: writing the value an unlisted key reads as removes the entry. -/
def Sparse.set {α : Type} [DecidableEq α] (d : Nat → α) (m : List (Nat × α)) (k : Nat) (v : α) : List (Nat × α) :=
  if v = d k then Sparse.del k m else Sparse.ins k v m

/-- Every key of the table is above `k`, keys rise, and no entry holds its default. -/
def Sparse.wfFrom {α : Type} [DecidableEq α] (d : Nat → α) : Nat → List (Nat × α) → Bool
  | _, [] => true
  | k, (a, v) :: m => decide (k ≤ a ∧ v ≠ d a) && Sparse.wfFrom d (a + 1) m

/-- The canonical form of a table. -/
def Sparse.wf {α : Type} [DecidableEq α] (d : Nat → α) (m : List (Nat × α)) : Bool := Sparse.wfFrom d 0 m

/-- An overlay with no writes. -/
def Overlay.start {α : Type} (m : List (Nat × α)) : Overlay α := ⟨m, []⟩

/-- Read through an overlay: its newest write, else the table below. -/
def Overlay.get {α : Type} (d : Nat → α) (o : Overlay α) (k : Nat) : α :=
  match o.log.lookup k with
  | some v => v
  | none => Sparse.get d o.base k

/-- Write into an overlay. -/
def Overlay.put {α : Type} (o : Overlay α) (k : Nat) (v : α) : Overlay α := { o with log := (k, v) :: o.log }

/-- Apply the writes of a log, newest first in the list, to a table. -/
def Sparse.apply {α : Type} [DecidableEq α] (d : Nat → α) (m : List (Nat × α)) (log : List (Nat × α)) : List (Nat × α) :=
  log.reverse.foldl (fun m kv => Sparse.set d m kv.1 kv.2) m

/-- Write the default to every key of the table below: what is read afterwards is the default throughout. -/
def Overlay.clear {α : Type} (d : Nat → α) (o : Overlay α) : Overlay α := { o with log := o.base.map fun kv => (kv.1, d kv.1) }

/-- The entry of a keyed table whose unlisted keys all read as `d`. -/
def tget {α : Type} (d : α) (m : List (Nat × α)) (k : Nat) : α := Sparse.get (fun _ => d) m k

/-- Write an entry of a keyed table. -/
def tset {α : Type} (m : List (Nat × α)) (k : Nat) (v : α) : List (Nat × α) := Sparse.ins k v m

end Sys2Proof.Machine
end

