-- ==== Sys2Proof/Machine/StateMag.lean ====
section
/-! DEFINITION. The state of rings, DMA channels and Cullet (chapter 13), of the magazine ports (chapter 14) and of the
layout of a mounted magazine (chapter 15). -/
namespace Sys2Proof.Machine

/-- An entry of a stream work ring (R248). -/
structure RingEnt where
  handle : Nat
  off : Nat
  len : Nat
  typ : Nat
  pic : Nat
  deriving DecidableEq, Repr

/-- A ring (Table 13.2). Times are values of FREE; `te` is the eligible time in 2^-16 µs; `active` marks a PACED ring whose
slot was reached; `abandoned` the tag of a holder whose lease expired (R252); `ents` the entries a stream work ring holds; `hist` DELAY
and DEPTH, newest first (R259); `offered` how far the descriptor in progress has come. -/
structure Ring where
  base : Nat
  en : Bool
  leased : Bool
  hostMem : Bool
  paced : Bool
  output : Nat
  sizeLog2 : Nat
  owner : Nat
  tail : Nat
  head : Nat
  leaseOwner : Nat
  leaseAt : Nat
  abandoned : List Nat
  deficit : Int
  quantum : Nat
  carryUs : Nat
  parked : Bool
  inCal : Bool
  slot : Nat
  te : Nat
  active : Bool
  dsUsed : Nat
  ents : List RingEnt
  hist : List (Nat × Nat)
  lastHead : Nat
  nonEmptyAt : Nat
  deriving DecidableEq, Repr

/-- A circular channel (R255): a burst runs, and one further assertion is held. -/
structure Chan where
  running : Bool
  held : Bool
  deriving DecidableEq, Repr

/-- A chunk in use (R260 to R262): the party charged, whether to a quota, and the class. -/
structure Chunk where
  owner : Nat
  quota : Bool
  cls : Nat
  deriving DecidableEq, Repr

/-- Cullet: chunks in use by handle, hold entries (handle, tag), and the quotas granted (tag, chunks). -/
structure Cullet where
  chunks : List (Nat × Chunk)
  holds : List (Nat × Nat)
  quotas : List (Nat × Nat)
  deriving DecidableEq, Repr

/-- A superblock as a commit writes it (Table 15.2): its sequence, AU_NEXT, journal tail and its sequence, stream numbers
assigned, and the take table as (DIR_LBA, PIECES, TAKE_ID, STATE). -/
structure Super where
  seq : Nat
  auNext : Nat
  tail : Nat
  jseq : Nat
  streams : Nat
  table : List (Nat × Nat × Nat × Nat)
  deriving DecidableEq, Repr

/-- A structure the firmware writes to a magazine (R291 to R294, R300), in the order queued: a journal slot with its sequence
and entries, a map piece, a directory piece, a Flush, the copies B0 and B1, copy A, the mark after which the port is sealed. -/
inductive WmlOp where
  | journal (slot seq : Nat) (entries : List (List Byte))
  | map (lba snum prev : Nat) (entries : List (List Byte)) (seq : Nat)
  | dir (lba take next : Nat) (entries : List (List Byte)) (seq : Nat)
  | flush
  | superB (s : Super)
  | superA (s : Super)
  | seal
  deriving DecidableEq, Repr

/-- A stream of a volume (Tables 15.4 and 15.5). `extents` are its committed extents as (AU, START_ADDR), `alloc` the end of
the addresses that AUs were taken for, `ents` the EXTENT, INDEX and FILL entries since its last map piece; a stream hosted for a
partner has the partner's `device`. -/
structure VolStream where
  snum : Nat
  take : Nat
  slot : Nat
  serial : Nat
  region : Nat
  firstPic : Nat
  lastPic : Nat
  startAddr : Nat
  endAddr : Nat
  state : Nat
  reason : Nat
  extents : List (Nat × Nat)
  index : List (Nat × Nat × Nat)
  fills : List Nat
  alloc : Nat
  ents : List (List Byte)
  mapLba : Nat
  prevVol : Nat
  nextVol : Nat
  deriving DecidableEq, Repr

/-- A take of a volume. -/
structure VolTake where
  num : Nat
  takeId : Nat
  device : Nat
  tStart : Nat
  tEnd : Nat
  state : Nat
  dirLba : Nat
  pieces : Nat
  changed : Bool
  deriving DecidableEq, Repr

/-- The volume of a mounted magazine: the superblock's figures as they stand for the next commit, the journal slots in
use, entries that wait with FREE at the first of them, metadata AUs, takes and streams, the structures still to be
written, the sequence of the superblock last planned; `checkpoint` that one is under way, `full` that the port's streams were
told to move, `recovered` that the recovery of R306 is committed. -/
structure Vol where
  id : Nat
  nUse : Nat
  nAu : Nat
  auNext : Nat
  seq : Nat
  tInit : Nat
  jrnTail : Nat
  jrnSeq : Nat
  jrnNext : Nat
  jrnNextSeq : Nat
  waiting : List (List Byte)
  waitAt : Nat
  metaAu : Option Nat
  metaUsed : Nat
  takes : List VolTake
  streams : List VolStream
  ops : List WmlOp
  checkpoint : Bool
  full : Bool
  recovered : Bool
  deriving DecidableEq, Repr

/-- An admin command of Table 14.5, with the mailbox and command that wait for it. -/
structure AdminOp where
  opcode : Nat
  arg : Nat
  purpose : Nat
  cmd : Option (Nat × Nat)
  host : Nat
  len : Nat
  deriving DecidableEq, Repr

/-- What an outstanding I/O command carries: a structure of the volume, the read of a superblock or piece at mount, a
read of a reading stream at an address, a Dataset Management, a piece whose stream has ended, or a read
served to a partner. Stream pieces are kept with their
stream. -/
inductive IoKind where
  | wml (op : WmlOp)
  | mount (lba blocks : Nat)
  | read (slot addr handle : Nat)
  | dsm
  | orphan (handle : Nat)
  | serve (peer recStream addr handle : Nat)
  deriving DecidableEq, Repr

/-- An outstanding I/O command. -/
structure IoCmd where
  pair : Nat
  cid : Nat
  kind : IoKind
  issuedAt : Nat
  retried : Bool
  deriving DecidableEq, Repr

/-- Where a recovery (R305, R306) stands. -/
inductive RecStage where
  | supers | dirs | maps | journal | scan | done
  deriving DecidableEq, Repr

/-- The recovery of a mounted magazine: the superblock copies read, the chains still to read as (LBA, owner), the journal
slot expected, the streams still to scan with the address, picture and bytes in hand. -/
structure Recovery where
  stage : RecStage
  supA : List Byte
  chains : List (Nat × Nat)
  jSlot : Nat
  jSeq : Nat
  scan : List Nat
  addr : Nat
  pic : Nat
  lastPic : Nat
  endAddr : Nat
  buf : List Byte
  bufAddr : Nat
  tries : Nat
  jumped : Bool
  inPic : Bool
  row : Nat
  deriving DecidableEq, Repr

/-- A magazine port: pins driven, presence since, the steps of a mount, the window of the measured pace (R278), the admin queue, the queue pairs granted, outstanding I/O, the volume, the
recovery, mailbox commands that wait on it, and its part in an exchange. -/
structure MagPort where
  pwren : Bool
  perstN : Bool
  presentAt : Option Nat
  init : Bool
  mqes : Nat
  admin : List AdminOp
  pairs : Nat
  ios : List IoCmd
  vol : Option Vol
  rec_ : Option Recovery
  vwc : Bool
  mdts : Nat
  mpsmin : Nat
  waiters : List (Nat × Nat × Nat)
  stopped : Bool
  retrying : Bool
  measured : Option Nat
  confBytes : Nat
  waitMs : Nat
  blocked : Nat
  nsze : Nat
  swapTo : Option Nat
  swapCmd : Option (Nat × Nat)
  swapped : Nat
  shortAt : Option Nat
  deriving DecidableEq, Repr

/-- An exchange that runs (R282): the port it leaves, the streams, the target (0 to 7 a port, 8 to 10 a partner), the
targets it may not take, FREE when the wait began, and whether an offer is awaited. -/
structure Exchange where
  from_ : Nat
  slots : List Nat
  target : Option Nat
  cause : Nat
  since : Nat
  offers : Bool
  deriving DecidableEq, Repr

def Ring.rest : Ring :=
  { base := 0, en := false, leased := false, hostMem := false, paced := false, output := 0, sizeLog2 := 4, owner := 0xFFFF,
    tail := 0, head := 0, leaseOwner := 0xFFFF, leaseAt := 0, abandoned := [], deficit := 0, quantum := 0x20, carryUs := 0, parked := false,
    inCal := false, slot := 0, te := 0, active := false, dsUsed := 0, ents := [], hist := [], lastHead := 0, nonEmptyAt := 0 }
def Chan.rest : Chan := ⟨false, false⟩
def Cullet.rest : Cullet := ⟨[], [], []⟩
def MagPort.rest : MagPort :=
  { pwren := false, perstN := false, presentAt := none, init := false, mqes := 0, admin := [], pairs := 0, ios := [],
    vol := none, rec_ := none, vwc := false, mdts := 0, mpsmin := 0, waiters := [], stopped := false, retrying := false, measured := none,
    confBytes := 0, waitMs := 0, blocked := 0, nsze := 0, swapTo := none, swapCmd := none, swapped := 0, shortAt := none }

end Sys2Proof.Machine
end

