-- ==== Sys2Proof/Machine/Codec.lean ====
section
/-! DEFINITION. The WRC coding model (chapter 06): geometry of tiles, planes and their lifting, intra prediction,
transform, quantisation, clamps and guard values. Values are exact integers, narrowed only by the clamps of
Table 6.6; `/` on integers is floor division by a positive divisor. -/
namespace Sys2Proof.Machine

/-- A region's geometry (Table 5.1): layout, phase, depth, width and height. -/
structure Geo where
  layout : Nat
  phase : Nat
  d : Nat
  w : Nat
  h : Nat
  deriving DecidableEq, Repr

/-- Tile height in lines, h_t (Table 5.4). -/
def Geo.hT (g : Geo) : Nat := if g.layout = 2 then 128 else 256
/-- Tile width in samples (Table 5.4). -/
def Geo.tW (g : Geo) : Nat := if g.layout = 2 then 768 else 512
/-- Tile columns (Table 5.4). -/
def Geo.tcols (g : Geo) : Nat := cdiv g.w g.tW
/-- Tile rows (Table 5.4). -/
def Geo.trows (g : Geo) : Nat := cdiv g.h g.hT
/-- Real samples across tile column c (R94). -/
def Geo.wReal (g : Geo) (c : Nat) : Nat := min g.tW (g.w - c * g.tW)
/-- Real lines of tile row r (R94). -/
def Geo.hReal (g : Geo) (r : Nat) : Nat := min g.hT (g.h - r * g.hT)
/-- Samples of a cell across, and lines of a cell. -/
def Geo.cellW (g : Geo) : Nat := if g.layout = 2 then 3 else 2
def Geo.cellH (g : Geo) : Nat := if g.layout = 2 then 1 else 2
/-- Planes of a cell (R110). -/
def Geo.planes (g : Geo) : Nat := if g.layout = 2 then 3 else 4
/-- Padded cells across a tile, Wc (R94, R111). -/
def Geo.wc (g : Geo) (c : Nat) : Nat := roundUp (g.wReal c / g.cellW) 8
/-- Padded cells down a tile, Hc. -/
def Geo.hc (g : Geo) (r : Nat) : Nat := roundUp (g.hReal r / g.cellH) 8
/-- The picture's real cells across and down (R145). -/
def Geo.picCw (g : Geo) : Nat := g.w / g.cellW
def Geo.picCh (g : Geo) : Nat := g.h / g.cellH
/-- Real samples of tile row r. -/
def Geo.rowSamples (g : Geo) (r : Nat) : Nat := g.w * g.hReal r
/-- Samples of a picture. -/
def Geo.samples (g : Geo) : Nat := g.w * g.h
/-- Strips of tile row r: 8-cell block rows (R198). -/
def Geo.strips (g : Geo) (r : Nat) : Nat := g.hc r / 8

/-- Is plane p signed (Table 6.2)? -/
def Geo.signed (g : Geo) (p : Nat) : Bool :=
  if g.layout = 0 then p ≠ 1 else if g.layout = 1 then false else p ≠ 0

/-- A plane's range and mid value (R110, Table 6.2). -/
def Geo.lo (g : Geo) (p : Nat) : Int := if g.signed p then -(2 ^ g.d - 1) else 0
def Geo.hi (g : Geo) (_p : Nat) : Int := 2 ^ g.d - 1
def Geo.mid (g : Geo) (p : Nat) : Int := if g.signed p then 0 else 2 ^ (g.d - 1)

/-- Clamp to a range. -/
def clampI (lo hi v : Int) : Int := min (max v lo) hi

/-- rnd(a, s) of R117: shift with rounding toward plus infinity at the half. -/
def rnd (a : Int) (s : Nat) : Int := (a + 2 ^ (s - 1)) / 2 ^ s

/-- Sign of an integer as −1, 0 or 1. -/
def sgn (a : Int) : Int := if a < 0 then -1 else if a = 0 then 0 else 1

/-- The delivered position of canonical position (x, y) (R86, Table 5.2): phase 1 swaps columns, 2 swaps lines,
3 both. The permutation is its own inverse. -/
def Geo.permute (g : Geo) (x y : Nat) : Nat × Nat :=
  if g.layout ≠ 0 then (x, y)
  else
    (if g.phase % 2 = 1 then (if x % 2 = 0 then x + 1 else x - 1) else x,
     if g.phase / 2 % 2 = 1 then (if y % 2 = 0 then y + 1 else y - 1) else y)

/-- The canonical position class k of canonical coordinates (R110). -/
def Geo.posClass (g : Geo) (x y : Nat) : Nat := if g.layout = 2 then x % 3 else (y % 2) * 2 + x % 2

/-- Forward decorrelation of a cell's canonical samples (R108, R109). -/
def Geo.lift (g : Geo) (s : List Int) : List Int :=
  match g.layout, s with
  | 0, [r, g1, g2, b] =>
    let gd := g1 - g2
    let gm := g2 + gd / 2
    [gd, gm, r - gm, b - gm]
  | 2, [p0, p1, p2] => [p1, p0 - p1, p2 - p1]
  | _, s => s

/-- Inverse decorrelation of a cell's planes, without the clamp (R108, R109). -/
def Geo.unlift (g : Geo) (p : List Int) : List Int :=
  match g.layout, p with
  | 0, [gd, gm, rd, bd] =>
    let g2 := gm - gd / 2
    [rd + gm, gd + g2, g2, bd + gm]
  | 2, [q0, q1, q2] => [q1 + q0, q0, q2 + q0]
  | _, p => p

/-- A tile's place in its picture. -/
structure TilePos where
  r : Nat
  c : Nat
  deriving DecidableEq, Repr

/-- The canonical coordinates within the tile of sample j of cell (cx, cy), with padding by the nearest real cell to
the left and above (R94). -/
def Geo.cellSample (g : Geo) (t : TilePos) (cx cy j : Nat) : Nat × Nat :=
  let cx := min cx (g.wReal t.c / g.cellW - 1)
  let cy := min cy (g.hReal t.r / g.cellH - 1)
  if g.layout = 2 then (cx * 3 + j, cy) else (cx * 2 + j % 2, cy * 2 + j / 2)

/-- A grid of integers in raster order. -/
structure Grid where
  w : Nat
  a : Array Int
  deriving DecidableEq, Repr

/-- The value at (x, y); 0 outside. -/
def Grid.get (g : Grid) (x y : Nat) : Int := g.a.getD (y * g.w + x) 0

/-- The planes of a tile from its canonical samples `s x y` (R108, R109, R94). -/
def Geo.tilePlanes (g : Geo) (t : TilePos) (s : Nat → Nat → Int) : List Grid :=
  let wc := g.wc t.c
  let cells := (List.range (wc * g.hc t.r)).map fun i =>
    g.lift ((List.range g.planes).map fun j =>
      let q := g.cellSample t (i % wc) (i / wc) j
      s q.1 q.2)
  (List.range g.planes).map fun p => ⟨wc, (cells.map fun c => c.getD p 0).toArray⟩

/-- The transform-layer samples of a tile from its reconstructed planes, raster over its real samples, and the number
of samples the clamp changed (R105 step 2). -/
def Geo.tileSamples (g : Geo) (t : TilePos) (pl : List Grid) : Array Int × Nat :=
  let w := g.wReal t.c
  let vals := (List.range (w * g.hReal t.r)).map fun i =>
    let x := i % w
    let y := i / w
    let cell := g.unlift (pl.map fun q => q.get (x / g.cellW) (y / g.cellH))
    cell.getD (g.posClass x y) 0
  let cl := vals.map (clampI 0 (2 ^ g.d - 1))
  (cl.toArray, (vals.zip cl).countP fun p => p.1 ≠ p.2)

/-! ## Intra prediction (R112 to R114) -/

/-- The neighbours of a block: L from −1 to 7 and T from −1 to 15, after substitution (R113). -/
structure Nbrs where
  l : List Int
  t : List Int
  deriving DecidableEq, Repr

/-- L[i], with L[−1] = TL. -/
def Nbrs.L (n : Nbrs) (i : Int) : Int := n.l.getD (i + 1).toNat 0
/-- T[i], with T[−1] = TL; an index beyond 15 takes T[15]. -/
def Nbrs.T (n : Nbrs) (i : Int) : Int := n.t.getD (min (i + 1) 16).toNat 0

/-- Neighbours of block (bx, by) in a plane's reconstruction (R112, R113). -/
def neighbours (rec : Grid) (mid : Int) (bw bx byy : Nat) : Nbrs :=
  let x0 := 8 * bx
  let y0 := 8 * byy
  let left := (List.range 8).map fun y => rec.get (x0 - 1) (y0 + y)
  let top := (List.range 8).map fun x => rec.get (x0 + x) (y0 - 1)
  if bx = 0 ∧ byy = 0 then ⟨List.replicate 9 mid, List.replicate 17 mid⟩
  else if byy = 0 then
    let l0 := left.getD 0 0
    ⟨l0 :: left, List.replicate 17 l0⟩
  else
    let topRight :=
      if bx + 1 < bw then (List.range 8).map fun x => rec.get (x0 + 8 + x) (y0 - 1)
      else List.replicate 8 (top.getD 7 0)
    if bx = 0 then
      let t0 := top.getD 0 0
      ⟨List.replicate 9 t0, t0 :: (top ++ topRight)⟩
    else
      let tl := rec.get (x0 - 1) (y0 - 1)
      ⟨tl :: left, tl :: (top ++ topRight)⟩

/-- f(a, b, c) of R114. -/
def f3 (a b c : Int) : Int := (a + 2 * b + c + 2) / 4

/-- The median of three. -/
def median3 (a b c : Int) : Int := max (min a b) (min (max a b) c)

/-- Intra mode m at (x, y) (R114, Table 6.3). -/
def predIntra (m : Nat) (n : Nbrs) (x y : Int) : Int :=
  match m with
  | 0 => ((List.range 8).foldl (fun (a : Int) (i : Nat) => a + n.L (i : Int) + n.T (i : Int)) 8) / 16
  | 1 => n.L y
  | 2 => n.T x
  | 3 => median3 (n.L y) (n.T x) (n.L y + n.T x - n.T (-1))
  | 4 => f3 (n.T (x + y)) (n.T (x + y + 1)) (n.T (x + y + 2))
  | 5 =>
    if x > y then f3 (n.T (x - y - 2)) (n.T (x - y - 1)) (n.T (x - y))
    else if x = y then f3 (n.L 0) (n.T (-1)) (n.T 0)
    else f3 (n.L (y - x - 2)) (n.L (y - x - 1)) (n.L (y - x))
  | 6 =>
    let h := 2 * y - x - 1
    if h ≥ 0 ∧ h % 2 = 0 then n.L (h / 2)
    else if h ≥ -1 then (n.L ((h - 1) / 2) + n.L ((h + 1) / 2) + 1) / 2
    else n.T (x - 2 * y - 2)
  | _ =>
    let h := 2 * x - y - 1
    if h ≥ 0 ∧ h % 2 = 0 then n.T (h / 2)
    else if h ≥ -1 then (n.T ((h - 1) / 2) + n.T ((h + 1) / 2) + 1) / 2
    else n.L (y - 2 * x - 2)

/-- A block's 64 values in raster order from a function of (x, y). -/
def blockOf (f : Nat → Nat → Int) : List Int := (List.range 64).map fun i => f (i % 8) (i / 8)

/-- The intra prediction of a whole block. -/
def predBlock (m : Nat) (n : Nbrs) : List Int := blockOf fun x y => predIntra m n x y

/-! ## Transform and quantisation (R116 to R122) -/

/-- The transform matrix T[k][n] (Table 6.4), row by row. -/
def tMat : Array Int :=
  #[32, 32, 32, 32, 32, 32, 32, 32,
    44, 38, 25, 9, -9, -25, -38, -44,
    42, 17, -17, -42, -42, -17, 17, 42,
    38, -9, -44, -25, 25, 44, 9, -38,
    32, -32, -32, 32, 32, -32, -32, 32,
    25, -44, 9, 38, -38, -9, 44, -25,
    17, -42, 42, -17, -17, 42, -42, 17,
    9, -25, 38, -44, 44, -38, 25, -9]

/-- T[k][n]. -/
def tCoef (k n : Nat) : Int := tMat.getD (k * 8 + n) 0

/-- Σ over i of 0 to 7. -/
def sum8 (f : Nat → Int) : Int := (List.range 8).foldl (fun a i => a + f i) 0

/-- Entry (x, y) of a block's 64 values. -/
def at8 (b : List Int) (x y : Nat) : Int := b.getD (y * 8 + x) 0

/-- The inverse transform (R117): dequantised coefficients `cd`, at [v][u] with u across, to the unclamped residual. -/
def invTransform (cd : List Int) : List Int :=
  let z := blockOf fun u y => rnd (sum8 fun v => tCoef v y * at8 cd u v) 6
  blockOf fun x y => rnd (sum8 fun u => at8 z u y * tCoef u x) 7

/-- The forward transform (R118). -/
def fwdTransform (r : List Int) : List Int :=
  let yv := blockOf fun x k => rnd (sum8 fun y => tCoef k y * at8 r x y) 6
  blockOf fun j k => rnd (sum8 fun x => at8 yv x k * tCoef j x) 7

/-- sc[q mod 6] × 2^floor(q / 6): 64 times the step (R121, Table 6.5). -/
def qScale (q : Nat) : Int := ([64, 72, 81, 91, 102, 114].getD (q % 6) 64 : Int) * 2 ^ (q / 6)

/-- The QP of plane p (R120). -/
def qpPlane (qpBase : Nat) (pqo : List Int) (p : Nat) : Nat :=
  if qpBase = 0 then 0 else (clampI 0 63 (qpBase + pqo.getD p 0)).toNat

/-- Dequantisation (R121). -/
def dequant (q : Nat) (l : Int) : Int :=
  clampI (-(2 ^ 21)) (2 ^ 21 - 1) (sgn l * ((l.natAbs * qScale q + 32) / 64))

/-- Quantisation with rounding offset f (R122). -/
def quant (q : Nat) (f : Int) (c : Int) : Int :=
  sgn c * min ((4096 * c.natAbs + f * qScale q) / (64 * qScale q)) (2 ^ 21)

/-- floor(log2 n) for n ≥ 1. -/
def log2 (n : Nat) : Nat := Nat.log2 n

/-- The bit estimate of R412. -/
def tsEstimate (ls : List Int) : Nat :=
  ls.foldl (fun a l => if l = 0 then a else a + 2 * log2 l.natAbs + 3) 0

/-- The residual a decoder forms from a block's levels (R105 step 1, R117, R119). -/
def residual (d q : Nat) (ts : Bool) (ls : List Int) : List Int :=
  let cd := ls.map (dequant q)
  let r := if ts then cd else invTransform cd
  r.map (clampI (-(2 ^ (d + 1) - 1)) (2 ^ (d + 1) - 1))

/-! ## The guard layer (R124 to R126) -/

/-- The guard value of an error e at bound E (R124). -/
def guardValue (e : Int) (bound : Nat) : Int := sgn e * ((e.natAbs + bound : Int) / (2 * bound + 1))

/-- The output sample (R125). -/
def guardApply (d : Nat) (bound : Nat) (st q : Int) : Int := clampI 0 (2 ^ d - 1) (st + q * (2 * bound + 1))

/-- The largest guard magnitude (R126). -/
def guardLimit (d bound : Nat) : Nat := (2 ^ d - 1 + bound) / (2 * bound + 1)

/-! ## Exhausted tiles (R129, R130) -/

/-- The mean of a block of original plane values (R129). -/
def exhMean (vals : List Int) : Int := (vals.foldl (· + ·) 0 + 32) / 64

/-- The values of a block of a plane grid, in raster order. -/
def Grid.block (g : Grid) (bx byy : Nat) : List Int := blockOf fun x y => g.get (8 * bx + x) (8 * byy + y)

/-- The means of every plane and block, plane by plane, in raster order of blocks. -/
def exhMeans (pl : List Grid) (bw bh : Nat) : List (List Int) :=
  pl.map fun p => (List.range (bw * bh)).map fun i => exhMean (p.block (i % bw) (i / bw))

/-- The planes an exhausted tile gives (R130 step 2). -/
def exhPlanes (means : List (List Int)) (bw bh : Nat) : List Grid :=
  means.map fun ms =>
    let a := ms.toArray
    ⟨8 * bw, ((List.range (64 * bw * bh)).map fun i =>
      let x := i % (8 * bw)
      let y := i / (8 * bw)
      a.getD (y / 8 * bw + x / 8) 0).toArray⟩

/-- The size of an exhausted Tile Row unit, X_row(r) (R193). -/
def Geo.xRow (g : Geo) (r : Nat) : Nat :=
  (List.range g.tcols).foldl
    (fun a c => a + 4 + 4 * cdiv ((g.wc c / 8) * (g.hc r / 8) * g.planes * (g.d + 1)) 32) (32 + 4 * g.tcols)

/-- X_s: the sum of X_row over the picture (R193). -/
def Geo.xPicture (g : Geo) : Nat := (List.range g.trows).foldl (fun a r => a + g.xRow r) 0

/-! ## The loss ladder's figures (R197) -/

/-- The least q of 0 to 63 with the quantiser scale at least 64 (2e + 1), plus 2; 63 if none (R197). -/
def qpt (e : Nat) : Nat :=
  match (List.range 64).find? fun q => decide (qScale q ≥ 64 * (2 * e + 1)) with
  | some q => q + 2
  | none => 63

/-- QP_BASE of a row at bound e with QADJ (R197). -/
def qpBaseOf (e : Nat) (qadj : Int) : Nat := if e = 0 then 0 else (min 63 (max 1 ((qpt e : Int) + qadj))).toNat

/-- The bound of rung i (R197). -/
def rungE (eT eC : Nat) : Nat → Nat
  | 0 => eT
  | i + 1 => min eC (2 * rungE eT eC i + 1)

/-- The index of E_c on the ladder: the least rung at E_c, at most 13. -/
def rungTop (eT eC : Nat) : Nat := ((List.range 14).find? fun i => rungE eT eC i = eC).getD 13

end Sys2Proof.Machine
end

