-- ==== Sys2Proof/Machine/Entropy.lean ====
section
/-! DEFINITION. The entropy code (chapter 08): adaptive Rice values and their contexts, the levels of a block, the
mode of a block, the elements of a prediction unit and the guard segment, written and read. -/
namespace Sys2Proof.Machine

/-! ## Contexts (R179, Table 13) -/

/-- The contexts of a plane segment: lev[pc][nc] at 6 pc + nc, run[pc] at 36 + pc, mode at 42, mvdx at 43 and mvdy
at 44, each with A and N (Table 8.13). -/
def planeCtxs : Array (Nat × Nat) :=
  (List.replicate 36 (4, 1) ++ List.replicate 6 (8, 1) ++ [(2, 1), (4, 1), (4, 1)]).toArray

/-- The contexts of a guard segment: gap at 0 and gval at 1 (Table 8.13). -/
def guardCtxs : Array (Nat × Nat) := #[(64, 1), (1, 1)]

def ctxLev (pc nc : Nat) : Nat := 6 * pc + nc
def ctxRun (pc : Nat) : Nat := 36 + pc
def ctxMode : Nat := 42
def ctxMvdx : Nat := 43
def ctxMvdy : Nat := 44

/-- The parameter k of a context (R179). -/
def riceK (c : Nat × Nat) : Nat := ((List.range 20).find? fun k => decide (c.2 * 2 ^ k ≥ c.1)).getD 20

/-- The context after a value (R179). -/
def riceNext (c : Nat × Nat) (v : Nat) : Nat × Nat :=
  let a := c.1 + min v 65535
  let n := c.2 + 1
  if n = 64 then (a / 2, 32) else (a, n)

/-! ## Writing -/

/-- A segment being written: bits newest first, contexts, escapes written (R178). -/
structure BitW where
  bits : List Bool
  ctxs : Array (Nat × Nat)
  esc : Nat
  deriving DecidableEq, Repr

/-- `n` bits of v, most significant first. -/
def natBits (n v : Nat) : List Bool := (List.range n).map fun i => v.testBit (n - 1 - i)

/-- Append bits. -/
def BitW.put (w : BitW) (bs : List Bool) : BitW := { w with bits := bs.reverse ++ w.bits }

/-- The code of v with parameter k (R178), and whether it is an escape. -/
def riceCode (k v : Nat) : List Bool × Bool :=
  let q := v / 2 ^ k
  if q < 24 then (List.replicate q true ++ [false] ++ natBits k (v % 2 ^ k), false)
  else
    let x := v - 24 * 2 ^ k
    let n := if x = 0 then 0 else log2 x + 1
    (List.replicate 24 true ++ natBits 5 n ++ natBits n x, true)

/-- Write a value with context i. -/
def BitW.rice (w : BitW) (i v : Nat) : BitW :=
  let c := w.ctxs.getD i (1, 1)
  let p := riceCode (riceK c) v
  { w.put p.1 with ctxs := w.ctxs.setIfInBounds i (riceNext c v), esc := w.esc + (if p.2 then 1 else 0) }

/-! ## Reading -/

/-- A segment being read. -/
structure BitR where
  bits : List Bool
  ctxs : Array (Nat × Nat)
  deriving DecidableEq, Repr

/-- read_bits(n) (R177); none when the segment has too few bits. -/
def BitR.read (r : BitR) (n : Nat) : Option (Nat × BitR) :=
  if r.bits.length < n then none
  else some ((r.bits.take n).foldl (fun a b => 2 * a + (if b then 1 else 0)) 0, { r with bits := r.bits.drop n })

/-- Leading one-bits, at most `n`; a zero that ends them is taken. -/
def unary : Nat → List Bool → Option (Nat × List Bool)
  | 0, bs => some (0, bs)
  | _ + 1, [] => none
  | _ + 1, false :: t => some (0, t)
  | n + 1, true :: t => (unary n t).map fun p => (p.1 + 1, p.2)

/-- rice_read (R179). -/
def BitR.rice (r : BitR) (i : Nat) : Option (Nat × BitR) := do
  let c := r.ctxs.getD i (1, 1)
  let k := riceK c
  let (q, bs) ← unary 24 r.bits
  let r1 := { r with bits := bs }
  let (v, r2) ←
    if q < 24 then (r1.read k).map fun p => (q * 2 ^ k + p.1, p.2)
    else do
      let (n, r') ← r1.read 5
      let (x, r'') ← r'.read n
      pure (24 * 2 ^ k + x, r'')
  pure (v, { r2 with ctxs := r2.ctxs.setIfInBounds i (riceNext c v) })

/-! ## Levels of a block (R181, R182) -/

/-- The diagonal scan: d = u + v ascending; within an odd d, v ascends; within an even d, v descends (R181). -/
def diagScan : List (Nat × Nat) :=
  ((List.range 15).map fun d =>
    let vs := (List.range (d + 1)).filter fun v => decide (v ≤ 7 ∧ d - v ≤ 7)
    (if d % 2 = 1 then vs else vs.reverse).map fun v => (d - v, v)).flatten

/-- The raster scan of a transform-skip block. -/
def rasterScan : List (Nat × Nat) := (List.range 64).map fun i => (i % 8, i / 8)

/-- The scan of a block. -/
def scanOf (ts : Bool) : List (Nat × Nat) := if ts then rasterScan else diagScan

/-- The position class (R181). -/
def posClassOf (ts : Bool) (p : Nat × Nat) : Nat :=
  if ts then 5
  else
    let d := p.1 + p.2
    if d = 0 then 0 else if d ≤ 2 then 1 else if d ≤ 4 then 2 else if d ≤ 7 then 3 else 4

/-- The neighbour class of a position, from the levels known and the previous block's level at (0, 0) (R181). -/
def nbrClass (ls : Array Int) (prev00 : Nat) (p : Nat × Nat) : Nat :=
  let lev := fun (u v : Nat) => (ls.getD (v * 8 + u) 0).natAbs
  let m := if p = (0, 0) then prev00
    else (if p.1 = 0 then 0 else lev (p.1 - 1) p.2) + (if p.2 = 0 then 0 else lev p.1 (p.2 - 1))
  if m = 0 then 0 else if m = 1 then 1 else if m ≤ 3 then 2 else if m ≤ 7 then 3 else if m ≤ 15 then 4 else 5

/-- Write the levels from scan position i on; `n` bounds the positions (R182). -/
def writeLevels (ts : Bool) (ls : Array Int) (prev00 : Nat) : Nat → Nat → BitW → BitW
  | 0, _, w => w
  | n + 1, i, w =>
    if 64 ≤ i then w
    else
      let scan := scanOf ts
      let pos := fun j => scan.getD j (0, 0)
      let lev := fun j => ls.getD ((pos j).2 * 8 + (pos j).1) 0
      let mag := fun (w : BitW) (j : Nat) (sub : Nat) =>
        w.rice (ctxLev (posClassOf ts (pos j)) (nbrClass ls prev00 (pos j))) ((lev j).natAbs - sub)
      let sign := fun (w : BitW) (j : Nat) => if lev j = 0 then w else w.put [decide (lev j < 0)]
      if i > 0 ∧ nbrClass ls prev00 (pos i) = 0 then
        let r := ((List.range (64 - i)).find? fun k => lev (i + k) ≠ 0).getD (64 - i)
        let w := w.rice (ctxRun (posClassOf ts (pos i))) r
        if i + r ≥ 64 then w
        else writeLevels ts ls prev00 n (i + r + 1) (sign (mag w (i + r) 1) (i + r))
      else writeLevels ts ls prev00 n (i + 1) (sign (mag w i 0) i)

/-- Read the levels from scan position i on; none is damage (R182). -/
def readLevels (ts : Bool) (prev00 : Nat) : Nat → Nat → Array Int → BitR → Option (Array Int × BitR)
  | 0, _, ls, r => some (ls, r)
  | n + 1, i, ls, r =>
    if 64 ≤ i then some (ls, r)
    else
      let scan := scanOf ts
      let pos := fun j => scan.getD j (0, 0)
      let setLev := fun (j : Nat) (mag : Nat) (r : BitR) =>
        if mag > 2 ^ 21 then none
        else if mag = 0 then some (ls, r)
        else (r.read 1).map fun p =>
          (ls.setIfInBounds ((pos j).2 * 8 + (pos j).1) (if p.1 = 1 then -(mag : Int) else mag), p.2)
      let rdMag := fun (j : Nat) (r : BitR) =>
        r.rice (ctxLev (posClassOf ts (pos j)) (nbrClass ls prev00 (pos j)))
      if i > 0 ∧ nbrClass ls prev00 (pos i) = 0 then
        match r.rice (ctxRun (posClassOf ts (pos i))) with
        | none => none
        | some (z, r1) =>
          if z > 64 - i then none
          else if i + z = 64 then some (ls, r1)
          else match rdMag (i + z) r1 with
            | none => none
            | some (m, r2) =>
              match setLev (i + z) (m + 1) r2 with
              | none => none
              | some (ls', r3) => readLevels ts prev00 n (i + z + 1) ls' r3
      else match rdMag i r with
        | none => none
        | some (m, r1) =>
          match setLev i m r1 with
          | none => none
          | some (ls', r2) => readLevels ts prev00 n (i + 1) ls' r2

/-- Write a block's mode against its prediction mp (R182). -/
def writeMode (w : BitW) (mp mode : Nat) : BitW :=
  if mode = mp then w.put [true] else (w.put [false]).rice ctxMode (if mode < mp then mode else mode - 1)

/-- Read a block's mode (R182). -/
def readMode (r : BitR) (mp : Nat) : Option (Nat × BitR) := do
  let (same, r1) ← r.read 1
  if same = 1 then pure (mp, r1)
  else do
    let (m, r2) ← r1.rice ctxMode
    pure (if m < mp then m else m + 1, r2)

/-! ## Guard segments (R184) -/

/-- The guard segment of a tile's guard values, given as (position, value) in ascending positions; empty when there
are none. The bits of the entries are newest first. -/
def guardBits (gs : List (Nat × Int)) : BitW :=
  let w0 : BitW := ⟨(natBits 18 gs.length).reverse, guardCtxs, 0⟩
  (gs.foldl (fun (s : BitW × Nat) e =>
    let w := (s.1.rice 0 (e.1 - s.2)).rice 1 (e.2.natAbs - 1)
    (w.put [decide (e.2 < 0)], e.1 + 1)) (w0, 0)).1

/-- Read the entries of a guard segment; none is damage. -/
def readGuards (limitPos limitMag : Nat) : Nat → Nat → BitR → List (Nat × Int) → Option (List (Nat × Int) × BitR)
  | 0, _, r, acc => some (acc.reverse, r)
  | n + 1, p, r, acc =>
    match r.rice 0 with
    | none => none
    | some (gap, r1) =>
      match r1.rice 1 with
      | none => none
      | some (m, r2) =>
        match r2.read 1 with
        | none => none
        | some (s, r3) =>
          let pos := p + gap
          if pos ≥ limitPos ∨ m + 1 > limitMag then none
          else readGuards limitPos limitMag n (pos + 1) r3
            ((pos, if s = 1 then -((m : Int) + 1) else (m : Int) + 1) :: acc)

/-- At most 31 zero bits remain after the last element (R177). -/
def BitR.padOk (r : BitR) : Bool := decide (r.bits.length ≤ 31) && !r.bits.any id

end Sys2Proof.Machine
end

