-- ==== Sys2Proof/Machine/Inter.lean ====
section
/-! DEFINITION. Inter prediction (chapter 07): reference pictures, interpolation, vector candidates and the RL1024's
motion search. -/
namespace Sys2Proof.Machine

/-- The motion of a prediction unit (Table 7.3). -/
structure Pu where
  inter : Bool
  dir : Nat
  mva : Int × Int
  mvb : Int × Int
  deriving DecidableEq, Repr

/-- A tile row of a reconstructed picture: its bound code, each tile's output samples in canonical raster order, and
each tile's PU table (R150). A row whose code is 0xFFFE has no tiles. -/
structure RefRow where
  bound : Nat
  tiles : List (Array Int)
  pus : List (List Pu)
  deriving DecidableEq, Repr

/-- A picture of a reference set (R139): number, type, rows from the top, and its long-term mark. -/
structure RefPic where
  pic : Nat
  isP : Bool
  rows : List RefRow
  lt : Bool
  deriving DecidableEq, Repr

/-- An output sample of a reference at canonical coordinates; 2^(D−1) where the row is absent (R131). -/
def refSample (g : Geo) (ref : RefPic) (x y : Nat) : Int :=
  match ref.rows[y / g.hT]? with
  | none => 2 ^ (g.d - 1)
  | some row =>
    match row.tiles[x / g.tW]? with
    | none => 2 ^ (g.d - 1)
    | some t => t.getD ((y % g.hT) * g.wReal (x / g.tW) + x % g.tW) (2 ^ (g.d - 1))

/-- R_p(x, y) of R145, coordinates clamped to the picture's real cells. -/
def refPlane (g : Geo) (ref : RefPic) (p : Nat) (x y : Int) : Int :=
  let cx := (clampI 0 (g.picCw - 1) x).toNat
  let cy := (clampI 0 (g.picCh - 1) y).toNat
  let s := (List.range g.planes).map fun j =>
    if g.layout = 2 then refSample g ref (cx * 3 + j) cy
    else refSample g ref (cx * 2 + j % 2) (cy * 2 + j / 2)
  (g.lift s).getD p 0

/-- The interpolation taps (Table 7.4). -/
def interTap (f : Nat) (k : Nat) : Int :=
  ([[0, 64, 0, 0], [-4, 54, 16, -2], [-4, 36, 36, -4], [-2, 16, 54, -4]].getD f []).getD k 0

/-- The inter prediction of one cell from one reference (R147), from a read of reference plane values. -/
def interCell (g : Geo) (p : Nat) (rp : Int → Int → Int) (cx cy : Int) (mv : Int × Int) : Int :=
  let ix := cx + mv.1 / 4
  let iy := cy + mv.2 / 4
  let fx := (mv.1 % 4).toNat
  let fy := (mv.2 % 4).toNat
  let a := fun (j : Nat) => (List.range 4).foldl (fun (s : Int) (k : Nat) => s + interTap fx k * rp (ix - 1 + k) (iy - 1 + j)) 0
  let b := (List.range 4).foldl (fun (s : Int) (j : Nat) => s + interTap fy j * a j) 0
  clampI (g.lo p) (g.hi p) (rnd b 12)

/-- The prediction of one cell of a PU (R147, R148). -/
def puCell (g : Geo) (refA refB : Option RefPic) (p : Nat) (pu : Pu) (cx cy : Nat) : Int :=
  let one := fun (r : Option RefPic) (mv : Int × Int) =>
    match r with
    | none => 0
    | some ref => interCell g p (refPlane g ref p) cx cy mv
  match pu.dir with
  | 0 => one refA pu.mva
  | 1 => one refB pu.mvb
  | _ => (one refA pu.mva + one refB pu.mvb + 1) / 2

/-- The range of a vector (R143). -/
def mvInRange (v : Int × Int) : Bool := decide (-512 ≤ v.1 ∧ v.1 ≤ 512 ∧ -256 ≤ v.2 ∧ v.2 ≤ 256)

/-- A vector clamped to its range. -/
def mvClamp (v : Int × Int) : Int × Int := (clampI (-512) 512 v.1, clampI (-256) 256 v.2)

/-- The vector of a PU to reference X (0 A, 1 B): its vector to X if it has one and its other vector if not (R149). -/
def Pu.vecTo (pu : Pu) (x : Nat) : Int × Int :=
  if x = 0 then (if pu.dir = 1 then pu.mvb else pu.mva) else (if pu.dir = 0 then pu.mva else pu.mvb)

/-- The temporal PU: that of REF_A at the same place, when REF_A is a P picture, the PU has motion and its row was
bounded (Table 7.6). -/
def temporalPu (refA : Option RefPic) (t : TilePos) (i : Nat) : Option Pu :=
  match refA with
  | none => none
  | some r =>
    match r.rows[t.r]? with
    | none => none
    | some row =>
      if r.isP ∧ row.bound < 0xFFFE then
        match (row.pus.getD t.c [])[i]? with
        | some pu => if pu.inter then some pu else none
        | none => none
      else none

/-- The six candidates of Table 7.6 with their order, unavailable ones dropped; `pus` are the PUs of the tile known so
far, `pw` the PUs across. -/
def mvCandidates (pus : Array Pu) (pw i : Nat) (temporal : Option Pu) (gmv : Int × Int) (x : Nat) :
    List (Nat × (Int × Int)) :=
  let at' := fun (ok : Bool) (j : Nat) =>
    if ok then match pus[j]? with
      | some pu => if pu.inter then [pu.vecTo x] else []
      | none => []
    else []
  let px := i % pw
  (at' (decide (0 < px)) (i - 1)).map (fun v => (0, v)) ++
  (at' (decide (pw ≤ i)) (i - pw)).map (fun v => (1, v)) ++
  (at' (decide (pw ≤ i ∧ px + 1 < pw)) (i - pw + 1)).map (fun v => (2, v)) ++
  (match temporal with | some pu => [(3, pu.vecTo x)] | none => []) ++
  [(4, gmv), (5, (0, 0))]

/-- The candidate list of R149: a candidate equal to an earlier one is dropped. -/
def mvList (c : List (Nat × (Int × Int))) : List (Int × Int) := (c.map (·.2)).eraseDups

/-- The MVP bits of a list length (R183). -/
def mvpBits (n : Nat) : Nat := if n ≤ 1 then 0 else if n = 2 then 1 else if n ≤ 4 then 2 else 3

/-- |MVD_X| + |MVD_Y| against an entry. -/
def mvdAbs (v e : Int × Int) : Nat := (v.1 - e.1).natAbs + (v.2 - e.2).natAbs

/-- The entry the RL1024 codes: the smallest |MVD_X| + |MVD_Y|, the lowest index on a tie (worked example after R150). -/
def mvpChoice (l : List (Int × Int)) (v : Int × Int) : Nat :=
  ((List.range l.length).foldl (fun (b : Nat × Nat) i =>
    let a := mvdAbs v (l.getD i (0, 0))
    if a < b.2 then (i, a) else b) (0, mvdAbs v (l.getD 0 (0, 0)))).1

/-- The mapping of an MVD component to a Rice value (R183), and back. -/
def mvdMap (v : Int) : Nat := if v < 0 then 2 * v.natAbs - 1 else 2 * v.natAbs
def mvdUnmap (w : Nat) : Int := if w % 2 = 0 then (w / 2 : Int) else -((w + 1) / 2 : Int)

/-! ## Motion search (R151, R152) -/

/-- λ (R152); LAMBDA_MUL 0 is taken as 1 (Table 7.10). -/
def searchLambda (lambdaMul qpBase : Nat) : Nat :=
  max 1 ((max lambdaMul 1) * (qScale qpBase).toNat / 1024)

/-- bits(v) of R152. -/
def mvBits (v : Int) : Nat := if v = 0 then 0 else log2 v.natAbs + 1

/-- A point evaluated: vector, cost, and the candidate it was refined from. -/
structure SPoint where
  mv : Int × Int
  cost : Nat
  origin : Nat
  deriving DecidableEq, Repr

/-- Evaluate points in order; a point already evaluated is not evaluated again. -/
def searchEval (cost : Int × Int → Nat) (done : List SPoint) (pts : List ((Int × Int) × Nat)) : List SPoint :=
  pts.foldl (fun d p =>
    let v := mvClamp p.1
    if d.any fun q => q.mv = v then d else d ++ [⟨v, cost v, p.2⟩]) done

/-- The cheapest point, the first evaluated on a tie. -/
def searchBest : List SPoint → Option SPoint
  | [] => none
  | p :: t => some (t.foldl (fun b q => if q.cost < b.cost then q else b) p)

/-- Points ordered by the open rank of R151 (DESIGN CHOICE, log entry 20). -/
def rankInsert (p : Nat × (Int × Int)) : List (Nat × (Int × Int)) → List (Nat × (Int × Int))
  | [] => [p]
  | q :: t => if Config.searchRank p.1 ≤ Config.searchRank q.1 then p :: q :: t else q :: rankInsert p t

def rankSort (l : List (Int × Int)) : List (Int × Int) :=
  ((((List.range l.length).zip l).foldr rankInsert []).map (·.2))

/-- The 13 whole-cell offsets with |dx| + |dy| ≤ 2 cells, in quarter cells. -/
def diamond13 : List (Int × Int) :=
  ((List.range 25).map fun i => (((i % 5 : Nat) : Int) - 2, ((i / 5 : Nat) : Int) - 2)).filter
    (fun v => decide (v.1.natAbs + v.2.natAbs ≤ 2)) |>.map fun v => (4 * v.1, 4 * v.2)

/-- The 8 offsets at ±s quarter cells. -/
def ring8 (s : Int) : List (Int × Int) :=
  [(-s, -s), (0, -s), (s, -s), (-s, 0), (s, 0), (-s, s), (0, s), (s, s)]

/-- The offsets around a point, in the order of the open rank, with the point's origin. -/
def around (p : SPoint) (offs : List (Int × Int)) : List ((Int × Int) × Nat) :=
  (rankSort offs).map fun o => ((p.mv.1 + o.1, p.mv.2 + o.2), p.origin)

/-- Two cheapest points, ties to the first evaluated. -/
def twoBest (l : List SPoint) : List SPoint :=
  match searchBest l with
  | none => []
  | some a =>
    match searchBest (l.filter fun q => q.mv ≠ a.mv) with
    | none => [a]
    | some b => [a, b]

/-- The search of one reference (R151 steps 1 to 4): every point evaluated, in order. -/
def searchRef (cost : Int × Int → Nat) (cands : List (Nat × (Int × Int))) (extra : List (Int × Int)) : List SPoint :=
  let s1 := searchEval cost [] (cands.map (fun c => (c.2, c.1)) ++ extra.map fun v => (v, 6))
  let whole := (twoBest s1).map fun p =>
    { p with mv := ((p.mv.1 + 2) / 4 * 4, (p.mv.2 + 2) / 4 * 4) }
  let pts2 := (whole.map fun p => around p diamond13).flatten
  let s2 := searchEval cost s1 pts2
  let among := fun (s : List SPoint) (pts : List ((Int × Int) × Nat)) =>
    searchBest (s.filter fun q => pts.any fun p => mvClamp p.1 = q.mv)
  match among s2 pts2 with
  | none => s2
  | some b2 =>
    let pts3 := (b2.mv, b2.origin) :: around b2 (ring8 2)
    let s3 := searchEval cost s2 pts3
    match among s3 pts3 with
    | none => s3
    | some b3 => searchEval cost s3 (around b3 (ring8 1))

/-- What the search of a PU found: its motion, points evaluated, the candidates the final vectors came from. -/
structure SearchOut where
  pu : Pu
  evals : Nat
  origins : List Nat
  deriving DecidableEq, Repr

/-- The search of one PU: `sad` gives the sum of absolute differences of a prediction choice. -/
def searchPu (nref lam : Nat) (avgEn : Bool) (sad : Pu → Nat) (listA listB : List (Nat × (Int × Int)))
    (extra : List (Int × Int)) : SearchOut :=
  let rate := fun (l : List (Nat × (Int × Int))) (v : Int × Int) =>
    let e := (mvList l).getD (mvpChoice (mvList l) v) (0, 0)
    lam * (mvBits (v.1 - e.1) + mvBits (v.2 - e.2) + 2)
  let mk := fun (d : Nat) (a b : Int × Int) => (⟨true, d, a, b⟩ : Pu)
  let sa := searchRef (fun v => sad (mk 0 v (0, 0)) + rate listA v) listA extra
  match searchBest sa with
  | none => ⟨mk 0 (0, 0) (0, 0), 0, []⟩
  | some a =>
    if nref < 2 then ⟨mk 0 a.mv (0, 0), sa.length, [a.origin]⟩
    else
      let sb := searchRef (fun v => sad (mk 1 (0, 0) v) + rate listB v) listB extra
      match searchBest sb with
      | none => ⟨mk 0 a.mv (0, 0), sa.length, [a.origin]⟩
      | some b =>
        let n := sa.length + sb.length
        let avg := mk 2 a.mv b.mv
        let avgCost := sad avg + rate listA a.mv + rate listB b.mv
        if avgEn ∧ avgCost < a.cost ∧ avgCost < b.cost then ⟨avg, n + 1, [a.origin, b.origin]⟩
        else if b.cost < a.cost then ⟨mk 1 (0, 0) b.mv, n + (if avgEn then 1 else 0), [b.origin]⟩
        else ⟨mk 0 a.mv (0, 0), n + (if avgEn then 1 else 0), [a.origin]⟩

end Sys2Proof.Machine
end

