-- ==== Sys2Proof/Machine/Encode.lean ====
section
/-! DEFINITION. Coding a tile (chapters 06 to 08): motion search, the choices of R115 and R412, reconstruction, the
guard layer, statistics and the coded bytes, with the byte counts of each checkpoint (R198). -/
namespace Sys2Proof.Machine

/-- What a tile is coded with: geometry, place, bound, base QP, plane offsets, references, global vector, and the
settings of the motion search engine. -/
structure TileParams where
  g : Geo
  pos : TilePos
  pic : Nat
  bound : Nat
  qpBase : Nat
  pqo : List Int
  refA : Option RefPic
  refB : Option RefPic
  gmv : Int × Int
  lambdaMul : Nat
  avgEn : Bool
  noInter : Bool := false
  deriving DecidableEq, Repr

/-- A block as coded: mode, transform skip, levels at [v][u]. -/
structure BlockChoice where
  mode : Nat
  ts : Bool
  levels : Array Int
  deriving DecidableEq, Repr

/-- What coding a tile gives: its bytes, output samples, PU table, the statistics of R133, the counts the ENC and ME
pages show, and the bytes counted at each checkpoint. -/
structure TileOut where
  bytes : List Byte
  out : Array Int
  pus : List Pu
  maxErr : Nat
  sumSigned : Int
  sumAbs : List Nat
  guards : Nat
  intraBlk : Nat
  interBlk : Nat
  tsBlk : Nat
  pclipPlane : Nat
  pclipSample : Nat
  escapes : Nat
  segMax : Nat
  strips : List Nat
  searched : Nat
  evals : Nat
  origins : List Nat
  boundOk : Bool
  deriving DecidableEq, Repr

/-- References of the picture: 0, 1 or 2. -/
def TileParams.nref (t : TileParams) : Nat := if t.refA.isNone then 0 else if t.refB.isNone then 1 else 2

/-- Store a block into a plane's reconstruction. -/
def Grid.setBlock (g : Grid) (bx byy : Nat) (vals : List Int) : Grid :=
  let upd := fun (arr : Array Int) (p : Nat × Int) => arr.setIfInBounds ((8 * byy + p.1 / 8) * g.w + 8 * bx + p.1 % 8) p.2
  { g with a := ((List.range 64).zip vals).foldl upd g.a }

/-- Sum of absolute values. -/
def sumAbsI (l : List Int) : Nat := l.foldl (fun a v => a + v.natAbs) 0

/-- Pointwise difference. -/
def subI (a b : List Int) : List Int := (a.zip b).map fun p => p.1 - p.2

/-- The motion search of every PU of a tile in raster order (R151), neighbours searched earlier taken as available. -/
def searchTile (t : TileParams) (orig : List Grid) : List SearchOut :=
  let wc := t.g.wc t.pos.c
  let hc := t.g.hc t.pos.r
  let pw := cdiv wc 16
  let n := pw * cdiv hc 16
  let x0 := t.pos.c * (t.g.tW / t.g.cellW)
  let y0 := t.pos.r * (t.g.hT / t.g.cellH)
  if t.nref = 0 ∨ t.noInter then []
  else
    ((List.range n).foldl (fun (acc : List SearchOut × Array Pu) i =>
      let px := i % pw * 16
      let py := i / pw * 16
      let pwid := min 16 (wc - px)
      let phei := min 16 (hc - py)
      let tmp := temporalPu t.refA t.pos i
      let sad := fun (pu : Pu) =>
        (List.range t.g.planes).foldl (fun s p =>
          let o := orig.getD p ⟨0, #[]⟩
          (List.range (pwid * phei)).foldl (fun s k =>
            let cx := px + k % pwid
            let cy := py + k / pwid
            s + (o.get cx cy - puCell t.g t.refA t.refB p pu (x0 + cx) (y0 + cy)).natAbs) s) 0
      let r := searchPu t.nref (searchLambda t.lambdaMul t.qpBase) t.avgEn sad
        (mvCandidates acc.2 pw i tmp t.gmv 0) (mvCandidates acc.2 pw i tmp t.gmv 1)
        (Config.searchExtra t.pic t.pos.r t.pos.c i)
      (acc.1 ++ [r], acc.2.push r.pu)) ([], #[])).1

/-- Choose the prediction of a block (R115): candidates in the order of their tie-break, the least sum of absolute
residual first. -/
def choosePred (orig : List Int) (cands : List (Nat × List Int)) : Nat × List Int :=
  match cands with
  | [] => (0, orig)
  | c :: t => (t.foldl (fun (b : (Nat × List Int) × Nat) q =>
      let s := sumAbsI (subI orig q.2)
      if s < b.2 then (q, s) else b) (c, sumAbsI (subI orig c.2))).1

/-- Code one block: the choice of prediction and of transform skip, its reconstruction, and the plane values the clamp
changed. -/
def codeBlock (t : TileParams) (p : Nat) (rec : Grid) (orig : Grid) (mp : Option Pu) (bx byy : Nat) :
    BlockChoice × List Int × Nat :=
  let bw := t.g.wc t.pos.c / 8
  let o := orig.block bx byy
  let n := neighbours rec (t.g.mid p) bw bx byy
  let x0 := t.pos.c * (t.g.tW / t.g.cellW) + 8 * bx
  let y0 := t.pos.r * (t.g.hT / t.g.cellH) + 8 * byy
  let inter := match mp with
    | none => []
    | some pu => [(8, blockOf fun x y => puCell t.g t.refA t.refB p pu (x0 + x) (y0 + y))]
  let pr := choosePred o (inter ++ (List.range 8).map fun m => (m, predBlock m n))
  let r := subI o pr.2
  let q := qpPlane t.qpBase t.pqo p
  let lt := (fwdTransform r).map (quant q (if pr.1 = 8 then 11 else 22))
  let lts := r.map (quant q 32)
  let ts := t.bound = 0 || decide (tsEstimate lts < tsEstimate lt)
  let ls := if ts then lts else lt
  let res := residual t.g.d q ts ls
  let raw := (pr.2.zip res).map fun z => z.1 + z.2
  let cl := raw.map (clampI (t.g.lo p) (t.g.hi p))
  (⟨pr.1, ts, ls.toArray⟩, cl, (raw.zip cl).countP fun z => z.1 ≠ z.2)

/-- The PU that covers a block. -/
def puOfBlock (pw bx byy : Nat) : Nat := byy / 2 * pw + bx / 2

/-- Code the blocks of a plane in raster order. -/
def codePlane (t : TileParams) (p : Nat) (orig : Grid) (pus : Array Pu) : Array BlockChoice × Grid × Nat :=
  let bw := t.g.wc t.pos.c / 8
  let bh := t.g.hc t.pos.r / 8
  let pw := cdiv (8 * bw) 16
  (List.range (bw * bh)).foldl (fun (s : Array BlockChoice × Grid × Nat) i =>
    let bx := i % bw
    let byy := i / bw
    let r := codeBlock t p s.2.1 orig (pus[puOfBlock pw bx byy]?) bx byy
    (s.1.push r.1, s.2.1.setBlock bx byy r.2.1, s.2.2 + r.2.2))
    (#[], ⟨8 * bw, Array.replicate (64 * bw * bh) 0⟩, 0)

/-- Write a PU's elements (R183) against the PUs already written. -/
def writePu (t : TileParams) (pus : Array Pu) (pw i : Nat) (w : BitW) : BitW :=
  match pus[i]? with
  | none => w.put [false]
  | some pu =>
    let w := w.put [pu.inter]
    if !pu.inter then w
    else
      let before := pus.extract 0 i
      let tmp := temporalPu t.refA t.pos i
      let vec := fun (w : BitW) (x : Nat) (v : Int × Int) =>
        let l := mvList (mvCandidates before pw i tmp t.gmv x)
        let k := mvpChoice l v
        let e := l.getD k (0, 0)
        ((w.put (natBits (mvpBits l.length) k)).rice ctxMvdx (mvdMap (v.1 - e.1))).rice ctxMvdy (mvdMap (v.2 - e.2))
      let w := if t.nref = 2 then w.put (natBits 2 pu.dir) else w
      let w := if pu.dir ≠ 1 then vec w 0 pu.mva else w
      if pu.dir ≥ 1 then vec w 1 pu.mvb else w

/-- Write a plane segment; beside it the bits written after each strip, first strip first. -/
def writePlane (t : TileParams) (p : Nat) (blocks : Array BlockChoice) (pus : Array Pu) : BitW × List Nat :=
  let bw := t.g.wc t.pos.c / 8
  let bh := t.g.hc t.pos.r / 8
  let pw := cdiv (8 * bw) 16
  let dflt : BlockChoice := ⟨0, false, #[]⟩
  let r := (List.range (bw * bh)).foldl (fun (s : BitW × List Nat) i =>
    let bx := i % bw
    let byy := i / bw
    let w := if p = 0 ∧ t.nref > 0 ∧ bx % 2 = 0 ∧ byy % 2 = 0 then writePu t pus pw (puOfBlock pw bx byy) s.1 else s.1
    let b := blocks.getD i dflt
    let mp := if bx > 0 then (blocks.getD (i - 1) dflt).mode else if byy > 0 then (blocks.getD (i - bw) dflt).mode else 0
    let prev := if i = 0 then 0 else ((blocks.getD (i - 1) dflt).levels.getD 0 0).natAbs
    let w := writeLevels b.ts b.levels prev 64 0 ((writeMode w mp b.mode).put [b.ts])
    (w, if bx + 1 = bw then s.2 ++ [w.bits.length] else s.2)) (⟨[], planeCtxs, 0⟩, [])
  r

/-- The guard values of a tile (R124), in ascending position. -/
def tileGuards (bound : Nat) (orig st : Array Int) : List (Nat × Int) :=
  ((List.range orig.size).filterMap fun i =>
    let e := orig.getD i 0 - st.getD i 0
    if e.natAbs > bound then some (i, guardValue e bound) else none)

/-- The output samples (R125). -/
def guardOutput (d bound : Nat) (st : Array Int) (gs : List (Nat × Int)) : Array Int :=
  gs.foldl (fun a e => a.setIfInBounds e.1 (guardApply d bound (st.getD e.1 0) e.2)) (st.map fun v => clampI 0 (2 ^ d - 1) v)

/-- Code a bounded tile. `s` gives the conditioned sample at canonical coordinates within the tile (R88). -/
def encodeBounded (t : TileParams) (s : Nat → Nat → Int) : TileOut :=
  let g := t.g
  let w := g.wReal t.pos.c
  let orig := g.tilePlanes t.pos s
  let found := searchTile t orig
  let mot := (found.map (·.pu)).toArray
  let coded := (List.range g.planes).map fun p => codePlane t p (orig.getD p ⟨0, #[]⟩) mot
  let bw := g.wc t.pos.c / 8
  let pw := cdiv (8 * bw) 16
  let usesInter := fun (i : Nat) => coded.any fun c =>
    (List.range c.1.size).any fun b => decide ((c.1.getD b ⟨0, false, #[]⟩).mode = 8 ∧ puOfBlock pw (b % bw) (b / bw) = i)
  let npu := if t.nref = 0 then 0 else pw * cdiv (g.hc t.pos.r) 16
  let pus := ((List.range npu).map fun i =>
    let pu := mot.getD i ⟨false, 0, (0, 0), (0, 0)⟩
    if usesInter i then pu else ⟨false, 0, (0, 0), (0, 0)⟩).toArray
  let segs := (List.range g.planes).map fun p =>
    writePlane t p ((coded.map (·.1)).getD p #[]) pus
  let tl := g.tileSamples t.pos (coded.map fun c => c.2.1)
  let origS := ((List.range (w * g.hReal t.pos.r)).map fun i => s (i % w) (i / w)).toArray
  let gs := tileGuards t.bound origS tl.1
  let gw := guardBits gs
  let planeSegs := segs.map fun p => segBytes p.1.bits.reverse
  let planeSegs := planeSegs ++ List.replicate (4 - planeSegs.length) []
  let gseg := if gs.isEmpty then [] else segBytes gw.bits.reverse
  let withLen := fun (b : List Byte) => leBytes 4 b.length ++ b
  let bytes := [BitVec.ofNat 8 t.qpBase, 0#8, 0#8, 0#8] ++ (planeSegs.map withLen).flatten ++ withLen gseg
  let out := guardOutput g.d t.bound tl.1 gs
  let err := fun (i : Nat) => origS.getD i 0 - out.getD i 0
  let idx := List.range origS.size
  let modes := (coded.map fun c => c.1.toList).flatten
  let ns := g.strips t.pos.r
  let lineOf := fun (i : Nat) => i / w / g.cellH / 8
  let stripBytes := (List.range ns).map fun k =>
    if k + 1 = ns then bytes.length
    else
      let gk := gs.filter fun e => lineOf e.1 ≤ k
      24 + (segs.foldl (fun a p => a + cdiv (p.2.getD k 0) 8) 0) +
        (if gk.isEmpty then 0 else cdiv (guardBits gk).bits.length 8)
  { bytes := bytes, out := out, pus := pus.toList,
    maxErr := idx.foldl (fun m i => max m (err i).natAbs) 0,
    sumSigned := idx.foldl (fun a i => a + err i) 0,
    sumAbs := (List.range 4).map fun k => idx.foldl (fun a i =>
      if g.posClass (i % w) (i / w) = k then a + (err i).natAbs else a) 0,
    guards := gs.length,
    intraBlk := modes.countP fun b => b.mode ≠ 8, interBlk := modes.countP fun b => b.mode = 8,
    tsBlk := modes.countP fun b => b.ts, pclipPlane := (coded.map fun c => c.2.2).foldl (· + ·) 0, pclipSample := tl.2,
    escapes := (segs.map fun p => p.1.esc).foldl (· + ·) 0 + (if gs.isEmpty then 0 else gw.esc),
    segMax := (gseg :: planeSegs).foldl (fun m b => max m b.length) 0,
    strips := stripBytes, searched := found.length, evals := (found.map (·.evals)).foldl (· + ·) 0,
    origins := (found.map (·.origins)).flatten,
    boundOk := idx.all fun i => decide ((err i).natAbs ≤ t.bound) }

/-- Code an exhausted tile (R129, R185). -/
def encodeExhausted (g : Geo) (pos : TilePos) (s : Nat → Nat → Int) : TileOut :=
  let orig := g.tilePlanes pos s
  let bw := g.wc pos.c / 8
  let bh := g.hc pos.r / 8
  let means := exhMeans orig bw bh
  let vals := ((List.range g.planes).map fun p =>
    (means.getD p []).map fun m => (if g.signed p then m + 2 ^ g.d else m).toNat).flatten
  let bytes := List.replicate 4 0#8 ++ segBytes (vals.map (natBits (g.d + 1))).flatten
  let tl := g.tileSamples pos (exhPlanes means bw bh)
  { bytes := bytes, out := tl.1, pus := [], maxErr := 0, sumSigned := 0, sumAbs := [0, 0, 0, 0], guards := 0,
    intraBlk := 0, interBlk := 0, tsBlk := 0, pclipPlane := 0, pclipSample := tl.2, escapes := 0, segMax := 0,
    strips := [], searched := 0, evals := 0, origins := [], boundOk := true }

/-- A Tile Row unit's body (Table 8.6, R171). -/
def tileRowBody (pic trow bound maxErr absent exh : Nat) (tiles : List (List Byte)) : List Byte :=
  leBytes 4 (pic % 2 ^ 24) ++ leBytes 2 trow ++ leBytes 2 bound ++ leBytes 2 tiles.length ++ leBytes 2 maxErr ++
    leBytes 1 absent ++ leBytes 1 exh ++ leBytes 2 0 ++ (tiles.map fun t => leBytes 4 t.length).flatten ++ tiles.flatten

/-- A unit: header, body and CRC trailer (R165, R166). -/
def unitBytes (typ flags stream : Nat) (body : List Byte) : List Byte :=
  let b := body ++ List.replicate (roundUp body.length 4 - body.length) 0#8
  let u := leBytes 4 0x57564331 ++ leBytes 1 typ ++ leBytes 1 flags ++ leBytes 2 stream ++ leBytes 4 b.length ++ b
  u ++ leBytes 4 (crc32c u)

end Sys2Proof.Machine
end

