-- ==== Sys2Proof/Machine/StateLink.lean ====
section
/-! DEFINITION. The state of the head links (chapter 04): lanes, declarations, back-channel frames and heads. -/
namespace Sys2Proof.Machine

/-- A region of a declaration (Tables 4.6 and 5.1). -/
structure RegionDecl where
  region : Nat
  d : Nat
  cfa : Nat
  w : Nat
  h : Nat
  num : Nat
  den : Nat
  deriving DecidableEq, Repr

/-- A HELLO declaration (Table 4.6). -/
structure HeadDecl where
  serial : Nat
  maker : Nat
  model : Nat
  fwVer : Nat
  carry : Nat
  spares : Nat
  rate : Nat
  metaRate : Nat
  regions : List RegionDecl
  deriving DecidableEq, Repr

/-- What the last ALIGN block of a lane showed (R66), the value of FREE at which it came, and the consecutive alignment
intervals with more than 16 invalid sync headers (R79). -/
structure Lane where
  logical : Nat
  carry : Nat
  spares : Nat
  count : Nat
  seenAt : Nat
  bad : Nat
  known : Bool
  deriving DecidableEq, Repr

/-- A back-channel frame (Table 4.4): type and payload; its tag once sent; the mailbox and number of the HEAD_CMD that
waits for it. -/
structure BcFrame where
  typ : Nat
  payload : List Byte
  cmd : Option (Nat × Nat)
  deriving DecidableEq, Repr

/-- A frame sent that needs an ACK (R72): its tag, the frame and the resends made. -/
structure Unacked where
  tag : Nat
  frame : BcFrame
  resends : Nat
  deriving DecidableEq, Repr

/-- The picture a region has begun last (R70, R98): number, T0 as a reading in nanoseconds, FREE at that stamp. -/
structure RegionPic where
  region : Nat
  pic : Nat
  t0 : Nat
  t0Free : Nat
  deriving DecidableEq, Repr

/-- A head (R63), keyed by the global number of its lowest lane. `run` lists its physical lanes; `decl` its declaration,
kept over a link loss; `hello` the HELLO's 16 header bytes and payload (R76); `expSeq` the expected SEQ (R77) and
`gap` whether packets are discarded until it arrives, `fails` the failures of that SEQ; `mapOut`, `replayOut` a LANE_MAP
or REPLAY outstanding; `credS`, `credM` the police credits (R80; `credM` in thousandths of 1/50 bit); `discards` the count
of the current 1 ms interval (Table 4.8 case 9); `queue` the frames to send; `lastFrame` the octets of the frame sent
last; `bcFails` the back-channel failures; `helloAt` FREE at the HELLO answered last; `pics` the regions' pictures. -/
structure Head where
  run : List Nat
  decl : Option HeadDecl
  hello : List Byte
  expSeq : Option Nat
  gap : Bool
  fails : Nat
  mapOut : Bool
  replayOut : Bool
  nonce : List Byte
  nonces : Nat
  delay : Option Nat
  trainAt : Option Nat
  credS : Nat
  credM : Nat
  discards : Nat
  queue : List BcFrame
  tag : Nat
  unacked : List Unacked
  lastFrame : List Byte
  wakes : Nat
  bcFails : Nat
  helloAt : Option Nat
  pics : List RegionPic
  deriving DecidableEq, Repr

/-- A lane that has shown no ALIGN block. -/
def Lane.rest : Lane := ⟨0, 0, 0, 0, 0, 0, false⟩

/-- No head on the lane. -/
def Head.rest : Head :=
  { run := [], decl := none, hello := [], expSeq := none, gap := false, fails := 0, mapOut := false, replayOut := false,
    nonce := [], nonces := 0, delay := none, trainAt := none, credS := 0, credM := 0, discards := 0, queue := [],
    tag := 0, unacked := [], lastFrame := [], wakes := 0, bcFails := 0, helloAt := none, pics := [] }

end Sys2Proof.Machine
end

