-- ==== Sys2Proof/Machine/StateStream.lean ====
section
/-! DEFINITION. The state of a record stream (chapters 05 to 09): its parameters, its line-buffer ring, its pictures, rows
and tiles, its reference set, its Magazine Receiver Model and its place in the stream's address space. -/
namespace Sys2Proof.Machine

/-- Ingest parameters (Table 5.3). -/
structure Ingest where
  dmapAddr : Nat
  dmapCount : Nat
  off : List Int
  deriving DecidableEq, Repr

/-- The arm parameters of a record stream (Tables 6.1, 7.2 and 9.1). -/
structure RecParams where
  head : Nat
  region : Nat
  port : Nat
  coding : Nat
  eT : Nat
  eC : Nat
  pqo : List Int
  gopLen : Nat
  ltInt : Nat
  maxRefs : Nat
  refMode : Nat
  gvSource : Nat
  gvMinq : Nat
  shareMul : Nat
  bufPic : Nat
  ing : Ingest
  deriving DecidableEq, Repr

/-- A line in the ring (R95): the spans received, each with its samples as delivered; once the line is received, the
values after defect replacement and after conditioning (R88), and the positions replaced and clipped. -/
structure LineBuf where
  spans : List (Nat × List Nat)
  done : Bool
  repl : List Nat
  cond : List Nat
  nrepl : List Nat
  clips : List Nat
  deriving DecidableEq, Repr

/-- A tile of a row being coded: 0 waits (for the pipeline `toPipe` it was handed to, if any), 1 is coded by `pipe`, 2 is coded. `strips` counts the strips committed;
`out` is the tile in the row's mode, `exh` its exhausted form from the values accumulated as the strips were read
(R198); `budget` its share of the grant in bits. -/
structure TileSt where
  stage : Nat
  pipe : Nat
  toPipe : Option Nat
  strips : Nat
  out : Option TileOut
  exh : Option TileOut
  budget : Nat
  deriving DecidableEq, Repr

/-- A tile row of a picture (R99, R195, R198). `mask` has bit i for line i received; `arrival` the reading at the last
line received, lower 32 bits; `samples` the samples received; `doneAt` FREE at completion; `holdEnd` the end of its
hold; `closed` 0 open, 1 complete, 2 absent, with the absent cause and FREE at the close; `lost` that a ring slot was
written again while it was incomplete (R96); the grant, whether it waited, the attempt, its bound, base QP and rung;
`exhCause`; whether a restart was made; the last checkpoint that may restart it; whether it was held behind its header; whether the emission limit does not hold; whether it is recoded without references after a poisoned reference read (Table 16.2); the emitted unit's bytes. -/
structure RowSt where
  mask : Nat
  arrival : Nat
  samples : Nat
  doneAt : Option Nat
  holdEnd : Option Nat
  closed : Nat
  cause : Nat
  closedAt : Nat
  lost : Bool
  grant : Option Nat
  waiting : Bool
  attempt : Nat
  bound : Nat
  qpBase : Nat
  rung : Nat
  restarted : Bool
  exhCause : Nat
  restartLast : Nat
  held : Bool
  noLimit : Bool
  noInter : Bool
  tiles : List TileSt
  emitted : Option Nat
  maxErr : Nat
  deriving DecidableEq, Repr

/-- A picture (R98, R170): number, its place in the sequence from the first picture, T0 as nanoseconds and FREE at that
stamp, T0_EST, MISSING, FORCED_I, type, references, GMV and its source, keep list, parameters in force, the defect map's
kept entries and CRC, lines in the ring, rows, what the Gaffer firmware has written, the drain rate in force, the
metadata allowance used, the carry, the supply mark, its bytes so far, the sum of MV_A over its inter PUs, RC_CFG
as it stood at its start, and whether a row broke the conditions of a step down. -/
structure PicSt where
  pic : Nat
  idx : Nat
  t0 : Nat
  t0Free : Nat
  est : Bool
  missing : Bool
  forced : Bool
  planned : Bool
  isP : Bool
  refs : List Nat
  gmv : Int × Int
  gmvSrc : Nat
  keep : List (Nat × Bool)
  ing : Ingest
  dmap : List (Nat × Nat)
  dmapCrc : Nat
  lines : List (Nat × LineBuf)
  rows : List RowSt
  hdr : Bool
  trailer : Bool
  ds : Nat
  metaUsed : Nat
  carry : Int
  supply : Bool
  bytes : Nat
  upCount : Nat
  mvSum : Int × Int
  mvN : Nat
  rcCfg : Word
  rateRows : Bool
  deriving DecidableEq, Repr

/-- A MOTION record accepted (Table 7.7). -/
structure MotionRec where
  pic : Nat
  quality : Nat
  dx : Int
  dy : Int
  deriving DecidableEq, Repr

/-- A packet that becomes a Metadata unit (R175): its kind, the picture in which it stands (none: the first to begin),
the reading at acceptance, and its bytes; `cmd` the HOST_META that brought it. -/
structure MetaPkt where
  kind : Nat
  pic : Option Nat
  arrival : Nat
  data : List Byte
  cmd : Option (Nat × Nat)
  deriving DecidableEq, Repr

/-- A write of a piece on its way (R275 to R277): its address and bytes, the port, pair and CID, the block address, FREE
at issue, whether it was issued before, and whether it has completed with status 0. -/
structure PieceSt where
  addr : Nat
  len : Nat
  port : Nat
  pair : Nat
  cid : Nat
  lba : Nat
  issuedAt : Nat
  retried : Bool
  issued : Bool
  done : Bool
  deriving DecidableEq, Repr

/-- A record stream. `hd` is the head's declaration at arm and `decl` its region; `ds` the drain rate in force and
`dsNew` the rate to publish at the next picture boundary (R190), `dsAt` FREE at the last publication; `bs`, `xs`, `hs`, `ms` the quantities of R192 and R193; `f`
the occupancy in bits and `peak` its largest value; `rung`, `qadj`, `downCnt` the ladder; `ctxs` its tile contexts; `pics` the
pictures in hand, oldest first; `refSet` the reference set; `ovf` the overflow granules held by picture; `ltPic` the long-term picture; the motion records held; the
addresses: next to emit, next to release, confirmed; the chunks by address / 2 MiB; the pieces on their way; pictures whose
INDEX entry waits (R299); the headers written; totals for the End of Stream; `volPort` the port that holds its volume
stream number `snum`; `swapPic` the place in the sequence of the first picture that goes to
another magazine (R285), `flushTo` the address up to which MAG_FLUSH waits. -/
structure RecStream where
  par : RecParams
  ingNext : Option Ingest
  hd : HeadDecl
  decl : RegionDecl
  takeId : Nat
  ds : Nat
  dsNew : Option Nat
  dsAt : Nat
  bs : Nat
  xs : Nat
  hs : Nat
  ms : Nat
  f : Nat
  peak : Nat
  rung : Nat
  qadj : Int
  downCnt : Nat
  lastGrant : Nat
  rowsStr : Nat
  rowsExh : Nat
  rowsAbs : Nat
  latMax : Nat
  ctxs : List Nat
  pics : List PicSt
  nextIdx : Nat
  firstPic : Option Nat
  lastPic : Option (Nat × Nat × Nat)
  refSet : List RefPic
  ovf : List (Nat × Nat)
  ltPic : Option Nat
  forceI : Bool
  motion : List MotionRec
  prevMv : Option (Int × Int × Nat)
  metaQ : List MetaPkt
  metaDropped : Nat
  wAddr : Nat
  relAddr : Nat
  confAddr : Nat
  chunks : List (Nat × Nat)
  pieces : List PieceSt
  flush : Bool
  idxPend : List (Nat × Nat × Nat × Nat)
  hdrDone : Bool
  eosDone : Bool
  picsDone : Nat
  picsMissing : Nat
  lastDone : Nat
  bytes : Nat
  volPort : Option Nat
  snum : Nat
  moving : Option Nat
  resume : Nat
  contDone : Bool
  swapPic : Option Nat
  flushTo : Nat
  drainAt : Option Nat
  deriving DecidableEq, Repr

/-- A committed tile context (Table 5.6); the working state DW32 to DW127 is not part of any format. -/
structure TileCtx where
  gen : Nat
  stream : Nat
  state : Nat
  picture : Nat
  trow : Nat
  tcol : Nat
  wReal : Nat
  hReal : Nat
  absent : Bool
  lines : Nat
  mask : Nat
  replaced : Nat
  clipped : Nat
  arrival : Nat
  bound : Nat
  budget : Nat
  coded : Nat
  qpBase : Nat
  maxErr : Nat
  sumSigned : Int
  sumAbs : List Nat
  guards : Nat
  deriving DecidableEq, Repr

/-- A pipeline of the encode or decode array (R233): what it codes, as (slot, picture, row, column); the orders latched for
the next commit point. -/
structure Pipe where
  job : Option (Nat × Nat × Nat × Nat)
  orders : List Nat
  deriving DecidableEq, Repr

def Ingest.none : Ingest := ⟨0, 0, [0, 0, 0, 0]⟩
def LineBuf.rest : LineBuf := ⟨[], false, [], [], [], []⟩
def TileSt.rest : TileSt := ⟨0, 0, none, 0, none, none, 0⟩
def RowSt.rest : RowSt :=
  { mask := 0, arrival := 0, samples := 0, doneAt := none, holdEnd := none, closed := 0, cause := 0, closedAt := 0, lost := false,
    grant := none, waiting := false, attempt := 0, bound := 0, qpBase := 0, rung := 0, restarted := false, exhCause := 0,
    restartLast := 0, held := false, noLimit := false, noInter := false, tiles := [], emitted := none, maxErr := 0 }
def Pipe.rest : Pipe := ⟨none, []⟩

end Sys2Proof.Machine
end

