-- ==== Sys2Proof/Machine/StateOut.lean ====
section
/-! DEFINITION. The state of decode, verify and offload streams (chapters 10 and 14), proxy streams (chapter 11), memory
channels (chapter 16), the Ethernet ports and PTP (chapter 17) and the peer ports (chapter 18). -/
namespace Sys2Proof.Machine

/-! ## Reading streams -/

/-- A Stream Header as a reader takes it (Table 8.4). -/
structure SrcHdr where
  ver : Nat
  slot : Nat
  takeId : Nat
  region : Nat
  cfa : Nat
  d : Nat
  coding : Nat
  maxRefs : Nat
  w : Nat
  h : Nat
  num : Nat
  den : Nat
  eT : Nat
  pqo : List Int
  firstPic : Nat
  deriving DecidableEq, Repr

/-- A Picture Header as a reader takes it (Table 8.5). -/
structure PicHdr where
  pic : Nat
  isP : Bool
  nref : Nat
  pflags : Nat
  t0 : Nat
  timecode : Nat
  refA : Nat
  refB : Nat
  gmv : Int × Int
  keep : List (Nat × Bool)
  deriving DecidableEq, Repr

/-- The parameters of a decode stream (Table 10.1), and those of an offload copy (R286): `offload`, `rate` in Mb/s, `offPeer`
the peer port it goes to. `verify` and `review` are what the mode makes of the stream. -/
structure DecParams where
  source : Nat
  srcId : Nat
  takeId : Nat
  recStream : Nat
  first : Nat
  last : Nat
  pace : Bool
  tPlay : Nat
  rateGs : Nat
  dest : Nat
  proxySlot : Nat
  format : Nat
  verifyEvery : Nat
  srcRing : Nat
  outRing : Nat
  verify : Bool
  review : Bool
  offload : Bool
  offPeer : Option Nat
  rate : Nat
  deriving DecidableEq, Repr

/-- A tile being decoded: 0 waits, 1 on a pipeline, 2 reconstructed, 3 damaged with cause and detail. -/
structure DecTile where
  stage : Nat
  off : Nat
  len : Nat
  out : Array Int
  pus : List Pu
  cause : Nat
  detail : Nat
  deriving DecidableEq, Repr

/-- A Tile Row unit read: its body, its bound code, its tiles, and the damage of the row as a whole (cause and detail). -/
structure DecRow where
  body : List Byte
  bound : Nat
  tiles : List DecTile
  bad : Option (Nat × Nat)
  deriving DecidableEq, Repr

/-- A picture being read: its header, its rows, its trailer's body, the bytes of its header, Tile Row and Metadata units, and
the pipeline that completed its last tile. -/
structure DecPic where
  hdr : PicHdr
  rows : List DecRow
  trailer : List Byte
  bytes : Nat
  pipe : Nat
  deriving DecidableEq, Repr

/-- A picture complete and not yet read by every output: whether it is released, the outputs that still read it, the pipeline
that completed it, and FREE at its release. -/
structure DecOut where
  pic : Nat
  hdr : PicHdr
  flags : Nat
  rows : List RefRow
  released : Bool
  host : Bool
  proxy : Bool
  peer : Bool
  pipe : Nat
  relAt : Nat
  deriving DecidableEq, Repr

/-- A damage report (R212). -/
structure Damage where
  pic : Nat
  trow : Nat
  tcol : Nat
  cause : Nat
  detail : Nat
  deriving DecidableEq, Repr

/-- A decode, verify, review or offload stream. `hdr` its source's Stream Header; `port` and `snum` the volume stream it reads;
`rAddr` the next address to read; `buf` the bytes read and not yet consumed, the first at `addr`; `expect` the picture next in
order (none before the first); `started` that decoding has reached a start point; `refSet` the reference set;
`cur` the picture in hand; `outs` the pictures its outputs hold; `chunk` the digest ring's handle; `lastPic`, `done`, `bytes`
the totals of Table 12.6; `eos` that the End of Stream unit was read; `units` what an offload copy still delivers; `ovf` the
overflow granules held; `reading` that a read is outstanding; `pair` the I/O queue pair that carries its reads; `jumps` the index entries tried for a start point. -/
structure DecStream where
  par : DecParams
  hdr : SrcHdr
  port : Nat
  snum : Nat
  rAddr : Nat
  buf : List Byte
  addr : Nat
  expect : Option Nat
  started : Bool
  refSet : List RefPic
  cur : Option DecPic
  outs : List DecOut
  chunk : Option Nat
  lastPic : Nat
  done : Nat
  bytes : Nat
  eos : Bool
  dmg : Option Damage
  units : List (List Byte)
  srcBuf : Nat
  lastRel : Nat
  ovf : Nat
  reading : Bool
  jumps : Nat
  pair : Nat
  deriving DecidableEq, Repr

/-! ## Proxy streams (Table 11.1) -/

/-- The parameters of a proxy stream. -/
structure ProxyParams where
  srcKind : Nat
  srcSlot : Nat
  net : Nat
  outW : Nat
  outH : Nat
  picDiv : Nat
  profile : Nat
  gop : Nat
  rcMode : Nat
  bitrate : Nat
  cpbMs : Nat
  sliceRows : Nat
  gain : List Nat
  lutAddr : Nat
  vuiTc : Nat
  mtu : Nat
  pt : Nat
  ssrc : Nat
  tsOffset : Nat
  deriving DecidableEq, Repr

/-- A picture that an engine codes: its number in the proxy, its source picture, T0, FREE when its source completed (none:
not yet), whether it is an IDR, how it was replaced (0 not, 1 all-skip, 2 flat IDR), slices coded, bits so far, and its
samples: luma, Cb and Cr. -/
structure ProxyPic where
  num : Nat
  src : Nat
  t0 : Nat
  doneAt : Option Nat
  idr : Bool
  subst : Nat
  slices : Nat
  bits : Nat
  planes : List (List Nat)
  deriving DecidableEq, Repr

/-- A packet queued for an Ethernet port: its bytes, and for a picture's last packet FREE at which its source completed. -/
structure ProxyPkt where
  bytes : List Byte
  last : Option Nat
  deriving DecidableEq, Repr

/-- A proxy stream: its parameters, header template, engine, source rate and geometry, the source pictures it has met, the
pictures coded, the count since the last IDR, an ordered IDR, the IDR that a replacement postponed, RTP sequence and IPv4
identification, the bits in its CPB in units of a bit, packets and octets sent, and the packets queued. -/
structure ProxyStream where
  par : ProxyParams
  tpl : List Byte
  engine : Nat
  geo : Geo
  num : Nat
  den : Nat
  nSrc : Nat
  srcLast : Option Nat
  nPic : Nat
  sinceIdr : Nat
  forceIdr : Bool
  cur : Option ProxyPic
  seq : Nat
  ipId : Nat
  cpb : Nat
  cpbAt : Nat
  packets : Nat
  octets : Nat
  bytes : Nat
  queue : List ProxyPkt
  srcEnded : Bool
  deriving DecidableEq, Repr

/-! ## Memory (chapter 16) -/

/-- Poisoned bursts by address / 64; the lost channels, whose lines are poisoned but for the bursts in `healed`; corrected
reads in each channel's present second (channel, FREE at its start, count); uncorrectable lines likewise; the mapped line that
scrub reads next; neighbour activates not yet a unit of 1,024, by channel. -/
structure MemSt where
  poison : List Nat
  lost : List Nat
  healed : List Nat
  ceWin : List (Nat × Nat × Nat)
  ueWin : List (Nat × Nat × List Nat)
  scrub : Nat
  nref : List (Nat × Nat)
  deriving DecidableEq, Repr

/-! ## Ethernet and PTP (chapter 17) -/

/-- PTP port states of IEEE 1588. -/
inductive PtpState where
  | disabled | faulty | listening | master | passive | uncalibrated | slave
  deriving DecidableEq, Repr

/-- The roles of PTP_CONFIG (Table 17.4). -/
inductive PtpRole where
  | disabled | slaveOnly | masterCapable | boundary
  deriving DecidableEq, Repr

/-- An Ethernet port: PTP settings (domain, the four intervals, priorities, announceReceiptTimeout, source address words), the
port state, the last offset, mean path delay, grandmaster identity and stepsRemoved, the receive FIFO of (frame, stamp),
the frames queued for transmission, the transmit stamps of event messages as (message type, stamp). -/
structure NetPort where
  role : PtpRole
  domain : Nat
  intervals : List Int
  prio : List Nat
  timeout : Nat
  addr : List Nat
  state : PtpState
  offset : Int
  delay : Nat
  gm : Nat
  steps : Nat
  rx : List (List Byte × Nat)
  tx : List (Nat × List Byte)
  txStamps : List (Nat × Nat)
  lastFrame : List Byte
  deriving DecidableEq, Repr

/-! ## Peer ports (chapter 18) -/

/-- An acceptance (PEER_ACCEPT): kind 0 pictures, 1 offload; the partner's slot; the host output ring. -/
structure PeerAccept where
  kind : Nat
  slot : Nat
  ring : Nat
  deriving DecidableEq, Repr

/-- A partner's record stream hosted on a magazine port of this device (R347): the peer port it comes by, the partner's slot,
the magazine port, its stream number, the bytes not yet written with their address, the pieces on their way, the confirmed end, the PEER
chunks by address / 2 MiB. -/
structure Hosted where
  peer : Nat
  slot : Nat
  port : Nat
  snum : Nat
  addr : Nat
  buf : List Byte
  pieces : List PieceSt
  conf : Nat
  chunks : List (Nat × Nat)
  deriving DecidableEq, Repr

/-- A partner's read served here (R348): peer port, the partner's stream, the volume stream read, the next address to send, and that a read
is outstanding. -/
structure Served where
  peer : Nat
  takeId : Nat
  recStream : Nat
  port : Nat
  snum : Nat
  addr : Nat
  rate : Nat
  reading : Bool
  deriving DecidableEq, Repr

/-- A flit kept for resending (R343): its sequence, channel and payload. -/
structure SentFlit where
  seq : Nat
  channel : Nat
  payload : List Byte
  deriving DecidableEq, Repr

/-- A peer port: the partner's serial number, the next sequence to send and to expect, whether flits are discarded until it
arrives, NAKs received for one sequence, the flits kept, the credits held by channel, the acceptances, the offer that is
reserved as (magazine port, FREE, sum of D_s), the last sixteen control messages sent, the one-way delay in 0.1 ns, ALRT_I low, R_m of
the partner's port for this device's streams and of the port given to the partner, the payloads that wait for credit by channel, FREE since
one has waited, the arrivals in part as (kind, slot, bytes), and those complete as (host ring, bytes). -/
structure PeerPort where
  serial : Nat
  txSeq : Nat
  rxSeq : Nat
  gap : Bool
  nakSeq : Option Nat
  naks : Nat
  kept : List SentFlit
  credits : List Nat
  accepts : List PeerAccept
  offered : Option (Nat × Nat × Nat)
  sent : List (List Byte)
  delay : Nat
  failedPin : Bool
  pace : Nat
  hostPace : Nat
  txq : List (Nat × List Byte)
  waitAt : Option Nat
  parts : List (Nat × Nat × List Byte)
  inbox : List (Nat × List Byte)
  deriving DecidableEq, Repr

def MemSt.rest : MemSt := ⟨[], [], [], [], [], 0, []⟩
/-- An Ethernet port at reset: PTP not configured, the defaults of Table 17.3. -/
def NetPort.rest : NetPort :=
  { role := .disabled, domain := 127, intervals := [-2, -3, -3, 0], prio := [128, 128], timeout := 3, addr := [0, 0, 0, 0],
    state := .disabled, offset := 0, delay := 0, gm := 0, steps := 0, rx := [], tx := [], txStamps := [], lastFrame := [] }
def PeerPort.rest : PeerPort :=
  { serial := 0, txSeq := 0, rxSeq := 0, gap := false, nakSeq := none, naks := 0, kept := [], credits := [16, 512, 512, 256],
    accepts := [], offered := none, sent := [], delay := 0, failedPin := false, pace := 0, hostPace := 0,
    txq := [], waitAt := none, parts := [], inbox := [] }

end Sys2Proof.Machine
end

