-- ==== Sys2Proof/Machine/State.lean ====
section
/-! DEFINITION. The state of the block: its register space, its DRAM, the host memory that its posted writes fill,
what no register shows (`Core`), and the queue of the commands that wait. -/
namespace Sys2Proof.Machine

/-- What no register shows. Every table lists only the entries that differ from their value at rest. -/
structure Core where
  host : HostPort
  slots : List (Nat × Slot)
  take : Option Take
  armCount : Nat
  lehr : Lehr
  boot : Boot
  fault : FaultSt
  evts : List (Nat × EvtSrc)
  gafs : List (Nat × Gaffer)
  test : Option BoardTest
  jtag : Jtag
  flash : List Host.Cell
  flashCmd : Option (Nat × Nat)
  time : TimeSt
  lanes : List (Nat × Lane)
  heads : List (Nat × Head)
  allow : List Nat
  stageKey : Option (List Byte)
  recs : List (Nat × RecStream)
  tctx : List (Nat × TileCtx)
  encs : List (Nat × Pipe)
  decp : List (Nat × Pipe)
  rcLog : List (Word × Word)
  rings : List (Nat × Ring)
  chans : List (Nat × Chan)
  drr : List (Nat × Nat)
  cullet : Cullet
  mags : List (Nat × MagPort)
  exchange : Option Exchange
  decs : List (Nat × DecStream)
  proxies : List (Nat × ProxyStream)
  mem : MemSt
  nets : List (Nat × NetPort)
  peers : List (Nat × PeerPort)
  hosted : List Hosted
  served : List Served
  deriving DecidableEq, Repr

/-- The state: registers by byte address in BAR0, DRAM and host memory by byte address, the rest of the block, and the
commands that wait, first in first out. -/
structure State where
  regs : List (Nat × Word)
  dram : List Host.Cell
  hostMem : List Host.Cell
  core : Core
  pending : List Instr
  deriving DecidableEq, Repr

/-- The state while one command acts: the same registers and memories, with the command's writes collected. -/
structure Dev where
  core : Core
  regs : Overlay Word
  dram : Overlay Byte
  hostMem : Overlay Byte
  deriving DecidableEq, Repr

/-- Why a step may fault. No command of this block faults: the constructor is never raised, which is safe. -/
inductive Fault where
  | neverRaised
  deriving DecidableEq, Repr

/-- Why a step may be refused. `notModelled` is raised only by an arm of the dispatch whose command has no meaning yet;
that is safe, since nothing is claimed of it. -/
inductive Refusal where
  | notModelled (mnemonic : String)
  deriving DecidableEq, Repr

/-- A stream slot at rest. -/
def Resv.none : Resv := ⟨0, 0, 0, [], 0, 0, 0, 0, 0, 0, []⟩
def Slot.idle : Slot := ⟨.idle, 0, none, 0, 0, 0, 0, false, Resv.none⟩
/-- A mailbox at rest: the first pass carries PHASE 1 (R36). -/
def Mailbox.rest : Mailbox := ⟨[], 0, true, 0⟩
/-- An event source at rest. -/
def EvtSrc.rest : EvtSrc := ⟨false, none, 0⟩
/-- A Gaffer controller at rest. -/
def Gaffer.rest : Gaffer := ⟨false, 0, 0⟩
/-- A fault record at rest (Table 19.2). -/
def FaultRec.rest : FaultRec := ⟨false, false, false, 0, 0, 0, 0, 0, 0, 0, false, false, false⟩

/-- The host port at reset: D0, no read performed. -/
def HostPort.rest : HostPort := ⟨false, [], [], 0, [], 0, [], false, false, [], none, [], []⟩
/-- Lehr at power-on reset: no rail good, no enable driven (Table 20.5). -/
def Lehr.rest : Lehr := ⟨[], [], none, [], none, ⟨false, false, false, [], 0, false, false⟩, 0, 0, false, []⟩
/-- The fault collector at reset. -/
def FaultSt.rest : FaultSt := ⟨[], [], [], 0, [], [], [], none⟩
/-- The time base at reset: FREE 0, OFFSET 0, the reset rate of 1 ns per tick (R321 to R323). -/
def TimeSt.rest : TimeSt := ⟨0, 0, 0, 2 ^ 32, false, [], 0, [], none, none⟩
/-- JTAG at reset: BYPASS selected, the boundary-scan register all 0 (DESIGN CHOICE, log entry 30). -/
def Jtag.rest : Jtag := ⟨.bypass, [], 0, false, false⟩

/-- Everything that no register shows, right after a power-on reset. -/
def Core.reset : Core :=
  { host := HostPort.rest, slots := [], take := none, armCount := 0, lehr := Lehr.rest,
    boot := ⟨.sequencing, [], [], false, 0⟩, fault := FaultSt.rest, evts := [], gafs := [], test := none,
    jtag := Jtag.rest, flash := [], flashCmd := none, time := TimeSt.rest,
    lanes := [], heads := [], allow := [], stageKey := none, recs := [], tctx := [], encs := [], decp := [], rcLog := [],
    rings := [], chans := [], drr := [], cullet := Cullet.rest, mags := [], exchange := none, decs := [], proxies := [],
    mem := MemSt.rest, nets := [], peers := [], hosted := [], served := [] }

/-- The block right after a power-on reset, before any rail of the sequencer is good: every register at its reset
value (R25, Table 20.8a), no command waiting. -/
def State.reset : State := ⟨[], [], [], Core.reset, []⟩

/-- What a byte of DRAM or of host memory that nothing has written reads as: 0x00 (DESIGN CHOICE, log entry 2). -/
def memDefault (_ : Nat) : Byte := 0

/-- Begin a command: no write collected yet. -/
def State.begin (s : State) : Dev :=
  ⟨s.core, Overlay.start s.regs, Overlay.start s.dram, Overlay.start s.hostMem⟩

/-- The value a register store takes: bits that may change from `v`, every other bit at its reset value. -/
def regVal (a : Nat) (v : Word) : Word := (v &&& wrMask a) ||| (resetWord a &&& ~~~wrMask a)

/-- Apply the collected register writes, oldest first. -/
def commitRegs (m : List (Nat × Word)) (log : List (Nat × Word)) : List (Nat × Word) :=
  log.reverse.foldl (fun m kv => Sparse.set resetWord m kv.1 (regVal kv.1 kv.2)) m

/-- Apply everything a command wrote. The queue stays as it is. -/
def State.commit (s : State) (d : Dev) : State :=
  { regs := commitRegs s.regs d.regs.log, dram := Sparse.apply memDefault s.dram d.dram.log,
    hostMem := Sparse.apply memDefault s.hostMem d.hostMem.log, core := d.core, pending := s.pending }

end Sys2Proof.Machine
end

