-- ==== Sys2Proof/Machine/Ops.lean ====
section
/-! DEFINITION. The named operations on registers, memories and time that every meaning uses. -/
namespace Sys2Proof.Machine

/-! ## Fields of a register word -/

/-- The field's value in a register word. -/
def FieldRow.ext (r : FieldRow) (w : Word) : Nat := (w >>> r.lo).toNat % 2 ^ r.width

/-- The word with the field replaced. -/
def FieldRow.ins (r : FieldRow) (w : Word) (v : Nat) : Word :=
  (w &&& ~~~r.mask) ||| BitVec.ofNat 32 ((v % 2 ^ r.width) <<< r.lo)

/-- Bits [hi:lo] of a word. -/
def bitsNat (w : Word) (hi lo : Nat) : Nat := (w >>> lo).toNat % 2 ^ (hi + 1 - lo)

/-! ## Registers -/

/-- The register stored at a byte address of BAR0. -/
def Dev.reg (d : Dev) (a : Nat) : Word := d.regs.get resetWord a

/-- Store a register: bits that may not change keep their value. -/
def Dev.setReg (d : Dev) (a : Nat) (v : Word) : Dev := { d with regs := d.regs.put a (regVal a v) }

/-- A field of instance `i` of a kind of page; `n` is the register's place in an array. -/
def Dev.get (d : Dev) (k : PageKind) (i : Nat) (r : FieldRow) (n : Nat := 0) : Nat :=
  r.ext (d.reg (fieldAddr k i r n))

/-- Set a field. -/
def Dev.set (d : Dev) (k : PageKind) (i : Nat) (r : FieldRow) (v : Nat) (n : Nat := 0) : Dev :=
  d.setReg (fieldAddr k i r n) (r.ins (d.reg (fieldAddr k i r n)) v)

/-- Add to a counter that saturates at all ones. -/
def Dev.bump (d : Dev) (k : PageKind) (i : Nat) (r : FieldRow) (by_ : Nat := 1) (n : Nat := 0) : Dev :=
  d.set k i r (min (d.get k i r n + by_) (2 ^ r.width - 1)) n

/-- Lower a counter field. -/
def Dev.lower (d : Dev) (k : PageKind) (i : Nat) (r : FieldRow) (by_ : Nat := 1) (n : Nat := 0) : Dev :=
  d.set k i r (d.get k i r n - by_) n

/-- Add to a counter that counts modulo its width. -/
def Dev.wrap (d : Dev) (k : PageKind) (i : Nat) (r : FieldRow) (by_ : Nat := 1) (n : Nat := 0) : Dev :=
  d.set k i r (d.get k i r n + by_) n

/-- Raise a maximum field. -/
def Dev.raiseMax (d : Dev) (k : PageKind) (i : Nat) (r : FieldRow) (v : Nat) (n : Nat := 0) : Dev :=
  d.set k i r (max (d.get k i r n) (min v (2 ^ r.width - 1))) n

/-- A 64-bit counter held in two registers. -/
def Dev.bump64 (d : Dev) (k : PageKind) (i : Nat) (lo hi : FieldRow) (by_ : Nat) : Dev :=
  let v := d.get k i lo + 2 ^ 32 * d.get k i hi + by_
  (d.set k i lo v).set k i hi (v / 2 ^ 32)

/-! ## The common page header (Table 2.3) -/

/-- Is the header register at this offset of block scope (R24)? -/
def hdrBlock (off : Nat) : Bool := off = 0x008 ∨ off = 0x014 ∨ off = 0x018 ∨ off = 0x01C ∨ off = 0x020

/-- The first page of the block a page belongs to. -/
def firstPage (page : Nat) : Nat := match pageInfo page with
  | none => page
  | some p => p.first

/-- The home of a header register: a block-scope register lives on the block's first page. -/
def hdrAddr (page off : Nat) : Nat := (if hdrBlock off then firstPage page else page) * 4096 + off

/-- A header field of a page. -/
def Dev.hget (d : Dev) (page : Nat) (r : FieldRow) : Nat := r.ext (d.reg (hdrAddr page r.off))

/-- Set a header field of a page. -/
def Dev.hset (d : Dev) (page : Nat) (r : FieldRow) (v : Nat) : Dev :=
  d.setReg (hdrAddr page r.off) (r.ins (d.reg (hdrAddr page r.off)) v)

/-- Add to a header counter, which saturates. -/
def Dev.hbump (d : Dev) (page : Nat) (r : FieldRow) : Dev := d.hset page r (min (d.hget page r + 1) (2 ^ r.width - 1))

/-- Hardware sets status bits of a page: the bits are ORed in and SEQ advances by one, once for bits set together,
even if they were already 1 (R32). -/
def Dev.stat (d : Dev) (page : Nat) (bits : Nat) : Dev :=
  let w := d.reg (page * 4096 + 0x00C)
  d.setReg (page * 4096 + 0x00C)
    ((w &&& 0x00FFFFFF#32) ||| BitVec.ofNat 32 (bits % 2 ^ 24) |||
      BitVec.ofNat 32 (((w.toNat / 2 ^ 24 + 1) % 256) <<< 24))

/-- Set one PG_STAT.BLOCK bit of a page. -/
def Dev.statBit (d : Dev) (k : PageKind) (i b : Nat) : Dev := d.stat (k.page i) (2 ^ b)

/-- A discarded write (Table 2.11, HP_DROP_CNT). -/
def Dev.drop (d : Dev) : Dev := d.bump .hostport 0 fHP_DROP_CNT_DROPS

/-! ## Blocks (R355) -/

/-- The block index of a page. -/
def blockIdx (page : Nat) : Nat :=
  match pageInfo page with
  | none => 183
  | some p => match p.kind with
    | .device => 0 | .lehrPower => 1 | .lehrSupply => 2 | .config => 3
    | .fault0 | .fault1 | .fault2 | .fault3 => 4
    | .time => 5 | .net => 6 + p.inst | .event => 8 | .hostport => 9 | .gaffer => 10 + p.inst
    | .cullet0 | .cullet1 | .cullet2 | .cullet3 => 18
    | .marver0 | .marver1 | .marver2 | .marver3 => 19
    | .queue0 | .queueDb | .queueCh | .queueRest => 20
    | .mag => 21 + p.inst | .peer => 29 + p.inst | .mem => 32 + p.inst | .memctl => 42
    | .proxy => 43 + p.inst | .me => 47 + p.inst | .gather => 63 + p.inst | .enc => 95 + p.inst
    | .dec => 163 + p.inst

/-- The first page of a block. -/
def blockPage (b : Nat) : Nat :=
  if b < 5 then b
  else if b = 5 then 8
  else if b < 8 then 9 + (b - 6)
  else if b < 10 then b + 3
  else if b < 18 then 0x10 + (b - 10)
  else if b = 18 then 0x18 else if b = 19 then 0x1C else if b = 20 then 0x20
  else if b < 29 then 0x30 + (b - 21)
  else if b < 32 then 0x38 + (b - 29)
  else if b < 43 then 0x40 + (b - 32)
  else if b < 47 then 0x50 + (b - 43)
  else if b < 63 then 0x60 + (b - 47)
  else if b < 95 then 0x80 + (b - 63)
  else if b < 163 then 0xA0 + (b - 95)
  else 0xF0 + (b - 163)

/-- The page whose block lies in a power domain (Table 20.1); none: the domain has no page. -/
def domPage (n : Nat) : Option Nat :=
  if 1 ≤ n ∧ n ≤ 0x44 then some (0xA0 + (n - 1))
  else if 0x45 ≤ n ∧ n ≤ 0x58 then some (0xF0 + (n - 0x45))
  else if 0x59 ≤ n ∧ n ≤ 0x68 then some (0x60 + (n - 0x59))
  else if 0x69 ≤ n ∧ n ≤ 0x88 then some (0x80 + (n - 0x69))
  else if 0x89 ≤ n ∧ n ≤ 0x90 then some (0x10 + (n - 0x89))
  else if 0x91 ≤ n ∧ n ≤ 0x9A then some (0x40 + (n - 0x91))
  else if 0x9B ≤ n ∧ n ≤ 0xA2 then some (0x30 + (n - 0x9B))
  else if 0xA3 ≤ n ∧ n ≤ 0xA5 then some (0x38 + (n - 0xA3))
  else if 0xA6 ≤ n ∧ n ≤ 0xA7 then some (0x09 + (n - 0xA6))
  else if 0xA8 ≤ n ∧ n ≤ 0xAB then some (0x50 + (n - 0xA8))
  else if n = 0xC0 then some 0x0B
  else if n = 0xC1 then some 0x18
  else if n = 0xC2 then some 0x1C
  else if n = 0xC3 then some 0x20
  else if n = 0xC4 then some 0x0C
  else none

/-- The domain of a page; 0 for the always-on domain, 0xC9 for the spine. -/
def pageDom (page : Nat) : Nat := match pageInfo page with
  | none => 0xC9
  | some p => p.dom

/-- A domain's state (LP_DOMn.STATE): 0 on, 1 retention, 2 off. The always-on domain and the spine are on. -/
def Dev.domState (d : Dev) (n : Nat) : Nat :=
  if n = 0 ∨ n = 0xC9 then 0 else d.get .lehrPower 0 fLP_DOM_STATE n

/-- Is the block of a page held in reset (PG_PWR_STAT.RESET_BUSY)? -/
def Dev.inReset (d : Dev) (page : Nat) : Bool := d.hget page fPG_PWR_STAT_RESET_BUSY = 1

/-- A block operates: its domain is on, it is not in reset, and PG_CTL.ENABLE is 1. -/
def Dev.enabled (d : Dev) (page : Nat) : Bool :=
  d.domState (pageDom page) = 0 && !d.inReset page && decide (d.hget page fPG_CTL_ENABLE = 1)

/-! ## Memories -/

/-- A byte of DRAM. -/
def Dev.dramByte (d : Dev) (a : Nat) : Byte := d.dram.get memDefault a
/-- Write a byte of DRAM. -/
def Dev.setDram (d : Dev) (a : Nat) (b : Byte) : Dev := { d with dram := d.dram.put a b }
/-- Put bytes of DRAM from an address on. -/
def Dev.putDram (d : Dev) (a : Nat) : List Byte → Dev
  | [] => d
  | b :: bs => (d.setDram a b).putDram (a + 1) bs
/-- The channel that a 64-byte burst lies in while ten channels work (R310). -/
def burstChan (b : Nat) : Nat := b / 4 % 10
/-- Is a burst poisoned (R311, R314)? -/
def MemSt.poisoned (m : MemSt) (b : Nat) : Bool :=
  m.poison.contains b || (m.lost.contains (burstChan b) && !m.healed.contains b)
/-- A write of whole bursts clears their poison (R311). -/
def MemSt.heal (m : MemSt) (a n : Nat) : MemSt :=
  if m.poison.isEmpty ∧ m.lost.isEmpty then m
  else
    let b0 := (a + 63) / 64
    let b1 := (a + n) / 64
    let whole := ((List.range (b1 - b0)).map (b0 + ·)).filter m.poisoned
    { m with poison := m.poison.filter fun b => !whole.contains b,
             healed := m.healed ++ whole.filter fun b => m.lost.contains (burstChan b) }
/-- Write bytes of DRAM from an address on. -/
def Dev.writeDram (d : Dev) (a : Nat) (bs : List Byte) : Dev :=
  let d := d.putDram a bs
  { d with core := { d.core with mem := d.core.mem.heal a bs.length } }
/-- Read `n` bytes of DRAM. -/
def Dev.readDram (d : Dev) (a n : Nat) : List Byte := (List.range n).map fun i => d.dramByte (a + i)
/-- A byte of host memory as the block last wrote it. -/
def Dev.hostByte (d : Dev) (a : Nat) : Byte := d.hostMem.get memDefault a
/-- Write bytes of host memory from an address on. -/
def Dev.writeHost (d : Dev) (a : Nat) : List Byte → Dev
  | [] => d
  | b :: bs => ({ d with hostMem := d.hostMem.put a b } : Dev).writeHost (a + 1) bs

/-! ## Time (R321, R322, R325) -/

/-- FREE, in ticks of 1 ns. -/
def Dev.free (d : Dev) : Nat := d.core.time.free

/-- The reading of the time base at a value of FREE, in units of 2^-32 ns, 96 bits (R322). -/
def TimeSt.readingAt (t : TimeSt) (free : Nat) : Nat :=
  ((t.offset + ((free : Int) - t.freeR) * t.rate) % 2 ^ 96).toNat

/-- The reading now, in units of 2^-32 ns. -/
def Dev.reading (d : Dev) : Nat := d.core.time.readingAt d.core.time.free

/-- Time base nanoseconds: the integer part of the reading. -/
def Dev.now (d : Dev) : Nat := d.reading / 2 ^ 32

/-! ## Tables of the core -/

def Dev.slot (d : Dev) (n : Nat) : Slot := tget Slot.idle d.core.slots n
def Dev.setSlot (d : Dev) (n : Nat) (s : Slot) : Dev := { d with core := { d.core with slots := tset d.core.slots n s } }
def Dev.mbx (d : Dev) (m : Nat) : Mailbox := tget Mailbox.rest d.core.host.mailboxes m
def Dev.setMbx (d : Dev) (m : Nat) (x : Mailbox) : Dev :=
  { d with core := { d.core with host := { d.core.host with mailboxes := tset d.core.host.mailboxes m x } } }
def Dev.evt (d : Dev) (n : Nat) : EvtSrc := tget EvtSrc.rest d.core.evts n
def Dev.setEvt (d : Dev) (n : Nat) (e : EvtSrc) : Dev := { d with core := { d.core with evts := tset d.core.evts n e } }
def Dev.gaf (d : Dev) (n : Nat) : Gaffer := tget Gaffer.rest d.core.gafs n
def Dev.setGaf (d : Dev) (n : Nat) (g : Gaffer) : Dev := { d with core := { d.core with gafs := tset d.core.gafs n g } }
def Dev.frec (d : Dev) (src : Nat) : FaultRec := tget FaultRec.rest d.core.fault.recs src
def Dev.setFrec (d : Dev) (src : Nat) (r : FaultRec) : Dev :=
  { d with core := { d.core with fault := { d.core.fault with recs := tset d.core.fault.recs src r } } }
def Dev.lane (d : Dev) (n : Nat) : Lane := tget Lane.rest d.core.lanes n
def Dev.setLane (d : Dev) (n : Nat) (x : Lane) : Dev := { d with core := { d.core with lanes := tset d.core.lanes n x } }
def Dev.head (d : Dev) (n : Nat) : Head := tget Head.rest d.core.heads n
def Dev.setHead (d : Dev) (n : Nat) (x : Head) : Dev := { d with core := { d.core with heads := tset d.core.heads n x } }
def Dev.rec? (d : Dev) (n : Nat) : Option RecStream := d.core.recs.lookup n
def Dev.setRec (d : Dev) (n : Nat) (x : RecStream) : Dev := { d with core := { d.core with recs := tset d.core.recs n x } }
def Dev.enc (d : Dev) (n : Nat) : Pipe := tget Pipe.rest d.core.encs n
def Dev.setEnc (d : Dev) (n : Nat) (x : Pipe) : Dev := { d with core := { d.core with encs := tset d.core.encs n x } }
def Dev.decp (d : Dev) (n : Nat) : Pipe := tget Pipe.rest d.core.decp n
def Dev.setDecp (d : Dev) (n : Nat) (x : Pipe) : Dev := { d with core := { d.core with decp := tset d.core.decp n x } }
def Dev.ring (d : Dev) (n : Nat) : Ring := tget Ring.rest d.core.rings n
def Dev.setRing (d : Dev) (n : Nat) (x : Ring) : Dev := { d with core := { d.core with rings := tset d.core.rings n x } }
def Dev.chan (d : Dev) (n : Nat) : Chan := tget Chan.rest d.core.chans n
def Dev.setChan (d : Dev) (n : Nat) (x : Chan) : Dev := { d with core := { d.core with chans := tset d.core.chans n x } }
def Dev.mag (d : Dev) (n : Nat) : MagPort := tget MagPort.rest d.core.mags n
def Dev.setMag (d : Dev) (n : Nat) (x : MagPort) : Dev := { d with core := { d.core with mags := tset d.core.mags n x } }
def Dev.setCullet (d : Dev) (c : Cullet) : Dev := { d with core := { d.core with cullet := c } }
def Dev.dec? (d : Dev) (n : Nat) : Option DecStream := d.core.decs.lookup n
def Dev.setDec (d : Dev) (n : Nat) (x : DecStream) : Dev := { d with core := { d.core with decs := tset d.core.decs n x } }
def Dev.proxy? (d : Dev) (n : Nat) : Option ProxyStream := d.core.proxies.lookup n
def Dev.setProxy (d : Dev) (n : Nat) (x : ProxyStream) : Dev :=
  { d with core := { d.core with proxies := tset d.core.proxies n x } }
def Dev.net (d : Dev) (n : Nat) : NetPort := tget NetPort.rest d.core.nets n
def Dev.setNet (d : Dev) (n : Nat) (x : NetPort) : Dev := { d with core := { d.core with nets := tset d.core.nets n x } }
def Dev.peer (d : Dev) (n : Nat) : PeerPort := tget PeerPort.rest d.core.peers n
def Dev.setPeer (d : Dev) (n : Nat) (x : PeerPort) : Dev := { d with core := { d.core with peers := tset d.core.peers n x } }
/-- Change the memory channels' state. -/
def Dev.modMem (d : Dev) (f : MemSt → MemSt) : Dev := { d with core := { d.core with mem := f d.core.mem } }
/-- Change the host port. -/
def Dev.modHost (d : Dev) (f : HostPort → HostPort) : Dev := { d with core := { d.core with host := f d.core.host } }
/-- Change Lehr. -/
def Dev.modLehr (d : Dev) (f : Lehr → Lehr) : Dev := { d with core := { d.core with lehr := f d.core.lehr } }
/-- Change the fault collector. -/
def Dev.modFault (d : Dev) (f : FaultSt → FaultSt) : Dev := { d with core := { d.core with fault := f d.core.fault } }
/-- Change the time base. -/
def Dev.modTime (d : Dev) (f : TimeSt → TimeSt) : Dev := { d with core := { d.core with time := f d.core.time } }

/-- A fault source raises an event (R354); the collector takes it up when the command's own effect is done. Where the spec
gives a source no DETAIL or ADDR (Table 19.2), the word is a free value (DESIGN CHOICE, log entry 25). -/
def Dev.raise (d : Dev) (src : Nat) (mst : Nat := 0xC00) (access : Nat := 5) (detail : Option Nat := none)
    (addr : Option Nat := none) : Dev :=
  d.modFault fun f => { f with raised := f.raised ++
    [⟨src, mst, access, detail.getD (Config.faultDetail src d.free % 65536), addr.getD (Config.faultAddr src d.free % 2 ^ 64), false⟩] }

/-- The rails of a fault source are equal for two cycles: a path fault (R354). -/
def Dev.raisePath (d : Dev) (src : Nat) : Dev :=
  d.modFault fun f => { f with raised := f.raised ++ [⟨src, 0xC00, 0, 0, 0, true⟩] }

/-- A level cause begins to hold, and the source raises its event (Table 19.1). -/
def Dev.raiseLevel (d : Dev) (src : Nat) (mst : Nat := 0xC00) (detail : Option Nat := none) : Dev :=
  (d.setFrec src { d.frec src with level := true }).raise src mst 5 detail

/-- A level cause ends. -/
def Dev.endLevel (d : Dev) (src : Nat) : Dev := d.setFrec src { d.frec src with level := false }

/-- A mailbox command is carried out: its completion waits with a status and RESULT (R239). -/
def Dev.finishCmd (d : Dev) (m id status : Nat) (r0 r1 : Word := 0) : Dev :=
  let x := d.mbx m
  d.setMbx m { x with cmds := x.cmds.map fun c => if c.id = id then { c with stage := .done status r0 r1 } else c }

end Sys2Proof.Machine
end

