-- ==== Sys2Proof/Machine/FaultTable.lean ====
section
/-! DEFINITION. The fault sources (R355, R356, Tables 19.1 and 19.6): each source's block, class, PG_FLT group and kind of cause,
and the blocks whose events a reset quarantines. -/
namespace Sys2Proof.Machine

/-- A fault source: its block index, its class, its group in the block's PG_FLT, whether its cause is a level. -/
structure SrcInfo where
  block : Nat
  cls : Nat
  grp : Nat
  level : Bool
  deriving DecidableEq, Repr

/-- The source of a number (Table 19.1); none: reserved, never raised. -/
def srcInfo (n : Nat) : Option SrcInfo :=
  if n < 366 then some ⟨n / 2, n % 2, n % 2, false⟩
  else if n < 1390 then some ⟨63 + (n - 366) / 32, 3, 4, true⟩
  else if n < 1422 then some ⟨63 + (n - 1390), 4, 5, false⟩
  else if n < 1454 then some ⟨63 + (n - 1422), 5, 6, false⟩
  else if n < 1658 then
    let i := n - 1454
    some ⟨95 + i / 3, if i % 3 = 0 then 6 else if i % 3 = 1 then 7 else 5, 4 + i % 3, false⟩
  else if n < 1718 then
    let i := n - 1658
    some ⟨163 + i / 3, if i % 3 = 0 then 6 else if i % 3 = 1 then 8 else 5, 4 + i % 3, false⟩
  else if n < 1734 then some ⟨47 + (n - 1718), 5, 4, false⟩
  else if n < 1750 then
    let i := n - 1734
    some ⟨10 + i / 2, if i % 2 = 0 then 9 else 5, 4 + i % 2, i % 2 = 0⟩
  else if n < 1780 then
    let i := n - 1750
    some ⟨32 + i / 3, 10 + i % 3, 4 + i % 3, i % 3 = 2⟩
  else if n < 1796 then
    let i := n - 1780
    some ⟨21 + i / 2, 13, 4 + i % 2, i % 2 = 0⟩
  else if n < 1799 then some ⟨29 + (n - 1796), 14, 4, true⟩
  else if n < 1803 then some ⟨43 + (n - 1799), 15, 4, false⟩
  else if n < 1805 then some ⟨20, 16, 4 + (n - 1803), false⟩
  else if n = 1805 then some ⟨18, 16, 4, false⟩
  else if n = 1806 then some ⟨5, 12, 4, true⟩
  else if n = 1807 then none
  else if n < 1991 then some ⟨n - 1808, 2, 2, false⟩
  else if n < 1995 then some ⟨0, 5, 4, false⟩
  else if n < 2011 then some ⟨2, 17, 4, true⟩
  else if n < 2043 then some ⟨63 + (n - 2011), 14, 7, true⟩
  else if n < 2051 then some ⟨2, 18, 5, true⟩
  else if n < 2053 then some ⟨6 + (n - 2051), 14, 4, false⟩
  else none

/-- The class of a source. -/
def srcClass (n : Nat) : Nat := ((srcInfo n).map (·.cls)).getD 31

/-- The block of a source; 183: none. -/
def srcBlock (n : Nat) : Nat := ((srcInfo n).map (·.block)).getD 183

/-- MCHK, BOUND, VERIFY, LOCK and MEMUE always capture a full record (R357). -/
def alwaysFull (n : Nat) : Bool :=
  (n < 366 && n % 2 = 1) || (1454 ≤ n && n < 1658 && (n - 1454) % 3 ≠ 2) || (1658 ≤ n && n < 1718 && (n - 1658) % 3 ≠ 2) ||
    (1750 ≤ n && n < 1780 && (n - 1750) % 3 = 1)

/-- A source captures a full record (R357, R369). -/
def Dev.fullCapture (d : Dev) (n : Nat) : Bool := alwaysFull n || (d.get .fault1 0 fFC_FULL_FULL (n / 32)).testBit (n % 32)

/-- PG_FLT.GROUP of a block (R356): the groups with a source in fault state, and bit 3 while any source of the block holds a
path fault; for the FAULT block, the classes with a source in fault state. -/
def Dev.pgFlt (d : Dev) (b : Nat) : Nat :=
  d.core.fault.recs.foldl (fun a p => match srcInfo p.1 with
    | none => a
    | some i =>
      if b = 4 then (if p.2.state then a ||| 2 ^ i.cls else a)
      else if i.block ≠ b then a
      else (if p.2.state then a ||| 2 ^ i.grp else a) ||| (if p.2.path then 8 else 0)) 0

/-! ## Quadrants and neighbours -/

/-- The quadrant of a block (Table 1.4); none: outside the quadrants. -/
def blockQuad (b : Nat) : Option Nat :=
  if 10 ≤ b ∧ b < 18 then some ((b - 10) / 2)
  else if 47 ≤ b ∧ b < 63 then some ((b - 47) / 4)
  else if 63 ≤ b ∧ b < 95 then some ((b - 63) / 8)
  else if 95 ≤ b ∧ b < 159 then some ((b - 95) / 16)
  else if 159 ≤ b ∧ b < 163 then some (b - 159)
  else if 163 ≤ b ∧ b < 179 then some ((b - 163) / 4)
  else if 179 ≤ b ∧ b < 183 then some (b - 179)
  else none

/-- The blocks of a quadrant. -/
def quadBlocks (q : Nat) : List Nat := (List.range 183).filter fun b => blockQuad b = some q

/-- The encode pipelines of a cluster, its motion search engine, and a spare that holds the role of one of them, as blocks. -/
def Dev.clusterBlocks (d : Dev) (c : Nat) : List Nat :=
  let q := c / 4
  let sp := if d.get .fault3 0 fFC_ESPARE_IN_USE q = 1 ∧ d.get .fault3 0 fFC_ESPARE_ROLE q / 4 = c then [159 + q] else []
  ((List.range 4).map fun i => 95 + 4 * c + i) ++ sp

/-- The direct neighbours of a block that is reset (Table 19.6). -/
def Dev.neighbours (d : Dev) (b : Nat) : List Nat :=
  if 95 ≤ b ∧ b < 159 then
    let c := (b - 95) / 4
    (d.clusterBlocks c).filter (· ≠ b) ++ [47 + c, 159 + (b - 95) / 16, 18, 19]
  else if 159 ≤ b ∧ b < 163 then
    let q := b - 159
    if d.get .fault3 0 fFC_ESPARE_IN_USE q = 1 then
      let c := d.get .fault3 0 fFC_ESPARE_ROLE q / 4
      (d.clusterBlocks c).filter (· ≠ b) ++ [47 + c, 18, 19]
    else [18, 19]
  else if 163 ≤ b ∧ b < 183 then
    let q := if b < 179 then (b - 163) / 4 else b - 179
    (((List.range 4).map fun i => 163 + 4 * q + i) ++ [179 + q]).filter (· ≠ b) ++ [18, 42]
  else if 47 ≤ b ∧ b < 63 then d.clusterBlocks (b - 47)
  else if 63 ≤ b ∧ b < 95 then
    let k := b - 63
    let q := k / 8
    ((if k % 8 = 0 then [] else [b - 1]) ++ if k % 8 = 7 then [] else [b + 1]) ++
      ((List.range 16).map fun i => 95 + 16 * q + i) ++ [159 + q]
  else if 10 ≤ b ∧ b < 18 then [8, if (b - 10) % 2 = 0 then b + 1 else b - 1]
  else if 32 ≤ b ∧ b < 42 then
    42 :: ((List.range 5).map fun i => 32 + 5 * ((b - 32) / 5) + i).filter (· ≠ b)
  else if 21 ≤ b ∧ b < 29 then [20, 18, if b < 25 then 12 else 16, if b < 25 then 13 else 17]
  else if 29 ≤ b ∧ b < 32 then [20, 18, 5]
  else if 43 ≤ b ∧ b < 47 then [6, 7]
  else []

/-- The blocks that a quarantine window covers (R364). -/
def Dev.windowBlocks (d : Dev) (w : QuarWin) : List Nat := match w.quadrant with
  | some q => quadBlocks q ++ [18, 19, 20, 8]
  | none => w.block :: d.neighbours w.block

/-- An open window covers the block. -/
def Dev.quarantined (d : Dev) (b : Nat) : Bool := d.core.fault.windows.any fun w => (d.windowBlocks w).contains b

end Sys2Proof.Machine
end

