-- ==== Sys2Proof/Machine/DecodeTile.lean ====
section
/-! DEFINITION. Decoding a tile (R105, R172 to R185): segments are parsed with the damage conditions of Table 8.12,
and planes, guard values and exhausted values are reconstructed. A failure names its cause and detail (Table 10.3);
the detail of cause 0x06 is the byte offset within the tile of the field or segment in which it is found. -/
namespace Sys2Proof.Machine

/-- What a decoder gets from a tile, or the cause and detail of its damage. -/
abbrev TileDec := Except (Nat × Nat) (Array Int × List Pu)

/-- One vector of a PU (R149, R183). -/
def readVec (l : List (Int × Int)) (r : BitR) : Option ((Int × Int) × BitR) := do
  let (k, r) ← r.read (mvpBits l.length)
  let (dx, r) ← r.rice ctxMvdx
  let (dy, r) ← r.rice ctxMvdy
  if l.length ≤ k then none
  else
    let e := l.getD k (0, 0)
    let v := (e.1 + mvdUnmap dx, e.2 + mvdUnmap dy)
    if mvInRange v then some (v, r) else none

/-- The elements of one PU (R183); none is damage with cause 0x07. -/
def readPu (nref : Nat) (refA : Option RefPic) (pos : TilePos) (gmv : Int × Int) (before : Array Pu) (pw i : Nat) (r : BitR) :
    Option (Pu × BitR) := do
  let (inter, r) ← r.read 1
  if inter = 0 then pure (⟨false, 0, (0, 0), (0, 0)⟩, r)
  else
    let (dir, r) ← if nref = 2 then r.read 2 else pure (0, r)
    if dir = 3 then none
    else
      let tmp := temporalPu refA pos i
      let (a, r) ← if dir ≠ 1 then readVec (mvList (mvCandidates before pw i tmp gmv 0)) r else pure ((0, 0), r)
      let (b, r) ← if dir ≥ 1 then readVec (mvList (mvCandidates before pw i tmp gmv 1)) r else pure ((0, 0), r)
      pure (⟨true, dir, a, b⟩, r)

/-- What reading a plane keeps: reader, blocks, reconstruction, PUs read. -/
structure PlaneSt where
  r : BitR
  blocks : Array BlockChoice
  recon : Grid
  pus : Array Pu
  deriving DecidableEq, Repr

/-- One block of a plane: PU elements in plane 0, mode, levels, reconstruction. `off` is the segment's offset. -/
def decodeBlockStep (t : TileParams) (p off : Nat) (pus : Array Pu) (s : PlaneSt) (i : Nat) :
    Except (Nat × Nat) PlaneSt :=
  let bw := t.g.wc t.pos.c / 8
  let bx := i % bw
  let byy := i / bw
  let pw := cdiv (8 * bw) 16
  let pi := puOfBlock pw bx byy
  let withPu : Except (Nat × Nat) PlaneSt :=
    if p = 0 ∧ t.nref > 0 ∧ bx % 2 = 0 ∧ byy % 2 = 0 then
      match readPu t.nref t.refA t.pos t.gmv s.pus pw pi s.r with
      | none => .error (7, pi)
      | some (pu, r) => .ok { s with r := r, pus := s.pus.push pu }
    else .ok s
  match withPu with
  | .error e => .error e
  | .ok s =>
    let pu := (if p = 0 then s.pus else pus).getD pi ⟨false, 0, (0, 0), (0, 0)⟩
    let dflt : BlockChoice := ⟨0, false, #[]⟩
    let mp := if bx > 0 then (s.blocks.getD (i - 1) dflt).mode
      else if byy > 0 then (s.blocks.getD (i - bw) dflt).mode else 0
    let prev := if i = 0 then 0 else ((s.blocks.getD (i - 1) dflt).levels.getD 0 0).natAbs
    match readMode s.r mp with
    | none => .error (6, off)
    | some (mode, r) =>
      if mode > 8 ∨ (mode = 8 ∧ !(pu.inter && decide (t.nref > 0))) then .error (6, off)
      else match r.read 1 with
        | none => .error (6, off)
        | some (tsb, r) =>
          match readLevels (tsb = 1) prev 64 0 (Array.replicate 64 0) r with
          | none => .error (6, off)
          | some (ls, r) =>
            let n := neighbours s.recon (t.g.mid p) bw bx byy
            let x0 := t.pos.c * (t.g.tW / t.g.cellW) + 8 * bx
            let y0 := t.pos.r * (t.g.hT / t.g.cellH) + 8 * byy
            let pred := if mode = 8 then blockOf fun x y => puCell t.g t.refA t.refB p pu (x0 + x) (y0 + y)
              else predBlock mode n
            let res := residual t.g.d (qpPlane t.qpBase t.pqo p) (tsb = 1) ls.toList
            let vals := (pred.zip res).map fun z => clampI (t.g.lo p) (t.g.hi p) (z.1 + z.2)
            .ok { s with r := r, blocks := s.blocks.push ⟨mode, tsb = 1, ls⟩, recon := s.recon.setBlock bx byy vals }

/-- One plane segment. -/
def decodePlane (t : TileParams) (p off : Nat) (seg : List Byte) (pus : Array Pu) : Except (Nat × Nat) (Grid × Array Pu) :=
  let bw := t.g.wc t.pos.c / 8
  let bh := t.g.hc t.pos.r / 8
  let s0 : PlaneSt := ⟨⟨bitsOf seg, planeCtxs⟩, #[], ⟨8 * bw, Array.replicate (64 * bw * bh) 0⟩, #[]⟩
  match (List.range (bw * bh)).foldlM (decodeBlockStep t p off pus) s0 with
  | .error e => .error e
  | .ok s => if s.r.padOk then .ok (s.recon, s.pus) else .error (6, off)

/-- The guard segment of a tile. -/
def decodeGuard (g : Geo) (pos : TilePos) (bound : Nat) (seg : List Byte) : Except (Nat × Nat) (List (Nat × Int)) :=
  if seg.isEmpty then .ok []
  else
    let r : BitR := ⟨bitsOf seg, guardCtxs⟩
    match r.read 18 with
    | none => .error (8, 0)
    | some (n, r) =>
      if n = 0 then .error (8, 0)
      else match readGuards (g.wReal pos.c * g.hReal pos.r) (guardLimit g.d bound) n 0 r [] with
        | none => .error (8, 0)
        | some (gs, r) => if r.padOk then .ok gs else .error (8, n)

/-- The five length words and segments after a tile header: (offset, segment), or the offset at which they break off. -/
def splitSegs : Nat → Nat → List Byte → Option (List (Nat × List Byte))
  | 0, _, bs => if bs.isEmpty then some [] else none
  | n + 1, off, bs =>
    let len := fieldLe bs 0 4
    if bs.length < 4 + len then none
    else (splitSegs n (off + 4 + len) (bs.drop (4 + len))).map fun l => (off + 4, (bs.drop 4).take len) :: l

/-- Decode a bounded tile; `t.qpBase` is replaced by the tile's own. -/
def decodeBounded (t : TileParams) (bs : List Byte) : TileDec :=
  if fieldLe bs 0 4 ≥ 64 then .error (6, 0)
  else
    let t := { t with qpBase := fieldLe bs 0 1 }
    match splitSegs 5 4 (bs.drop 4) with
    | none => .error (6, 4)
    | some segs =>
      let seg := fun i => segs.getD i (0, [])
      let badLen := (List.range 4).any fun i => ((seg i).2.length % 4 ≠ 0) || (if i < t.g.planes then (seg i).2.isEmpty else !(seg i).2.isEmpty)
      if badLen ∨ (seg 4).2.length % 4 ≠ 0 then .error (6, 4)
      else
        let step : List Grid × Array Pu → Nat → Except (Nat × Nat) (List Grid × Array Pu) := fun acc p =>
          match decodePlane t p (seg p).1 (seg p).2 acc.2 with
          | .error e => .error e
          | .ok (gr, pus) => .ok (acc.1 ++ [gr], if p = 0 then pus else acc.2)
        match (List.range t.g.planes).foldlM step (([], #[]) : List Grid × Array Pu) with
        | .error e => .error e
        | .ok (pl, pus) =>
          match decodeGuard t.g t.pos t.bound (seg 4).2 with
          | .error e => .error e
          | .ok gs => .ok (guardOutput t.g.d t.bound (t.g.tileSamples t.pos pl).1 gs, pus.toList)

/-- Values of n bits each; missing bits count 0. -/
def takeVals (n : Nat) : Nat → List Bool → List Nat
  | 0, _ => []
  | k + 1, bs => (bs.take n).foldl (fun a b => 2 * a + (if b then 1 else 0)) 0 :: takeVals n k (bs.drop n)

/-- Decode an exhausted tile (R185). -/
def decodeExhausted (g : Geo) (pos : TilePos) (bs : List Byte) : TileDec :=
  let bw := g.wc pos.c / 8
  let bh := g.hc pos.r / 8
  let nb := bw * bh
  let bits := nb * g.planes * (g.d + 1)
  let body := bitsOf (bs.drop 4)
  if bs.length ≠ 4 + 4 * cdiv bits 32 ∨ fieldLe bs 0 4 ≠ 0 ∨ (body.drop bits).any id then .error (9, 0xFFFFFFFF)
  else
    let vals := takeVals (g.d + 1) (nb * g.planes) body
    let means := (List.range g.planes).map fun p =>
      ((vals.drop (p * nb)).take nb).map fun (v : Nat) => if g.signed p then (v : Int) - 2 ^ g.d else (v : Int)
    let bad := (List.range (nb * g.planes)).find? fun i =>
      let m := (means.getD (i / nb) []).getD (i % nb) 0
      decide (m < g.lo (i / nb) ∨ g.hi (i / nb) < m)
    match bad with
    | some i => .error (9, (i / nb) * 2 ^ 28 + i % nb)
    | none => .ok ((g.tileSamples pos (exhPlanes means bw bh)).1, [])

/-- Decode a Tile Row body's tiles against the row it must be (Table 8.12); `t.pos.c` and `t.bound` are replaced.
The result is the row for the reference pool. An error names cause, tile column and detail; column 0x7F stands for
the row as a whole. -/
def decodeRow (t : TileParams) (body : List Byte) : Except (Nat × Nat × Nat) RefRow :=
  let g := t.g
  let bound := fieldLe body 6 2
  let nt := fieldLe body 8 2
  if fieldLe body 0 4 ≠ t.pic ∨ fieldLe body 4 2 ≠ t.pos.r then .error (6, 0x7F, 0)
  else if fieldLe body 14 2 ≠ 0 then .error (6, 0x7F, 14)
  else if 2 ^ (g.d - 3) ≤ bound ∧ bound < 0xFFFE then .error (6, 0x7F, 6)
  else if bound = 0xFFFE then
    if nt ≠ 0 then .error (6, 0x7F, 8)
    else if body.length ≠ 16 then .error (6, 0x7F, 16)
    else .ok ⟨0xFFFE, [], []⟩
  else if nt ≠ g.tcols then .error (6, 0x7F, 8)
  else
    let lens := (List.range nt).map fun c => fieldLe body (16 + 4 * c) 4
    if body.length ≠ 16 + 4 * nt + lens.foldl (· + ·) 0 ∨ lens.any (fun l => l % 4 ≠ 0) then .error (6, 0x7F, 16)
    else
      let step : Nat × RefRow → Nat → Except (Nat × Nat × Nat) (Nat × RefRow) := fun acc c =>
        let bs := (body.drop acc.1).take (lens.getD c 0)
        let pos : TilePos := ⟨t.pos.r, c⟩
        let d := if bound = 0xFFFF then decodeExhausted g pos bs else decodeBounded { t with pos := pos, bound := bound } bs
        match d with
        | .error (cause, det) => .error (cause, c, if cause = 6 then acc.1 + det else det)
        | .ok (s, pus) => .ok (acc.1 + lens.getD c 0, { acc.2 with tiles := acc.2.tiles ++ [s], pus := acc.2.pus ++ [pus] })
      match (List.range nt).foldlM step ((16 + 4 * nt, ⟨bound, [], []⟩) : Nat × RefRow) with
      | .error e => .error e
      | .ok (_, row) => .ok row

end Sys2Proof.Machine
end

