-- ==== Sys2Proof/Machine/Power.lean ====
section
/-! DEFINITION. Power domains (R371 to R377), and the event controller's sources (R241 to R243), which wake them. -/
namespace Sys2Proof.Machine

/-! ## Streams and domains -/

/-- A stream that holds its reservation: ARMED, RUNNING or DRAINING. -/
def SState.live : SState → Bool
  | .armed | .running | .draining => true
  | _ => false

/-- The slots whose stream is live, in ascending order. -/
def Dev.liveSlots (d : Dev) : List (Nat × Slot) := d.core.slots.filter fun p => p.2.state.live

/-- A stream is placed on the domain, or is served by its controller (R55, R243, LP_DOMn.BUSY). -/
def Dev.domBusy (d : Dev) (n : Nat) : Bool :=
  d.liveSlots.any fun p => p.2.resv.doms.contains n || decide (n = 0x89 + p.2.ctl)

/-- Retention is allowed for every numbered domain but the spine (Table 20.1). -/
def retainable (n : Nat) : Bool := 1 ≤ n ∧ n ≤ 0xC8

/-- Off is allowed as Table 20.1 states; for a DDR5 channel only when it is retired. -/
def Dev.offable (d : Dev) (n : Nat) : Bool :=
  if 0x91 ≤ n ∧ n ≤ 0x9A then d.get .mem (n - 0x91) fMEM_STAT_STATE = 4
  else (1 ≤ n ∧ n ≤ 0xBF) ∨ (0xC5 ≤ n ∧ n ≤ 0xC8)

/-! ## Event sources -/

/-- Is the source external (Table 12.7)? -/
def evtExternal (n : Nat) : Bool := (96 ≤ n ∧ n < 104) ∨ (107 ≤ n ∧ n < 110) ∨ (128 ≤ n ∧ n < 136)

/-- A Gaffer controller runs: firmware running and not halted, its domain on and out of reset. -/
def Dev.gafRuns (d : Dev) (c : Nat) : Bool :=
  d.get .gaffer c fGF_STAT_RUNNING = 1 ∧ d.get .gaffer c fGF_STAT_HALTED = 0

/-- The admission holder: the controller whose HOLDER bit reads 1 (R236). -/
def Dev.holder (d : Dev) : Option Nat := (List.range 8).find? fun c => d.get .gaffer c fGF_STAT_HOLDER = 1

/-- The target controller of an event source (Table 12.7): fixed for the mailboxes, the mode request and the
doorbells, EVT_SRCn.TARGET otherwise. -/
def Dev.evtTarget (d : Dev) (n : Nat) : Nat :=
  if n < 16 then d.get .hostport 0 fMBX_CFG_TARGET n
  else if n = 119 then d.holder.getD 0
  else if 120 ≤ n ∧ n < 128 then n - 120
  else d.get .event 0 fEVT_SRC_TARGET n

/-- The controller whose pending view shows the source: the old target while a retarget waits (R242). -/
def Dev.evtView (d : Dev) (n : Nat) : Nat := (d.evt n).oldTarget.getD (d.evtTarget n)

/-- The source is pending and enabled, so that its target sees it. -/
def Dev.evtSeen (d : Dev) (n : Nat) : Bool :=
  d.get .event 0 fEVT_SRC_PEND n = 1 ∧ d.get .event 0 fEVT_SRC_ENABLE n = 1

/-- A controller's pending view, by source number. -/
def Dev.pendView (d : Dev) (c : Nat) : List Nat :=
  (List.range 136).filter fun n => d.evtSeen n && d.evtView n = c

/-! ## Refusals, entries and wakes -/

/-- Count a refused or aborted entry with its refuser code (Table 2.6). -/
def Dev.refuseEntry (d : Dev) (n code : Nat) : Dev :=
  (d.bump .lehrPower 0 fLP_REF_REFUSALS 1 n).set .lehrPower 0 fLP_REF_REFUSER code n

/-- The controller of a Gaffer domain. -/
def gafOfDom (n : Nat) : Option Nat := if 0x89 ≤ n ∧ n ≤ 0x90 then some (n - 0x89) else none

/-- An event is pending for the domain (R374): for a controller its view is not empty, for EVENT a source is pending or
a controller is awake (R243). -/
def Dev.domEvent (d : Dev) (n : Nat) : Bool :=
  match gafOfDom n with
  | some c => !(d.pendView c).isEmpty
  | none =>
    if n = 0xC0 then
      ((List.range 136).any fun s => d.evtSeen s) || ((List.range 8).any fun c => d.domState (0x89 + c) = 0)
    else false

/-- Work in hand in the domain: a routine of a pipeline, a handler of a controller, commands of a magazine port. -/
def Dev.domWork (d : Dev) (n : Nat) : Bool :=
  if 1 ≤ n ∧ n ≤ 0x44 then d.get .enc (n - 1) fMC_STAT_BUSY = 1
  else if 0x45 ≤ n ∧ n ≤ 0x58 then d.get .dec (n - 0x45) fMC_STAT_BUSY = 1
  else if 0x89 ≤ n ∧ n ≤ 0x90 then (d.gaf (n - 0x89)).busy
  else if 0x9B ≤ n ∧ n ≤ 0xA2 then
    d.get .mag (n - 0x9B) fMAG_OUTST_READS ≠ 0 ∨ d.get .mag (n - 0x9B) fMAG_OUTST_WRITES ≠ 0
  else false

/-- The domain is idle (R374). -/
def Dev.domIdle (d : Dev) (n : Nat) : Bool := !d.domWork n && !d.domBusy n && !d.domEvent n

/-- QUIESCED of a page's block (Table 2.5): QUIESCE is set and no work is in hand. -/
def Dev.quiesced (d : Dev) (page : Nat) : Bool := decide (d.hget page fPG_CTL_QUIESCE = 1) && !d.domWork (pageDom page)

/-- QUIESCED of the domain's block; a domain without a page has none to wait for. -/
def Dev.domQuiesced (d : Dev) (n : Nat) : Bool := match domPage n with
  | some p => d.quiesced p
  | none => true

/-- Why an entry is refused (R372, R374); none: it may begin. A channel with mapped lines refuses off with PENDING_EVENT (R317). -/
def Dev.judgeEntry (d : Dev) (n target : Nat) : Option Nat :=
  if target = 2 ∧ 0x91 ≤ n ∧ n ≤ 0x9A ∧ !d.offable n then some 0xFF02
  else if !(if target = 1 then retainable n else d.offable n) then some n
  else if d.domBusy n || d.domEvent n then some 0xFF02
  else if target = 2 ∧ !d.domQuiesced n then some 0xFF04
  else none

/-- Is an entry of the domain under way? -/
def Dev.enteringOf (d : Dev) (n : Nat) : Option DomMove := d.core.lehr.entering.find? fun m => m.dom = n

/-- Begin an entry. -/
def Dev.beginEntry (d : Dev) (n target : Nat) : Dev :=
  d.modLehr fun l => { l with entering := l.entering ++ [⟨n, target, false, d.free, none⟩] }

/-- A request for a low-power state: refused and counted, or begun once the domain is idle. A request that finds work in
hand waits for the next idle moment (R374). -/
def Dev.requestEntry (d : Dev) (n target : Nat) : Dev :=
  if d.domState n = target ∨ (d.enteringOf n).isSome then d
  else match d.judgeEntry n target with
    | some code => d.refuseEntry n code
    | none => if d.domState n = 0 ∧ d.domIdle n then d.beginEntry n target else d

/-- Abort the entries of a group or of one domain (R376, R377): the domain stays on; a group is rolled back whole, and
every member counts the refusal. -/
def Dev.abortEntry (d : Dev) (n code : Nat) : Dev :=
  let ms := d.core.lehr.groupMembers
  if ms.contains n then
    let d := d.modLehr fun l => { l with entering := l.entering.filter (fun m => !ms.contains m.dom), groupMembers := [] }
    let d := ms.foldl (fun (d : Dev) m => d.refuseEntry m code) d
    let d := (d.set .lehrPower 0 fLP_CLSTAT_RESULT 2).set .lehrPower 0 fLP_CLSTAT_REFUSER code
    (d.bump .lehrPower 0 fLP_CLCNT_ROLLED_BACK).statBit .lehrPower 0 1
  else
    (d.modLehr fun l => { l with entering := l.entering.filter fun m => m.dom ≠ n }).refuseEntry n code

/-- A wake source acts on one domain (R375, R376): in the cycle of an entry's request the wake wins and the entry is
aborted with WAKE_RACE; later it waits for the entry; a sleeping domain begins its exit. -/
def Dev.wakeOne (d : Dev) (n src : Nat) : Dev :=
  match d.enteringOf n with
  | some m =>
    if m.since = d.free then (d.abortEntry n 0xFF01).bump .lehrPower 0 fLP_WAKE_CNT_RACES
    else d.modLehr fun l => { l with entering := l.entering.map fun x => if x.dom = n then { x with wake := some src } else x }
  | none =>
    if d.domState n = 0 ∨ (d.core.lehr.exiting.any fun m => m.dom = n) then d
    else
      let d := d.modLehr fun l => { l with exiting := l.exiting ++ [⟨n, 0, d.domState n = 2, d.free, none⟩] }
      let d := d.bump .lehrPower 0 fLP_WAKE_CNT_WAKES
      (d.set .lehrPower 0 fLP_LAST_WAKE_SOURCE src).set .lehrPower 0 fLP_LAST_WAKE_DOMAIN n

/-- The event controller takes up an assertion: PEND rises and COUNT counts, saturating at 15 (R241). -/
def Dev.evtCount (d : Dev) (n : Nat) : Dev :=
  let d := if d.get .event 0 fEVT_SRC_COUNT n = 15 then (d.bump .event 0 fEVT_CNT_SATURATED).statBit .event 0 0 else d
  let d := if d.get .event 0 fEVT_SRC_PEND n = 1 then d else d.setEvt n { d.evt n with since := d.free }
  (d.bump .event 0 fEVT_SRC_COUNT 1 n).set .event 0 fEVT_SRC_PEND 1 n

/-- A source that became pending meets its target's sleep (R243, Table 12.9 case 3). -/
def Dev.evtTargetSleep (d : Dev) (n : Nat) : Dev :=
  let dom := 0x89 + d.evtView n
  if d.get .event 0 fEVT_SRC_ENABLE n = 0 then d
  else if d.get .event 0 fEVT_SRC_WATCH n = 1 then
    if d.domState dom ≠ 0 ∨ (d.enteringOf dom).isSome then
      ((d.wakeOne dom 7).bump .event 0 fEVT_WAKES_WAKES).statBit .event 0 1
    else d
  else match d.enteringOf dom with
    | some m => if m.since = d.free then d.abortEntry dom 0xFF02 else d
    | none => d

/-- An event source asserts (R241, R243): while EVENT sleeps the source keeps its level, and a watched one wakes EVENT
and its target; otherwise the assertion is counted and a sleeping target judged. -/
def Dev.assertEvt (d : Dev) (n : Nat) : Dev :=
  let d := d.setEvt n { d.evt n with level := true }
  if d.domState 0xC0 ≠ 0 then
    if d.get .event 0 fEVT_SRC_WATCH n = 1 then (d.wakeOne 0xC0 7).wakeOne (0x89 + d.evtView n) 7 else d
  else (d.evtCount n).evtTargetSleep n

/-- An event source's level falls: the pending bit falls with it (R241). -/
def Dev.releaseEvt (d : Dev) (n : Nat) : Dev :=
  (d.setEvt n { d.evt n with level := false }).set .event 0 fEVT_SRC_PEND 0 n

/-- EVENT returns from retention: the levels that its sources hold are seen (R243). -/
def Dev.evtResume (d : Dev) : Dev :=
  (List.range 136).foldl (fun (d : Dev) n =>
    if (d.evt n).level && d.get .event 0 fEVT_SRC_PEND n = 0 then (d.evtCount n).evtTargetSleep n else d) d

/-- Lehr wakes a domain and tells the firmware (source 118). -/
def Dev.wakeDom (d : Dev) (n src : Nat) : Dev :=
  if d.domState n = 0 ∧ (d.enteringOf n).isNone then d else (d.wakeOne n src).assertEvt 118

/-- The quadrant of a GATHER bank (Table 1.4). -/
def bankQuad (b : Nat) : Nat := b / 8

/-- The domains a wake source wakes (Table 20.3). -/
def Dev.wakeSet (d : Dev) (n src : Nat) : List Nat :=
  match src with
  | 1 => let b := n - 0x69
         [n, 0xC5 + bankQuad b, 0xC0, 0x89 + d.evtTarget (16 + b)]
  | 3 => [0xC4, n]
  | 5 => [n, 0xC0]
  | 6 => (List.range 0xC9).filter fun k => k ≠ 0 ∧ d.get .lehrPower 0 fLP_DOM_TWAKE k = 1
  | 7 => [0xC0, n]
  | _ => [n]

/-- A wake source acts (Table 20.3). -/
def Dev.wakeBy (d : Dev) (n src : Nat) : Dev := (d.wakeSet n src).foldl (fun (d : Dev) k => d.wakeDom k src) d

/-- EVT_ASLEEP follows the controllers' domains (Table 12.11). -/
def Dev.refreshAsleep (d : Dev) : Dev :=
  d.set .event 0 fEVT_ASLEEP_CTL
    ((List.range 8).foldl (fun a c => if d.domState (0x89 + c) = 0 then a else a + 2 ^ c) 0)

end Sys2Proof.Machine
end

