-- ==== Sys2Proof/Machine/LinkOps.lean ====
section
/-! DEFINITION. The head links (chapter 04): packets and their sequence, back-channel frames, lane sparing, declarations
and admission, policing. -/
namespace Sys2Proof.Machine

/-! ## Packets (Table 4.2) -/

/-- The header of a packet. -/
structure PktHdr where
  typ : Nat
  region : Nat
  flags : Nat
  pic : Nat
  seq : Nat
  line : Nat
  off : Nat
  count : Nat
  depth : Nat
  resv : Nat
  deriving DecidableEq, Repr

/-- Read a packet's header. -/
def pktHdr (p : List Byte) : PktHdr :=
  { typ := fieldBe p 0 1 / 16, region := fieldBe p 0 1 % 16, flags := fieldBe p 1 1, pic := fieldBe p 2 3, seq := fieldBe p 5 2,
    line := fieldBe p 7 2, off := fieldBe p 9 2, count := fieldBe p 11 2, depth := fieldBe p 13 1, resv := fieldBe p 14 2 }

/-- Payload bytes by the header. -/
def PktHdr.payLen (h : PktHdr) : Nat := if h.typ = 0 then cdiv (h.count * h.depth) 8 else h.count

/-- The packet's payload. -/
def pktPayload (p : List Byte) : List Byte := (p.drop 16).take (pktHdr p).payLen

/-- The CRC-32C over header and payload is correct (R69). -/
def pktCrcOk (p : List Byte) : Bool :=
  let n := 16 + (pktHdr p).payLen
  decide (n + 4 ≤ p.length ∧ fieldBe p n 4 = crc32c (p.take n))

/-- REPLAYED of the header's FLAGS. -/
def PktHdr.replayed (h : PktHdr) : Bool := h.flags / 64 % 2 = 1

/-! ## Heads -/

/-- The bank of a lane or head. -/
def bankOf (lane : Nat) : Nat := lane / 32

/-- A field of the head slot registers. -/
def Dev.hd (d : Dev) (h : Nat) (r : FieldRow) : Nat := d.get .gather (bankOf h) r (h % 32)
def Dev.setHd (d : Dev) (h : Nat) (r : FieldRow) (v : Nat) : Dev := d.set .gather (bankOf h) r v (h % 32)
def Dev.bumpHd (d : Dev) (h : Nat) (r : FieldRow) : Dev := d.bump .gather (bankOf h) r 1 (h % 32)
/-- A field of a lane's map word. -/
def Dev.lmap (d : Dev) (n : Nat) (r : FieldRow) : Nat := d.get .gather (bankOf n) r (n % 32)
def Dev.setLmap (d : Dev) (n : Nat) (r : FieldRow) (v : Nat) : Dev := d.set .gather (bankOf n) r v (n % 32)

/-- A head's state (HD_STAT.STATE). -/
def Dev.hdState (d : Dev) (h : Nat) : Nat := d.hd h fHD_STAT_STATE

/-- A bit of a bank's lane register. -/
def Dev.laneBit (d : Dev) (r : FieldRow) (n : Nat) : Bool := (d.get .gather (bankOf n) r).testBit (n % 32)
def Dev.setLaneBit (d : Dev) (r : FieldRow) (n : Nat) (b : Bool) : Dev :=
  let w := d.get .gather (bankOf n) r
  d.set .gather (bankOf n) r (if b then w ||| 2 ^ (n % 32) else w - (if w.testBit (n % 32) then 2 ^ (n % 32) else 0))

/-- A Gather event of a head's bank. -/
def Dev.gatherEvt (d : Dev) (h : Nat) : Dev := d.assertEvt (16 + bankOf h)

/-- A status bit of a head's bank. -/
def Dev.gtStat (d : Dev) (h b : Nat) : Dev := d.statBit .gather (bankOf h) b

/-- The head whose run holds a lane. -/
def Dev.headOfLane (d : Dev) (n : Nat) : Option Nat := (d.core.heads.find? fun p => p.2.run.contains n).map (·.1)

/-- Queue a frame for a head. -/
def Dev.queueFrame (d : Dev) (h : Nat) (f : BcFrame) : Dev :=
  let x := d.head h
  d.setHead h { x with queue := x.queue ++ [f] }

/-- The head's quarantine (R82): STATE 5 with its cause; the ADMIT frame carries the cause; cause 0x05 is a Gather fault. -/
def Dev.quarantine (d : Dev) (h cause : Nat) : Dev :=
  let d := (d.setHd h fHD_STAT_STATE 5).setHd h fHD_STAT_CAUSE cause
  let d := (d.bump .gather (bankOf h) fGT_ADMIT_CNT_REFUSED).gtStat h 1
  let x := d.head h
  let d := d.setHead h { x with
    queue := (x.queue.filter fun f => f.typ = 9) ++ [⟨7, leBytes 1 cause ++ beBytes 2 h, none⟩], unacked := [] }
  let d := d.gatherEvt h
  if cause = 5 then d.raise (1390 + bankOf h) (0x200 + bankOf h) 5 (some (h % 32)) else d

/-- The caps of a head's credits (R80): 64 steps of SAMPLE bits, and 64 steps of META bits. The META step of one µs is
META_RATE × 1.02 / 1,000 bits, held in units of 1/50,000 bit as META_RATE × 51. -/
def sampleStep (rate : Nat) : Nat := rate + rate / 50

/-- Admission (Table 4.5 step 7): STATE 4, the ADMIT frame, both credits at their caps. -/
def Dev.admitHead (d : Dev) (h : Nat) : Dev :=
  let d := (d.setHd h fHD_STAT_STATE 4).setHd h fHD_STAT_CAUSE 0
  let d := (d.bump .gather (bankOf h) fGT_ADMIT_CNT_ADMITTED).gtStat h 0
  let x := d.head h
  let rate := (x.decl.map (·.rate)).getD 0
  let mrate := (x.decl.map (·.metaRate)).getD 0
  let d := d.setHead h { x with
    credS := 64 * sampleStep rate, credM := 64 * (mrate * 51), discards := 0,
    queue := x.queue ++ [⟨7, leBytes 1 0 ++ beBytes 2 h, none⟩] }
  d.gatherEvt h

/-- A discard that counts toward HOSTILE_LIMIT (Table 4.8 case 9). -/
def Dev.hostileCount (d : Dev) (h : Nat) : Dev :=
  let x := d.head h
  let d := d.setHead h { x with discards := x.discards + 1 }
  let lim := d.get .gather (bankOf h) fGT_CFG_HOSTILE_LIMIT
  if lim ≠ 0 ∧ lim < x.discards + 1 ∧ d.hdState h = 4 then d.quarantine h 5 else d

/-- A malformed packet (R70): discarded, counted against the head when it is admitted, in GT_UNATTR otherwise. -/
def Dev.malformed (d : Dev) (h : Nat) : Dev :=
  if d.hdState h = 4 then (d.bumpHd h fHD_DISCARD_CNT_MALFORMED).hostileCount h
  else d.bump .gather (bankOf h) fGT_UNATTR_DISCARDS

/-! ## Sequence and replay (R77) -/

/-- One failure of the expected SEQ: a REPLAY is queued unless a LANE_MAP governs (Table 4.9 case 1); after REPLAY_MAX failures
the packet is given up and the expected SEQ moves past it. The second result says that it was given up. -/
def Dev.seqFail (d : Dev) (h : Nat) : Dev × Bool :=
  let x := d.head h
  let e := x.expSeq.getD 0
  if max 1 (d.get .gather (bankOf h) fGT_CFG_REPLAY_MAX) ≤ x.fails + 1 then
    let d := d.setHead h { x with expSeq := some ((e + 1) % 65536), fails := 0, gap := false, replayOut := false,
                                  queue := x.queue.filter fun f => f.typ ≠ 1 }
    (((d.bumpHd h fHD_REPLAY_CNT_EXHAUSTED).gtStat h 6), true)
  else
    let q := if x.mapOut ∨ x.queue.any (fun f => f.typ = 1) then x.queue else x.queue ++ [⟨1, [], none⟩]
    (d.setHead h { x with fails := x.fails + 1, gap := true, replayOut := x.replayOut || !x.mapOut, queue := q }, false)

/-- The expected SEQ arrived whole. -/
def Dev.seqTake (d : Dev) (h seq : Nat) : Dev :=
  let x := d.head h
  d.setHead h { x with expSeq := some ((seq + 1) % 65536), fails := 0, gap := false, replayOut := false, mapOut := false,
                       queue := x.queue.filter fun f => f.typ ≠ 1 }

/-- Judge a packet's CRC and SEQ (R77); the second result says that it is accepted. -/
def Dev.seqCheck (d : Dev) (h : Nat) (p : List Byte) : Dev × Bool :=
  let x := d.head h
  let k := pktHdr p
  match x.expSeq with
  | none => if pktCrcOk p then (d, true) else (d.bumpHd h fHD_CRC_CNT_CRC_FAILS, false)
  | some e =>
    if !pktCrcOk p then
      let d := d.bumpHd h fHD_CRC_CNT_CRC_FAILS
      if x.gap && !(decide (k.seq = e) || k.replayed) then (d, false) else ((d.seqFail h).1, false)
    else
      let delta := (k.seq + 65536 - e) % 65536
      if delta = 0 then (d.seqTake h k.seq, true)
      else if delta < 16384 then
        if x.gap && !k.replayed then (d, false)
        else
          let r := d.seqFail h
          if r.2 && decide (delta = 1) then (r.1.seqTake h k.seq, true) else (r.1, false)
      else if x.mapOut || x.replayOut then (d, false) else (d.malformed h, false)

/-! ## Frames (R71, R72) -/

/-- The rank of a frame type in the order of R72. -/
def frameRank (typ : Nat) : Nat :=
  match typ with
  | 2 => 0 | 1 => 1 | 8 => 2 | 6 => 3 | 7 => 3 | 3 => 4 | 4 => 5 | _ => 6

/-- Frames that need an ACK (Table 4.4). -/
def frameAcked (typ : Nat) : Bool := typ = 2 ∨ typ = 3 ∨ typ = 5 ∨ typ = 7

/-- The octets of a frame between K27.7 and K29.7. -/
def frameOctets (typ tag : Nat) (payload : List Byte) : List Byte :=
  let b := leBytes 1 typ ++ leBytes 1 tag ++ leBytes 1 payload.length ++ payload
  b ++ beBytes 4 (crc32c b)

/-- The rank of a type in a head's queue: the ACK of a HELLO or RESPONSE goes before the CHALLENGE or ADMIT that follows it
(Table 4.5 steps 5 to 7). -/
def rankIn (q : List BcFrame) (typ : Nat) : Nat := if (typ = 6 ∨ typ = 7) ∧ q.any (fun f => decide (f.typ = 9)) then 7 else frameRank typ

/-- The frame of a type stands first in the head's queue (R72). A quarantined head is sent nothing but its ADMIT and the ACK before it. -/
def Dev.frameDue (d : Dev) (h typ : Nat) : Option BcFrame :=
  let q := (d.head h).queue
  if d.hdState h = 5 ∧ typ ≠ 7 ∧ typ ≠ 9 then none
  else if q.any fun f => rankIn q f.typ < rankIn q typ then none
  else match q.find? fun f => rankIn q f.typ = rankIn q typ with
    | some f => if f.typ = typ then some f else none
    | none => none

/-- The carrying lanes of a head in logical order. -/
def Dev.carrying (d : Dev) (h : Nat) : List Nat :=
  let run := (d.head h).run
  let ls := run.filter fun n => d.lmap n fGT_LMAP_IN_USE = 1 ∧ d.lmap n fGT_LMAP_ROLE = 0
  (List.range 32).filterMap fun l => ls.find? fun n => d.lmap n fGT_LMAP_LOGICAL = l

/-- The payload of a frame at the moment it is sent. A LANE_MAP names the second alignment boundary after it starts and the
first SEQ not yet received whole (R79); a REPLAY names the expected SEQ; a TIME frame the send instant plus the
one-way delay (R72). -/
def Dev.framePayload (d : Dev) (h : Nat) (f : BcFrame) : List Byte :=
  let x := d.head h
  match f.typ with
  | 1 => beBytes 2 (x.expSeq.getD 0)
  | 2 =>
    let ls := d.carrying h
    let cnt := (ls.map fun n => (d.lane n).count).head?.getD 0
    beBytes 1 ls.length ++ beBytes 2 ((cnt + 2) % 65536) ++ beBytes 2 (x.expSeq.getD 0) ++
      (ls.map fun n => beBytes 1 (d.lane n).logical).flatten
  | 4 => beBytes 8 (d.now + x.delay.getD 0)
  | _ => f.payload

/-- Put a frame on the wire: TAG advances by one for a new frame; frames that need an ACK are kept for resending, but for a
quarantined head's ADMIT, after which it is sent idle characters only (R82). -/
def Dev.putFrame (d : Dev) (h : Nat) (f : BcFrame) : Dev :=
  let x := d.head h
  let f := { f with payload := d.framePayload h f }
  let x := { x with
    tag := (x.tag + 1) % 256, lastFrame := frameOctets f.typ x.tag f.payload,
    unacked := if frameAcked f.typ && decide (d.hdState h ≠ 5) then
        x.unacked.filter (fun u => !(decide (f.typ = 2) && decide (u.frame.typ = 2))) ++ [⟨x.tag, f, 0⟩]
      else x.unacked }
  let d := d.setHead h x
  if f.typ = 1 ∨ f.typ = 2 then d.bumpHd h fHD_REPLAY_CNT_REQUESTS else d

/-- Send the next queued frame if it is of this type. -/
def Dev.sendFrame (d : Dev) (h typ : Nat) : Dev :=
  match d.frameDue h typ with
  | none => d
  | some f =>
    let x := d.head h
    (d.setHead h { x with queue := x.queue.erase f }).putFrame h f

/-- TIME is sent once the one-way delay is known and no frame of a higher rank waits (R72). -/
def Dev.sendTime (d : Dev) (h : Nat) : Dev :=
  let x := d.head h
  if x.delay.isNone ∨ d.hdState h = 5 ∨ d.hdState h = 6 ∨ d.hdState h = 0 ∨ x.queue.any (fun f => frameRank f.typ < 5) then d
  else d.putFrame h ⟨4, [], none⟩

/-- 200 µs pass without an ACK: resend, at most 3 times; then a back-channel failure (R72). -/
def Dev.resendTimeout (d : Dev) (h tag : Nat) : Dev :=
  let x := d.head h
  match x.unacked.find? fun u => u.tag = tag with
  | none => d
  | some u =>
    if u.resends < 3 then
      d.setHead h { x with lastFrame := frameOctets u.frame.typ u.tag u.frame.payload,
                           unacked := x.unacked.map fun v => if v.tag = tag then { v with resends := v.resends + 1 } else v }
    else
      let d := (d.setHead h { x with unacked := x.unacked.filter (fun v => v.tag ≠ tag), bcFails := x.bcFails + 1 }).gatherEvt h
      match u.frame.cmd with
      | some (m, id) => d.finishCmd m id 6
      | none => d

/-! ## Lanes (R65 to R67, R79) -/

/-- Declare a carrying lane failed (R79): a trained spare takes its logical place, or the head goes on with one carrying lane
fewer; a LANE_MAP is queued and replaces any REPLAY or LANE_MAP not yet sent. -/
def Dev.failLane (d : Dev) (n : Nat) : Dev :=
  match d.headOfLane n with
  | none => d
  | some h =>
    if d.lmap n fGT_LMAP_IN_USE = 0 ∨ d.lmap n fGT_LMAP_ROLE ≠ 0 then d
    else
      let l := d.lmap n fGT_LMAP_LOGICAL
      let d := (d.setLaneBit fGT_LANE_FAIL_FAILED n true).setLmap n fGT_LMAP_ROLE 2
      let d := (d.raiseLevel (366 + n) (0x200 + bankOf n) n).gtStat n 2
      let run := (d.head h).run
      let spare := run.find? fun k =>
        d.lmap k fGT_LMAP_IN_USE = 1 ∧ d.lmap k fGT_LMAP_ROLE = 1 ∧ d.laneBit fGT_LOCK_STAT_LOCKED k
      let d := match spare with
        | some k =>
          (((d.setLmap k fGT_LMAP_ROLE 0).setLmap k fGT_LMAP_LOGICAL l).bumpHd h fHD_STAT_SPARES_USED).gtStat n 3
        | none =>
          let d := run.foldl (fun (d : Dev) k =>
            if d.lmap k fGT_LMAP_ROLE = 0 ∧ l < d.lmap k fGT_LMAP_LOGICAL then
              d.setLmap k fGT_LMAP_LOGICAL (d.lmap k fGT_LMAP_LOGICAL - 1) else d) d
          d.setHd h fHD_STAT_CARRY (d.hd h fHD_STAT_CARRY - 1)
      let d := d.gatherEvt h
      let x := d.head h
      if (d.carrying h).isEmpty then d
      else d.setHead h { x with queue := x.queue.filter (fun f => f.typ ≠ 1 ∧ f.typ ≠ 2) ++ [⟨2, [], none⟩], mapOut := true,
                                replayOut := false }

/-- A lane gains block lock (R65). A failed lane that relocks and carries nothing leaves GT_LANE_FAIL. -/
def Dev.lockGained (d : Dev) (n : Nat) : Dev :=
  if !d.laneBit fGT_LANE_ON_ON n ∨ d.core.fault.heldDown.contains (63 + bankOf n) then d
  else
    let d := if d.domState (0x69 + bankOf n) = 0 then d else d.wakeBy (0x69 + bankOf n) 2
    let d := d.setLaneBit fGT_LOCK_STAT_LOCKED n true
    let d := d.endLevel (366 + n)
    if d.lmap n fGT_LMAP_IN_USE = 1 ∧ d.lmap n fGT_LMAP_ROLE = 0 then d else d.setLaneBit fGT_LANE_FAIL_FAILED n false

/-- A lane loses block lock (R65): a carrying lane of a head past training is declared failed. -/
def Dev.lockLost (d : Dev) (n : Nat) : Dev :=
  if !d.laneBit fGT_LOCK_STAT_LOCKED n then d
  else
    let d := (d.setLaneBit fGT_LOCK_STAT_LOCKED n false).setLane n Lane.rest
    match d.headOfLane n with
    | some h => if 2 ≤ d.hdState h ∧ d.hdState h ≤ 4 then d.failLane n else d
    | none => d

/-- The window of lanes [a, a + k) shows one head's run: same counts, and the logical numbers 0 to k − 1 once each. -/
def Dev.runShown (d : Dev) (a n s : Nat) : Bool :=
  let ls := (List.range (n + s)).map (a + ·)
  (ls.all fun k => (d.lane k).known && decide ((d.lane k).carry = n ∧ (d.lane k).spares = s)) &&
    ((List.range (n + s)).all fun l => ls.any fun k => (d.lane k).logical = l)

/-- Such a window whose lanes belong to no head yet. -/
def Dev.runAt (d : Dev) (a n s : Nat) : Bool :=
  d.runShown a n s && ((List.range (n + s)).all fun k => (d.headOfLane (a + k)).isNone)

/-- A head forms on a run of lanes and a TRAIN frame is queued (Table 4.5 step 4). -/
def Dev.formHead (d : Dev) (a n s : Nat) (ls : List Nat) : Dev :=
  let d := ((d.setHd a fHD_STAT_STATE 1).setHd a fHD_STAT_CARRY n).setHd a fHD_STAT_SPARES s
  let d := (d.setHd a fHD_STAT_SPARES_USED 0).setHd a fHD_STAT_CAUSE 0
  let x := d.head a
  d.setHead a { Head.rest with run := ls, decl := x.decl, hello := x.hello, nonces := x.nonces, tag := x.tag, pics := x.pics,
                               bcFails := x.bcFails, wakes := x.wakes, helloAt := x.helloAt, queue := [⟨8, [1#8], none⟩] }

/-- Bring a run that has shown all its ALIGN blocks into training (Table 4.5 steps 3 and 4): the map words are learned and a
TRAIN frame is queued. -/
def Dev.learnRun (d : Dev) (a n s : Nat) : Dev :=
  let ls := (List.range (n + s)).map (a + ·)
  let d := ls.foldl (fun (d : Dev) k =>
    let l := (d.lane k).logical
    (((d.setLmap k fGT_LMAP_IN_USE 1).setLmap k fGT_LMAP_ROLE (if l < n then 0 else 1)).setLmap k fGT_LMAP_LOGICAL l).setLmap k
      fGT_LMAP_HEAD (a % 32)) d
  d.formHead a n s ls

/-- An ALIGN block (R66, R67, R79): the lane's numbers are learned; lanes of a head that show another head's run form that head too, whose
admission then fails for the overlap (R63); 16 or fewer bad headers clear the failure count, more in
four consecutive intervals fail the lane; lanes of one head whose counts differ lose their lock. -/
def Dev.alignBlock (d : Dev) (n logical carry spares count bad : Nat) : Dev :=
  if !d.laneBit fGT_LOCK_STAT_LOCKED n then d
  else
    let d := d.setLmap n fGT_LMAP_SYNC_ERR (min 255 (d.lmap n fGT_LMAP_SYNC_ERR + bad))
    let b := if 16 < bad then (d.lane n).bad + 1 else 0
    let d := d.setLane n ⟨logical, carry, spares, count, d.free, b, true⟩
    let differs := fun (k : Nat) =>
      let o := d.lane k
      decide (k ≠ n) && o.known && d.laneBit fGT_LOCK_STAT_LOCKED k && decide (d.lmap k fGT_LMAP_ROLE = 0) &&
        decide ((o.count + (d.free - o.seenAt + 5280) / 10560) % 65536 ≠ count % 65536)
    match d.headOfLane n with
    | some h =>
      match if d.lmap n fGT_LMAP_ROLE = 0 then (d.head h).run.find? differs else none with
      | some k =>
        let e := fun (d : Dev) (q : Nat) => d.setLmap q fGT_LMAP_SYNC_ERR (min 255 (d.lmap q fGT_LMAP_SYNC_ERR + 1))
        ((e (e d n) k).lockLost n).lockLost k
      | none =>
        if 4 ≤ b ∧ 2 ≤ d.hdState h ∧ d.hdState h ≤ 4 then d.failLane n
        else if carry = 0 ∨ 32 < carry + spares ∨ 2 < spares ∨
            (d.hd h fHD_STAT_CARRY = carry ∧ d.hd h fHD_STAT_SPARES = spares) then d
        else
          match ((List.range (carry + spares)).map fun k => n + k + 1 - (carry + spares)).find? fun a =>
              decide (n < a + (carry + spares) ∧ a ≤ n ∧ d.hdState a = 0) && d.runShown a carry spares with
          | some a => d.formHead a carry spares ((List.range (carry + spares)).map (a + ·))
          | none => d
    | none =>
      if carry = 0 ∨ 32 < carry + spares ∨ 2 < spares then d
      else
        match ((List.range (carry + spares)).map fun k => n + k + 1 - (carry + spares)).find? fun a =>
            decide (n < a + (carry + spares) ∧ a ≤ n) && d.runAt a carry spares with
        | some a => d.learnRun a carry spares
        | none => d

/-! ## Declaration and admission (R73 to R76, R85) -/

/-- Read a HELLO payload (Table 4.6). -/
def parseHello (p : List Byte) : HeadDecl :=
  { serial := fieldBe p 0 8, maker := fieldBe p 8 2, model := fieldBe p 10 2, fwVer := fieldBe p 12 4, carry := fieldBe p 16 1,
    spares := fieldBe p 17 1, rate := fieldBe p 18 4, metaRate := fieldBe p 22 4,
    regions := (List.range (fieldBe p 26 1)).map fun i =>
      let q := p.drop (28 + 16 * i)
      ⟨fieldBe q 0 1, fieldBe q 1 1, fieldBe q 2 1, fieldBe q 4 2, fieldBe q 6 2, fieldBe q 8 4, fieldBe q 12 4⟩ }

/-- LAYOUT and PHASE of a region's CFA (Table 5.1). -/
def RegionDecl.layout (r : RegionDecl) : Nat := r.cfa / 16
def RegionDecl.geo (r : RegionDecl) : Geo := ⟨r.cfa / 16, r.cfa % 4, r.d, r.w, r.h⟩

/-- A region lies within the limits of Table 5.1. -/
def RegionDecl.ok (r : RegionDecl) : Bool :=
  decide (r.region ≤ 15) && decide (r.d = 10 ∨ r.d = 12 ∨ r.d = 14 ∨ r.d = 16) &&
  decide (r.cfa / 16 ≤ 2 ∧ r.cfa / 4 % 4 = 0 ∧ (r.cfa / 16 ≠ 0 → r.cfa % 4 = 0)) &&
  (if r.cfa / 16 = 2 then decide (r.w % 3 = 0 ∧ 192 ≤ r.w ∧ r.w ≤ 32766 ∧ 64 ≤ r.h ∧ r.h ≤ 32768)
   else decide (r.w % 2 = 0 ∧ 64 ≤ r.w ∧ r.w ≤ 32768 ∧ r.h % 2 = 0 ∧ 64 ≤ r.h ∧ r.h ≤ 32768)) &&
  decide (r.num ≠ 0 ∧ r.den ≠ 0 ∧ 400 * r.h * r.num ≤ min r.geo.hT r.h * r.den * 1000000)

/-- The sum over regions of the sample bits per second, in Mb/s rounded up (R74), with exact fractions over the product of
the denominators. -/
def HeadDecl.needRate (h : HeadDecl) : Nat :=
  let den := h.regions.foldl (fun a r => a * r.den) 1
  let num := h.regions.foldl (fun a r => a + r.w * r.h * r.d * r.num * (den / r.den)) 0
  cdiv num (den * 1000000)

/-- A declaration is valid (R74, R85) on a run of lanes that shows carry `n` and spares `s`. -/
def HeadDecl.ok (h : HeadDecl) (n s : Nat) : Bool :=
  decide (h.carry = n ∧ h.spares = s ∧ 1 ≤ n ∧ n ≤ 32 ∧ s ≤ 2 ∧ n + s ≤ 32) &&
  decide (1 ≤ h.regions.length ∧ h.regions.length ≤ 16) && (h.regions.all (·.ok)) &&
  decide ((h.regions.map (·.region)).eraseDups.length = h.regions.length) &&
  decide (h.rate = h.needRate ∧ h.rate * 1000 + h.metaRate ≤ 5896 * n * 1000)

/-- A run lies in one bank and overlaps no run of another head that has declared itself (R63, Table 4.9 case 4). -/
def Dev.runOk (d : Dev) (h : Nat) : Bool :=
  let run := (d.head h).run
  (run.all fun n => bankOf n = bankOf h) &&
    !(d.core.heads.any fun p => decide (p.1 ≠ h ∧ 2 ≤ d.hdState p.1 ∧ d.hdState p.1 ≠ 5) && p.2.run.any fun n => run.contains n)

/-- The tag of R76. -/
def authTag (key : List Byte) (serial : Nat) (nonce hello : List Byte) : List Byte :=
  hmacSha256 (hmacSha256 key ([0x54#8, 0x57#8, 0x4C#8, 0x31#8] ++ beBytes 8 serial)) (nonce ++ hello)

/-- A HELLO taken (R73 to R76, R82): the declaration is shown and judged by the bank's policy. -/
def Dev.takeHello (d : Dev) (h : Nat) (p : List Byte) : Dev :=
  let k := pktHdr p
  let decl := parseHello (pktPayload p)
  let x := d.head h
  let d := d.setHead h { x with
    expSeq := some ((k.seq + 1) % 65536), gap := false, fails := 0, decl := some decl, hello := p.take 16 ++ pktPayload p,
    helloAt := some d.free, queue := x.queue ++ [⟨9, beBytes 2 k.seq, none⟩] }
  let d := (d.setHd h fHD_STAT_STATE 2).setHd h fHD_SERIAL_LO_SERIAL_LO decl.serial
  let d := (d.setHd h fHD_SERIAL_HI_SERIAL_HI (decl.serial / 2 ^ 32)).setHd h fHD_RATE_SAMPLE_RATE decl.rate
  let pol := d.get .gather (bankOf h) fGT_CFG_POLICY
  if !(decl.ok (d.hd h fHD_STAT_CARRY) (d.hd h fHD_STAT_SPARES) && d.runOk h) then d.quarantine h 4
  else if pol = 0 then d.admitHead h
  else if pol = 1 then if d.core.allow.contains decl.serial then d.admitHead h else d.quarantine h 1
  else if d.get .gather (bankOf h) fGT_KEY_LOADED = 0 then d.quarantine h 7
  else
    let x := d.head h
    let n := beBytes 32 (Config.nonce h x.nonces).toNat
    (d.setHead h { x with nonce := n, nonces := x.nonces + 1, queue := x.queue ++ [⟨6, n, none⟩] }).setHd h fHD_STAT_STATE 3

/-- A HELLO packet: taken whatever its SEQ when its CRC is correct and the head has trained; one HELLO is answered in any
10 ms; a quarantined head is not answered (R76, R77, R82). -/
def Dev.recvHello (d : Dev) (h : Nat) (p : List Byte) : Dev :=
  let x := d.head h
  let k := pktHdr p
  let st := d.hdState h
  if !pktCrcOk p then (d.seqCheck h p).1
  else if st = 5 then d.bump .gather (bankOf h) fGT_UNATTR_DISCARDS
  else if x.delay.isNone ∨ x.run.isEmpty ∨ k.flags % 64 ≠ 0 ∨ k.resv ≠ 0 ∨ k.line ≠ 0 ∨ k.off ≠ 0 ∨ k.depth ≠ 0 ∨ k.count < 28 then
    d.malformed h
  else if st = 4 then d.setHead h { x with expSeq := some ((k.seq + 1) % 65536), gap := false, fails := 0 }
  else match x.helloAt with
    | some t => if d.free < t + 10000000 then d.setHead h { x with expSeq := some ((k.seq + 1) % 65536), gap := false, fails := 0 }
                else d.takeHello h p
    | none => d.takeHello h p

/-- Header rules of the packets without samples (Table 4.2). -/
def PktHdr.plain (k : PktHdr) (count : Nat) : Bool :=
  decide (k.flags % 64 = 0 ∧ k.resv = 0 ∧ k.line = 0 ∧ k.off = 0 ∧ k.depth = 0 ∧ k.count = count)

/-- A RESPONSE packet: accepted while the head is admitting; all 32 bytes of the tag are compared (R76). -/
def Dev.recvResponse (d : Dev) (h : Nat) (p : List Byte) : Dev :=
  let r := d.seqCheck h p
  if !r.2 then r.1
  else if !(pktHdr p).plain 32 ∨ r.1.hdState h ≠ 3 then r.1.malformed h
  else
    let d := r.1
    let x := d.head h
    let tag := authTag (d.core.stageKey.getD []) ((x.decl.map (·.serial)).getD 0) x.nonce x.hello
    if pktPayload p = tag then (d.queueFrame h ⟨9, beBytes 2 (pktHdr p).seq, none⟩).admitHead h else d.quarantine h 2

/-- An ACK packet: the frame named is acknowledged; a HEAD_CMD completes with the ACK's status (R72, R239). -/
def Dev.recvAck (d : Dev) (h : Nat) (p : List Byte) : Dev :=
  let r := d.seqCheck h p
  if !r.2 then r.1
  else if !(pktHdr p).plain 2 ∨ r.1.hdState h ≠ 4 then r.1.malformed h
  else
    let d := r.1
    let x := d.head h
    let tag := fieldBe (pktPayload p) 0 1
    let d' := d.setHead h { x with unacked := x.unacked.filter fun u => u.tag ≠ tag }
    match x.unacked.find? fun u => u.tag = tag with
    | some u => match u.frame.cmd with
      | some (m, id) => d'.finishCmd m id 0 (BitVec.ofNat 32 (fieldBe (pktPayload p) 1 1))
      | none => d'
    | none => d'

/-- An ECHO packet: the one-way delay is half of the round trip less the turnaround (Table 4.5 step 4). -/
def Dev.recvEcho (d : Dev) (h : Nat) (p : List Byte) : Dev :=
  let x := d.head h
  match x.trainAt with
  | some t =>
    if d.hdState h = 1 ∧ pktCrcOk p ∧ (pktHdr p).plain 3 then
      d.setHead h { x with delay := some ((d.free - t - fieldBe (pktPayload p) 1 2) / 2), trainAt := none }
    else (let r := d.seqCheck h p; if r.2 then r.1.malformed h else r.1)
  | none => let r := d.seqCheck h p; if r.2 then r.1.malformed h else r.1

/-- No RESPONSE within 10 ms (Table 4.8 case 7). -/
def Dev.responseTimeout (d : Dev) (h : Nat) : Dev := if d.hdState h = 3 then d.quarantine h 3 else d

/-- Every lane of the head has been without lock for 1 ms (Table 4.8 case 2, Table 4.9 case 6). -/
def Dev.linkLost (d : Dev) (h : Nat) : Dev :=
  let x := d.head h
  let st := d.hdState h
  if x.run.isEmpty ∨ st = 5 ∨ x.run.any (fun n => d.laneBit fGT_LOCK_STAT_LOCKED n) then d
  else
    let d := x.run.foldl (fun (d : Dev) n => (d.setLmap n fGT_LMAP_IN_USE 0).setLaneBit fGT_LANE_FAIL_FAILED n false) d
    let d := d.setHead h { x with run := [], expSeq := none, gap := false, fails := 0, mapOut := false, replayOut := false,
                                  delay := none, trainAt := none, queue := [], unacked := [] }
    let d := x.unacked.foldl (fun (d : Dev) u => match u.frame.cmd with
      | some (m, id) => d.finishCmd m id 6
      | none => d) d
    if st = 4 then ((d.setHd h fHD_STAT_STATE 6).gtStat h 4).gatherEvt h else d.setHd h fHD_STAT_STATE 0

/-- The TRAIN frame goes out; its ECHO is timed from here. -/
def Dev.sendTrain (d : Dev) (h : Nat) : Dev :=
  match d.frameDue h 8 with
  | none => d
  | some _ =>
    let d := d.sendFrame h 8
    let x := d.head h
    d.setHead h { x with trainAt := some d.free }

/-- GT_QREL releases the quarantined head slots named; a release acts only on STATE 5 (Table 4.9 case 5). -/
def Dev.qrel (d : Dev) (bank : Nat) (v : Word) : Dev :=
  (List.range 32).foldl (fun (d : Dev) i =>
    let h := bank * 32 + i
    if v.getLsbD i ∧ d.hdState h = 5 then
      let x := d.head h
      (d.setHead h { x with helloAt := none, expSeq := none, queue := [], unacked := [] }).setHd h fHD_STAT_STATE
        (if x.run.any fun n => d.laneBit fGT_LOCK_STAT_LOCKED n then 1 else 0)
    else d) d

/-- Every head's police credits grow by one step, up to 64 steps (R80). -/
def Dev.creditTick (d : Dev) : Dev :=
  d.core.heads.foldl (fun (d : Dev) p =>
    if d.hdState p.1 = 4 then
      let st := sampleStep ((p.2.decl.map (·.rate)).getD 0)
      let ms := ((p.2.decl.map (·.metaRate)).getD 0) * 51
      d.setHead p.1 { p.2 with credS := min (p.2.credS + st) (64 * st), credM := min (p.2.credM + ms) (64 * ms) }
    else d) d

/-- A fixed 1 ms interval ends: the counts start again at 0 (Table 4.8 case 9). -/
def Dev.hostileEnd (d : Dev) : Dev :=
  d.core.heads.foldl (fun (d : Dev) p => d.setHead p.1 { d.head p.1 with discards := 0 }) d

/-- A wake pattern on a lane (R81): counted, and Lehr's watcher told, even while the receiver or the domain sleeps. -/
def Dev.wakePattern (d : Dev) (n : Nat) : Dev :=
  let d := (d.bump .gather (bankOf n) fGT_WAKE_CNT_WAKES).gtStat n 5
  (d.wakeBy (0x69 + bankOf n) 1).gatherEvt n

end Sys2Proof.Machine
end

