-- ==== Sys2Proof/Machine/QueueOps.lean ====
section
/-! DEFINITION. Cullet's chunks and quotas (R260 to R264), rings and leases (R248 to R252), host descriptor rings
(R253, R254), circular channels (R255), and the calendar wheel (R258). -/
namespace Sys2Proof.Machine

/-! ## Cullet -/

/-- Is the handle that of a large chunk (R260)? -/
def isLarge (h : Nat) : Bool := decide (2 ^ 31 ≤ h)
/-- The chunk index of a handle. -/
def chunkIdx (h : Nat) : Nat := h % 2 ^ 18
/-- A large chunk's handle. -/
def largeHandle (i : Nat) : Nat := 2 ^ 31 + i

/-- Large chunks charged to a tag under its quota. -/
def Cullet.held (c : Cullet) (tag : Nat) : Nat := c.chunks.countP fun p => p.2.quota && decide (p.2.owner = tag)
/-- A tag's quota. -/
def Cullet.quota (c : Cullet) (tag : Nat) : Nat := (c.quotas.lookup tag).getD 0
/-- Reserved chunks not yet taken (CU_LRES). -/
def Cullet.unused (c : Cullet) : Nat := c.quotas.foldl (fun a q => a + (q.2 - c.held q.1)) 0
/-- Chunks of one pool in use. -/
def Cullet.inUse (c : Cullet) (large : Bool) : Nat := c.chunks.countP fun p => isLarge p.1 = large
/-- Chunks of one pool charged to a class. -/
def Cullet.classUse (c : Cullet) (k : Nat) (large : Bool) : Nat :=
  c.chunks.countP fun p => isLarge p.1 = large && !p.2.quota && decide (p.2.cls = k)
/-- A chunk's reference count (R261). -/
def Cullet.count (c : Cullet) (h : Nat) : Nat := c.holds.countP fun p => p.1 = h

/-- Large chunks configured. -/
def Dev.largeCount (d : Dev) : Nat := d.get .cullet0 0 fCU_LCOUNT_CHUNKS
/-- Free large chunks. -/
def Dev.freeLarge (d : Dev) : Nat := d.largeCount - d.core.cullet.inUse true
/-- The DRAM address of a large chunk. -/
def Dev.chunkBase (d : Dev) (h : Nat) : Nat :=
  d.get .cullet0 0 fCU_LBASE_LO_ADDR_LO * 2 ^ 21 + d.get .cullet0 0 fCU_LBASE_HI_ADDR_HI * 2 ^ 32 + chunkIdx h * 2 ^ 21

/-- Does a class use the pool (Table 13.6)? -/
def classPool (k : Nat) (large : Bool) : Bool := if large then k ≤ 5 else decide (5 ≤ k)

/-- Grant a quota: the free chunks, less every unused reservation, must cover it (R262). -/
def Dev.grantQuota (d : Dev) (tag n : Nat) : Option Dev :=
  if n ≤ d.freeLarge - d.core.cullet.unused then
    some (d.setCullet { d.core.cullet with quotas := tset d.core.cullet.quotas tag (d.core.cullet.quota tag + n) })
  else none

/-- Return a tag's quota. Chunks still charged to it stay charged. -/
def Dev.dropQuota (d : Dev) (tag : Nat) : Dev :=
  d.setCullet { d.core.cullet with quotas := d.core.cullet.quotas.filter fun q => q.1 ≠ tag }

/-- A refused allocation is counted (R263). -/
def Dev.allocFail (d : Dev) (cls : Nat) (large : Bool) : Dev :=
  ((d.bump .cullet0 0 (if large then fCU_FAIL_LARGE else fCU_FAIL_SMALL)).bump .cullet1 0 fCU_CFAIL_FAILS 1 cls).statBit .cullet0 0 0

/-- Allocate a chunk (R262, R263): a tag below its quota always obtains a large chunk; otherwise the class must be below
its shared limit and an unreserved chunk be free. The second result is the handle. -/
def Dev.allocChunk (d : Dev) (tag cls : Nat) (large : Bool) : Dev × Option Nat :=
  let c := d.core.cullet
  let quota := large && decide (c.held tag < c.quota tag)
  let total := if large then d.largeCount else 512
  let lim := d.get .cullet1 0 (if large then fCU_CLIM_LARGE else fCU_CLIM_SMALL) cls
  let spare := total - c.inUse large - (if large then c.unused else 0)
  if c.holds.length < 65536 ∧ (quota ∨ (classPool cls large ∧ c.classUse cls large < lim ∧ 0 < spare)) then
    let free := (List.range total).filter fun i => !(c.chunks.any fun p => p.1 = if large then largeHandle i else i)
    match free[Config.chunkPick d.free c.chunks.length % free.length]? with
    | none => (d.allocFail cls large, none)
    | some i =>
      let h := if large then largeHandle i else i
      (d.setCullet { c with chunks := tset c.chunks h ⟨tag, quota, cls⟩, holds := c.holds ++ [(h, tag)] }, some h)
  else (d.allocFail cls large, none)

/-- Another party takes a hold on a chunk (R261). -/
def Dev.acquire (d : Dev) (h tag : Nat) : Dev :=
  let c := d.core.cullet
  if c.holds.length < 65536 then d.setCullet { c with holds := c.holds ++ [(h, tag)] }
  else d.bump .cullet0 0 (if isLarge h then fCU_FAIL_LARGE else fCU_FAIL_SMALL)

/-- Release one hold of a tag (R261): the chunk is freed when its count reaches 0; each free is signalled (R263). A release
by a tag that holds nothing is discarded and raises CHUNK. -/
def Dev.releaseHold (d : Dev) (h tag : Nat) : Dev :=
  let c := d.core.cullet
  if c.holds.contains (h, tag) then
    let hs := c.holds.erase (h, tag)
    if hs.any fun p => p.1 = h then d.setCullet { c with holds := hs }
    else (d.setCullet { c with holds := hs, chunks := c.chunks.filter fun p => p.1 ≠ h }).assertEvt 114
  else d.raise 1805 0x700 5 tag h

/-- Pass a chunk's charge to another quota (R261). -/
def Dev.chargeTo (d : Dev) (h tag : Nat) : Dev :=
  let c := d.core.cullet
  d.setCullet { c with chunks := c.chunks.map fun p => if p.1 = h then (h, { p.2 with owner := tag, quota := true }) else p }

/-- The tag of a magazine port's host engine (R260, R15). -/
def magTag (m : Nat) : Nat := 0x1800 + m

/-! ## Rings -/

/-- Entry size by ring number (Table 13.1). -/
def ringEntryLog2 (n : Nat) : Nat := if n < 4096 then 6 else if n < 8192 then 4 else if n < 12288 then 5 else 4

/-- Occupancy (R249). -/
def Ring.occ (r : Ring) : Nat := (r.tail + 65536 - r.head) % 65536

/-- A pointer error of a ring (R249). -/
def Dev.ringError (d : Dev) (n : Nat) (r : Ring) : Dev :=
  if r.hostMem then (d.bump .queue0 0 fQU_DESC_ERR_HOST).statBit .queue0 0 1 else d.raise 1803 0x700 5 n

/-- The microseconds of FREE (R325). -/
def Dev.nowUs (d : Dev) : Nat := d.free / 1000

/-- Enter a ring on the wheel at a microsecond (R258). -/
def Ring.enter (r : Ring) (us : Nat) : Ring := { r with inCal := true, parked := false, active := false, slot := us % 4096 }

/-- The ring takes its next eligible time (R258): `wait` is judged against the present microsecond. -/
def Dev.enterWheel (d : Dev) (n : Nat) (r : Ring) : Dev :=
  let e := r.te / 65536
  if e ≤ d.nowUs then (d.setRing n (r.enter (d.nowUs + 1))).bump .queue0 0 fQU_CAL_CNT_LATE
  else if 4095 < e - d.nowUs then
    (d.setRing n { r.enter (d.nowUs + 4095) with carryUs := min (e - d.nowUs - 4095) 65535 }).bump .queue0 0 fQU_CAL_CNT_CARRIED
  else d.setRing n (r.enter e)

/-- A new entry is published on a ring that is parked: its eligible time is the later of t_e and now, so that idle time
builds no credit; with a drain rate of 0 it stays parked (R258). -/
def Dev.unpark (d : Dev) (n ds : Nat) : Dev :=
  let r := d.ring n
  if r.paced ∧ !r.inCal ∧ !r.active ∧ ds ≠ 0 then d.enterWheel n { r with te := max r.te (d.nowUs * 65536) } else d

/-- HEAD returns entries (R249). -/
def Dev.advanceHead (d : Dev) (n head : Nat) : Dev :=
  let r := d.ring n
  let k := (head + 65536 - r.head) % 65536
  if r.occ < k then d.ringError n r else d.setRing n { r with head := head % 65536, lastHead := d.free }

/-- TAIL publishes entries (R249). -/
def Dev.advanceTail (d : Dev) (n tail : Nat) : Dev :=
  let r := d.ring n
  if 2 ^ r.sizeLog2 < (tail + 65536 - r.head) % 65536 then d.ringError n r
  else d.setRing n { r with tail := tail % 65536, nonEmptyAt := if r.occ = 0 then d.free else r.nonEmptyAt }

/-! ## Leases (R252) -/

/-- A lease is granted at once or refused. -/
def Dev.lease (d : Dev) (n tag : Nat) : Dev :=
  let r := d.ring n
  if r.leased ∧ r.leaseOwner = 0xFFFF then
    d.setRing n { r with leaseOwner := tag, leaseAt := d.free, abandoned := r.abandoned.filter (· ≠ tag) }
  else d

/-- A lease is broken by expiry: counted, and QLEASE names the holder. -/
def Dev.leaseExpire (d : Dev) (n : Nat) : Dev :=
  let r := d.ring n
  if r.leaseOwner ≠ 0xFFFF ∧ r.leaseAt + 100000 ≤ d.free then
    let d := d.setRing n { r with leaseOwner := 0xFFFF, abandoned := r.leaseOwner :: r.abandoned.filter (· ≠ r.leaseOwner) }
    ((d.bump .queue0 0 fQU_LEASE_CNT_EXPIRED).statBit .queue0 0 0).raise 1804 0x700 5 r.leaseOwner
  else d

/-- A producer's TAIL advance: on a LEASED ring only the holder may, and the advance ends its lease. An advance by the
holder of an expired lease is discarded and counted as the break was. -/
def Dev.tailBy (d : Dev) (n tag tail : Nat) : Dev :=
  let d := d.leaseExpire n
  let r := d.ring n
  if !r.en then d
  else if r.leased then
    if r.leaseOwner = tag then (d.setRing n { r with leaseOwner := 0xFFFF }).advanceTail n tail
    else if r.abandoned.contains tag then
      (d.setRing n { r with abandoned := r.abandoned.filter (· ≠ tag) }).bump .queue0 0 fQU_LEASE_CNT_EXPIRED
    else d
  else d.advanceTail n tail

/-! ## Host descriptor rings (R253, R254) -/

/-- The address of entry `j` of a ring. -/
def Ring.entryAddr (r : Ring) (n j : Nat) : Nat := r.base + (j % 2 ^ r.sizeLog2) * 2 ^ ringEntryLog2 n

/-- Write a descriptor's completion: DW6 first, then DW0 with DONE and STATUS, then HEAD advances. -/
def Dev.completeDesc (d : Dev) (n : Nat) (ctrl : Word) (status doneBytes : Nat) : Dev :=
  let r := d.ring n
  let a := r.entryAddr n r.head
  let d := d.writeHost (a + 24) (leBytes 4 doneBytes)
  let d := d.writeHost a (wordBytes ((ctrl &&& 0x00FFFFFF#32) ||| BitVec.ofNat 32 ((128 + status) <<< 24)))
  let d := d.setRing n { r with head := (r.head + 1) % 65536, lastHead := d.free }
  match status with
  | 1 => (d.bump .queue0 0 fQU_DESC_ERR_SIZE).statBit .queue0 0 1
  | 2 => (d.bump .queue0 0 fQU_DESC_ERR_HOST).statBit .queue0 0 1
  | _ => d

/-- A descriptor completes that the engine has not read: the bits of CTRL that its producer wrote are a free value (DESIGN CHOICE, log entry 42). -/
def Dev.completeUnread (d : Dev) (n status : Nat) : Dev :=
  let r := d.ring n
  d.completeDesc n (Config.sampled (r.entryAddr n r.head) d.free) status 0

/-- Every published descriptor of a ring completes with STATUS 4 (R254, R264). -/
def Dev.abortDescs (d : Dev) (n : Nat) : Dev := (List.range (d.ring n).occ).foldl (fun (d : Dev) _ => d.completeUnread n 4) d

/-- A pair on QU_RCFG takes effect (R254). -/
def Dev.ringConfigOk (d : Dev) (v : Word) : Bool :=
  let n := d.get .queue0 0 fQU_RSEL_RING
  let r := d.ring n
  decide (8192 ≤ n ∧ n ≤ 12287 ∧ (!r.en ∨ r.owner = 0x1000) ∧ (fQU_RCFG_EN.ext v = 0 ∨ !r.en))

/-- A complete pair on QU_RCFG (R254). -/
def Dev.ringConfig (d : Dev) (v : Word) : Dev :=
  let n := d.get .queue0 0 fQU_RSEL_RING
  let r := d.ring n
  let en := fQU_RCFG_EN.ext v = 1
  if d.ringConfigOk v then
    if en then
      d.setRing n { Ring.rest with
        base := d.get .queue0 0 fQU_RBASE_LO_ADDR_LO * 256 + d.get .queue0 0 fQU_RBASE_HI_ADDR_HI * 2 ^ 32,
        sizeLog2 := max 4 (fQU_RCFG_SIZE_LOG2.ext v), en := true, hostMem := true, owner := 0x1000, hist := r.hist }
    else d.setRing n { r with en := false }
  else d.drop

/-! ## Circular channels (R255, R256) -/

/-- A peripheral's request line asserts: a burst runs, one more assertion is held, any further one is missed. -/
def Dev.requestLine (d : Dev) (line : Nat) : Dev :=
  (List.range 64).foldl (fun (d : Dev) k =>
    if line ≤ 10 ∧ d.get .queueCh (k / 32) fCH_CFG_EN (k % 32) = 1 ∧ d.get .queueCh (k / 32) fCH_CFG_LINE (k % 32) = line then
      let c := d.chan k
      if !c.running then d.setChan k { c with running := true }
      else if !c.held then d.setChan k { c with held := true }
      else (d.bump .queueCh (k / 32) fCH_CNT_MISSED 1 (k % 32)).statBit .queue0 0 3
    else d) d

/-- BURST_LOG2 and SIZE_LOG2 of a channel, held in their ranges. -/
def Dev.chanBurst (d : Dev) (k : Nat) : Nat := 2 ^ min 11 (max 6 (d.get .queueCh (k / 32) fCH_CFG_BURST_LOG2 (k % 32)))
def Dev.chanSize (d : Dev) (k : Nat) : Nat := 2 ^ min 30 (max 12 (d.get .queueCh (k / 32) fCH_CFG_SIZE_LOG2 (k % 32)))
/-- The channel's buffer base. -/
def Dev.chanBase (d : Dev) (k : Nat) : Nat :=
  d.get .queueCh (k / 32) fCH_BASE_LO_ADDR_LO (k % 32) * 4096 + d.get .queueCh (k / 32) fCH_BASE_HI_ADDR_HI (k % 32) * 2 ^ 32

/-- Take packets from the front of a FIFO while they fit in `n` bytes. -/
def popPackets : List (List Word) → Nat → List Byte × List (List Word)
  | [], _ => ([], [])
  | w :: ws, n =>
    if n < 4 * w.length then ([], w :: ws)
    else
      let r := popPackets ws (n - 4 * w.length)
      (w.flatMap wordBytes ++ r.1, r.2)

/-- The bytes of a burst from a request line: the packets of the record FIFO (R358) or of the stamp FIFO (R327), then what the
peripheral gives. -/
def Dev.lineBytes (d : Dev) (line b : Nat) (data : List Byte) : Dev × List Byte :=
  match line with
  | 0 =>
    let r := popPackets d.core.fault.fifo b
    (d.modFault fun f => { f with fifo := r.2 }, r.1 ++ data)
  | 1 =>
    let r := popPackets d.core.time.stamps b
    (d.modTime fun t => { t with stamps := r.2 }, r.1 ++ data)
  | _ => (d, data)

/-- A burst completes: from the peripheral its bytes stand at PTR, PTR advances and wraps, and a held assertion starts
the next burst. -/
def Dev.burstDone (d : Dev) (k : Nat) (data : List Byte) : Dev :=
  let c := d.chan k
  if !c.running then d
  else
    let b := d.chanBurst k
    let (d, data) := if d.get .queueCh (k / 32) fCH_CFG_DIR (k % 32) = 0 then
        d.lineBytes (d.get .queueCh (k / 32) fCH_CFG_LINE (k % 32)) b data
      else (d, data)
    let p := d.get .queueCh (k / 32) fCH_PTR_PTR (k % 32)
    let d := if d.get .queueCh (k / 32) fCH_CFG_DIR (k % 32) = 0 then d.writeDram (d.chanBase k + p) (data.take b) else d
    let d := d.set .queueCh (k / 32) fCH_PTR_PTR ((p + b) % d.chanSize k) (k % 32)
    (d.bump .queueCh (k / 32) fCH_CNT_BURSTS 1 (k % 32)).setChan k { c with running := c.held, held := false }

/-! ## Revoking an owner (R264) -/

/-- Cullet and the queue engine strip an owner tag. Its quota returns when its stream reaches FAULTED. -/
def Dev.revokeTag (d : Dev) (tag : Nat) : Dev :=
  let c := d.core.cullet
  let gone := c.holds.countP fun p => p.2 = tag
  let hs := c.holds.filter fun p => p.2 ≠ tag
  let dead := c.chunks.countP fun p => !(hs.any fun q => q.1 = p.1)
  let d := d.setCullet { c with holds := hs, chunks := c.chunks.filter fun p => hs.any fun q => q.1 = p.1 }
  let d := (d.bump .cullet0 0 fCU_REVOKE_HOLDS gone).bump .cullet0 0 fCU_REVOKE_FREED dead
  let d := if dead = 0 then d else (d.statBit .cullet0 0 1).assertEvt 114
  let d := d.core.rings.foldl (fun (d : Dev) p =>
    let d := if p.2.leaseOwner = tag then
        (d.setRing p.1 { p.2 with leaseOwner := 0xFFFF, abandoned := tag :: p.2.abandoned }).bump .queue0 0 fQU_LEASE_CNT_REVOKED
      else d
    if p.2.owner = tag ∧ 8192 ≤ p.1 ∧ p.1 < 12288 then
      d.abortDescs p.1
    else d) d
  (List.range 64).foldl (fun (d : Dev) k =>
    if d.get .queueCh (k / 32) fCH_OWNER_OWNER (k % 32) = tag then d.set .queueCh (k / 32) fCH_CFG_EN 0 (k % 32) else d) d

/-! ## Depth and delay (R259) -/

/-- Sample every ring once. -/
def Dev.ringSample (d : Dev) : Dev :=
  let warn := d.get .queue0 0 fQU_CFG_DELAY_WARN_US
  d.core.rings.foldl (fun (d : Dev) p =>
    let r := p.2
    let delay := if r.occ = 0 then 0 else min 65535 ((d.free - max r.lastHead r.nonEmptyAt) / 1000)
    let d := d.setRing p.1 { r with hist := ((delay, r.occ) :: r.hist).take 32 }
    if warn ≠ 0 ∧ warn < delay then
      let d := if d.get .queue0 0 fQU_WARN_VALID = 1 then d
        else (d.set .queue0 0 fQU_WARN_VALID 1).set .queue0 0 fQU_WARN_RING p.1
      d.statBit .queue0 0 2
    else d) d

end Sys2Proof.Machine
end

