-- ==== Sys2Proof/Machine/IngestOps.lean ====
section
/-! DEFINITION. Ingest (chapter 05): pictures and their starts, conditioning, lines and the line-buffer ring, and the
closing of tile rows. -/
namespace Sys2Proof.Machine

/-! ## Streams and pictures -/

/-- The picture period P in nanoseconds, rounded down (R98). -/
def RegionDecl.period (r : RegionDecl) : Nat := r.den * 1000000000 / r.num
/-- Nanoseconds from T0 to the instant at which the next picture is overdue, 1.5 P (R102). -/
def RegionDecl.overdue (r : RegionDecl) : Nat := 3 * r.den * 1000000000 / (2 * r.num)
/-- Lines of the ring (R95). -/
def RegionDecl.ringLines (r : RegionDecl) : Nat := r.geo.hT + 16

/-- The hold of a bank in nanoseconds (R104). -/
def Dev.holdNs (d : Dev) (bank : Nat) : Nat := min 1000 (max 70 (d.get .gather bank fGT_ING_CFG_HOLD_US)) * 1000

/-- The bank of a record stream. -/
def RecStream.bank (x : RecStream) : Nat := bankOf x.par.head

/-- The live record stream that a region of a head feeds, while the head declares what it declared at arm (Table 4.8
case 2). -/
def Dev.streamOf (d : Dev) (h r : Nat) : Option (Nat × RecStream) :=
  d.core.recs.find? fun p =>
    decide (p.2.par.head = h ∧ p.2.par.region = r ∧ (d.head h).decl = some p.2.hd) && (d.slot p.1).state.live

/-- A region fed a stream that has closed and whose slot is not released: its packets belong to pictures that the stream will not
begin (R57). -/
def Dev.endedOf (d : Dev) (h r : Nat) : Bool :=
  d.core.recs.any fun p =>
    decide (p.2.par.head = h ∧ p.2.par.region = r ∧ (d.head h).decl = some p.2.hd) && !(d.slot p.1).state.live && (d.slot p.1).state ≠ .idle

/-- Change element `i` of a list. -/
def listMod {α : Type} (l : List α) (i : Nat) (f : α → α) : List α :=
  (l.zip (List.range l.length)).map fun p => if p.2 = i then f p.1 else p.1

/-- A picture in hand by its number. -/
def RecStream.pic? (x : RecStream) (p : Nat) : Option PicSt := x.pics.find? fun q => q.pic = p
/-- Change a picture in hand. -/
def RecStream.modPic (x : RecStream) (p : Nat) (f : PicSt → PicSt) : RecStream :=
  { x with pics := x.pics.map fun q => if q.pic = p then f q else q }
/-- A row of a picture. -/
def PicSt.row (q : PicSt) (r : Nat) : RowSt := q.rows.getD r RowSt.rest
/-- Change a row. -/
def PicSt.modRow (q : PicSt) (r : Nat) (f : RowSt → RowSt) : PicSt := { q with rows := listMod q.rows r f }

/-- The picture a region has begun last. -/
def Head.regionPic (x : Head) (r : Nat) : Option RegionPic := x.pics.find? fun p => p.region = r
def Head.setPic (x : Head) (p : RegionPic) : Head := { x with pics := (x.pics.filter fun q => q.region ≠ p.region) ++ [p] }

/-- Picture numbers modulo 2^24. -/
def picAdd (p k : Nat) : Nat := (p + k) % 2 ^ 24
/-- How far a picture number lies ahead, modulo 2^24. -/
def picAhead (p cur : Nat) : Nat := (p + 2 ^ 24 - cur) % 2 ^ 24

/-! ## The defect map and conditioning (R88 to R91) -/

/-- Read a defect map's entries: those kept as (LINE, SAMPLE), those skipped as out of order, those outside (R89). -/
def scanDmap (w h : Nat) : List Word → Option Nat → List (Nat × Nat) × Nat × Nat
  | [], _ => ([], 0, 0)
  | e :: es, last =>
    let line := e.toNat / 65536
    let smp := e.toNat % 65536
    if h ≤ line ∨ w ≤ smp then
      let r := scanDmap w h es last
      (r.1, r.2.1, r.2.2 + 1)
    else if (match last with
      | some l => decide (e.toNat ≤ l)
      | none => false) then
      let r := scanDmap w h es last
      (r.1, r.2.1 + 1, r.2.2)
    else
      let r := scanDmap w h es (some e.toNat)
      ((line, smp) :: r.1, r.2.1, r.2.2)

/-- The neighbour distances s and v of R90. -/
def replStep (layout : Nat) : Nat × Nat := if layout = 0 then (2, 2) else if layout = 1 then (1, 1) else (3, 1)

/-- The values of a line after defect replacement (R90): `bad` the line's defect samples, `above` the line y − v after this
step if it was received. -/
def replaceLine (layout w y : Nat) (bad : List Nat) (raw : List Nat) (above : Option (List Nat)) : List Nat :=
  let s := (replStep layout).1
  let v := (replStep layout).2
  let a := raw.toArray
  let usable := fun (x : Nat) => decide (x < w) && !bad.contains x
  (raw.zip (List.range w)).map fun p =>
    let x := p.2
    if !bad.contains x then p.1
    else
      let l := decide (s ≤ x) && usable (x - s)
      let r := usable (x + s)
      if l && r then (a.getD (x - s) 0 + a.getD (x + s) 0 + 1) / 2
      else if l then a.getD (x - s) 0
      else if r then a.getD (x + s) 0
      else if v ≤ y then (match above with
        | some ab => ab.getD x p.1
        | none => p.1)
      else p.1

/-- The canonical position of a delivered sample (R86, R91). -/
def Geo.posOf (g : Geo) (x y : Nat) : Nat :=
  let q := g.permute x y
  g.posClass q.1 q.2

/-- The value with its black-level offset, before the clamp (R91). OFF3 is ignored for LAYOUT 2. -/
def offsetValue (g : Geo) (off : List Int) (x y v : Nat) : Int := (v : Int) + off.getD (g.posOf x y) 0

/-- Condition a line (R88): replacement, then the offset and its clamp. The lists give the positions clamped low and high. -/
def conditionLine (g : Geo) (off : List Int) (y : Nat) (bad raw : List Nat) (above : Option (List Nat)) :
    List Nat × List Nat × List Nat × List Nat :=
  let rep := replaceLine g.layout g.w y bad raw above
  let off' := (rep.zip (List.range g.w)).map fun p => offsetValue g off p.2 y p.1
  let pos := off'.zip (List.range g.w)
  (rep, off'.map fun v => (clampI 0 (2 ^ g.d - 1) v).toNat, (pos.filter fun p => p.1 < 0).map (·.2),
    (pos.filter fun p => (2 ^ g.d - 1 : Int) < p.1).map (·.2))

/-- The samples of a line in order, when every position has arrived (R87). -/
def LineBuf.values (l : LineBuf) (w : Nat) : Option (List Nat) :=
  if (l.spans.map fun s => s.2.length).foldl (· + ·) 0 = w then
    some ((List.range w).map fun x =>
      match l.spans.find? fun s => decide (s.1 ≤ x ∧ x < s.1 + s.2.length) with
      | some s => s.2.getD (x - s.1) 0
      | none => 0)
  else none

/-- A line of a picture. -/
def PicSt.line (q : PicSt) (n : Nat) : LineBuf := tget LineBuf.rest q.lines n

/-- The conditioned value at canonical coordinates of the picture (R88, R86). -/
def PicSt.sampleAt (q : PicSt) (g : Geo) (x y : Nat) : Int :=
  let p := g.permute x y
  ((q.line p.2).cond.getD p.1 0 : Int)

/-! ## Tile contexts (R97, R100) -/

/-- Positions of a list that lie in tile column c. -/
def inColumn (g : Geo) (c : Nat) (xs : List Nat) : Nat := xs.countP fun x => x / g.tW = c

/-- What a tile's lines counted: replacements and clips (DW14). -/
def PicSt.tileCounts (q : PicSt) (g : Geo) (r c : Nat) : Nat × Nat :=
  (List.range (g.hReal r)).foldl (fun a i =>
    let l := q.line (r * g.hT + i)
    (a.1 + inColumn g c l.nrepl, a.2 + inColumn g c l.clips)) (0, 0)

/-- Lines received of a row. -/
def RowSt.linesGot (x : RowSt) (g : Geo) (r : Nat) : Nat := (List.range (g.hReal r)).countP fun i => x.mask.testBit i

/-- Commit the contexts of a row coded absent (R100). -/
def Dev.commitAbsent (d : Dev) (x : RecStream) (q : PicSt) (r : Nat) : Dev :=
  let g := x.decl.geo
  let row := q.row r
  (List.range g.tcols).foldl (fun (d : Dev) c =>
    match x.ctxs[r * g.tcols + c]? with
    | none => d
    | some n =>
      match d.core.tctx.lookup n with
      | none => d
      | some t =>
        let k := q.tileCounts g r c
        { d with core := { d.core with tctx := tset d.core.tctx n { t with
            gen := (t.gen + 1) % 2 ^ 32, state := 4, picture := q.pic, absent := true, lines := row.linesGot g r,
            mask := row.mask, replaced := min k.1 65535, clipped := min k.2 65535, arrival := row.arrival, bound := 0xFFFE,
            budget := 0, coded := 0, qpBase := 0, maxErr := 0, sumSigned := 0, sumAbs := [0, 0, 0, 0], guards := 0 } } }) d

/-! ## Closing rows (R99 to R101) -/

/-- Code a row absent with a cause (R100): its received samples are counted, its contexts committed, and it awaits its unit. -/
def Dev.absentRow (d : Dev) (s p r cause : Nat) : Dev :=
  match d.rec? s with
  | none => d
  | some x =>
    match x.pic? p with
    | none => d
    | some q =>
      let row := q.row r
      let d := d.bump .gather x.bank fGT_ABSENT_CNT_ROWS
      let d := d.bump .gather x.bank fGT_ABSENT_SMP_SAMPLES row.samples
      let d := d.commitAbsent x q r
      let d := d.setRec s (x.modPic p fun q => q.modRow r fun w =>
        { w with closed := 2, cause := cause, closedAt := d.free, tiles := [], waiting := false })
      d.assertEvt (48 + ((d.slot s).resv.place.head?.map (·.1)).getD 0)

/-- The moment of a row has come (R99): 0 it is complete, else the lowest cause that applies (R171). -/
def Dev.rowMoment (d : Dev) (x : RecStream) (q : PicSt) (row : RowSt) : Option Nat :=
  let held := match row.holdEnd with
    | some t => decide (t ≤ d.free)
    | none => false
  if row.doneAt.isSome ∧ !row.lost then some 0
  else if held then some 1
  else if q.t0Free + x.decl.period + d.holdNs x.bank ≤ d.free then some 2
  else none

/-- The first open row of the stream's pictures, in picture order (R99). -/
def RecStream.firstOpen (x : RecStream) : Option (PicSt × Nat) :=
  x.pics.findSome? fun q => ((List.range q.rows.length).find? fun r => (q.row r).closed = 0).map fun r => (q, r)

/-- Close rows in ascending order while their moment has come; `n` bounds the rows. -/
def Dev.closeDue (s : Nat) : Nat → Dev → Dev
  | 0, d => d
  | n + 1, d =>
    match d.rec? s with
    | none => d
    | some x =>
      match x.firstOpen with
      | none => d
      | some (q, r) =>
        match d.rowMoment x q (q.row r) with
        | none => d
        | some 0 =>
          let d := d.setRec s (x.modPic q.pic fun q => q.modRow r fun w => { w with closed := 1, closedAt := d.free })
          Dev.closeDue s n (d.assertEvt (48 + ((d.slot s).resv.place.head?.map (·.1)).getD 0))
        | some c => Dev.closeDue s n (d.absentRow s q.pic r c)

/-- Rows that may close at once: every row of every picture in hand. -/
def Dev.closeRows (d : Dev) (s : Nat) : Dev :=
  match d.rec? s with
  | none => d
  | some x => Dev.closeDue s (x.pics.foldl (fun a q => a + q.rows.length) 0) d

/-! ## Beginning pictures (R98, R102, R56) -/

/-- A picture of a stream begins, or is declared missing: its ingest parameters, defect map and rows are set up (R89, R92), a
new drain rate is taken up (R190), and FORCE_I falls on the first picture that is not missing (R170). -/
def Dev.startPicture (d : Dev) (s pic t0 t0Free : Nat) (est missing : Bool) : Dev :=
  match d.rec? s with
  | none => d
  | some x =>
    let g := x.decl.geo
    let ing := x.ingNext.getD x.par.ing
    let raw := d.readDram ing.dmapAddr (4 * ing.dmapCount)
    let sc := scanDmap x.decl.w x.decl.h (bytesToWords raw) none
    let d := if missing then d else
      (d.bump .gather x.bank fGT_DMAP_ERR_ORDER sc.2.1).bump .gather x.bank fGT_DMAP_ERR_RANGE sc.2.2
    let first := x.firstPic.isNone
    let row := if missing then { RowSt.rest with closed := 2, cause := 3, closedAt := d.free } else RowSt.rest
    let q : PicSt :=
      { pic := pic, idx := x.nextIdx, t0 := t0, t0Free := t0Free, est := est, missing := missing,
        forced := x.forceI && !missing && !first, planned := false, isP := false, refs := [], gmv := (0, 0), gmvSrc := 0, keep := [],
        ing := ing, dmap := sc.1, dmapCrc := if ing.dmapCount = 0 then 0 else crc32c raw, lines := [],
        rows := List.replicate g.trows row, hdr := false, trailer := false, ds := x.dsNew.getD x.ds, metaUsed := 0, carry := 0,
        supply := false, bytes := 0, upCount := 0, mvSum := (0, 0), mvN := 0,
        rcCfg := d.reg (fieldAddr .marver0 0 fRC_CFG_DOWN_PICS 0), rateRows := false }
    let x := { x with
      par := { x.par with ing := ing }, ingNext := none, pics := x.pics ++ [q], nextIdx := x.nextIdx + 1,
      ds := x.dsNew.getD x.ds, dsNew := none, dsAt := if x.dsNew.isSome then d.free else x.dsAt,
      forceI := if missing then x.forceI else false, firstPic := some (x.firstPic.getD pic),
      picsMissing := x.picsMissing + (if missing then 1 else 0),
      metaQ := x.metaQ.map fun m => if m.pic.isNone then { m with pic := some pic } else m }
    let d := d.setRec s x
    let d := if missing then
        let d := (d.bump .gather x.bank fGT_ABSENT_CNT_PICTURES).bump .gather x.bank fGT_ABSENT_CNT_ROWS g.trows
        (List.range g.trows).foldl (fun (d : Dev) r => d.commitAbsent x q r) d
      else d
    let sl := d.slot s
    let d := if sl.state = .armed then d.setSlot s { sl with state := .running } else d
    d.gatherEvt x.par.head

/-- A stream enters DRAINING (Table 3.3): it begins no further picture. Its serving controller is told. -/
def Dev.drainStream (d : Dev) (s reason : Nat) : Dev :=
  let sl := d.slot s
  if sl.state = .running ∨ sl.state = .armed then
    let d := d.setSlot s { sl with state := .draining, reason := reason, closePend := none }
    match d.rec? s with
    | some x => (d.setRec s { x with drainAt := some d.free }).assertEvt (16 + x.bank)
    | none => d
  else d

/-- The take's stop time has passed (R57). -/
def Dev.pastStop (d : Dev) (sl : Slot) : Bool :=
  sl.inTake && (match d.core.take with
    | some t => (match t.tStop with
      | some ts => decide (ts ≤ d.now)
      | none => false)
    | none => false)

/-- The picture boundary of a stream (R58, R191, R284): a close that waits for it takes effect. The result says whether
the stream may begin the picture. -/
def Dev.boundary (d : Dev) (s t0 : Nat) : Dev × Bool :=
  let sl := d.slot s
  match sl.state with
  | .running =>
    if d.pastStop sl then (d.drainStream s 1, false)
    else (match sl.closePend with
      | some c => (d.drainStream s c, false)
      | none => (d, true))
  | .armed =>
    (d, sl.inTake && !d.pastStop sl && (match d.core.take with
      | some t => decide (t.tStart ≤ t0)
      | none => false))
  | _ => (d, false)

/-- A picture of a region begins at the head: the region's current picture moves on, and the stream follows. -/
def Dev.beginRegion (d : Dev) (h r pic t0 t0Free : Nat) (est : Bool) : Dev :=
  let d := d.setHead h ((d.head h).setPic ⟨r, pic, t0, t0Free⟩)
  match d.streamOf h r with
  | none => d
  | some (s, _) =>
    let b := d.boundary s t0
    if b.2 then b.1.startPicture s pic t0 t0Free est false else b.1

/-- Declare a stream's next picture missing (R102): T0 = T0(p) + P, estimated. -/
def Dev.declareMissing (d : Dev) (s : Nat) : Dev :=
  match d.rec? s with
  | none => d
  | some x =>
    match (d.head x.par.head).regionPic x.par.region with
    | none => d
    | some rp =>
      let p := x.decl.period
      let pic := picAdd rp.pic 1
      let b := d.boundary s (rp.t0 + p)
      let d := b.1.setHead x.par.head ((b.1.head x.par.head).setPic ⟨x.par.region, pic, rp.t0 + p, rp.t0Free + p⟩)
      if b.2 ∧ (d.slot s).state = .running then d.startPicture s pic (rp.t0 + p) (rp.t0Free + p) true true else d

/-- Is the next picture of the stream overdue: the end of the 1 µs slot of FREE that holds T0(p) + 1.5 P has come (R102)? -/
def Dev.overduePic (d : Dev) (s : Nat) : Bool :=
  (d.slot s).state = .running && (match d.rec? s with
    | none => false
    | some x =>
      match (d.head x.par.head).regionPic x.par.region with
      | none => false
      | some rp => decide (((rp.t0Free + x.decl.overdue) / 1000 + 1) * 1000 ≤ d.free))

/-- Declare every picture before `pic` that has not begun missing; `n` bounds them. -/
def Dev.fillMissing (h r pic : Nat) : Nat → Dev → Dev
  | 0, d => d
  | n + 1, d =>
    match d.streamOf h r, (d.head h).regionPic r with
    | some (s, _), some rp =>
      if (d.slot s).state = .running ∧ picAhead pic rp.pic < 2 ^ 23 ∧ 1 < picAhead pic rp.pic then
        Dev.fillMissing h r pic n (d.declareMissing s)
      else d
    | _, _ => d

/-- A PSTART block at the lane layer (R68, R98, R102): its picture begins with the stamp of the block, unless it has begun
or lies behind. -/
def Dev.recvPstart (d : Dev) (h r pic : Nat) : Dev :=
  let x := d.head h
  if d.hdState h ≠ 4 ∨ !((x.decl.map (·.regions)).getD []).any (fun g => g.region = r) then d
  else
    match x.regionPic r with
    | none => d.beginRegion h r pic d.now d.free false
    | some rp =>
      let a := picAhead pic rp.pic
      if a = 0 ∨ 2 ^ 23 ≤ a then d
      else
        let d := match d.streamOf h r with
          | some (s, _) => if a = 1 ∧ d.overduePic s then d.declareMissing s else Dev.fillMissing h r pic a d
          | none => d
        match (d.head h).regionPic r with
        | some rp' => if rp'.pic = pic then d else d.beginRegion h r pic d.now d.free false
        | none => d.beginRegion h r pic d.now d.free false

/-! ## Lines (R87, R95, R96) -/

/-- A row coded from retained lines has read strip `k` of every tile, or needs none. -/
def RowSt.hasRead (w : RowSt) (k : Nat) : Bool :=
  w.closed = 2 || w.emitted.isSome || (!w.tiles.isEmpty && w.tiles.all fun t => decide (t.stage = 2 ∨ k < t.strips))

/-- A line of the ring is about to be written again (R96): a row not complete can no longer complete; a row that still has
to read it is coded absent with cause 4. -/
def Dev.reuseSlot (d : Dev) (s n : Nat) : Dev :=
  match d.rec? s with
  | none => d
  | some x =>
    let g := x.decl.geo
    if n < x.decl.ringLines then d
    else
      let o := n - x.decl.ringLines
      match x.pics.find? fun q => q.idx = o / x.decl.h with
      | none => d
      | some q =>
        let line := o % x.decl.h
        let r := line / g.hT
        let row := q.row r
        if row.closed = 2 ∨ row.emitted.isSome then d
        else if row.doneAt.isNone then d.setRec s (x.modPic q.pic fun q => q.modRow r fun w => { w with lost := true })
        else if row.hasRead ((line % g.hT) / (8 * g.cellH)) then d
        else d.absentRow s q.pic r 4

/-- A line is received: it is conditioned, its counts are made, and its row may be complete (R87 to R91, R99). -/
def Dev.lineDone (d : Dev) (s p n : Nat) (raw : List Nat) : Dev :=
  match d.rec? s with
  | none => d
  | some x =>
    match x.pic? p with
    | none => d
    | some q =>
      let g := x.decl.geo
      let v := (replStep g.layout).2
      let ab := if v ≤ n ∧ (q.line (n - v)).done then some (q.line (n - v)).repl else none
      let bad := (q.dmap.filter fun e => e.1 = n).map (·.2)
      let c := conditionLine g q.ing.off n bad raw ab
      let d := d.bump .gather x.bank fGT_REPLACED_CNT_REPLACED bad.length
      let d := d.bump .gather x.bank fGT_CLIP_CNT_LOW c.2.2.1.length
      let d := d.bump .gather x.bank fGT_CLIP_CNT_HIGH c.2.2.2.length
      let r := n / g.hT
      let arr := d.now % 2 ^ 32
      let full := fun (m : Nat) => (List.range (g.hReal r)).all fun i => m.testBit i
      d.setRec s (x.modPic p fun q =>
        let lb := { q.line n with spans := [], done := true, repl := c.1, cond := c.2.1, nrepl := bad, clips := c.2.2.1 ++ c.2.2.2 }
        let q := { q with lines := tset q.lines n lb }
        q.modRow r fun w =>
          let m := w.mask ||| 2 ^ (n % g.hT)
          { w with mask := m, arrival := arr, doneAt := if full m ∧ !w.lost then some d.free else w.doneAt })

/-- An accepted SAMPLE packet begins the hold of every earlier open row of its stream (R99). -/
def Dev.startHolds (d : Dev) (s p r : Nat) : Dev :=
  match d.rec? s with
  | none => d
  | some x =>
    let fin := d.free + d.holdNs x.bank
    let idx := ((x.pic? p).map (·.idx)).getD 0
    d.setRec s { x with pics := x.pics.map fun q =>
      if idx < q.idx then q
      else { q with rows := (q.rows.zip (List.range q.rows.length)).map fun w =>
        if w.1.closed = 0 ∧ w.1.holdEnd.isNone ∧ w.1.doneAt.isNone ∧ (q.idx < idx ∨ w.2 < r) then
          { w.1 with holdEnd := some fin } else w.1 } }

/-- Write the samples of a packet into their line (R87): a repeated position makes the packet malformed, a row already
closed makes it late. -/
def Dev.takeSamples (d : Dev) (s h p line off : Nat) (vals : List Nat) : Dev :=
  let d := d.closeRows s
  match d.rec? s with
  | none => d
  | some x =>
    match x.pic? p with
    | none => d.bump .gather x.bank fGT_LATE_CNT_LATE
    | some q =>
      let g := x.decl.geo
      let r := line / g.hT
      let lb := q.line line
      if (q.row r).closed ≠ 0 ∨ (q.row r).lost then d.bump .gather x.bank fGT_LATE_CNT_LATE
      else if lb.done ∨ (lb.spans.any fun e => decide (off < e.1 + e.2.length ∧ e.1 < off + vals.length)) then d.malformed h
      else
        let d := d.startHolds s p r
        let d := if lb.spans.isEmpty then d.reuseSlot s (q.idx * x.decl.h + line) else d
        match d.rec? s with
        | none => d
        | some x =>
          let lb := { lb with spans := lb.spans ++ [(off, vals)] }
          let d := d.setRec s (x.modPic p fun q =>
            { (q.modRow r fun w => { w with samples := w.samples + vals.length }) with lines := tset q.lines line lb })
          match lb.values x.decl.w with
          | none => d
          | some raw => (d.lineDone s p line raw).closeRows s

/-! ## Packets (R70, R77, R80) -/

/-- Samples packed `w` bits each, most significant bit first (Table 4.3). -/
def unpackBits (w : Nat) : Nat → List Bool → List Nat
  | 0, _ => []
  | n + 1, bs => ((bs.take w).foldl (fun a b => 2 * a + (if b then 1 else 0)) 0) :: unpackBits w n (bs.drop w)

/-- PICTURE is one that a packet may name (R70): the current picture, one of the two after it, or an earlier one that the
stream still has in hand or has closed (R101). -/
def Dev.pictureOk (d : Dev) (h r pic : Nat) : Bool :=
  match (d.head h).regionPic r with
  | none => true
  | some rp => decide (picAhead pic rp.pic ≤ 2) ||
      (decide (2 ^ 23 ≤ picAhead pic rp.pic) && (d.streamOf h r).isSome)

/-- The region's declaration. -/
def Dev.regionOf (d : Dev) (h r : Nat) : Option RegionDecl :=
  (((d.head h).decl.map (·.regions)).getD []).find? fun g => g.region = r

/-- A packet passes the link layer (R77) and belongs to an admitted head; a packet of a head not admitted is malformed
(R70). -/
def Dev.linkCheck (d : Dev) (h : Nat) (p : List Byte) : Dev × Bool :=
  let st := d.hdState h
  if 2 ≤ st ∧ st ≤ 4 then
    let r := d.seqCheck h p
    if r.2 ∧ st ≠ 4 then (r.1.malformed h, false) else r
  else (d.malformed h, false)

/-- The police credit for payload bits (R80): replayed packets are not charged. The second result says that it was short. -/
def Dev.police (d : Dev) (h bits : Nat) (sample replayed : Bool) : Dev × Bool :=
  let x := d.head h
  if replayed then (d, true)
  else if sample then
    if x.credS < bits then ((d.bumpHd h fHD_POLICE_CNT_DROPS).hostileCount h, false)
    else (d.setHead h { x with credS := x.credS - bits }, true)
  else if x.credM < bits * 50000 then ((d.bumpHd h fHD_POLICE_CNT_DROPS).hostileCount h, false)
  else (d.setHead h { x with credM := x.credM - bits * 50000 }, true)

/-- The picture of a SAMPLE packet has begun, or begins on it with an estimated T0 (R98); a picture that skips one
declares it missing (R102). -/
def Dev.ensurePicture (d : Dev) (h r pic : Nat) (g : RegionDecl) : Dev :=
  match (d.head h).regionPic r with
  | none => d.beginRegion h r pic d.now d.free true
  | some rp =>
    let a := picAhead pic rp.pic
    if a = 0 ∨ 2 ^ 23 ≤ a then d
    else
      let d := match d.streamOf h r with
        | some (s, _) => if a = 1 ∧ d.overduePic s then d.declareMissing s else Dev.fillMissing h r pic a d
        | none => d
      match (d.head h).regionPic r with
      | none => d
      | some rp =>
        if rp.pic = pic then d
        else
          let firstOfStream := match d.streamOf h r with
            | some (_, x) => x.firstPic.isNone
            | none => false
          if firstOfStream then d.beginRegion h r pic d.now d.free true
          else d.beginRegion h r pic (rp.t0 + g.period) (rp.t0Free + g.period) true

/-- A SAMPLE packet (R64, R70, R77, R80, R87). -/
def Dev.recvSample (d : Dev) (h : Nat) (p : List Byte) : Dev :=
  let c := d.linkCheck h p
  if !c.2 then c.1
  else
    let d := c.1
    let k := pktHdr p
    match d.regionOf h k.region with
    | none => d.malformed h
    | some g =>
      if k.typ ≠ 0 ∨ k.flags % 64 ≠ 0 ∨ k.resv ≠ 0 ∨ k.depth ≠ g.d ∨ g.h ≤ k.line ∨ g.w < k.off + k.count ∨ k.count = 0 ∨
          2048 < k.count ∨ (k.count < 256 ∧ k.off + k.count ≠ g.w) ∨ !d.pictureOk h k.region k.pic then d.malformed h
      else
        let c := d.police h (k.count * g.d) true k.replayed
        if !c.2 then c.1
        else
          let d := c.1.ensurePicture h k.region k.pic g
          match d.streamOf h k.region with
          | none => if d.endedOf h k.region then d.bump .gather (bankOf h) fGT_LATE_CNT_LATE else d
          | some (s, x) =>
            if x.firstPic.isNone then (if (d.slot s).state = .draining then d.bump .gather x.bank fGT_LATE_CNT_LATE else d)
            else d.takeSamples s h k.pic k.line k.off (unpackBits g.d k.count (bitsOf (pktPayload p)))

/-- Queue a Metadata unit for the stream of a region (R175): it stands in the picture in flight, or in the first. -/
def Dev.queueMeta (d : Dev) (h r kind : Nat) (data : List Byte) : Dev :=
  match d.streamOf h r with
  | none => d
  | some (s, x) =>
    let sl := d.slot s
    if sl.state = .armed ∧ !sl.inTake then d
    else if x.eosDone ∨ (sl.state = .draining ∧ !(x.pics.any fun q => !q.trailer)) then
      d.setRec s { x with metaDropped := x.metaDropped + 1 }
    else
      let target := (x.pics.filter fun q => !q.trailer).getLast?.map (·.pic)
      (d.setRec s { x with metaQ := x.metaQ ++ [⟨kind, target, d.now, data, none⟩] }).gatherEvt h

/-- A META packet (Table 4.3). -/
def Dev.recvMeta (d : Dev) (h : Nat) (p : List Byte) : Dev :=
  let c := d.linkCheck h p
  if !c.2 then c.1
  else
    let d := c.1
    let k := pktHdr p
    if k.typ ≠ 1 ∨ !k.plain k.count ∨ k.count = 0 ∨ 4096 < k.count ∨ (d.regionOf h k.region).isNone ∨
        !d.pictureOk h k.region k.pic then d.malformed h
    else
      let c := d.police h (8 * k.count) false k.replayed
      if !c.2 then c.1 else c.1.queueMeta h k.region 1 (pktPayload p)

/-- A record of a MOTION payload (Table 7.7) has its zero fields zero. -/
def motionOk (b : List Byte) : Bool := decide (fieldBe b 0 1 < 16 ∧ fieldBe b 1 1 = 0 ∧ fieldBe b 10 6 = 0)

/-- One motion record (R154, R155): kept for GMV when it describes the region's next picture, counted late otherwise; it is
written as metadata. -/
def Dev.motionRec (d : Dev) (h : Nat) (b : List Byte) : Dev :=
  let r := fieldBe b 0 1
  let pic := fieldBe b 2 3
  let next := match (d.head h).regionPic r with
    | some rp => decide (picAhead pic rp.pic = 1)
    | none => true
  let d := match d.streamOf h r with
    | none => d
    | some (s, x) =>
      if next then
        d.setRec s { x with motion := x.motion ++
          [MotionRec.mk pic (fieldBe b 5 1) (ofTwos 16 (fieldBe b 6 2)) (ofTwos 16 (fieldBe b 8 2))] }
      else
        match (d.slot s).resv.place.head? with
        | some pl => d.bump .me pl.1 fME_MOT_LATE_LATE
        | none => d
  d.queueMeta h r 2 b

/-- A MOTION packet (R155). -/
def Dev.recvMotion (d : Dev) (h : Nat) (p : List Byte) : Dev :=
  let c := d.linkCheck h p
  if !c.2 then c.1
  else
    let d := c.1
    let k := pktHdr p
    let pay := pktPayload p
    let recs := (List.range (pay.length / 16)).map fun i => (pay.drop (16 * i)).take 16
    if k.typ ≠ 2 ∨ !k.plain k.count ∨ k.count = 0 ∨ k.count % 16 ≠ 0 ∨ (d.regionOf h k.region).isNone ∨
        !d.pictureOk h k.region k.pic ∨ !recs.all motionOk then d.malformed h
    else
      let c := d.police h (8 * k.count) false k.replayed
      if !c.2 then c.1 else recs.foldl (fun (d : Dev) b => d.motionRec h b) c.1

end Sys2Proof.Machine
end

