-- ==== Sys2Proof/Machine/RateOps.lean ====
section
/-! DEFINITION. Marver (chapter 09): drain rates, the model of each record stream, grants, the log, the restart credit; and
the emission of a unit onto its stream's work ring. -/
namespace Sys2Proof.Machine

/-! ## Drain rates (R190, R191, R193) -/

/-- u_s: the uncompressed rate of a region in Mb/s (R190). -/
def RegionDecl.mbps (g : RegionDecl) : Nat := cdiv (g.w * g.h * g.d * g.num) (g.den * 1000000)
/-- The weight of a stream. -/
def RecStream.weight (x : RecStream) : Nat := x.decl.mbps * x.par.shareMul
/-- Drain bytes in a picture period (R190). -/
def RegionDecl.drainBytes (g : RegionDecl) (ds : Nat) : Nat := ds * 1000000 * g.den / (8 * g.num)
/-- Y_s at a drain rate. -/
def RecStream.ys (x : RecStream) (ds : Nat) : Nat := x.decl.drainBytes ds
/-- M_s: the metadata allowance of a picture (R193). -/
def metaAllowance (metaRate : Nat) (g : RegionDecl) : Nat := 2 * (metaRate * 125 * g.den / g.num) + 4096
/-- H_s: headers, trailer and metadata of a picture (R193). -/
def headerBytes (metaRate maxRefs : Nat) (g : RegionDecl) : Nat := 76 + 4 * maxRefs + 88 + metaAllowance metaRate g

/-- The record streams admitted on a magazine port, in ascending slot. -/
def Dev.portStreams (d : Dev) (m : Nat) : List (Nat × RecStream) :=
  d.core.recs.filter fun p => decide (p.2.par.port = m) && (d.slot p.1).state.live

/-- R_m as published; for a partner's magazine the accepted sum (R347), the partner on peer port p standing as port 8 + p. -/
def Dev.portPace (d : Dev) (m : Nat) : Nat := if m < 8 then d.get .marver1 0 fRC_PACE_MBPS m else (d.peer (m - 8)).pace

/-- The D_s that a port of pace `rm` and total weight `w` gives a stream. -/
def shareOf (rm weight w : Nat) : Nat := if w = 0 then 0 else rm * weight / w

/-- The D_s computed last is published at once: a stream whose End of Stream unit is written has no picture under way. -/
def RecStream.publishDs (x : RecStream) (free : Nat) : RecStream :=
  { x with ds := x.dsNew.getD x.ds, dsNew := none, dsAt := if x.dsNew.isSome then free else x.dsAt }

/-- Recompute D_s for every stream of a port; each takes it up at its next picture boundary (R190), or at once after its last picture. -/
def Dev.recomputeDs (d : Dev) (m : Nat) : Dev :=
  let ps := d.portStreams m
  let w := ps.foldl (fun a p => a + p.2.weight) 0
  ps.foldl (fun (d : Dev) p =>
    let x : RecStream := { p.2 with dsNew := some (shareOf (d.portPace m) p.2.weight w) }
    if x.eosDone then
      let x := x.publishDs d.free
      (d.setRec p.1 x).unpark (12288 + p.1) x.ds
    else d.setRec p.1 x) d

/-- The D_s by which A1 is judged: in force, or the one its first picture will take. -/
def RecStream.dsNow (x : RecStream) : Nat := if x.firstPic.isNone then x.dsNew.getD x.ds else x.ds

/-- A1: a picture in exhausted mode fits one period of drain. -/
def RecStream.a1 (x : RecStream) (ds : Nat) : Bool := decide (x.xs + x.hs ≤ x.ys ds)

/-- RC_PORTm.SHORT follows A1 (R191). -/
def Dev.refreshShort (d : Dev) (m : Nat) : Dev :=
  let short := (d.portStreams m).any fun p => !p.2.a1 p.2.dsNow
  let was := d.get .marver1 0 fRC_PORT_SHORT m = 1
  if 8 ≤ m ∨ short = was then d
  else
    let d := d.set .marver1 0 fRC_PORT_SHORT (if short then 1 else 0) m
    let d := d.setMag m { d.mag m with shortAt := if short then some d.free else none }
    if short then (d.statBit .marver0 0 4).assertEvt 113 else d

/-! ## The log (R203) -/

/-- Append a log entry; a full log loses its oldest. -/
def Dev.rcLogAdd (d : Dev) (kind s trow from_ to_ pic : Nat) : Dev :=
  let w0 := BitVec.ofNat 32 (2 ^ 31 + kind * 2 ^ 28 + s * 2 ^ 17 + trow * 2 ^ 8 + from_ * 2 ^ 4 + to_)
  let l := d.core.rcLog
  let d := if l.length < 256 then d else (d.bump .marver0 0 fRC_LOG_LOST_LOST).statBit .marver0 0 5
  { d with core := { d.core with rcLog := (if l.length < 256 then l else l.drop 1) ++ [(w0, BitVec.ofNat 32 pic)] } }

/-! ## The ladder (R197, R200) -/

/-- The top rung of a stream. -/
def RecStream.top (x : RecStream) : Nat := rungTop x.par.eT x.par.eC
/-- The bound of a rung. -/
def RecStream.eOf (x : RecStream) (r : Nat) : Nat := rungE x.par.eT x.par.eC r

/-- A step up (Table 9.4 cases 1, 2, 4 and 5). -/
def Dev.stepUp (d : Dev) (s pic : Nat) : Dev :=
  match d.rec? s with
  | none => d
  | some x =>
    let d := d.setRec s { x.modPic pic (fun q => { q with upCount := q.upCount + 1 }) with downCnt := 0 }
    if x.top ≤ x.rung then d
    else
      match d.rec? s with
      | none => d
      | some x =>
        let d := d.setRec s { x with rung := x.rung + 1 }
        ((d.bump .marver0 0 fRC_LADDER_CNT_UP).statBit .marver0 0 0).rcLogAdd 1 s 0 x.rung (x.rung + 1) pic

/-! ## Emission (R188, R189, R248) -/

/-- Bytes of a chunk and of a piece. -/
def chunkBytes : Nat := 2 ^ 21
def pieceBytes : Nat := 131072

/-- Obtain the chunks of an address range (R261, R262): none, if Cullet refuses one. -/
def Dev.ensureChunks (s : Nat) : List Nat → Dev → Dev × Bool
  | [], d => (d, true)
  | c :: cs, d =>
    match d.rec? s with
    | none => (d, false)
    | some x =>
      if x.chunks.any fun p => p.1 = c then Dev.ensureChunks s cs d
      else match d.allocChunk s 0 true with
        | (d, none) => (d, false)
        | (d, some h) => Dev.ensureChunks s cs (d.setRec s { x with chunks := x.chunks ++ [(c, h)] })

/-- Cut an address range at chunk boundaries: (address, length) parts; `n` bounds them. -/
def chunkParts : Nat → Nat → Nat → List (Nat × Nat)
  | 0, _, _ => []
  | n + 1, a, len =>
    if len = 0 then []
    else
      let k := min len (chunkBytes - a % chunkBytes)
      (a, k) :: chunkParts n (a + k) (len - k)

/-- The handle of the chunk that holds a stream address. -/
def RecStream.handleAt (x : RecStream) (a : Nat) : Nat := (x.chunks.lookup (a / chunkBytes)).getD 0

/-- Emit a unit (R188): its bytes go to the stream's chunks, its parts to the stream's work ring, and the model fills. The
second result is false when a chunk was refused: the unit then stays in staging (Table 13.7). -/
def Dev.emitUnit (d : Dev) (s typ flags pic : Nat) (body : List Byte) : Dev × Bool :=
  match d.rec? s with
  | none => (d, false)
  | some x =>
    let u := unitBytes typ flags s body
    let c0 := x.wAddr / chunkBytes
    let c1 := (x.wAddr + u.length - 1) / chunkBytes
    match Dev.ensureChunks s ((List.range (c1 + 1 - c0)).map (c0 + ·)) d with
    | (d, false) => (d, false)
    | (d, true) =>
      match d.rec? s with
      | none => (d, false)
      | some x =>
        let parts := chunkParts (u.length / chunkBytes + 2) x.wAddr u.length
        let d := parts.foldl (fun (d : Dev) p =>
          d.writeDram (d.chunkBase (x.handleAt p.1) + p.1 % chunkBytes) ((u.drop (p.1 - x.wAddr)).take p.2)) d
        let n := 12288 + s
        let ents := parts.map fun p => RingEnt.mk (x.handleAt p.1) (p.1 % chunkBytes) p.2 typ pic
        let d := d.advanceTail n ((d.ring n).tail + ents.length)
        let d := d.setRing n { d.ring n with ents := (d.ring n).ents ++ ents }
        let f := x.f + 8 * u.length
        let x := { x with f := f, peak := max x.peak f, wAddr := x.wAddr + u.length, bytes := x.bytes + u.length }
        let x := x.modPic pic fun q =>
          if typ = 2 ∨ typ = 3 ∨ typ = 5 then { q with bytes := q.bytes + u.length } else q
        ((d.setRec s x).unpark n x.ds, true)

/-! ## Grants (R194, R195) -/

/-- O_s: grants of rows granted and not yet emitted. -/
def RecStream.granted (x : RecStream) : Nat :=
  x.pics.foldl (fun a q => q.rows.foldl (fun a w => if w.emitted.isNone then a + w.grant.getD 0 else a) a) 0

/-- T_s: units that no grant covers, for a grant of row `r` of picture `q`. -/
def RecStream.reserved (x : RecStream) (q : PicSt) (r : Nat) : Nat :=
  let open_ := (List.range q.rows.length).countP fun i => decide (i ≠ r ∧ (q.row i).grant.isNone ∧ (q.row i).closed = 0)
  88 + 56 + (76 + 4 * x.par.maxRefs) + 32 * open_ + (x.ms - q.metaUsed)

/-- A_r (R194). -/
def RecStream.allot (x : RecStream) (q : PicSt) (r : Nat) : Nat :=
  let g := x.decl.geo
  (min (x.ys q.ds) (x.bs / 2) - x.hs) * g.rowSamples r / g.samples

/-- C_r as a grant uses it (R194): earlier rows count their unit, else their grant, else an absent unit. -/
def RecStream.carryAt (x : RecStream) (q : PicSt) (r : Nat) : Int :=
  (List.range r).foldl (fun (a : Int) i =>
    let w := q.row i
    match w.emitted, w.grant with
    | some n, _ => a + x.allot q i - n
    | none, some n => if w.closed = 2 then a + x.allot q i - 32 else a + x.allot q i - n
    | none, none => if w.closed = 2 then a + x.allot q i - 32 else a) 0

/-- The shares of a grant among a row's tiles, in bits (R195). -/
def Dev.tileShares (d : Dev) (x : RecStream) (r grant : Nat) : List Nat :=
  let n := x.decl.geo.tcols
  let cs := (List.range n).map fun c => (x.ctxs[r * n + c]?).bind fun k => d.core.tctx.lookup k
  let coded := cs.map fun t => match t with
    | some t => if t.bound = 0xFFFE ∨ t.bound = 0xFFFF then 0 else t.coded
    | none => 0
  let plain := cs.all fun t => match t with
    | some t => decide (t.bound ≠ 0xFFFE ∧ t.bound ≠ 0xFFFF)
    | none => false
  let sum := coded.foldl (· + ·) 0
  if sum = 0 ∨ !plain then List.replicate n (8 * grant / n) else coded.map fun c => 8 * grant * c / sum

/-- The next row to grant: the first of the stream whose first line has entered the ring (R195). -/
def RecStream.toGrant (x : RecStream) : Option (PicSt × Nat) :=
  x.pics.findSome? fun q => ((List.range q.rows.length).find? fun r =>
    decide ((q.row r).closed ≠ 2 ∧ (q.row r).grant.isNone ∧ 0 < (q.row r).samples)).map fun r => (q, r)

/-- Grant a stream's next row, or let it wait (R195). -/
def Dev.grantRow (d : Dev) (s : Nat) : Dev :=
  match d.rec? s with
  | none => d
  | some x =>
    match x.toGrant with
    | none => d
    | some (q, r) =>
      let xr := x.decl.geo.xRow r
      let room : Int := (((8 * x.bs : Int) - x.f) / 8) - x.granted - x.reserved q r
      if room < xr then
        if (q.row r).waiting then d
        else
          let d := d.setRec s (x.modPic q.pic fun q => q.modRow r fun w => { w with waiting := true, noLimit := true })
          ((d.bump .marver0 0 fRC_WAIT_CNT_WAITS).statBit .marver0 0 2).rcLogAdd 5 s r 0 0 q.pic
      else
        let g := (max (xr : Int) (min (x.allot q r + x.carryAt q r) room)).toNat
        let e := x.eOf x.rung
        let tiles := (d.tileShares x r g).map fun b => { TileSt.rest with budget := b }
        d.setRec s { x.modPic q.pic (fun q => q.modRow r fun w =>
          { w with grant := some g, waiting := false, attempt := 1, bound := e, qpBase := qpBaseOf e x.qadj, rung := x.rung,
                   restartLast := min 8 (d.get .marver0 0 fRC_CFG_RESTART_LAST), tiles := tiles }) with lastGrant := g }

/-- Every model drains by D_s in a 1 µs slot (R189), and rows that wait are judged again (R195). -/
def Dev.drainTick (d : Dev) : Dev :=
  let live := d.core.recs.filter fun p => (d.slot p.1).state.live
  let d := live.foldl (fun (d : Dev) p => d.setRec p.1 { p.2 with f := p.2.f - p.2.ds }) d
  live.foldl (fun (d : Dev) p =>
    if p.2.pics.any (fun q => q.rows.any fun w => w.waiting && decide (w.closed ≠ 2)) then d.grantRow p.1 else d) d

/-! ## The restart credit (R199) -/

/-- The pipeline that performs an encode role: the pipeline itself, or the spare that holds its role (Table 19.5). None: the
role is withdrawn. A pipeline of an isolated quadrant performs none. -/
def Dev.encFor (d : Dev) (p : Nat) : Option Nat :=
  let wd := (d.get .fault3 0 (if p < 32 then fFC_WD_ENC0_ENC else fFC_WD_ENC1_ENC)).testBit (p % 32)
  let q := p / 16
  if (d.get .fault3 0 fFC_WD_OTHER_QUAD).testBit q then none
  else if !wd then
    if d.get .fault3 0 fFC_ESPARE_IN_USE q = 1 ∧ d.get .fault3 0 fFC_ESPARE_ROLE q = p then some (64 + q) else some p
  else if d.get .fault3 0 fFC_ESPARE_IN_USE q = 1 ∧ d.get .fault3 0 fFC_ESPARE_ROLE q = p then some (64 + q)
  else none

/-- Working encode pipelines of a quadrant and of a cluster. -/
def Dev.encWorking (d : Dev) (q : Nat) : Nat := (List.range 16).countP fun i => (d.encFor (16 * q + i)).isSome
def Dev.clusterWorking (d : Dev) (c : Nat) : Nat := (List.range 4).countP fun i => (d.encFor (4 * c + i)).isSome
/-- Does a cluster's motion search engine work? -/
def Dev.meWorking (d : Dev) (c : Nat) : Bool :=
  !(d.get .fault3 0 fFC_WD_OTHER_ME).testBit c && !(d.get .fault3 0 fFC_WD_OTHER_QUAD).testBit (c / 4)

/-- The admitted encode load of a quadrant, in samples per second. -/
def Dev.quadLoad (d : Dev) (q : Nat) : Nat := d.liveSlots.foldl (fun a p => if p.2.resv.quad = q then a + p.2.resv.enc else a) 0

/-- Each quadrant's credit in a 1 µs slot: 4,000 samples for each working pipeline, less its admitted load (R199). -/
def Dev.creditStep (d : Dev) : Dev :=
  (List.range 4).foldl (fun (d : Dev) q =>
    let c := d.get .marver0 0 fRC_CREDIT_SAMPLES q + 4000 * d.encWorking q - cdiv (d.quadLoad q) 1000000
    d.set .marver0 0 fRC_CREDIT_SAMPLES (min c (2 ^ 24 - 1)) q) d

end Sys2Proof.Machine
end

