-- ==== Sys2Proof/Machine/CodingOps.lean ====
section
/-! DEFINITION. Coding a record stream (chapters 06 to 09 and 12): references, dispatch of tiles, checkpoints, commits, row
decisions, emission of Tile Row units, machine checks and latched orders. -/
namespace Sys2Proof.Machine

/-! ## References (R131, R139, R153) -/

/-- Every tile of a row is coded. -/
def RowSt.coded (w : RowSt) : Bool := !w.tiles.isEmpty && w.tiles.all fun t => t.stage = 2

/-- A row as the reference pool holds it: absent rows have no tiles, exhausted rows their exhausted output. -/
def RowSt.ref (w : RowSt) : RefRow :=
  if w.closed = 2 ∨ !w.coded then ⟨0xFFFE, [], []⟩
  else
    let outs := w.tiles.map fun t => if w.exhCause ≠ 0 then t.exh else t.out
    ⟨if w.exhCause ≠ 0 then 0xFFFF else w.bound, outs.map fun o => (o.map (·.out)).getD #[],
      outs.map fun o => (o.map (·.pus)).getD []⟩

/-- A picture as a reference, from the pictures in hand or the reference set. -/
def RecStream.ref? (x : RecStream) (p : Nat) : Option RefPic :=
  match x.pic? p with
  | some q => some ⟨q.pic, q.isP, q.rows.map (·.ref), q.keep.any fun k => k.1 = p && k.2⟩
  | none => x.refSet.find? fun r => r.pic = p

/-- Rows r − 1 to r + 1 of every reference are committed or closed as absent (R153). -/
def RecStream.refsReady (x : RecStream) (q : PicSt) (r : Nat) : Bool :=
  q.refs.all fun p => match x.pic? p with
    | none => true
    | some rp => (List.range 3).all fun i =>
        let j := r + i
        j = 0 || decide (rp.rows.length < j) || (rp.row (j - 1)).closed = 2 || (rp.row (j - 1)).coded

/-- The cluster that codes tile column `c` of a stream (R54). -/
def Resv.clusterOf (v : Resv) (c : Nat) : Nat :=
  (v.place.foldl (fun (a : Nat × Option Nat) p =>
    (a.1 + p.2, if a.2.isNone ∧ c < a.1 + p.2 then some p.1 else a.2)) (0, Option.none)).2.getD 0

/-- The parameters a tile is coded with. -/
def Dev.tileParams (d : Dev) (s : Nat) (x : RecStream) (q : PicSt) (r c : Nat) : TileParams :=
  let w := q.row r
  let cl := (d.slot s).resv.clusterOf c
  { g := x.decl.geo, pos := ⟨r, c⟩, pic := q.pic, bound := w.bound, qpBase := w.qpBase, pqo := x.par.pqo,
    refA := q.refs[0]?.bind x.ref?, refB := q.refs[1]?.bind x.ref?, gmv := q.gmv,
    lambdaMul := d.get .me cl fME_CFG_LAMBDA_MUL, avgEn := d.get .me cl fME_CFG_AVG_EN = 1,
    noInter := w.noInter }

/-- The conditioned samples of a tile, by canonical coordinates within it (R88). -/
def PicSt.tileSample (q : PicSt) (g : Geo) (r c : Nat) (x y : Nat) : Int := q.sampleAt g (c * g.tW + x) (r * g.hT + y)

/-! ## Dispatch (R54) -/

/-- Lines of the first `k` strips of row `r`, within the row. -/
def Geo.stripLines (g : Geo) (r k : Nat) : Nat := min (k * 8 * g.cellH) (g.hReal r)

/-- The first `n` lines of a row have been received. -/
def RowSt.linesIn (w : RowSt) (n : Nat) : Bool := (List.range n).all fun i => w.mask.testBit i

/-- Is a row ready to be coded: granted, planned, not absent, its references in place? -/
def RecStream.rowReady (x : RecStream) (q : PicSt) (r : Nat) : Bool :=
  let w := q.row r
  w.grant.isSome && q.planned && decide (w.closed ≠ 2) && !w.lost && w.linesIn (x.decl.geo.stripLines r 1) && x.refsReady q r

/-- A tile ready to be coded: slot, column, picture index, picture, row, and the pipeline it was handed to. -/
structure ReadyTile where
  slot : Nat
  col : Nat
  idx : Nat
  pic : Nat
  row : Nat
  toPipe : Option Nat
  deriving DecidableEq, Repr

/-- The tiles of a cluster that are ready, in the order of R54: lower slot first, within a stream the lower column. -/
def Dev.readyTiles (d : Dev) (cl : Nat) : List ReadyTile :=
  (d.core.recs.map fun p =>
    let x := p.2
    let v := (d.slot p.1).resv
    if !(d.slot p.1).state.live then []
    else
      ((List.range x.decl.geo.tcols).filter fun c => v.clusterOf c = cl).flatMap fun c =>
        x.pics.flatMap fun q =>
          ((List.range q.rows.length).filter fun r =>
            x.rowReady q r && (match (q.row r).tiles[c]? with
              | some t => t.stage = 0
              | none => false)).map fun r =>
            ReadyTile.mk p.1 c q.idx q.pic r (((q.row r).tiles[c]?).bind (·.toPipe))).flatten

/-- An encode pipeline is free to take a tile. -/
def Dev.encFree (d : Dev) (p : Nat) : Bool := d.enabled (0xA0 + p) && (d.enc p).job.isNone

/-- Give a tile to a pipeline. -/
def Dev.startTile (d : Dev) (p : Nat) (t : ReadyTile) : Dev :=
  match d.rec? t.slot with
  | none => d
  | some x =>
    let d := d.setRec t.slot (x.modPic t.pic fun q => q.modRow t.row fun w =>
      { w with tiles := listMod w.tiles t.col fun y => { y with stage := 1, pipe := p, toPipe := none, strips := 0 } })
    (d.setEnc p { d.enc p with job := some (t.slot, t.pic, t.row, t.col) }).set .enc p fMC_STAT_BUSY 1

/-- The pipeline that takes a ready tile: the one it was handed to while that works, else the lowest-numbered working
pipeline of the cluster that is free. -/
def Dev.pipeFor (d : Dev) (cl : Nat) (t : ReadyTile) : Option Nat :=
  match t.toPipe with
  | some p => if d.encFree p then some p else none
  | none => ((List.range 4).filterMap fun i => d.encFor (4 * cl + i)).find? d.encFree

/-- Deal the ready tiles of a cluster across its pipelines (R54). -/
def Dev.dispatch (d : Dev) (cl : Nat) : Dev :=
  (d.readyTiles cl).foldl (fun (d : Dev) t => match d.pipeFor cl t with
    | some p => d.startTile p t
    | none => d) d

/-- A pipeline is left without its tile. -/
def Dev.freePipe (d : Dev) (p : Nat) : Dev := (d.setEnc p { d.enc p with job := none }).set .enc p fMC_STAT_BUSY 0

/-- The pipeline that codes a tile which pipeline `p` gave up (R234): the quadrant's spare unless it holds a role or is
withdrawn, else the lowest-numbered other working pipeline of the cluster. -/
def Dev.handTo (d : Dev) (p cl : Nat) : Option Nat :=
  let q := if p < 64 then p / 16 else p - 64
  if 64 ≤ p ∨ d.get .fault3 0 fFC_ESPARE_IN_USE q = 1 ∨ d.get .fault3 0 fFC_ESPARE_WITHDRAWN q = 1 then
    ((List.range 4).filterMap fun i => d.encFor (4 * cl + i)).find? fun k => k ≠ p
  else some (64 + q)

/-- Hand the tile in flight on a pipeline to another (R127, R234); its emission limit no longer holds (R201). -/
def Dev.handTile (d : Dev) (p : Nat) : Dev :=
  match (d.enc p).job with
  | none => d
  | some (s, pic, r, c) =>
    let d := d.freePipe p
    match d.rec? s with
    | none => d
    | some x =>
      let dst := d.handTo p ((d.slot s).resv.clusterOf c)
      let d := d.setRec s (x.modPic pic fun q => q.modRow r fun w =>
        { w with noLimit := true, tiles := listMod w.tiles c fun y => { y with stage := 0, strips := 0, toPipe := dst, out := none } })
      d.bump .enc p fMC_MCHK_CNT_HANDED

/-! ## Checkpoints and restarts (R198, R199) -/

/-- Pipelines that code tiles of a row drop them. -/
def Dev.dropRowJobs (d : Dev) (s pic r : Nat) : Dev :=
  d.core.encs.foldl (fun (d : Dev) e => match e.2.job with
    | some (s', p', r', _) => if s' = s ∧ p' = pic ∧ r' = r then d.freePipe e.1 else d
    | none => d) d

/-- Restart a row at E_c from the retained input (R198, Table 9.4 case 1). -/
def Dev.restartRow (d : Dev) (s pic r cost : Nat) : Dev :=
  match d.rec? s with
  | none => d
  | some x =>
    let d := d.lower .marver0 0 fRC_CREDIT_SAMPLES cost (d.slot s).resv.quad
    let d := d.dropRowJobs s pic r
    let d := (d.bump .marver0 0 fRC_ROW_CNT_RESTARTS).rcLogAdd 3 s r x.rung x.top pic
    let d := d.setRec s (x.modPic pic fun q => { (q.modRow r fun w =>
      { w with attempt := 2, bound := x.par.eC, qpBase := qpBaseOf x.par.eC x.qadj, rung := x.top, restarted := true,
               tiles := w.tiles.map fun t => { TileSt.rest with budget := t.budget } }) with rateRows := true })
    d.stepUp s pic

/-- A reference read returned poison: the row is recoded from the retained input without references, and the stream's next
picture is an I picture (Table 16.2). -/
def Dev.recodeRow (d : Dev) (s pic r : Nat) : Dev :=
  match d.rec? s with
  | none => d
  | some x =>
    let d := d.dropRowJobs s pic r
    d.setRec s { (x.modPic pic fun q => q.modRow r fun w =>
      { w with noInter := true, tiles := w.tiles.map fun t => { TileSt.rest with budget := t.budget } }) with forceI := true }

/-- Checkpoint `k` of a row: every tile has coded its first `k` strips; the row's size is projected, and a first attempt whose
projection exceeds the grant restarts if the quadrant's credit covers its cost. -/
def Dev.checkpoint (d : Dev) (s r k : Nat) : Dev :=
  match d.rec? s with
  | none => d
  | some x =>
    match x.pics.find? fun q =>
        decide ((q.row r).closed ≠ 2) && !(q.row r).tiles.isEmpty && ((q.row r).tiles.all fun t => decide (t.stage ≠ 0)) &&
          !(q.row r).coded with
    | none => d
    | some q =>
      let g := x.decl.geo
      let w := q.row r
      let n := g.strips r
      if k = 0 ∨ n < k ∨ !w.linesIn (g.stripLines r k) ∨ !w.tiles.all (fun t => decide (t.stage = 2 ∨ t.strips + 1 = k)) then d
      else
        let sk := (List.range g.tcols).foldl (fun a c =>
          a + ((encodeBounded (d.tileParams s x q r c) (q.tileSample g r c)).strips.getD (k - 1) 0)) 0
        let d := d.setRec s (x.modPic q.pic fun q => q.modRow r fun w =>
          { w with tiles := w.tiles.map fun t => if t.stage = 1 then { t with strips := k } else t })
        let proj := sk * n / k + 32 + 4 * g.tcols
        let cost := g.w * g.stripLines r k
        if w.attempt = 1 ∧ w.bound < x.par.eC ∧ k ≤ w.restartLast ∧ w.grant.getD 0 < proj ∧
            cost ≤ d.get .marver0 0 fRC_CREDIT_SAMPLES (d.slot s).resv.quad then d.restartRow s q.pic r cost
        else d

/-! ## Commits (R97, R127, R133) -/

/-- Commit a tile's context (Table 5.6, R133). -/
def Dev.commitTile (d : Dev) (x : RecStream) (q : PicSt) (r c : Nat) (o : TileOut) (bound qp : Nat) : Dev :=
  let g := x.decl.geo
  match x.ctxs[r * g.tcols + c]? with
  | none => d
  | some n =>
    match d.core.tctx.lookup n with
    | none => d
    | some t =>
      let w := q.row r
      let k := q.tileCounts g r c
      { d with core := { d.core with tctx := tset d.core.tctx n { t with
          gen := (t.gen + 1) % 2 ^ 32, state := 4, picture := q.pic, absent := false, lines := w.linesGot g r, mask := w.mask,
          replaced := min k.1 65535, clipped := min k.2 65535, arrival := w.arrival, bound := bound,
          budget := ((w.tiles[c]?).map (·.budget)).getD 0, coded := 8 * o.bytes.length, qpBase := qp, maxErr := o.maxErr,
          sumSigned := o.sumSigned, sumAbs := o.sumAbs, guards := o.guards } } }

/-- Granules of 64 KiB that a packed row needs beyond its slot (R156, R157). -/
def overflowNeed (samples packed : Nat) : Nat := cdiv (packed - roundUp (cdiv (samples * 9) 8) 64) 65536

/-- Granules of the overflow area (R156). -/
def Dev.ovfTotal (d : Dev) : Nat := d.get .memctl 0 fRP_OVF_MIB * 16

/-- Take overflow granules for a picture; false when too few are free. -/
def Dev.takeGranules (d : Dev) (s pic n : Nat) : Dev × Bool :=
  let used := d.get .memctl 0 fRP_OVF_USED_NOW
  if n = 0 then (d, true)
  else if d.ovfTotal < used + n then (d, false)
  else
    let d := (d.set .memctl 0 fRP_OVF_USED_NOW (used + n)).raiseMax .memctl 0 fRP_OVF_USED_PEAK (used + n)
    match d.rec? s with
    | some x => (d.setRec s { x with ovf := x.ovf ++ [(pic, n)] }, true)
    | none => (d, true)

/-- Free the granules of pictures that are no longer kept. -/
def Dev.freeGranules (d : Dev) (s : Nat) (keep : Nat → Bool) : Dev :=
  match d.rec? s with
  | none => d
  | some x =>
    let gone := (x.ovf.filter fun o => !keep o.1).foldl (fun a o => a + o.2) 0
    (d.setRec s { x with ovf := x.ovf.filter fun o => keep o.1 }).lower .memctl 0 fRP_OVF_USED_NOW gone

/-- Move a row to exhausted mode (R132): its tiles' exhausted form replaces them, and their contexts are committed so. -/
def Dev.exhaustRow (d : Dev) (s pic r cause : Nat) : Dev :=
  match d.rec? s with
  | none => d
  | some x =>
    match x.pic? pic with
    | none => d
    | some q =>
      let w := q.row r
      let d := (w.tiles.zip (List.range w.tiles.length)).foldl (fun (d : Dev) t => match t.1.exh with
        | some o => ((d.commitTile x q r t.2 o 0xFFFF 0).bump .enc t.1.pipe fENC_EXH_TILES_TILES).set .enc t.1.pipe
            fENC_LAST_BOUND 0xFFFF |>.set .enc t.1.pipe fENC_LAST_QP_BASE 0
        | none => d) d
      d.setRec s (x.modPic pic fun q => q.modRow r fun w => { w with exhCause := cause, maxErr := 0 })

/-- Every tile of a row is coded: it is decided on its actual size, and its packed form must find room (R158, R198). -/
def Dev.decideRow (d : Dev) (s pic r : Nat) : Dev :=
  match d.rec? s with
  | none => d
  | some x =>
    match x.pic? pic with
    | none => d
    | some q =>
      let w := q.row r
      let g := x.decl.geo
      let bytes := w.tiles.foldl (fun a t => a + (t.out.map (·.bytes.length)).getD 0) (32 + 4 * g.tcols)
      let d := d.assertEvt (48 + (d.slot s).resv.clusterOf 0)
      if w.grant.getD 0 < bytes then d.exhaustRow s pic r 1
      else if x.par.coding = 0 then d
      else
        let k := d.takeGranules s pic (overflowNeed (g.rowSamples r) (Config.packedRow s pic r))
        if k.2 then k.1 else (k.1.bump .memctl 0 fRP_OVF_FAIL_ENCODE).exhaustRow s pic r 2

/-- The counts a committed tile adds to its pipeline's page and to its motion search engine's (R136, R163). -/
def Dev.countTile (d : Dev) (p cl : Nat) (o : TileOut) : Dev :=
  let d := (d.bump .enc p fENC_BLK_INTRA_BLOCKS o.intraBlk).bump .enc p fENC_BLK_INTER_BLOCKS o.interBlk
  let d := (d.bump .enc p fENC_BLK_TS_BLOCKS o.tsBlk).bump .enc p fENC_GUARD_SMP_SAMPLES o.guards
  let d := (d.bump .enc p fENC_PCLIP_PLANE o.pclipPlane).bump .enc p fENC_PCLIP_SAMPLE o.pclipSample
  if o.searched = 0 then d
  else
    let n := fun (k : Nat) => o.origins.countP fun v => v = k
    let d := (d.bump .me cl fME_PU_CNT_PUS o.searched).bump .me cl fME_EVAL_CNT_EVALS o.evals
    let d := (d.bump .me cl fME_WIN0_LEFT (n 0)).bump .me cl fME_WIN0_ABOVE (n 1)
    let d := (d.bump .me cl fME_WIN1_ABOVE_RIGHT (n 2)).bump .me cl fME_WIN1_TEMPORAL (n 3)
    let d := (d.bump .me cl fME_WIN2_GLOBAL (n 4)).bump .me cl fME_WIN2_ZERO (n 5)
    d.bump .me cl fME_AVG_CNT_AVG (o.pus.countP fun u => u.inter && decide (u.dir = 2))

/-- Orders latched at a pipeline are taken at a commit point (R233). -/
def Dev.takeOrders (d : Dev) (p : Nat) : Dev :=
  let e := d.enc p
  if e.orders.contains 0 then
    d.setEnc p { e with orders := e.orders.filter (· ≠ 0) }
  else d.setEnc p { e with orders := [] }

/-- A spare gives its role back at its tile commit once the pipeline's restore is complete (R366). -/
def Dev.giveBack (d : Dev) (p : Nat) : Dev :=
  if p < 64 then d
  else
    let q := p - 64
    let role := d.get .fault3 0 fFC_ESPARE_ROLE q
    let wd := (d.get .fault3 0 (if role < 32 then fFC_WD_ENC0_ENC else fFC_WD_ENC1_ENC)).testBit (role % 32)
    if d.get .fault3 0 fFC_ESPARE_IN_USE q = 1 ∧ !wd then
      (d.set .fault3 0 fFC_ESPARE_IN_USE 0 q).set .fault3 0 fFC_ESPARE_ROLE 0 q
    else d

/-- A pipeline completes its tile (R97, R127): a tile that fails its own bound check is discarded and handed on; else its
context and bytes are committed, and a row whose last tile this is is decided. -/
def Dev.tileCommit (d : Dev) (p : Nat) (checkOk : Bool) : Dev :=
  match (d.enc p).job with
  | none => d
  | some (s, pic, r, c) =>
    match d.rec? s with
    | none => d.freePipe p
    | some x =>
      match x.pic? pic with
      | none => d.freePipe p
      | some q =>
        let g := x.decl.geo
        let w := q.row r
        if w.closed = 2 ∨ w.lost then d.freePipe p
        else if w.doneAt.isNone then d
        else
          let o := encodeBounded (d.tileParams s x q r c) (q.tileSample g r c)
          if !(checkOk && o.boundOk) then
            let d := (d.bump .enc p fENC_BOUND_FAIL_FAILS).statBit .enc p 8
            (d.raise (1455 + 3 * p) (0x300 + p) 5).handTile p
          else
            let cl := (d.slot s).resv.clusterOf c
            let d := (d.countTile p cl o).commitTile x q r c o w.bound w.qpBase
            let d := (d.set .enc p fENC_LAST_BOUND w.bound).set .enc p fENC_LAST_QP_BASE w.qpBase
            let d := d.bump .enc p fMC_COMMIT_CNT_TILES
            let exh := encodeExhausted g ⟨r, c⟩ (q.tileSample g r c)
            let mv := o.pus.foldl (fun (a : (Int × Int) × Nat) u =>
              if u.inter ∧ u.dir ≠ 1 then ((a.1.1 + u.mva.1, a.1.2 + u.mva.2), a.2 + 1) else a) (q.mvSum, q.mvN)
            let x := x.modPic pic fun q => { (q.modRow r fun w =>
              { w with maxErr := max w.maxErr o.maxErr, tiles := listMod w.tiles c fun t =>
                  { t with stage := 2, strips := g.strips r, out := some o, exh := some exh } }) with mvSum := mv.1, mvN := mv.2 }
            let d := ((d.setRec s x).freePipe p).takeOrders p |>.giveBack p
            if (((x.pic? pic).map fun q => (q.row r).coded).getD false) then d.decideRow s pic r else d

/-! ## Emission of Tile Row units (R167, R171, R201) -/

/-- The sub-frame emission limit in microseconds (R201). -/
def emitLimit (coding : Nat) : Nat := if coding = 0 then 180 else 260

/-- The next Tile Row unit of a stream that stands in order: its picture and row. -/
def RecStream.nextRow (x : RecStream) : Option (PicSt × Nat) :=
  match x.pics.find? fun q => !q.trailer with
  | none => none
  | some q => ((List.range q.rows.length).find? fun r => (q.row r).emitted.isNone).map fun r => (q, r)

/-- A row's unit is ready: absent, or complete and coded. -/
def RowSt.unitReady (w : RowSt) : Bool := w.closed = 2 || (w.closed = 1 && w.coded)

/-- The body of a row's unit (R171, R172). -/
def rowBody (q : PicSt) (r : Nat) : List Byte :=
  let w := q.row r
  if w.closed = 2 then tileRowBody q.pic r 0xFFFE 0 w.cause 0 []
  else if w.exhCause ≠ 0 then
    tileRowBody q.pic r 0xFFFF 0 0 w.exhCause (w.tiles.map fun t => (t.exh.map (·.bytes)).getD [])
  else tileRowBody q.pic r w.bound w.maxErr 0 0 (w.tiles.map fun t => (t.out.map (·.bytes)).getD [])

/-- Counts that the emitted unit's tiles add to their pipelines (R187). -/
def Dev.countEmitted (d : Dev) (w : RowSt) : Dev :=
  if w.closed = 2 then d
  else w.tiles.foldl (fun (d : Dev) t => match (if w.exhCause ≠ 0 then t.exh else t.out) with
    | none => d
    | some o =>
      let d := d.bump .enc t.pipe fENC_TILES_TILES
      let d := d.bump64 .enc t.pipe fENC_TBYTES_LO_BYTES_LO fENC_TBYTES_HI_BYTES_HI o.bytes.length
      (d.bump .enc t.pipe fENC_ESCAPES_ESCAPES o.escapes).raiseMax .enc t.pipe fENC_SEG_MAX_BYTES o.segMax) d

/-- The ladder's part in an emitted row (Table 9.4 cases 2 and 3). -/
def Dev.rowLadder (d : Dev) (s pic r : Nat) (w : RowSt) (bytes allot : Nat) : Dev :=
  match d.rec? s with
  | none => d
  | some x =>
    if w.closed = 2 then d
    else if w.exhCause = 1 then
      let d := (d.bump .marver0 0 fRC_ROW_CNT_EXHAUSTED).statBit .marver0 0 1
      let d := d.setRec s (x.modPic pic fun q => { q with rateRows := true })
      let d := d.rcLogAdd 4 s r x.rung w.rung pic
      if w.restarted then d else d.stepUp s pic
    else if w.exhCause = 0 then
      let pct := min 100 (((x.pic? pic).map fun q => fRC_CFG_DOWN_PCT.ext q.rcCfg).getD 0)
      if pct * allot < 100 * bytes then d.setRec s (x.modPic pic fun q => { q with rateRows := true }) else d
    else d

/-- Emit the next Tile Row unit of a stream (R167): held behind its Picture Header, or emitted whole, with its latency, its
carry and the ladder's part. -/
def Dev.rowEmit (d : Dev) (s : Nat) : Dev :=
  match d.rec? s with
  | none => d
  | some x =>
    match x.nextRow with
    | none => d
    | some (q, r) =>
      let w := q.row r
      if !w.unitReady then d
      else if !q.hdr then
        if w.held then d
        else
          let d := d.setRec s (x.modPic q.pic fun q => q.modRow r fun w => { w with held := true })
          (d.bump .gaffer (d.slot s).ctl fGF_HDR_LATE_LATE).statBit .gaffer (d.slot s).ctl 1
      else
        match d.emitUnit s 3 (if q.supply then 1 else 0) q.pic (rowBody q r) with
        | (d, false) => d
        | (d, true) =>
          match d.rec? s with
          | none => d
          | some x =>
            let bytes := (rowBody q r).length + 16
            let allot := x.allot q r
            let from_ := if w.closed = 2 then w.closedAt else w.doneAt.getD w.closedAt
            let lat := (d.free - from_) / 1000
            let late := !w.noLimit && decide (emitLimit x.par.coding * 1000 < d.free - from_)
            let x := { x.modPic q.pic (fun q => { (q.modRow r fun w => { w with emitted := some bytes, waiting := false }) with
                                                  carry := q.carry + allot - bytes }) with
              rowsStr := x.rowsStr + (if w.closed ≠ 2 ∧ w.exhCause = 0 ∧ x.par.eT < w.bound then 1 else 0),
              rowsExh := x.rowsExh + (if w.closed ≠ 2 ∧ w.exhCause ≠ 0 then 1 else 0),
              rowsAbs := x.rowsAbs + (if w.closed = 2 then 1 else 0), latMax := max x.latMax lat }
            let d := (d.setRec s x).countEmitted w
            let d := if late then ((d.bump .marver0 0 fRC_WAIT_CNT_LATE).statBit .marver0 0 3).rcLogAdd 6 s r 0 0 q.pic else d
            (d.rowLadder s q.pic r w bytes allot).assertEvt (48 + (d.slot s).resv.clusterOf 0)

/-! ## Machine checks and orders (R231 to R234) -/

/-- A machine check of an encode pipeline (R234). -/
def Dev.encMachineCheck (d : Dev) (p uaddr groups : Nat) : Dev :=
  if !d.enabled (0xA0 + p) then d
  else
    let d := (d.bump .enc p fMC_MCHK_CNT_MCHK).statBit .enc p 9
    let d := if d.get .enc p fMC_MCHK_REC_VALID = 1 then d
      else ((d.set .enc p fMC_MCHK_REC_VALID 1).set .enc p fMC_MCHK_REC_GROUPS groups).set .enc p fMC_MCHK_REC_ADDR uaddr
    let d := (d.raise (1454 + 3 * p) (0x300 + p) 3 groups uaddr).handTile p
    d.assertEvt (48 + (if p < 64 then p / 4 else 4 * (p - 64)))

/-- An order reaches a pipeline and is latched (R233). -/
def latchOrder (e : Pipe) (o : Nat) : Pipe := if e.orders.contains o then e else { e with orders := e.orders ++ [o] }

end Sys2Proof.Machine
end

