-- ==== Sys2Proof/Machine/HeaderOps.lean ====
section
/-! DEFINITION. What the serving Gaffer controller writes (chapters 07 to 09 and 17): the plan of each picture, its header,
Metadata units and trailer, the Stream Header, the End of Stream, and timecode. -/
namespace Sys2Proof.Machine

/-! ## Timecode (R332) -/

/-- The timecode rate of a stream: the reduced picture rate where SMPTE ST 12-1 has it, else the fallback. -/
def tcRate (num den fallback : Nat) : Nat × Nat :=
  let k := Nat.gcd num den
  let n := num / k
  let m := den / k
  if (m = 1 ∧ [24, 25, 30, 48, 50, 60].contains n) ∨ (m = 1001 ∧ [24000, 30000, 48000, 60000].contains n) then (n, m)
  else (if [24, 25, 30, 48, 50, 60].contains fallback then fallback else 24, 1)

/-- Two BCD digits. -/
def bcd (n : Nat) : Nat := n / 10 % 10 * 16 + n % 10

/-- The TIMECODE word of a picture: `t` the local nanoseconds of its T0, the rate, and drop-frame where it applies (R332). -/
def timecodeWord (t : Int) (num den : Nat) (dfOn : Bool) : Nat :=
  let df := dfOn && den = 1001 && (num = 30000 || num = 60000)
  let n := cdiv num den
  let m := n / 30
  let f : Nat :=
    if den = 1 then ((t * num + 500000000) / 1000000000 % (86400 * n)).toNat
    else
      let day : Int := 86400000000000
      let f := (((t % day) * num + den * 500000000) / (den * 1000000000)).toNat
      min f (if df then 2589408 * m - 1 else 86400 * n - 1)
  let f := if df then
      let k := 2 * m
      let q := f / (17982 * m)
      let r := f % (17982 * m)
      f + 9 * k * q + (if k ≤ r then k * ((r - k) / (1798 * m)) else 0)
    else f
  let s := f / n
  (if df then 2 ^ 31 else 0) + bcd (s / 3600) * 2 ^ 24 + bcd (s / 60 % 60) * 2 ^ 16 + bcd (s % 60) * 2 ^ 8 + bcd (f % n)

/-- UTC_OFS in force: the grandmaster's while a port is SLAVE and UTC_SRC is 1 (R332). -/
def Dev.utcOfs (d : Dev) : Nat :=
  let slave := d.core.nets.any fun p => p.2.state = .slave
  match d.core.time.gmUtc with
  | some u => if slave ∧ d.get .time 0 fTM_TC_UTC_SRC = 1 then u else d.get .time 0 fTM_TC_UTC_OFS
  | none => d.get .time 0 fTM_TC_UTC_OFS

/-- TIMECODE of a picture with start stamp `t0` of a region. -/
def Dev.timecode (d : Dev) (t0 : Nat) (g : RegionDecl) : Nat :=
  let r := tcRate g.num g.den (d.get .time 0 fTM_TC_FALLBACK)
  let t : Int := (t0 : Int) - d.utcOfs * 1000000000 + ofTwos 16 (d.get .time 0 fTM_TC_LOCAL_MIN) * 60 * 1000000000
  timecodeWord t r.1 r.2 (d.get .time 0 fTM_TC_DF = 1)

/-! ## The plan of a picture (R137 to R141, R154) -/

/-- The reference set before picture `q` of a stream: the keep list of the picture before it, else the set held. -/
def RecStream.setBefore (x : RecStream) (q : PicSt) : List (Nat × Bool) :=
  match (x.pics.filter fun p => p.idx < q.idx).getLast? with
  | some p => p.keep
  | none => x.refSet.map fun r => (r.pic, r.lt)

/-- GMV from head motion (R154): the records of the pictures after REF_A up to `p`, each of sufficient quality. -/
def RecStream.headMotion (x : RecStream) (refA p : Nat) : Option (Int × Int) :=
  (List.range (picAhead p refA)).foldl (fun (a : Option (Int × Int)) i =>
    match a, (x.motion.filter fun m => m.pic = picAdd refA (i + 1)).getLast? with
    | some v, some m => if x.par.gvMinq ≤ m.quality then some (v.1 + m.dx, v.2 + m.dy) else none
    | _, _ => none) (some (0, 0))

/-- A mean rounded to the nearest, halves away from zero. -/
def meanAway (s : Int) (n : Nat) : Int :=
  let m : Int := ((2 * s.natAbs + n) / (2 * n) : Nat)
  if s < 0 then -m else m

/-- GMV from the previous picture's inter PUs. -/
def RecStream.prevMotion (x : RecStream) (q : PicSt) : Option (Int × Int) :=
  let v := match (x.pics.filter fun p => p.idx < q.idx).getLast? with
    | some p => (p.mvSum, p.mvN)
    | none => match x.prevMv with
      | some (a, b, n) => ((a, b), n)
      | none => ((0, 0), 0)
  if v.2 = 0 then none else some (meanAway v.1.1 v.2, meanAway v.1.2 v.2)

/-- GMV and GMV_SRC of a P picture (R154). -/
def RecStream.gmvOf (x : RecStream) (q : PicSt) (refA : Nat) : (Int × Int) × Nat :=
  let h := if x.par.gvSource % 2 = 1 then x.headMotion refA q.pic else none
  let p := if 2 ≤ x.par.gvSource then x.prevMotion q else none
  match h, p with
  | some v, _ => (mvClamp v, 1)
  | none, some v => (mvClamp v, 2)
  | none, none => ((0, 0), 0)

/-- Choose the type, references, GMV and keep list of a picture (R141, R170). -/
def RecStream.planPic (x : RecStream) (q : PicSt) : PicSt :=
  if x.par.coding = 0 then { q with planned := true, keep := [(q.pic, false)] }
  else
    let set := x.setBefore q
    let prev := picAdd q.pic (2 ^ 24 - 1)
    let lt := (set.find? fun k => k.2).map (·.1)
    let want := match x.par.refMode with
      | 0 => [prev]
      | 1 => [prev, picAdd q.pic (2 ^ 24 - 2)]
      | _ => prev :: lt.toList
    let refs := (want.filter fun p => set.any fun k => k.1 = p).eraseDups
    let isI := q.missing || q.forced || decide (q.idx = 0) || refs.isEmpty ||
      (decide (x.par.gopLen ≠ 0) && decide (q.idx % x.par.gopLen = 0))
    let isLt := decide (x.par.refMode = 2 ∧ q.idx % x.par.ltInt = 0)
    let keep := match x.par.refMode with
      | 0 => [(q.pic, false)]
      | 1 => (q.pic, false) :: (set.filter fun k => k.1 = prev).map fun k => (k.1, false)
      | _ => if isLt then [(q.pic, true)] else (q.pic, false) :: (lt.toList.map fun p => (p, true))
    let g := if isI then ((0, 0), 0) else x.gmvOf q (refs.headD 0)
    { q with planned := true, isP := !isI, refs := if isI then [] else refs, gmv := g.1, gmvSrc := g.2, keep := keep }

/-- Plan every picture in hand, in order. -/
def RecStream.planAll (x : RecStream) : RecStream :=
  x.pics.foldl (fun (x : RecStream) p => match x.pic? p.pic with
    | some q => if q.planned then x else x.modPic q.pic fun _ => x.planPic q
    | none => x) x

/-! ## Unit bodies -/

/-- MC_VER of the encode pipelines (R232). -/
def encMcVer : Nat := 0x45010017

/-- GF_FW_VER of a controller. -/
def Dev.fwVer (d : Dev) (c : Nat) : Nat := (d.reg (fieldAddr .gaffer c fGF_FW_VER_MAJOR 0)).toNat

/-- The Stream Header body (Table 8.4). -/
def Dev.streamHeader (d : Dev) (s : Nat) (x : RecStream) (first : Nat) : List Byte :=
  let inter := x.par.coding = 1
  let g := x.decl.geo
  leBytes 2 0x0100 ++ leBytes 2 s ++ leBytes 2 x.takeId ++ leBytes 1 x.par.region ++ leBytes 1 x.decl.cfa ++
    leBytes 8 x.hd.serial ++ leBytes 2 x.hd.maker ++ leBytes 2 x.hd.model ++ leBytes 4 x.hd.fwVer ++
    leBytes 1 x.decl.d ++ leBytes 1 x.par.coding ++ leBytes 1 (if inter then x.par.maxRefs else 1) ++
    leBytes 1 (if inter then x.par.refMode else 0) ++ leBytes 2 x.decl.w ++ leBytes 2 x.decl.h ++ leBytes 4 x.decl.num ++
    leBytes 4 x.decl.den ++ leBytes 2 x.par.eT ++ leBytes 2 x.par.eC ++
    ((List.range 4).map fun i => leBytes 1 (toTwos 8 (x.par.pqo.getD i 0))).flatten ++ leBytes 2 g.tcols ++ leBytes 2 g.trows ++
    leBytes 2 (if inter then x.par.gopLen else 0) ++ leBytes 2 (if inter then x.par.ltInt else 0) ++
    leBytes 1 (if inter then x.par.gvSource else 0) ++ leBytes 1 (if inter then x.par.gvMinq else 0) ++ leBytes 2 0 ++
    leBytes 4 first ++ leBytes 8 ((d.core.take.map (·.tStart)).getD 0) ++ leBytes 4 encMcVer ++ leBytes 4 (d.fwVer (d.slot s).ctl)

/-- The Picture Header body (Table 8.5). -/
def Dev.pictureHeader (d : Dev) (x : RecStream) (q : PicSt) : List Byte :=
  leBytes 4 q.pic ++ leBytes 1 (if q.isP then 1 else 0) ++ leBytes 1 q.refs.length ++
    leBytes 1 ((if q.est then 1 else 0) + (if q.missing then 2 else 0) + (if q.forced then 4 else 0)) ++ leBytes 1 q.keep.length ++
    leBytes 8 q.t0 ++ leBytes 4 (d.timecode q.t0 x.decl) ++ leBytes 4 (q.refs.getD 0 0) ++ leBytes 4 (q.refs.getD 1 0) ++
    leBytes 2 (toTwos 16 q.gmv.1) ++ leBytes 2 (toTwos 16 q.gmv.2) ++
    ((List.range 4).map fun i => leBytes 4 (toTwos 32 (q.ing.off.getD i 0))).flatten ++ leBytes 4 q.dmapCrc ++
    leBytes 4 q.ing.dmapCount ++ leBytes 1 q.gmvSrc ++ leBytes 3 0 ++
    (q.keep.map fun k => leBytes 4 (k.1 + if k.2 then 2 ^ 24 else 0)).flatten

/-- The loss statements of a picture (Table 6.8). -/
structure LossStats where
  stretched : Nat
  exhausted : Nat
  absent : Nat
  maxErr : Nat
  n : Nat
  sumSigned : Int
  sumAbs : List Nat
  guards : Nat
  deriving DecidableEq, Repr

/-- The bounded rows of a picture. -/
def PicSt.boundedRow (w : RowSt) : Bool := decide (w.closed ≠ 2 ∧ w.exhCause = 0)

/-- The figures of Table 6.8. -/
def PicSt.stats (q : PicSt) (g : Geo) (eT : Nat) : LossStats :=
  let rows := q.rows.zip (List.range q.rows.length)
  let b := rows.filter fun w => PicSt.boundedRow w.1
  let outs := (b.map fun w => w.1.tiles.filterMap (·.out)).flatten
  { stretched := b.countP fun w => decide (eT < w.1.bound)
    exhausted := rows.countP fun w => decide (w.1.closed ≠ 2 ∧ w.1.exhCause ≠ 0)
    absent := rows.countP fun w => decide (w.1.closed = 2)
    maxErr := outs.foldl (fun m o => max m o.maxErr) 0
    n := b.foldl (fun a w => a + g.rowSamples w.2) 0
    sumSigned := outs.foldl (fun a o => a + o.sumSigned) 0
    sumAbs := (List.range 4).map fun k => outs.foldl (fun a o => a + o.sumAbs.getD k 0) 0
    guards := outs.foldl (fun a o => a + o.guards) 0 }

/-- MEAN_SIGNED and MEAN_ABS[k] (Table 6.8). -/
def LossStats.meanSigned (s : LossStats) : Int :=
  if s.n = 0 then 0
  else
    let m : Int := ((65536 * s.sumSigned.natAbs + s.n / 2) / s.n : Nat)
    if s.sumSigned < 0 then -m else m
def LossStats.meanAbs (s : LossStats) (layout k : Nat) : Nat :=
  let nk := if layout = 2 then s.n / 3 else s.n / 4
  if s.n = 0 ∨ (layout = 2 ∧ k = 3) then 0 else (65536 * s.sumAbs.getD k 0 + nk / 2) / nk

/-- The Picture Trailer body (Table 8.9). -/
def pictureTrailer (q : PicSt) (g : Geo) (eT : Nat) : List Byte :=
  let s := q.stats g eT
  leBytes 4 (q.pic + (if q.supply then 2 ^ 24 else 0) + if q.missing then 2 ^ 25 else 0) ++ leBytes 2 q.rows.length ++
    leBytes 2 s.stretched ++ leBytes 2 s.exhausted ++ leBytes 2 s.absent ++ leBytes 2 s.maxErr ++ leBytes 2 0 ++
    leBytes 4 (toTwos 32 s.meanSigned) ++ ((List.range 4).map fun k => leBytes 4 (s.meanAbs g.layout k)).flatten ++ leBytes 4 0 ++
    leBytes 8 (toTwos 64 s.sumSigned) ++ leBytes 8 s.n ++ leBytes 8 s.guards ++ leBytes 8 q.bytes

/-- A Metadata body (Table 8.10); its padding comes with the unit. -/
def metadataBody (pic region : Nat) (m : MetaPkt) : List Byte :=
  leBytes 4 (pic + m.kind * 2 ^ 24) ++ leBytes 1 region ++ leBytes 1 0 ++ leBytes 2 m.data.length ++ leBytes 8 m.arrival ++ m.data

/-- The End of Stream body (Table 8.11). -/
def Dev.endOfStream (d : Dev) (s : Nat) (x : RecStream) : List Byte :=
  leBytes 4 (x.lastDone + (d.slot s).reason * 2 ^ 24) ++ leBytes 4 x.picsDone ++ leBytes 8 x.bytes ++ leBytes 4 x.rowsStr ++
    leBytes 4 x.rowsExh ++ leBytes 4 x.rowsAbs ++ leBytes 4 x.picsMissing ++ leBytes 8 d.now

/-! ## Writing them (R235, R169 to R176) -/

/-- Is an INDEX entry due for the picture whose header has been emitted at `a` (R299)? -/
def RecStream.indexDue (x : RecStream) (q : PicSt) (a : Nat) : Bool :=
  decide (q.idx % 16 = 0) || (!x.contDone && decide (x.resume ≠ 0 ∧ x.resume ≤ a))

/-- Emit the Stream Header if it is not yet written. -/
def Dev.ensureHeader (d : Dev) (s first : Nat) : Dev × Bool :=
  match d.rec? s with
  | none => (d, false)
  | some x =>
    if x.hdrDone then (d, true)
    else match d.emitUnit s 1 0 0 (d.streamHeader s x first) with
      | (d, false) => (d, false)
      | (d, true) => match d.rec? s with
        | some x => (d.setRec s { x with hdrDone := true }, true)
        | none => (d, false)

/-- Write the Picture Header of a picture. -/
def Dev.writeHeader (d : Dev) (s : Nat) (q : PicSt) : Dev × Bool :=
  match d.ensureHeader s q.pic with
  | (d, false) => (d, false)
  | (d, true) =>
    match d.rec? s with
    | none => (d, false)
    | some x =>
      let a := x.wAddr
      match d.emitUnit s 2 0 q.pic (d.pictureHeader x q) with
      | (d, false) => (d, false)
      | (d, true) => match d.rec? s with
        | none => (d, false)
        | some x =>
          let due := x.indexDue q a
          let start := !q.isP && q.keep.all fun k => k.1 = q.pic
          let x := { x.modPic q.pic (fun q => { q with hdr := true }) with
            idxPend := if due then x.idxPend ++ [(a, q.pic + (if start then 2 ^ 24 else 0) + (if q.missing then 2 ^ 25 else 0), q.t0, x.wAddr)] else x.idxPend,
            contDone := x.contDone || decide (x.resume ≠ 0 ∧ x.resume ≤ a) }
          (d.setRec s x, true)

/-- Write the Metadata units of a picture, as its allowance holds them (R196). -/
def Dev.writeMeta (s : Nat) : List MetaPkt → Dev → Dev
  | [], d => d
  | m :: ms, d =>
    match d.rec? s, m.pic with
    | some x, some p =>
      match x.pic? p with
      | none => Dev.writeMeta s ms d
      | some q =>
        if !q.hdr ∨ q.trailer then Dev.writeMeta s ms d
        else
          let n := 32 + roundUp m.data.length 4
          let drop := fun (d : Dev) (x : RecStream) => d.setRec s { x with metaQ := x.metaQ.erase m }
          if x.ms < q.metaUsed + n then
            let d := drop d { x with metaDropped := x.metaDropped + 1 }
            Dev.writeMeta s ms (((d.bump .marver0 0 fRC_META_DROP_DROPS).statBit .marver0 0 6).rcLogAdd 7 s 0 0 0 p)
          else match d.emitUnit s 5 0 p (metadataBody p x.par.region m) with
            | (d, false) => d
            | (d, true) => match d.rec? s with
              | some x => Dev.writeMeta s ms
                  (drop d (x.modPic p fun q => { q with metaUsed := q.metaUsed + n }))
              | none => d
    | _, _ => Dev.writeMeta s ms d

/-- QADJ after a picture (R197), and the count toward a step down (Table 9.4 cases 3 and 4). -/
def Dev.pictureEnd (d : Dev) (s : Nat) (q : PicSt) (st : LossStats) : Dev :=
  match d.rec? s with
  | none => d
  | some x =>
    let lim : Int := (min 12 (d.get .marver0 0 fRC_CFG2_QADJ_LIM) : Nat)
    let g := st.guards * 1000
    let adj := if fRC_CFG_GUARD_HI.ext q.rcCfg * st.n < g then x.qadj - 1
      else if g < fRC_CFG_GUARD_LO.ext q.rcCfg * st.n then x.qadj + 1 else x.qadj
    let x := { x with qadj := max (-lim) (min lim adj) }
    let cnt := if q.rateRows ∨ q.upCount ≠ 0 ∨ x.rung = 0 then 0 else x.downCnt + 1
    if x.rung ≠ 0 ∧ max 1 (fRC_CFG_DOWN_PICS.ext q.rcCfg) ≤ cnt then
      let d := d.setRec s { x with rung := x.rung - 1, downCnt := 0 }
      (d.bump .marver0 0 fRC_LADDER_CNT_DOWN).rcLogAdd 2 s 0 x.rung (x.rung - 1) q.pic
    else d.setRec s { x with downCnt := cnt }

/-- Write the Picture Trailer of a picture whose rows are all emitted; its keep list then holds (R139). -/
def Dev.writeTrailer (d : Dev) (s : Nat) (q : PicSt) : Dev × Bool :=
  match d.rec? s with
  | none => (d, false)
  | some x =>
    let g := x.decl.geo
    match d.emitUnit s 4 (if q.supply then 1 else 0) q.pic (pictureTrailer q g x.par.eT) with
    | (d, false) => (d, false)
    | (d, true) =>
      match d.rec? s with
      | none => (d, false)
      | some x =>
        let self : RefPic := ⟨q.pic, q.isP, q.rows.map (·.ref), false⟩
        let refs := q.keep.filterMap fun k =>
          ((x.refSet ++ [self]).find? fun r => r.pic = k.1).map fun r => { r with lt := k.2 }
        let x := { x with
          refSet := if x.par.coding = 0 then [] else refs, pics := x.pics.filter (fun p => p.pic ≠ q.pic),
          prevMv := some (q.mvSum.1, q.mvSum.2, q.mvN), picsDone := x.picsDone + 1, lastDone := q.pic,
          motion := x.motion.filter fun m => decide (picAhead m.pic q.pic < 2 ^ 23 ∧ m.pic ≠ q.pic) }
        let d := d.setRec s x
        let d := d.pictureEnd s q (q.stats g x.par.eT)
        (d.freeGranules s fun p => x.pics.any (fun r => r.pic = p) || q.keep.any fun k => k.1 = p, true)

/-- Write what is due for a stream (R235): headers, metadata and trailers in order; `n` bounds the units. -/
def Dev.writeDue (s : Nat) : Nat → Dev → Dev
  | 0, d => d
  | n + 1, d =>
    match d.rec? s with
    | none => d
    | some x =>
      match x.pics.find? fun q => !q.trailer && x.swapPic.all fun k => decide (q.idx < k) with
      | none =>
        if (d.slot s).state = .draining ∧ !x.eosDone ∧ x.pics.isEmpty then
          match d.ensureHeader s 0 with
          | (d, false) => d
          | (d, true) =>
            match d.rec? s with
            | none => d
            | some x =>
              match d.emitUnit s 15 0 0 (d.endOfStream s x) with
              | (d, false) => d
              | (d, true) => match d.rec? s with
                | some x =>
                  let x := x.publishDs d.free
                  (d.setRec s { x with eosDone := true, flush := true }).unpark (12288 + s) x.ds
                | none => d
        else d
      | some q =>
        if !q.hdr then
          match d.writeHeader s q with
          | (d, true) => Dev.writeDue s n d
          | (d, false) => d
        else
          let d := Dev.writeMeta s (x.metaQ.filter fun m => m.pic = some q.pic) d
          if q.rows.all fun w => w.emitted.isSome then
            match (d.rec? s).bind (·.pic? q.pic) with
            | some q => match d.writeTrailer s q with
              | (d, true) => Dev.writeDue s n d
              | (d, false) => d
            | none => d
          else d

/-- Serve a record stream at a scan (R235): plan its pictures and write what is due. -/
def Dev.serveRec (d : Dev) (s : Nat) : Dev :=
  match d.rec? s with
  | none => d
  | some x =>
    if (d.slot s).state.live then
      let d := d.setRec s x.planAll
      Dev.writeDue s (2 * x.pics.length + 2) d
    else d

end Sys2Proof.Machine
end

