-- ==== Sys2Proof/Machine/TimeOps.lean ====
section
/-! DEFINITION. The time base, its servo, stamps and triggers, and the Ethernet ports with PTP (chapter 17). -/
namespace Sys2Proof.Machine

/-! ## Steps and rates (R322, R323) -/

/-- The limits of a rate (R323). -/
def clampRate (r : Nat) : Nat := min 0x100418937 (max 0xFFBE76C9 r)

/-- A new rate takes effect in this tick (R322): the reading is continuous. -/
def Dev.setRate (d : Dev) (r : Nat) : Dev :=
  let d := d.modTime fun t => { t with
    offset := t.offset + ((t.free : Int) - t.freeR) * t.rate, freeR := t.free, rate := clampRate r }
  (d.bump .time 0 fTM_STEP_CNT_RATES).statBit .time 0 1

/-- A step of the reading, in units of 2^-32 ns, takes effect in this tick (R323). -/
def Dev.stepTime (d : Dev) (by_ : Int) : Dev :=
  let d := d.modTime fun t => { t with offset := t.offset + by_ }
  let ns := max (-(2 ^ 31 - 1)) (min (2 ^ 31 - 1) (by_ / 2 ^ 32))
  ((d.bump .time 0 fTM_STEP_CNT_STEPS).set .time 0 fTM_LAST_STEP_NS (toTwos 32 ns)).statBit .time 0 0

/-- The pending value TM_SET, 64.32. -/
def Dev.tmSet (d : Dev) : Nat :=
  d.get .time 0 fTM_SET_LO_SET 0 * 2 ^ 32 + d.get .time 0 fTM_SET_HI_SET 0 * 2 ^ 64 + d.get .time 0 fTM_SET_FRAC_SET 0

/-- A complete pair on TM_APPLY (R323). -/
def Dev.tmApply (d : Dev) (v : Word) : Dev :=
  let d := if fTM_APPLY_RATE_EN.ext v = 1 then
      d.setRate (d.get .time 0 fTM_RATE_INT_INT * 2 ^ 32 + d.get .time 0 fTM_RATE_FRAC_FRAC) else d
  match fTM_APPLY_OFS.ext v with
  | 1 => d.stepTime (ofTwos 96 d.tmSet)
  | 2 => d.stepTime ((d.tmSet : Int) - d.reading)
  | _ => d

/-- The servo corrects an offset in nanoseconds (R331, R349): a step where one is allowed and needed, else a slew. -/
def Dev.servo (d : Dev) (offset : Int) : Dev :=
  let lim := d.get .time 0 fPTP_STEP_NS_NS
  let take := d.get .device 0 fDEV_TAKE_TAKE_STATE
  if lim ≠ 0 ∧ lim < offset.natAbs ∧ take ≠ 2 ∧ take ≠ 3 then d.stepTime (-offset * 2 ^ 32)
  else d.setRate (Config.servoRate offset d.core.time.rate)

/-! ## Clock loss (R324) -/

/-- The reference is lost. -/
def Dev.refLost (d : Dev) : Dev :=
  if d.core.time.refPresent then
    let d := d.modTime fun t => { t with refPresent := false }
    ((d.set .time 0 fTM_STAT_VALID 0).statBit .time 0 4).raiseLevel 1806
  else d

/-- The reference is present (again). -/
def Dev.refBack (d : Dev) : Dev :=
  ((d.modTime fun t => { t with refPresent := true }).set .time 0 fTM_STAT_VALID 1).endLevel 1806

/-! ## Stamps (R326, R327) -/

/-- An entry of the stamp FIFO. -/
def stampWords (src : Nat) (rising : Bool) (seq now : Nat) : List Word :=
  [BitVec.ofNat 32 (src * 2 ^ 24 + (if rising then 2 ^ 23 else 0) + seq % 65536), BitVec.ofNat 32 (now / 2 ^ 32),
    BitVec.ofNat 32 (now / 2 ^ 64), BitVec.ofNat 32 now]

/-- An edge of a pin is stamped when TM_STAMP_EN selects its source. -/
def Dev.stampPin (d : Dev) (src : Nat) (rising : Bool) : Dev :=
  if (d.get .time 0 fTM_STAMP_EN_SRC).testBit src then
    let full := 256 ≤ d.core.time.stamps.length
    let e := stampWords src rising d.core.time.stampSeq d.reading
    let d := d.modTime fun t => { t with
      stamps := (if full then t.stamps.drop 1 else t.stamps) ++ [e], stampSeq := (t.stampSeq + 1) % 65536 }
    let d := if full then (d.bump .time 0 fTM_STAMP_LOST_LOST).statBit .time 0 3 else d
    d.requestLine 1
  else d

/-- TIME_PPS_OUT rises at a whole second of the reading (R326). -/
def Dev.ppsRise (d : Dev) : Dev :=
  if d.get .time 0 fTM_PPS_OUT_EN = 1 ∧ d.core.time.refPresent ∧ d.now % 1000000000 = 0 then
    d.modTime fun t => { t with pps := some (t.free, max 1 (d.get .time 0 fTM_PPS_WIDTH_US)) }
  else d

/-- The level of TIME_PPS_OUT. -/
def Dev.ppsLevel (d : Dev) : Bool := match d.core.time.pps with
  | some (t, w) => decide (d.free < t + w * 1000) && decide (d.get .time 0 fTM_PPS_OUT_EN = 1)
  | none => false

/-! ## Head triggers (R333, R334) -/

/-- T_k of a schedule. -/
def TrigSched.at_ (t : TrigSched) (k : Nat) : Nat := t.tFirst + k * 1000000000 * t.den / t.num

/-- LEAD in nanoseconds. -/
def Dev.leadNs (d : Dev) : Nat := min 50000 (max 800 (d.get .time 0 fTM_TRIG_CFG_LEAD_US)) * 1000

/-- The next trigger of a head's schedule falls due: handed to Gather, or skipped if T_k has passed. -/
def Dev.triggerDue (d : Dev) (h : Nat) : Dev :=
  match d.core.time.trigs.lookup h with
  | none => d
  | some t =>
    let tk := t.at_ t.k
    if d.now + d.leadNs < tk then d
    else
      let more := t.count = 0 ∨ t.k + 1 < t.count
      let rest := d.core.time.trigs.filter fun p => p.1 ≠ h
      let d := d.modTime fun x => { x with trigs := if more then tset rest h { t with k := t.k + 1 } else rest }
      if tk ≤ d.now then (d.bump .time 0 fTM_TRIG_CNT_SKIPPED).statBit .time 0 2
      else
        let pl := beBytes 8 tk ++ beBytes 2 t.mask ++ beBytes 3 (picAdd t.picFirst t.k)
        ((d.queueFrame h ⟨3, pl, none⟩).bump .time 0 fTM_TRIG_CNT_SENT).assertEvt 112

/-! ## Ethernet frames (R328, R329) -/

/-- The mode of a port: 5 to 7 are taken as 0. -/
def Dev.netMode (d : Dev) (n : Nat) : Nat :=
  let m := d.get .net n fNET_CFG_MODE
  if 4 < m then 0 else m
/-- Is the port's link up? -/
def Dev.netUp (d : Dev) (n : Nat) : Bool := d.get .net n fNET_STAT_LINK = 1

/-- Table 17.2 in 0.1 ns: transmit and receive corrections. -/
def stampCorr (mode : Nat) : Nat × Nat := match mode with
  | 1 => (462, 984) | 2 => (462, 984) | 3 => (410, 926) | 4 => (186, 248) | _ => (0, 0)

/-- A reading moved by tenths of a nanosecond. -/
def shiftStamp (t : Nat) (tenths : Int) : Nat := (((t : Int) + tenths * 2 ^ 32 / 10) % 2 ^ 96).toNat

/-- The stamp of a frame received, and of one sent (R326). -/
def Dev.rxStamp (d : Dev) (n : Nat) : Nat :=
  shiftStamp d.reading (-((stampCorr (d.netMode n)).2 : Int) - ofTwos 16 (d.get .net n fNET_TS_ADJ_RX))
def Dev.txStamp (d : Dev) (n : Nat) : Nat :=
  shiftStamp d.reading (((stampCorr (d.netMode n)).1 : Int) + ofTwos 16 (d.get .net n fNET_TS_ADJ_TX))

/-- The PTP message of a frame that the port accepts (R329); none: the frame is filtered. -/
def Dev.ptpPart (d : Dev) (n : Nat) (f : List Byte) : Option (List Byte) :=
  let vlan := fieldBe f 12 2 = 0x8100
  let o := if vlan then 16 else 12
  let dst := fieldBe f 0 6
  let own := d.get .net n fNET_MAC_HI_MAC_HI * 2 ^ 32 + d.get .net n fNET_MAC_LO_MAC_LO
  let et := fieldBe f o 2
  let b := f.drop (o + 2)
  let port := fun (u : List Byte) => fieldBe u 2 2 = 319 ∨ fieldBe u 2 2 = 320
  if 1522 < f.length then none
  else if et = 0x88F7 then
    if d.get .net n fNET_CFG_PTP_L2 = 1 ∧ (dst = own ∨ dst = 0x011B19000000) then some b else none
  else if et = 0x0800 then
    let u := b.drop (4 * (fieldBe b 0 1 % 16))
    if d.get .net n fNET_CFG_PTP_UDP4 = 1 ∧ (dst = own ∨ dst = 0x01005E000181) ∧ fieldBe b 9 1 = 17 ∧ port u then some (u.drop 8)
    else none
  else if et = 0x86DD then
    let u := b.drop 40
    if d.get .net n fNET_CFG_PTP_UDP6 = 1 ∧ (dst = own ∨ dst = 0x333300000181) ∧ fieldBe b 6 1 = 17 ∧ port u then some (u.drop 8)
    else none
  else none

/-- Messages of the peer delay mechanism, which are discarded (Table 17.3). -/
def peerDelayMsg (typ : Nat) : Bool := typ = 2 ∨ typ = 3 ∨ typ = 10

/-- A frame arrives at an Ethernet port. -/
def Dev.ethReceive (d : Dev) (n : Nat) (f : List Byte) : Dev :=
  if !d.netUp n then d
  else match d.ptpPart n f with
    | none => (d.bump .net n fNET_RX_DROP_FILTER).statBit .net n 1
    | some m =>
      if peerDelayMsg (fieldBe m 0 1 % 16) then (d.bump .net n fNET_RX_DROP_FILTER).statBit .net n 1
      else if Config.ptpFifoDepth ≤ (d.net n).rx.length then (d.bump .net n fNET_RX_DROP_OVERRUN).statBit .net n 1
      else
        let x := d.net n
        let d := d.setNet n { x with rx := x.rx ++ [(m, d.rxStamp n)] }
        ((d.bump .net n fNET_RX_PTP_FRAMES).requestLine (2 + n)).assertEvt (110 + n)

/-- The first queued PTP frame goes out; an event message leaves its transmit stamp. -/
def Dev.ptpTransmit (d : Dev) (n : Nat) : Dev :=
  let x := d.net n
  match x.tx with
  | [] => d
  | (typ, f) :: rest =>
    if !d.netUp n then d
    else
      let ev := typ ≤ 1
      let d := d.setNet n { x with
        tx := rest, lastFrame := f, txStamps := if ev then x.txStamps ++ [(typ, d.txStamp n)] else x.txStamps }
      let d := d.bump .net n fNET_TX_FRAMES_FRAMES
      if ev then (d.requestLine (4 + n)).assertEvt (110 + n) else d

/-! ## PTP (R330, R331) -/

/-- Codes of roles and states for the standard's decisions. -/
def PtpRole.code : PtpRole → Nat
  | .disabled => 0 | .slaveOnly => 1 | .masterCapable => 2 | .boundary => 3
def PtpRole.ofCode (n : Nat) : PtpRole :=
  if n = 0 then .disabled else if n = 1 then .slaveOnly else if n = 2 then .masterCapable else .boundary
def PtpState.code : PtpState → Nat
  | .disabled => 3 | .faulty => 2 | .listening => 4 | .master => 6 | .passive => 7 | .uncalibrated => 8 | .slave => 9
def PtpState.ofCode (n : Nat) : PtpState :=
  match n with
  | 6 => .master | 7 => .passive | 8 => .uncalibrated | 9 => .slave | _ => .listening

/-- The state a role may hold: a slave-only clock is never a master, a disabled port only disabled, and a master-capable
ordinary clock may follow. -/
def ptpAllowed (r : PtpRole) (s : PtpState) : PtpState :=
  match r with
  | .disabled => .disabled
  | .slaveOnly => if s = .master ∨ s = .passive then .listening else s
  | _ => s

/-- Queue a PTP frame of a type. -/
def Dev.ptpQueue (d : Dev) (n typ : Nat) : Dev :=
  let x := d.net n
  d.setNet n { x with tx := x.tx ++ [(typ, Config.ptpFrame n typ d.free)] }

/-- The firmware takes one received PTP message. -/
def Dev.ptpMessage (d : Dev) (n : Nat) (m : List Byte × Nat) : Dev :=
  let x := d.net n
  if x.role = .disabled then d
  else
    let r := Config.ptpDecide n x.role.code x.state.code m.1 m.2
    let st := ptpAllowed x.role (PtpState.ofCode r.1)
    let d := d.setNet n { x with
      state := st, offset := r.2.1.getD x.offset, delay := r.2.2.1, gm := r.2.2.2.1, steps := r.2.2.2.2.1 }
    let d := if st = .slave then d.modTime fun t => { t with gmUtc := r.2.2.2.2.2.1 } else d
    let d := r.2.2.2.2.2.2.foldl (fun (d : Dev) typ => d.ptpQueue n typ) d
    match r.2.1 with
    | some o => if st = .slave then d.servo o else d
    | none => d

/-- GAFFER0 drains a port's FIFOs: a Sync sent is followed by its Follow_Up, since transmission is two-step. -/
def Dev.ptpServe (d : Dev) (n : Nat) : Dev :=
  let x := d.net n
  let d := d.setNet n { x with rx := [], txStamps := [] }
  let d := x.rx.foldl (fun (d : Dev) m => d.ptpMessage n m) d
  x.txStamps.foldl (fun (d : Dev) t => if t.1 = 0 then d.ptpQueue n 8 else d) d

/-- A message interval of a port expires (R330): Announce, Sync and Management from a master, Delay_Req from a slave. -/
def Dev.ptpDue (d : Dev) (n typ : Nat) : Dev :=
  let x := d.net n
  if !d.netUp n ∨ !d.gafRuns 0 then d
  else if x.state = .master ∧ (typ = 0 ∨ typ = 11 ∨ typ = 13) then d.ptpQueue n typ
  else if (x.state = .slave ∨ x.state = .uncalibrated) ∧ typ = 1 then d.ptpQueue n typ
  else d

/-- A port loses its master (R331). -/
def Dev.announceLost (d : Dev) (n : Nat) : Dev :=
  let x := d.net n
  match x.state with
  | .slave | .uncalibrated | .passive | .listening =>
    d.setNet n { x with state := match x.role with
      | .disabled => .disabled
      | .slaveOnly => .listening
      | _ => .master }
  | _ => d

/-- The link of a port goes up or down (R328, Table 17.6 case 6). -/
def Dev.netLink (d : Dev) (n : Nat) (up : Bool) : Dev :=
  let x := d.net n
  if up = d.netUp n ∨ (up ∧ (d.netMode n = 0 ∨ !d.enabled (9 + n) ∨ d.core.fault.heldDown.contains (6 + n))) then d
  else
    let fec := up && d.netMode n ≤ 3
    let d := (d.set .net n fNET_STAT_LINK (if up then 1 else 0)).set .net n fNET_STAT_FEC_LOCK (if fec then 1 else 0)
    let d := (d.set .net n fNET_STAT_MODE (if up then d.netMode n else 0)).statBit .net n 0
    let d := if up then
        d.setNet n { x with state := if x.role = .disabled then .disabled else .listening }
      else
        let d := d.bump .net n fNET_LINK_CNT_DOWNS
        let d := d.setNet n { x with tx := [], state := if x.role = .disabled then .disabled else .faulty }
        d.core.proxies.foldl (fun (d : Dev) p =>
          if p.2.par.net = n ∧ !p.2.queue.isEmpty then
            ((d.setProxy p.1 { p.2 with queue := [] }).bump .proxy p.2.engine fPX_NET_DROP_PACKETS p.2.queue.length).statBit .proxy
              p.2.engine 3
          else d) d
    d.assertEvt (110 + n)

end Sys2Proof.Machine
end

