-- ==== Sys2Proof/Machine/VolOps.lean ====
section
/-! DEFINITION. The Wevis Magazine Layout (chapter 15): its structures byte for byte, the journal, extents, checkpoints, and
the journal entries of takes and streams, as operations on a mounted volume. -/
namespace Sys2Proof.Machine

/-! ## Bytes -/

/-- `n` bytes with fields (offset, length, value), little-endian, zero elsewhere. -/
def fieldBytes (n : Nat) (fs : List (Nat × Nat × Nat)) : List Byte :=
  (List.range n).map fun i => match fs.find? fun f => decide (f.1 ≤ i ∧ i < f.1 + f.2.1) with
    | some f => byteOf f.2.2 (i - f.1)
    | none => 0

/-- Bytes with their CRC-32C at the end of 131,072. -/
def sealBytes (b : List Byte) : List Byte :=
  let b := b ++ List.replicate (131068 - b.length) 0#8
  b ++ leBytes 4 (crc32c b)

/-- A journal slot, map piece or directory piece (Table 15.3). -/
def wmlPiece (kind seq vol owner link : Nat) (entries : List (List Byte)) : List Byte :=
  sealBytes (fieldBytes 64 [(0, 4, 0x504C4D57), (4, 2, 0x0100), (6, 1, kind), (8, 8, seq), (16, 8, vol), (24, 4, entries.length),
    (28, 4, owner), (32, 8, link)] ++ entries.flatten)

/-- A superblock copy (Table 15.2). -/
def superBytes (v : Vol) (s : Super) (copy : Nat) : List Byte :=
  let head := fieldBytes 256 [(0, 4, 0x534C4D57), (4, 2, 0x0100), (6, 2, copy), (8, 8, s.seq), (16, 8, v.id), (24, 8, v.nUse),
    (32, 4, v.nAu), (36, 4, s.auNext), (40, 4, s.tail), (48, 8, s.jseq), (56, 4, s.table.length), (60, 4, s.streams),
    (64, 8, v.tInit), (72, 8, Config.deviceSerial)]
  let tab := s.table.map fun t => fieldBytes 16 [(0, 8, t.1), (8, 4, t.2.1), (12, 2, t.2.2.1), (14, 1, t.2.2.2)]
  sealBytes (head ++ tab.flatten)

/-- LBA, blocks and bytes of the write that an operation makes; none for a Flush and the seal. -/
def Vol.opWrite (v : Vol) : WmlOp → Option (Nat × Nat × List Byte)
  | .journal slot seq es => some (32 + 32 * slot, 32, wmlPiece 1 seq v.id 0xFFFFFFFF 0 es)
  | .map lba snum prev es seq => some (lba, 32, wmlPiece 2 seq v.id snum prev es)
  | .dir lba take next es seq => some (lba, 32, wmlPiece 3 seq v.id take next es)
  | .flush => none
  | .superB s => some (v.nUse - 64, 64, superBytes v s 1 ++ superBytes v s 2)
  | .superA s => some (0, 32, superBytes v s 0)
  | .seal => none

/-! ## Journal entries (Table 15.4) -/

def entTakeOpen (num id dev t : Nat) : List Byte := fieldBytes 32 [(0, 1, 1), (2, 2, num), (4, 2, id), (8, 8, dev), (16, 8, t)]
def entTakeClose (num st t : Nat) : List Byte := fieldBytes 32 [(0, 1, 2), (2, 2, num), (4, 1, st), (8, 8, t)]
def entStreamOpen (s : VolStream) : List Byte :=
  fieldBytes 32 [(0, 1, 3), (2, 2, s.snum), (4, 2, s.take), (6, 2, s.slot), (8, 8, s.serial), (16, 4, s.firstPic), (20, 1, s.region),
    (24, 8, s.startAddr)]
def entExtent (snum au a : Nat) : List Byte := fieldBytes 32 [(0, 1, 4), (2, 2, snum), (8, 4, au), (16, 8, a)]
/-- INDEX; `picWord` carries the picture with its start point and missing marks. -/
def entIndex (snum picWord a t0 : Nat) : List Byte := fieldBytes 32 [(0, 1, 5), (2, 2, snum), (4, 4, picWord), (8, 8, a), (16, 8, t0)]
def entConfirmed (snum a : Nat) : List Byte := fieldBytes 32 [(0, 1, 6), (2, 2, snum), (8, 8, a)]
def entFill (snum a : Nat) : List Byte := fieldBytes 32 [(0, 1, 7), (2, 2, snum), (8, 8, a)]
def entContIn (snum cause vol a : Nat) : List Byte := fieldBytes 32 [(0, 1, 8), (2, 2, snum), (4, 1, cause), (8, 8, vol), (16, 8, a)]
def entContOut (snum cause vol a : Nat) : List Byte := fieldBytes 32 [(0, 1, 9), (2, 2, snum), (4, 1, cause), (8, 8, vol), (16, 8, a)]
def entStreamClose (snum st reason a pic : Nat) : List Byte :=
  fieldBytes 32 [(0, 1, 10), (2, 2, snum), (4, 1, st), (5, 1, reason), (8, 8, a), (16, 4, pic)]
def entMetaAu (au : Nat) : List Byte := fieldBytes 32 [(0, 1, 11), (8, 4, au)]
def entSupply (t : Nat) : List Byte := fieldBytes 32 [(0, 1, 12), (8, 8, t)]

/-! ## The journal (R294, R300) -/

/-- Add an entry that waits for the next commit; `free` is FREE. -/
def Vol.log (v : Vol) (free : Nat) (e : List Byte) : Vol :=
  { v with waiting := v.waiting ++ [e], waitAt := if v.waiting.isEmpty then free else v.waitAt }

/-- Journal slots in use. -/
def Vol.slotsUsed (v : Vol) : Nat := v.jrnNextSeq - v.jrnSeq

/-- Change a stream of the volume. -/
def Vol.modStream (v : Vol) (snum : Nat) (f : VolStream → VolStream) : Vol :=
  { v with streams := v.streams.map fun s => if s.snum = snum then f s else s }
def Vol.stream? (v : Vol) (snum : Nat) : Option VolStream := v.streams.find? fun s => s.snum = snum
/-- Mark a take as changed since the last checkpoint. -/
def Vol.touch (v : Vol) (num : Nat) (f : VolTake → VolTake) : Vol :=
  { v with takes := v.takes.map fun t => if t.num = num then { f t with changed := true } else t }

/-- Write the waiting entries to the next slot of the ring, with a CONFIRMED entry for each open stream whose confirmed end
has advanced; `conf` gives the confirmed ends. With 255 slots in use nothing is committed. -/
def Vol.commitJournal (v : Vol) (conf : Nat → Option Nat) : Vol :=
  let adv := v.streams.filterMap fun s => match conf s.snum with
    | some a => if s.state = 1 ∧ s.endAddr < a then some (s.snum, a) else none
    | none => none
  let es := v.waiting ++ adv.map fun p => entConfirmed p.1 p.2
  if es.isEmpty ∨ 255 ≤ v.slotsUsed then v
  else
    let v := adv.foldl (fun (v : Vol) p => v.modStream p.1 fun s => { s with endAddr := p.2 }) v
    { v with ops := v.ops ++ [WmlOp.journal v.jrnNext v.jrnNextSeq (es.take 4093)], waiting := es.drop 4093,
             jrnNext := (v.jrnNext + 1) % 256, jrnNextSeq := v.jrnNextSeq + 1 }

/-! ## Allocation (R296, R297, R304) -/

/-- Take the next AU. -/
def Vol.takeAu (v : Vol) : Option (Vol × Nat) := if v.auNext < v.nAu then some ({ v with auNext := v.auNext + 1 }, v.auNext) else none

/-- First LBA of an AU. -/
def auLba (a : Nat) : Nat := 32768 + 16384 * a

/-- Give a stream AUs until the addresses below `upto` are taken for; `n` bounds them. -/
def Vol.extend (snum upto free : Nat) : Nat → Vol → Vol
  | 0, v => v
  | n + 1, v =>
    match v.stream? snum with
    | none => v
    | some s =>
      if upto ≤ s.alloc then v
      else match v.takeAu with
        | none => v
        | some (v, a) =>
          let e := entExtent snum a s.alloc
          Vol.extend snum upto free n
            ((v.log free e).modStream snum fun s => { s with alloc := s.alloc + 2 ^ 26, ents := s.ents ++ [e] })

/-- The LBA of a stream address, within a committed extent (R296). -/
def VolStream.lba (s : VolStream) (x : Nat) : Option Nat :=
  (s.extents.find? fun e => decide (e.2 ≤ x ∧ x < e.2 + 2 ^ 26)).map fun e => auLba e.1 + (x - e.2) / 4096

/-- A metadata piece's LBA. -/
def Vol.metaLba (v : Vol) (free : Nat) : Vol × Nat :=
  match v.metaAu with
  | some a => if v.metaUsed < 512 then ({ v with metaUsed := v.metaUsed + 1 }, auLba a + 32 * v.metaUsed)
    else match v.takeAu with
      | some (v, a) => ({ v.log free (entMetaAu a) with metaAu := some a, metaUsed := 1 }, auLba a)
      | none => (v, auLba a)
  | none => match v.takeAu with
    | some (v, a) => ({ v.log free (entMetaAu a) with metaAu := some a, metaUsed := 1 }, auLba a)
    | none => (v, auLba v.nAu)

/-! ## Directory, maps and checkpoints (R300, R301) -/

/-- The directory entries of a take (Table 15.5). -/
def Vol.dirEntries (v : Vol) (t : VolTake) : List (List Byte) :=
  let ss := v.streams.filter fun s => s.take = t.num
  fieldBytes 64 [(0, 1, 1), (1, 1, t.state), (2, 2, t.takeId), (4, 2, t.num), (6, 2, ss.length), (8, 8, t.device), (16, 8, t.tStart),
    (24, 8, t.tEnd)] ::
  ss.map fun s => fieldBytes 64 [(0, 1, 2), (1, 1, s.state), (2, 2, s.snum), (4, 2, s.slot), (6, 1, s.region), (7, 1, s.reason),
    (8, 8, s.serial), (16, 4, s.firstPic), (20, 4, s.lastPic), (24, 8, s.startAddr), (32, 8, s.endAddr), (40, 8, s.mapLba),
    (48, 8, s.prevVol), (56, 8, s.nextVol)]

/-- A list cut into pieces of at most `k`; `n` bounds them. -/
def chunksOf {α : Type} (k : Nat) : Nat → List α → List (List α)
  | 0, _ => []
  | n + 1, l => if l.isEmpty then [] else l.take k :: chunksOf k n (l.drop k)

/-- Write a stream's new map pieces. -/
def Vol.writeMaps (v : Vol) (free snum seq : Nat) : Vol :=
  match v.stream? snum with
  | none => v
  | some s =>
    let v := v.modStream snum fun s => { s with ents := [] }
    (chunksOf 4093 (s.ents.length + 1) s.ents).foldl (fun (v : Vol) es =>
      let r := v.metaLba free
      let prev := ((r.1.stream? snum).map (·.mapLba)).getD 0
      ({ r.1 with ops := r.1.ops ++ [WmlOp.map r.2 snum prev es seq] }).modStream snum fun s => { s with mapLba := r.2 }) v

/-- Write a take's new directory chain, the last piece first so that each names the next. -/
def Vol.writeDir (v : Vol) (free : Nat) (t : VolTake) (seq : Nat) : Vol :=
  let parts := chunksOf 2046 (v.streams.length + 2) (v.dirEntries t)
  let r := parts.reverse.foldl (fun (a : Vol × Nat) es =>
    let m := a.1.metaLba free
    ({ m.1 with ops := m.1.ops ++ [WmlOp.dir m.2 t.num a.2 es seq] }, m.2)) (v, 0)
  { r.1 with takes := r.1.takes.map fun u =>
      if u.num = t.num then { u with dirLba := r.2, pieces := parts.length, changed := false } else u }

/-- The superblock that stands for the volume now. -/
def Vol.super (v : Vol) (tail jseq : Nat) : Super :=
  { seq := v.seq, auNext := v.auNext, tail := tail, jseq := jseq, streams := v.streams.length,
    table := v.takes.map fun t => (t.dirLba, t.pieces, t.takeId, t.state) }

/-- A checkpoint (R300): the journal, map pieces, directory chains, then the superblock commit of R292. -/
def Vol.checkpointNow (v : Vol) (free : Nat) (conf : Nat → Option Nat) : Vol :=
  let v := v.commitJournal conf
  let tail := v.jrnNext
  let jseq := v.jrnNextSeq
  let seq := v.seq + 1
  let v := (v.streams.filter fun s => !s.ents.isEmpty).foldl (fun (v : Vol) s => v.writeMaps free s.snum seq) v
  let v := (v.takes.filter (·.changed)).foldl (fun (v : Vol) t => v.writeDir free t seq) v
  let v := { v with seq := seq, checkpoint := true }
  let s := v.super tail jseq
  { v with ops := v.ops ++ [WmlOp.flush, WmlOp.superB s, WmlOp.flush, WmlOp.superA s] }

/-- A volume as INIT writes it (R272, R292). -/
def Vol.init (id nsze t : Nat) : Vol :=
  let nUse := nsze / 32 * 32
  let v : Vol :=
    { id := id, nUse := nUse, nAu := (nUse - 64 - 32768) / 16384, auNext := 0, seq := 1, tInit := t, jrnTail := 0, jrnSeq := 1,
      jrnNext := 0, jrnNextSeq := 1, waiting := [], waitAt := 0, metaAu := none, metaUsed := 0, takes := [], streams := [],
      ops := [], checkpoint := true, full := false, recovered := true }
  let s := v.super 0 1
  { v with ops := [.flush, .superB s, .flush, .superA s] }

/-- What the completion of an operation brings (R297, R300): a journal slot's EXTENT entries are committed; copy A frees the
slots before the tail it names. -/
def Vol.opDone (v : Vol) : WmlOp → Vol
  | .journal _ _ es =>
    es.foldl (fun (v : Vol) e =>
      if fieldLe e 0 1 = 4 then v.modStream (fieldLe e 2 2) fun s => { s with extents := s.extents ++ [(fieldLe e 8 4, fieldLe e 16 8)] }
      else v) v
  | .superA s => { v with jrnTail := s.tail, jrnSeq := s.jseq, checkpoint := v.seq ≠ s.seq }
  | _ => v

/-! ## Takes and streams on a volume -/

/-- The take of this device on the volume, opened if it is not yet there (R302). -/
def Vol.openTake (v : Vol) (free takeId device tStart : Nat) : Vol × Nat :=
  match v.takes.find? fun t => decide (t.takeId = takeId ∧ t.device = device ∧ t.state = 1) with
  | some t => (v, t.num)
  | none =>
    let n := v.takes.length
    ({ v.log free (entTakeOpen n takeId device tStart) with
       takes := v.takes ++ [⟨n, takeId, device, tStart, 0, 1, 0, 0, true⟩] }, n)

/-- Open a stream; a continuation names its source volume and cause in the same slot (R303). -/
def Vol.openStream (v : Vol) (free take slot serial region first start : Nat) (cont : Option (Nat × Nat)) : Vol × Nat :=
  let n := v.streams.length
  let s : VolStream :=
    { snum := n, take := take, slot := slot, serial := serial, region := region, firstPic := first, lastPic := first,
      startAddr := start, endAddr := start, state := 1, reason := 0, extents := [], index := [], fills := [], alloc := start, ents := [],
      mapLba := 0, prevVol := (cont.map (·.2)).getD 0, nextVol := 0 }
  let v := { v with streams := v.streams ++ [s] }
  let v := (v.log free (entStreamOpen s)).touch take fun t => t
  match cont with
  | some (cause, vol) => (v.log free (entContIn n cause vol start), n)
  | none => (v, n)

/-- Close a stream with STATE 2 or 3. -/
def Vol.closeStream (v : Vol) (free snum st reason endA pic : Nat) : Vol :=
  match v.stream? snum with
  | none => v
  | some s =>
    if s.state ≠ 1 then v
    else
      ((v.log free (entStreamClose snum st reason endA pic)).modStream snum fun s =>
        { s with state := st, reason := reason, endAddr := endA, lastPic := pic }).touch s.take fun t => t

/-- A stream continues on another volume (R303). -/
def Vol.contOut (v : Vol) (free snum cause vol a pic : Nat) : Vol :=
  let v := (v.log free (entContOut snum cause vol a)).modStream snum fun s => { s with nextVol := vol }
  v.closeStream free snum 2 0 a pic

/-- An INDEX entry (R299). -/
def Vol.index (v : Vol) (free snum picWord a t0 : Nat) : Vol :=
  let e := entIndex snum picWord a t0
  (v.log free e).modStream snum fun s =>
    { s with index := s.index ++ [(picWord % 2 ^ 24, a, t0)], ents := s.ents ++ [e], lastPic := picWord % 2 ^ 24 }

/-- A FILL entry (R298). -/
def Vol.fill (v : Vol) (free snum a : Nat) : Vol :=
  let e := entFill snum a
  (v.log free e).modStream snum fun s => { s with fills := s.fills ++ [a], ents := s.ents ++ [e] }

/-- Close a take. -/
def Vol.closeTake (v : Vol) (free num st tEnd : Nat) : Vol :=
  (v.log free (entTakeClose num st tEnd)).touch num fun t => { t with state := st, tEnd := tEnd }

/-! ## Replay (R305) -/

/-- Apply one journal entry. -/
def Vol.replay (v : Vol) (e : List Byte) : Vol :=
  let n := fieldLe e 2 2
  let f := fun (o k : Nat) => fieldLe e o k
  match f 0 1 with
  | 1 => { v with takes := v.takes ++ [⟨n, f 4 2, f 8 8, f 16 8, 0, 1, 0, 0, true⟩] }
  | 2 => v.touch n fun t => { t with state := f 4 1, tEnd := f 8 8 }
  | 3 => { v with streams := v.streams ++ [
      { snum := n, take := f 4 2, slot := f 6 2, serial := f 8 8, region := f 20 1, firstPic := f 16 3, lastPic := f 16 3,
        startAddr := f 24 8, endAddr := f 24 8, state := 1, reason := 0, extents := [], index := [], fills := [], alloc := f 24 8,
        ents := [], mapLba := 0, prevVol := 0, nextVol := 0 }] }
  | 4 => ({ v with auNext := max v.auNext (f 8 4 + 1) }).modStream n fun s =>
      { s with extents := s.extents ++ [(f 8 4, f 16 8)], alloc := f 16 8 + 2 ^ 26, ents := s.ents ++ [e] }
  | 5 => v.modStream n fun s =>
      { s with index := s.index ++ [(f 4 3, f 8 8, f 16 8)], ents := s.ents ++ [e], lastPic := f 4 3 }
  | 6 => v.modStream n fun s => { s with endAddr := f 8 8 }
  | 7 => v.modStream n fun s => { s with fills := s.fills ++ [f 8 8], ents := s.ents ++ [e] }
  | 8 => v.modStream n fun s => { s with prevVol := f 8 8 }
  | 9 => v.modStream n fun s => { s with nextVol := f 8 8 }
  | 10 => match v.stream? n with
    | some s => (v.modStream n fun s => { s with state := f 4 1, reason := f 5 1, endAddr := f 8 8, lastPic := f 16 3 }).touch s.take fun t => t
    | none => v
  | 11 => { v with auNext := max v.auNext (f 8 4 + 1), metaAu := some (f 8 4), metaUsed := 0 }
  | _ => v

/-- An entry of a map piece, in the order of the pieces from the newest back. -/
def Vol.mapEntry (v : Vol) (snum : Nat) (e : List Byte) : Vol :=
  let f := fun (o k : Nat) => fieldLe e o k
  match f 0 1 with
  | 4 => v.modStream snum fun s => { s with extents := s.extents ++ [(f 8 4, f 16 8)], alloc := max s.alloc (f 16 8 + 2 ^ 26) }
  | 5 => v.modStream snum fun s => { s with index := s.index ++ [(f 4 3, f 8 8, f 16 8)] }
  | 7 => v.modStream snum fun s => { s with fills := s.fills ++ [f 8 8] }
  | _ => v

/-- A directory record (Table 15.5). -/
def Vol.dirRecord (v : Vol) (take : Nat) (e : List Byte) : Vol :=
  let f := fun (o k : Nat) => fieldLe e o k
  if f 0 1 = 1 then v.touch take fun t => { t with device := f 8 8, tStart := f 16 8, tEnd := f 24 8, takeId := f 2 2, state := f 1 1 }
  else if f 0 1 = 2 then
    { v with streams := v.streams ++ [
      { snum := f 2 2, take := take, slot := f 4 2, serial := f 8 8, region := f 6 1, firstPic := f 16 3, lastPic := f 20 3,
        startAddr := f 24 8, endAddr := f 32 8, state := f 1 1, reason := f 7 1, extents := [], index := [], fills := [], alloc := f 24 8,
        ents := [], mapLba := f 40 8, prevVol := f 48 8, nextVol := f 56 8 }] }
  else v

/-- A superblock copy is valid (R292). -/
def superOk (b : List Byte) : Bool :=
  decide (b.length = 131072 ∧ fieldLe b 0 4 = 0x534C4D57 ∧ fieldLe b 5 1 = 1 ∧ fieldLe b 131068 4 = crc32c (b.take 131068))
/-- A piece is valid (R293). -/
def pieceOk (v : Vol) (b : List Byte) (kind : Nat) : Bool :=
  decide (b.length = 131072 ∧ fieldLe b 0 4 = 0x504C4D57 ∧ fieldLe b 6 1 = kind ∧ fieldLe b 16 8 = v.id ∧
    fieldLe b 131068 4 = crc32c (b.take 131068))
/-- The entries of a piece. -/
def pieceEntries (b : List Byte) (size : Nat) : List (List Byte) :=
  (List.range (fieldLe b 24 4)).map fun i => (b.drop (64 + size * i)).take size

/-- The volume that a superblock shows. -/
def Vol.ofSuper (b : List Byte) : Vol :=
  let f := fun (o k : Nat) => fieldLe b o k
  { id := f 16 8, nUse := f 24 8, nAu := f 32 4, auNext := f 36 4, seq := f 8 8, tInit := f 64 8, jrnTail := f 40 4, jrnSeq := f 48 8,
    jrnNext := f 40 4, jrnNextSeq := f 48 8, waiting := [], waitAt := 0, metaAu := none, metaUsed := 0,
    takes := (List.range (f 56 4)).map fun i =>
      let o := 256 + 16 * i
      ⟨i, f (o + 12) 2, 0, 0, 0, f (o + 14) 1, f o 8, f (o + 8) 4, false⟩,
    streams := [], ops := [], checkpoint := false, full := false, recovered := false }

end Sys2Proof.Machine
end

