-- ==== Sys2Proof/Machine/StreamOps.lean ====
section
/-! DEFINITION. Device modes, admission, and the life of a stream slot (chapter 03): the mode shown, the checks of Table 3.5,
placement, arming, closing, and closing for lost capacity. -/
namespace Sys2Proof.Machine

/-! ## Working decode pipelines -/

/-- The pipeline that performs a decode role: itself, or the spare that holds its role; none while the role is withdrawn. A
pipeline of an isolated quadrant performs none. -/
def Dev.decFor (d : Dev) (p : Nat) : Option Nat :=
  let q := p / 4
  if (d.get .fault3 0 fFC_WD_OTHER_QUAD).testBit q then none
  else if d.get .fault3 0 fFC_DSPARE_IN_USE q = 1 ∧ d.get .fault3 0 fFC_DSPARE_ROLE q = p then some (16 + q)
  else if (d.get .fault3 0 fFC_WD_DEC_DEC).testBit p then none
  else some p

/-- Working decode pipelines. -/
def Dev.decWorking (d : Dev) : Nat := (List.range 16).countP fun p => (d.decFor p).isSome

/-! ## The mode (R44, R45, R48) -/

/-- The base mode (DEV_MODE.BASE); 0 during boot. -/
def Dev.base (d : Dev) : Nat := d.get .device 0 fDEV_MODE_BASE
/-- SAFE_HOLD is in force. -/
def Dev.safeHold (d : Dev) : Bool := d.get .device 0 fDEV_MODE_SH_CAUSE ≠ 0
/-- A magazine exchange runs. -/
def Dev.exchanging (d : Dev) : Bool := d.core.exchange.isSome

/-- A spare holds a role, or an element is withdrawn, retired or isolated (R48). -/
def Dev.degradedNow (d : Dev) : Bool :=
  ((List.range 4).any fun q => d.get .fault3 0 fFC_ESPARE_IN_USE q = 1 || d.get .fault3 0 fFC_ESPARE_WITHDRAWN q = 1 ||
    d.get .fault3 0 fFC_DSPARE_IN_USE q = 1 || d.get .fault3 0 fFC_DSPARE_WITHDRAWN q = 1) ||
  d.get .fault3 0 fFC_WD_ENC0_ENC ≠ 0 || d.get .fault3 0 fFC_WD_ENC1_ENC ≠ 0 || d.get .fault3 0 fFC_WD_ENC2_ENC ≠ 0 ||
  d.get .fault3 0 fFC_WD_DEC_DEC ≠ 0 || d.get .fault3 0 fFC_WD_OTHER_QUAD ≠ 0 || d.get .fault3 0 fFC_WD_OTHER_PROXY ≠ 0 ||
  d.get .fault3 0 fFC_WD_OTHER_ME ≠ 0 || d.get .memctl 0 fMC_STAT_RET_STATE ≠ 0 ||
  d.core.fault.heldDown.any fun b => 63 ≤ b && b < 95

/-- The mode shown (R45). -/
def Dev.modeShown (d : Dev) : Nat :=
  if d.base = 0 then 0
  else if d.safeHold then 10
  else if d.base = 11 then 11
  else if d.exchanging then 8
  else if d.degradedNow then 9
  else d.base

/-- DEV_MODE follows the conditions; a change of the mode shown sets PG_STAT.BLOCK bit 0, together with `bits`. -/
def Dev.refreshModeWith (d : Dev) (bits : Nat) : Dev :=
  let old := d.get .device 0 fDEV_MODE_MODE
  let d := d.set .device 0 fDEV_MODE_EXCHANGE (if d.exchanging then 1 else 0)
  let d := d.set .device 0 fDEV_MODE_DEGRADED (if d.degradedNow then 1 else 0)
  let m := d.modeShown
  let b := bits + if m = old then 0 else 1
  if b = 0 then d else (d.set .device 0 fDEV_MODE_MODE m).stat (PageKind.device.page 0) b

/-- DEV_MODE follows the conditions. -/
def Dev.refreshMode (d : Dev) : Dev := d.refreshModeWith 0

/-- Set the base mode. -/
def Dev.setBase (d : Dev) (m : Nat) : Dev := (d.set .device 0 fDEV_MODE_BASE m).refreshMode

/-- TAKE_STATE changes (PG_STAT.BLOCK bit 4). -/
def Dev.setTakeState (d : Dev) (s : Nat) : Dev :=
  if d.get .device 0 fDEV_TAKE_TAKE_STATE = s then d
  else (d.set .device 0 fDEV_TAKE_TAKE_STATE s).statBit .device 0 4

/-- A take runs or stops. -/
def Dev.takeRuns (d : Dev) : Bool := d.get .device 0 fDEV_TAKE_TAKE_STATE = 2 || d.get .device 0 fDEV_TAKE_TAKE_STATE = 3

/-- TAKE_STATE 1 while record streams are ARMED and no take runs. -/
def Dev.refreshArmed (d : Dev) : Dev :=
  if d.takeRuns then d
  else if d.core.slots.any fun p => p.1 < 1024 && decide (p.2.state = .armed) then d.setTakeState 1
  else if d.get .device 0 fDEV_TAKE_TAKE_STATE = 1 then d.setTakeState (if d.get .device 0 fDEV_TAKE_TAKE_ID = 0 then 0 else 4)
  else d

/-- Table 3.1: does base mode `m` permit the stream of slot `s`? -/
def Dev.permits (d : Dev) (m s : Nat) : Bool :=
  if s < 1024 then m = 2 ∨ m = 3 ∨ m = 5
  else if s < 1280 then
    match d.dec? s with
    | none => true
    | some x =>
      match m with
      | 3 => x.par.verify && !x.par.offload
      | 4 => !x.par.offload && x.par.pace && x.par.dest % 2 = 0
      | 5 => !x.par.offload && x.par.dest % 2 = 0
      | 6 => !x.par.offload && !x.par.pace && (x.par.dest = 2 || x.par.dest = 4 || x.par.dest = 6)
      | 7 => x.par.offload
      | _ => false
  else match d.proxy? s with
    | none => true
    | some x => if x.par.srcKind = 0 then m = 2 ∨ m = 3 ∨ m = 5 else m = 4 ∨ m = 5 ∨ m = 6

/-! ## Loads (R10, R12, R53) -/

/-- Samples per second of a region, rounded up. -/
def RegionDecl.rateSmp (g : RegionDecl) : Nat := cdiv (g.w * g.h * g.num) g.den

/-- The reservations of the live streams other than slot `s`. -/
def Dev.others (d : Dev) (s : Nat) : List Resv := (d.liveSlots.filter fun p => p.1 ≠ s).map (·.2.resv)

/-- Sum a quantity over reservations. -/
def sumResv (rs : List Resv) (f : Resv → Nat) : Nat := rs.foldl (fun a r => a + f r) 0

/-- MT/s of MC_CFG.SPEED. -/
def Dev.mtps (d : Dev) : Nat := 5600 + 800 * d.get .memctl 0 fMC_CFG_SPEED
/-- The inter limits of R10 in samples per second: encode with `k` = 80, decode with `k` = 40. -/
def Dev.interLimit (d : Dev) (k : Nat) : Nat := k * d.get .memctl 0 fMC_STAT_WORKING * d.mtps / 80000 * 1000000000

/-- 3.75 Gsample/s, 4 Gsample/s and 5 Gsample/s. -/
def encUnit : Nat := 3750000000
def decUnit : Nat := 4000000000
def meUnit : Nat := 5000000000

/-- Tile columns of a placement. -/
def Resv.cols (r : Resv) : Nat := r.place.foldl (fun a p => a + p.2) 0
/-- The load a reservation puts on a cluster, in 2^-20 samples per second, for a total `t` (R54: an equal share each column). -/
def Resv.onCluster (r : Resv) (c t : Nat) : Nat :=
  let k := r.place.foldl (fun a p => if p.1 = c then a + p.2 else a) 0
  if k = 0 then 0 else cdiv (t * 2 ^ 20 * k) r.cols

/-- Limits of a cluster in 2^-20 samples per second. -/
def Dev.clusterEnc (d : Dev) (c : Nat) : Nat := encUnit * d.clusterWorking c * 2 ^ 20
def Dev.clusterInter (d : Dev) (c : Nat) : Nat := if d.meWorking c then meUnit * 2 ^ 20 else 0

/-- Room left on a cluster: encode and inter. -/
def Dev.clusterRoom (d : Dev) (rs : List Resv) (c : Nat) : Nat × Nat :=
  (d.clusterEnc c - sumResv rs (fun r => r.onCluster c r.enc), d.clusterInter c - sumResv rs (fun r => r.onCluster c r.inter))

/-- Tile columns, of `n` that carry load `t`, which fit into a room. -/
def fitCols (room t n rem : Nat) : Nat := if t = 0 then rem else min rem (room * n / (t * 2 ^ 20))

/-- Place a stream of encode load `enc` and inter load `inter` over `n` columns on the clusters of a quadrant (R54). -/
def Dev.placeOn (d : Dev) (rs : List Resv) (q enc inter n : Nat) : Option (List (Nat × Nat)) :=
  let cs := (List.range 4).map (4 * q + ·)
  match cs.find? fun c =>
      let r := d.clusterRoom rs c
      decide (enc * 2 ^ 20 ≤ r.1 ∧ inter * 2 ^ 20 ≤ r.2) with
  | some c => some [(c, n)]
  | none =>
    let r := cs.foldl (fun (a : List (Nat × Nat) × Nat) c =>
      let room := d.clusterRoom rs c
      let k := min (fitCols room.1 enc n a.2) (fitCols room.2 inter n a.2)
      if k = 0 then a else (a.1 ++ [(c, k)], a.2 - k)) ([], n)
    if r.2 = 0 then some r.1 else none

/-- Bytes of one reference buffer (R156). -/
def Geo.bufBytes (g : Geo) : Nat :=
  roundUp ((List.range g.trows).foldl (fun a r => a + roundUp (cdiv (g.rowSamples r * 9) 8) 64) 0) 65536
/-- Bytes of the primary area. -/
def Dev.poolPrimary (d : Dev) : Nat := (d.get .memctl 0 fRP_SIZE_MIB - d.get .memctl 0 fRP_OVF_MIB) * 2 ^ 20

/-- Bytes of a line-buffer reservation (R95). -/
def RegionDecl.ringBytes (g : RegionDecl) : Nat := roundUp (cdiv (g.ringLines * g.w * g.d) 8) 4096

/-! ## Parameters of a record stream (Tables 5.3, 6.1, 7.2, 9.1, 12.5) -/

/-- A field of a command word. -/
def argF (w : List Word) (i hi lo : Nat) : Nat := bitsNat (w.getD i 0) hi lo

/-- Ingest parameters in DW7 to DW13. -/
def ingParams (w : List Word) : Ingest :=
  { dmapAddr := argF w 7 31 6 * 64 + argF w 8 31 0 * 2 ^ 32, dmapCount := argF w 9 20 0,
    off := (List.range 4).map fun i => ofTwos 32 (argF w (10 + i) 31 0) }

/-- The arm parameters of ARM_RECORD. -/
def recParams (w : List Word) : RecParams :=
  let inter := argF w 2 25 25 = 1
  { head := argF w 2 20 11, region := argF w 2 24 21, port := argF w 2 28 26, coding := argF w 2 25 25,
    eT := argF w 3 15 0, eC := argF w 3 31 16, pqo := (List.range 4).map fun i => ofTwos 8 (argF w 4 (8 * i + 7) (8 * i)),
    gopLen := argF w 5 31 16, ltInt := argF w 5 15 0, maxRefs := if inter then argF w 6 10 8 else 1, refMode := argF w 6 7 6,
    gvSource := argF w 6 5 4, gvMinq := argF w 6 31 24, shareMul := argF w 6 23 16, bufPic := argF w 6 15 11, ing := ingParams w }

/-- Ingest parameters lie in their ranges for a layout. -/
def Ingest.ok (i : Ingest) (layout : Nat) : Bool :=
  decide (i.dmapCount ≤ 1048576) &&
    ((i.off.take (if layout = 2 then 3 else 4)).all fun o => decide (-65535 ≤ o ∧ o ≤ 65535))

/-- Record parameters lie in their ranges for a depth and layout (check 0x11). -/
def RecParams.ok (p : RecParams) (depth layout : Nat) : Bool :=
  decide (p.eT ≤ p.eC ∧ p.eC ≤ 2 ^ (depth - 3) - 1) &&
  ((p.pqo.take (if layout = 2 then 3 else 4)).all fun o => decide (-12 ≤ o ∧ o ≤ 12)) &&
  decide (1 ≤ p.shareMul ∧ 2 ≤ p.bufPic ∧ p.bufPic ≤ 16) && p.ing.ok layout &&
  (p.coding = 0 || decide (1 ≤ p.maxRefs ∧ p.maxRefs ≤ 4 ∧ p.refMode ≤ 2 ∧ (p.refMode ≠ 0 → 2 ≤ p.maxRefs) ∧ 1 ≤ p.ltInt))

/-! ## The checks (Table 3.5) -/

/-- The region that a record stream names, where its head declares it. -/
def Dev.regionDecl (d : Dev) (p : RecParams) : Option RegionDecl := d.regionOf p.head p.region

/-- Check 0x04. -/
def Dev.headOk (d : Dev) (p : RecParams) : Bool :=
  let x := d.head p.head
  d.hdState p.head = 4 && (x.run.all fun n => bankOf n = bankOf p.head) &&
    (match x.decl with
      | some h => decide (h.rate * 1000 + h.metaRate ≤ 5896 * d.hd p.head fHD_STAT_CARRY * 1000)
      | none => false) && (d.regionDecl p).isSome

/-- The domains of clusters. -/
def clusterDoms (cs : List Nat) : List Nat := cs.flatMap fun c => [1 + 4 * c, 2 + 4 * c, 3 + 4 * c, 4 + 4 * c, 0x59 + c]

/-- A domain's PG_PWR.REQ asks for off. -/
def Dev.askedOff (d : Dev) (n : Nat) : Bool := d.get .lehrPower 0 fLP_DOM_REQ n = 2

/-- A port has a mounted and recovered magazine. -/
def Dev.mounted (d : Dev) (m : Nat) : Bool :=
  d.get .mag m fMAG_STAT_STATE = 4 && (match (d.mag m).vol with
    | some v => v.recovered
    | none => false)

/-- ROLE of a port; 3 is taken as 2. -/
def Dev.role (d : Dev) (m : Nat) : Nat := min 2 (d.get .mag m fMAG_CFG_ROLE)

/-- A1 and A2 for every record stream of a list on a pace (R193). -/
def portTest (rm : Nat) (xs : List RecStream) : Bool :=
  let w := xs.foldl (fun a x => a + x.weight) 0
  xs.all fun x =>
    let ds := shareOf rm x.weight w
    x.a1 ds && decide (2 * x.ys ds ≤ x.bs)

/-- The record streams of a port other than slot `s`. -/
def Dev.portOthers (d : Dev) (m s : Nat) : List RecStream := ((d.portStreams m).filter fun p => p.1 ≠ s).map (·.2)

/-- Inter load of record parameters. -/
def RecParams.interLoad (p : RecParams) (g : RegionDecl) : Nat := if p.coding = 1 then g.rateSmp else 0

/-- Checks 0x04 to 0x0C of a record stream against the load of the other live streams: the first code that fails (0: none)
and the placement. -/
def Dev.recCap (d : Dev) (s : Nat) (p : RecParams) : Nat × List (Nat × Nat) :=
  match d.regionDecl p with
  | none => (4, [])
  | some g =>
    let rs := d.others s
    let q := bankQuad (bankOf p.head)
    let enc := g.rateSmp
    let inter := p.interLoad g
    let geo := g.geo
    let place := d.placeOn rs q enc inter geo.tcols
    let doms := [0x69 + bankOf p.head, 0x9B + p.port] ++ clusterDoms ((place.getD []).map (·.1))
    let quad := rs.filter fun r => r.quad = q
    let mes := (List.range 4).countP fun i => d.meWorking (4 * q + i)
    let working := ((List.range 4).map d.encWorking).foldl (· + ·) 0
    let pool := if p.coding = 1 then (p.maxRefs + 1) * geo.bufBytes else 0
    let code :=
      if !d.headOk p then 4
      else if doms.any d.askedOff then 5
      else if encUnit * d.encWorking q < sumResv quad (·.enc) + enc then 6
      else if meUnit * mes < sumResv quad (·.inter) + inter then 7
      else if encUnit * working < sumResv rs (·.enc) + enc then 8
      else if d.interLimit 80 < sumResv rs (·.inter) + inter then 9
      else if place.isNone then 10
      else if 40960 < sumResv rs (·.tctx) + geo.tcols * geo.trows then 11
      else if d.poolPrimary < sumResv rs (·.pool) + pool then 12
      else 0
    (code, place.getD [])

/-- Refuse an arm, or fail a recheck, with a check code. -/
def Dev.refuseArm (d : Dev) (s code : Nat) : Dev :=
  let d := (d.set .device 0 fDEV_ADMIT_REFUSE_STREAM s).set .device 0 fDEV_ADMIT_REFUSE_CHECK code
  d.setSlot s { d.slot s with check := code }

/-- The controller that serves in place of controller `c` (R235, R238). -/
def Dev.ctlFor (d : Dev) (c : Nat) : Nat :=
  let o := if c % 2 = 0 then c + 1 else c - 1
  if d.gafRuns c then c
  else if d.gafRuns o then o
  else ((List.range 8).find? d.gafRuns).getD c

/-! ## Arming a record stream (R53, R95, R97) -/

/-- Numbers from `k` on that do not occur in a rising list; `n` bounds the search. -/
def freeNums : Nat → Nat → Nat → List Nat → List Nat
  | 0, _, _, _ => []
  | n + 1, k, need, used =>
    if need = 0 then []
    else match used with
      | [] => k :: freeNums n (k + 1) (need - 1) []
      | u :: us => if u = k then freeNums n (k + 1) need us
                   else if u < k then freeNums n k need us
                   else k :: freeNums n (k + 1) (need - 1) (u :: us)

/-- Context numbers in use, rising. -/
def Dev.usedCtxs (d : Dev) : List Nat :=
  d.core.recs.foldl (fun a p => if (d.slot p.1).state.live then List.merge a p.2.ctxs (fun x y => decide (x ≤ y)) else a) []

/-- Reserve a context for a tile (Table 5.6). -/
def tileCtxAt (s r c : Nat) (g : Geo) : TileCtx :=
  { gen := 0, stream := s, state := 1, picture := 0, trow := r, tcol := c, wReal := g.wReal c, hReal := g.hReal r, absent := false,
    lines := 0, mask := 0, replaced := 0, clipped := 0, arrival := 0, bound := 0, budget := 0, coded := 0, qpBase := 0, maxErr := 0,
    sumSigned := 0, sumAbs := [0, 0, 0, 0], guards := 0 }

/-- A record stream as it stands when armed. -/
def newRec (p : RecParams) (hd : HeadDecl) (g : RegionDecl) (ds : Nat) (ctxs : List Nat) : RecStream :=
  { par := p, ingNext := none, hd := hd, decl := g, takeId := 0, ds := ds, dsNew := some ds, dsAt := 0,
    bs := min (p.bufPic * g.drainBytes ds) (2 ^ 30),
    xs := ((List.range g.geo.trows).map g.geo.xRow).foldl (· + ·) 0, hs := headerBytes hd.metaRate p.maxRefs g,
    ms := metaAllowance hd.metaRate g, f := 0, peak := 0, rung := 0, qadj := 0, downCnt := 0, lastGrant := 0, rowsStr := 0,
    rowsExh := 0, rowsAbs := 0, latMax := 0, ctxs := ctxs, pics := [], nextIdx := 0, firstPic := none, lastPic := none, refSet := [],
    ovf := [], ltPic := none, forceI := false, motion := [], prevMv := none, metaQ := [], metaDropped := 0, wAddr := 0, relAddr := 0,
    confAddr := 0, chunks := [], pieces := [], flush := false, idxPend := [], hdrDone := false, eosDone := false, picsDone := 0,
    picsMissing := 0, lastDone := 0, bytes := 0, volPort := none, snum := 0, moving := none, resume := 0, contDone := false, swapPic := none, flushTo := 0,
    drainAt := none }

/-- Judge ARM_RECORD: parameters first, then Table 3.5 in order, then the line-buffer pool. The result is the code that fails
(0: none) and, for a pass, the record stream, its placement and the device with its Cullet quota granted. -/
def Dev.judgeRecord (d : Dev) (s : Nat) (p : RecParams) : Nat × Option (RecStream × List (Nat × Nat) × Dev) :=
  let g? := d.regionDecl p
  let depth := (g?.map (·.d)).getD 16
  let layout := (g?.map (·.layout)).getD 0
  if !p.ok depth layout then (0x11, none)
  else if 1024 ≤ s ∨ (d.slot s).state ≠ .idle then (1, none)
  else if d.base ≠ 2 ∧ d.base ≠ 3 ∧ d.base ≠ 5 ∨ d.exchanging ∨ d.safeHold then (2, none)
  else if d.takeRuns then (3, none)
  else
    let c := d.recCap s p
    if c.1 ≠ 0 then (c.1, none)
    else match g?, (d.head p.head).decl with
      | some g, some hd =>
        let rm := d.portPace p.port
        let ot := d.portOthers p.port s
        let w := u_w p g
        let ds := shareOf rm w (ot.foldl (fun a x => a + x.weight) w)
        let ctxs := freeNums 81920 0 (g.geo.tcols * g.geo.trows) d.usedCtxs
        let x := newRec p hd g ds ctxs
        if !d.mounted p.port ∨ d.role p.port ≠ 0 ∨ !portTest rm (ot ++ [x]) then (13, none)
        else match d.grantQuota s (cdiv x.bs (2 ^ 21) + 1) with
          | none => (13, none)
          | some d' =>
            let used := d.core.recs.foldl (fun a e => if (d.slot e.1).state.live then a + e.2.decl.ringBytes else a) 0
            if 336 * 2 ^ 20 < used + g.ringBytes then (16, none) else (0, some (x, c.2, d'))
      | _, _ => (4, none)
where
  /-- The weight of the arming stream. -/
  u_w (p : RecParams) (g : RegionDecl) : Nat := g.mbps * p.shareMul

/-- The slot of a stream that is admitted. -/
def Dev.armSlot (d : Dev) (s prio ctl : Nat) (v : Resv) : Dev :=
  let d := d.setSlot s
    { state := .armed, reason := 0, closePend := none, check := 0, prio := prio, armSeq := d.core.armCount, ctl := ctl, inTake := false,
      resv := v }
  { d with core := { d.core with armCount := d.core.armCount + 1 } }

/-- ARM_RECORD: admission, and the reservations it makes. The second result is the check code. -/
def Dev.armRecord (d : Dev) (s prio : Nat) (p : RecParams) : Dev × Nat :=
  match d.judgeRecord s p with
  | (0, some (x, place, d')) =>
    let g := x.decl.geo
    let q := bankQuad (bankOf p.head)
    let doms := [0x69 + bankOf p.head, 0x9B + p.port] ++ clusterDoms (place.map (·.1))
    let v : Resv :=
      { quad := q, enc := x.decl.rateSmp, inter := p.interLoad x.decl, place := place, tctx := g.tcols * g.trows,
        pool := if p.coding = 1 then (p.maxRefs + 1) * g.bufBytes else 0, dec := 0, interDec := 0, pix := 0, port := p.port, doms := doms }
    let d := d'.armSlot s prio (d'.ctlFor (2 * q + s % 2)) v
    let d := d.setRec s x
    let d := d.setRing (12288 + s) { Ring.rest with en := true, paced := true, output := p.port, sizeLog2 := 15, owner := s }
    let d := (x.ctxs.zip (List.range x.ctxs.length)).foldl (fun (d : Dev) e =>
      { d with core := { d.core with tctx := tset d.core.tctx e.1 (tileCtxAt s (e.2 / g.tcols) (e.2 % g.tcols) g) } }) d
    (((d.recomputeDs p.port).refreshShort p.port).refreshArmed, 0)
  | (c, _) => (d.refuseArm s c, c)

/-! ## Ending streams (R49 to R52) -/

/-- The slot is reported in DEV_LAST_CLOSE. -/
def Dev.lastClose (d : Dev) (s reason : Nat) : Dev :=
  (d.set .device 0 fDEV_LAST_CLOSE_STREAM s).set .device 0 fDEV_LAST_CLOSE_REASON reason

/-- A tag gives up every hold it has on a chunk. -/
def Dev.releaseTag (d : Dev) (tag : Nat) : Dev :=
  (d.core.cullet.holds.filter fun p => p.2 = tag).foldl (fun (d : Dev) p => d.releaseHold p.1 tag) d

/-- A port's outstanding I/O is forgotten: the holds it keeps on chunks end. -/
def Dev.clearIos (d : Dev) (m : Nat) : Dev :=
  let x := d.mag m
  let free := fun (d : Dev) (h tag : Nat) => if d.core.cullet.holds.contains (h, tag) then d.releaseHold h tag else d
  let d := x.ios.foldl (fun (d : Dev) c => match c.kind with
    | .read s _ h => free d h s
    | .orphan h => free d h (magTag m)
    | .serve p _ _ h => free d h (0x1900 + p)
    | _ => d) d
  d.setMag m { x with ios := [] }

/-- A stream leaves its pieces: a write already issued still completes, and its chunk is held until then (R264). -/
def Dev.dropPieces (d : Dev) (s : Nat) : Dev :=
  match d.rec? s with
  | none => d
  | some x =>
    let d := x.pieces.foldl (fun (d : Dev) p =>
      let h := x.handleAt p.addr
      if p.issued && !p.done && d.core.cullet.holds.contains (h, magTag p.port) then
        if d.get .mag p.port fMAG_STAT_STATE = 4 then
          d.setMag p.port { d.mag p.port with ios := (d.mag p.port).ios ++ [⟨p.pair, p.cid, .orphan h, p.issuedAt, true⟩] }
        else d.releaseHold h (magTag p.port)
      else d) d
    d.setRec s { x with pieces := [] }

/-- Pipelines of the encode array drop a stream's tiles. -/
def Dev.dropEncJobs (d : Dev) (s : Nat) : Dev :=
  d.core.encs.foldl (fun (d : Dev) e => match e.2.job with
    | some (s', _) => if s' = s then d.freePipe e.1 else d
    | none => d) d

/-- Pipelines of the decode array drop a stream's tiles. -/
def Dev.dropDecJobs (d : Dev) (s : Nat) : Dev :=
  d.core.decp.foldl (fun (d : Dev) e => match e.2.job with
    | some (s', _) => if s' = s then (d.setDecp e.1 { e.2 with job := none }).set .dec e.1 fMC_STAT_BUSY 0 else d
    | none => d) d

/-- A record stream's reservations are released: quota, ring, buffers, pictures. Its contexts stay readable. -/
def Dev.freeRecord (d : Dev) (s : Nat) : Dev :=
  match d.rec? s with
  | none => d
  | some _ =>
    let d := ((d.dropPieces s).dropEncJobs s).freeGranules s fun _ => false
    let d := (d.releaseTag s).dropQuota s
    let d := d.setRing (12288 + s) { d.ring (12288 + s) with en := false, inCal := false, active := false, parked := false, ents := [] }
    match d.rec? s with
    | none => d
    | some x =>
      let d := d.setRec s { x with pics := [], refSet := [], metaQ := [], chunks := [], idxPend := [] }
      (d.recomputeDs x.par.port).refreshShort x.par.port

/-- A decode stream's chunks, buffers and pipelines are released. -/
def Dev.freeDecode (d : Dev) (s : Nat) : Dev :=
  match d.dec? s with
  | none => d
  | some x =>
    let d := ((d.dropDecJobs s).releaseTag s).dropQuota s
    d.setDec s { x with refSet := [], cur := none, outs := [], buf := [], units := [], chunk := none }

/-- Release whatever a slot holds, by its kind. -/
def Dev.freeSlot (d : Dev) (s : Nat) : Dev :=
  if s < 1024 then d.freeRecord s
  else if s < 1280 then d.freeDecode s
  else match d.proxy? s with
    | some x => d.setProxy s { x with cur := none }
    | none => d

/-- A stream reaches CLOSED or FAULTED: its reservation is released and reported (R49, R53). -/
def Dev.endStream (d : Dev) (s : Nat) (st : SState) (reason : Nat) : Dev :=
  let sl := d.slot s
  if !sl.state.live then d
  else
    let d := d.setSlot s { sl with state := st, reason := reason, closePend := none, resv := Resv.none }
    let d := (d.freeSlot s).lastClose s reason
    let d := if st = .faulted then d.statBit .device 0 2 else d
    d.refreshArmed

/-- A stream returns to IDLE without closing: a disarm, a failed recheck, a capacity close of an ARMED stream. -/
def Dev.backToIdle (d : Dev) (s check : Nat) : Dev :=
  let d := d.setSlot s { d.slot s with state := .closed, resv := Resv.none }
  let d := d.freeSlot s
  let d := d.setSlot s { Slot.idle with check := check }
  let d := { d with core := { d.core with
    recs := d.core.recs.filter (fun p => p.1 ≠ s), decs := d.core.decs.filter (fun p => p.1 ≠ s),
    proxies := d.core.proxies.filter (fun p => p.1 ≠ s),
    take := d.core.take.map fun (t : Take) => { t with slots := t.slots.filter (· ≠ s) } } }
  d.refreshArmed

/-- Every stream of the take has reached CLOSED or FAULTED. -/
def Dev.takeOver (d : Dev) : Bool := match d.core.take with
  | some t => t.slots.all fun s => !(d.slot s).state.live
  | none => false

/-- The take of a volume that stands for the take `t`, while it is open. -/
def Vol.openTake? (v : Vol) (takeId : Nat) : Option VolTake :=
  v.takes.find? fun u => decide (u.takeId = takeId ∧ u.device = Config.deviceSerial ∧ u.state = 1)

/-- The confirmed end of a volume's stream on port `m`. -/
def Dev.confOf (d : Dev) (m snum : Nat) : Option Nat :=
  match d.core.recs.find? fun p => decide (p.2.volPort = some m ∧ p.2.snum = snum) with
  | some p => some p.2.confAddr
  | none => (d.core.hosted.find? fun h => decide (h.port = m ∧ h.snum = snum)).map (·.conf)

/-- Change the volume of a port. -/
def Dev.modVol (d : Dev) (m : Nat) (f : Vol → Vol) : Dev :=
  let x := d.mag m
  match x.vol with
  | some v => d.setMag m { x with vol := some (f v) }
  | none => d

/-- The ports with a mounted and recovered volume. -/
def Dev.mountedPorts (d : Dev) : List Nat := (List.range 8).filter d.mounted

/-- The take ends (R57, R302): its entries are closed and committed on every volume, and when the commits are complete TAKE_STATE
becomes 4. -/
def Dev.takeEnd (d : Dev) : Dev :=
  match d.core.take with
  | none => d
  | some t =>
    if !d.takeRuns || !d.takeOver then d
    else
      let d := d.mountedPorts.foldl (fun (d : Dev) m => match (d.mag m).vol with
        | some v => match v.openTake? t.id with
          | some u => d.modVol m fun v => (v.closeTake d.free u.num 2 d.now).checkpointNow d.free (d.confOf m)
          | none => d
        | none => d) d
      if d.mountedPorts.any fun m => match (d.mag m).vol with
          | some v => v.checkpoint && v.takes.any fun u => decide (u.takeId = t.id ∧ u.device = Config.deviceSerial)
          | none => false
      then d
      else
        let d := { d with core := { d.core with take := none, slots := d.core.slots.map fun (p : Nat × Slot) => (p.1, { p.2 with inTake := false }) } }
        d.setTakeState 4

/-- Close a stream now (close command, R47, Table 3.3): ARMED streams that have written nothing close at once, others drain. -/
def Dev.closeNow (d : Dev) (s reason : Nat) : Dev :=
  let sl := d.slot s
  match sl.state with
  | .armed =>
    if s < 1024 ∧ sl.inTake then d.drainStream s reason else d.endStream s .closed reason
  | .running =>
    if s < 1024 then d.drainStream s reason
    else d.setSlot s { sl with state := .draining, reason := reason, closePend := none }
  | _ => d

/-- Close a stream at its next picture boundary; an ARMED one as `closeNow` does. -/
def Dev.closeLater (d : Dev) (s reason : Nat) : Dev :=
  let sl := d.slot s
  match sl.state with
  | .running => if sl.closePend.isSome then d else d.setSlot s { sl with closePend := some reason }
  | .armed => d.closeNow s reason
  | _ => d

/-! ## Closing for lost capacity (R58) -/

/-- Order of closing: lowest priority first, most recently armed first. -/
def Dev.closeOrder (d : Dev) (cs : List Nat) : List Nat :=
  cs.mergeSort fun a b =>
    let x := d.slot a
    let y := d.slot b
    decide (x.prio < y.prio ∨ (x.prio = y.prio ∧ y.armSeq ≤ x.armSeq))

/-- A capacity close of one stream. -/
def Dev.capClose (d : Dev) (s code : Nat) : Dev :=
  let d := (d.bump .device 0 fDEV_CLOSE_CNT_CAPACITY).statBit .device 0 3
  if (d.slot s).state = .armed then (d.backToIdle s code).refuseArm s code else d.closeLater s 3

/-- Live streams whose capacity close is not yet under way, in ascending slot. -/
def Dev.staying (d : Dev) : List (Nat × Slot) := d.liveSlots.filter fun p => p.2.closePend ≠ some 3

/-- Close candidates in order until the remaining load fits. -/
def Dev.closeUntil (fits : Dev → Bool) (code : Nat) : List Nat → Dev → Dev
  | [], d => d
  | s :: ss, d => if fits d then d else Dev.closeUntil fits code ss (d.capClose s code)

/-- Placements of the streams that stay in a quadrant, in ascending slot, each after those before it; none: one has no place. -/
def Dev.replace (d : Dev) (q : Nat) : Option (List (Nat × List (Nat × Nat))) :=
  (d.staying.filter fun p => decide (p.1 < 1024) && decide (p.2.resv.quad = q)).foldl (fun a p => match a with
    | none => none
    | some (done : List (Nat × List (Nat × Nat))) =>
      let rs := done.map fun e => { (d.slot e.1).resv with place := e.2 }
      (d.placeOn rs q p.2.resv.enc p.2.resv.inter p.2.resv.cols).map fun pl => done ++ [(p.1, pl)]) (some [])

/-- Re-place the survivors of a quadrant. -/
def Dev.replaceQuad (d : Dev) (q : Nat) : Dev :=
  match d.replace q with
  | none => d
  | some l => l.foldl (fun (d : Dev) e =>
      let sl := d.slot e.1
      let base := [0x69 + bankOf (((d.rec? e.1).map (·.par.head)).getD 0), 0x9B + sl.resv.port]
      d.setSlot e.1 { sl with resv := { sl.resv with place := e.2, doms := base ++ clusterDoms (e.2.map (·.1)) } }) d

/-- The load that stays fits a quadrant and the device. -/
def Dev.quadFits (d : Dev) (q : Nat) : Bool :=
  let rs := d.staying.map (·.2.resv)
  let quad := rs.filter fun r => r.quad = q
  let working := ((List.range 4).map d.encWorking).foldl (· + ·) 0
  decide (sumResv quad (·.enc) ≤ encUnit * d.encWorking q) &&
  decide (sumResv quad (·.inter) ≤ meUnit * (List.range 4).countP fun i => d.meWorking (4 * q + i)) &&
  decide (sumResv rs (·.enc) ≤ encUnit * working) && (d.replace q).isSome

/-- Capacity lost in a quadrant's encode array; `interOnly` for a motion search engine. -/
def Dev.capQuad (d : Dev) (q : Nat) (interOnly : Bool) : Dev :=
  let cs := (d.staying.filter fun p =>
    decide (p.1 < 1024 ∧ p.2.resv.quad = q) && (!interOnly || decide (p.2.resv.inter ≠ 0)) &&
      decide (p.2.state ≠ .draining)).map (·.1)
  (Dev.closeUntil (fun d => d.quadFits q) (if interOnly then 7 else 6) (d.closeOrder cs) d).replaceQuad q

/-- Capacity lost in the decode array. -/
def Dev.capDecode (d : Dev) : Dev :=
  let cs := (d.staying.filter fun p => decide (p.2.resv.dec ≠ 0 ∧ p.2.state ≠ .draining)).map (·.1)
  Dev.closeUntil (fun d => decide (sumResv (d.staying.map (·.2.resv)) (·.dec) ≤ decUnit * d.decWorking)) 14 (d.closeOrder cs) d

/-- A DDR5 channel lost: the inter limits of R10 fall. -/
def Dev.capChannel (d : Dev) : Dev :=
  let cs := (d.staying.filter fun p =>
    decide ((p.2.resv.inter ≠ 0 ∨ p.2.resv.interDec ≠ 0) ∧ p.2.state ≠ .draining)).map (·.1)
  Dev.closeUntil (fun d =>
    let rs := d.staying.map (·.2.resv)
    decide (sumResv rs (·.inter) ≤ d.interLimit 80) && decide (sumResv rs (·.interDec) ≤ d.interLimit 40)) 9 (d.closeOrder cs) d

/-! ## Takes (R56, R57) -/

/-- The volume of a port has a take number and stream numbers left for its streams (R302). -/
def Dev.volRoom (d : Dev) (m : Nat) : Bool := match (d.mag m).vol with
  | some v => decide (v.takes.length < 4096 ∧ v.streams.length + (d.portStreams m).length ≤ 65536)
  | none => false

/-- The recheck of an armed stream of a take: checks 0x04 to 0x0D. -/
def Dev.recheck (d : Dev) (s : Nat) : Nat :=
  match d.rec? s with
  | none => 4
  | some x =>
    let c := (d.recCap s x.par).1
    if c ≠ 0 then c
    else if (d.head x.par.head).decl ≠ some x.hd then 4
    else if !d.mounted x.par.port ∨ d.role x.par.port ≠ 0 ∨
        !portTest (d.portPace x.par.port) ((d.portStreams x.par.port).map (·.2)) ∨ !d.volRoom x.par.port then 13
    else 0

/-- TAKE_START: the second result is false when ALL_OR_NONE refuses it, with the check code (R56). -/
def Dev.takeStart (d : Dev) (tStart : Nat) (allOrNone : Bool) : Dev × Nat :=
  let armed := (d.core.slots.filter fun p => decide (p.1 < 1024) && decide (p.2.state = .armed)).map (·.1)
  let bad := armed.map fun s => (s, d.recheck s)
  match bad.find? fun p => p.2 ≠ 0 with
  | some (s, c) =>
    if allOrNone then (d.refuseArm s c, c) else (begin_ d (bad.filter fun p => p.2 ≠ 0) ((bad.filter fun p => p.2 = 0).map (·.1)), 0)
  | none => (begin_ d [] armed, 0)
where
  /-- Start the take with the streams that pass. -/
  begin_ (d : Dev) (bad : List (Nat × Nat)) (ok : List Nat) : Dev :=
    let d := bad.foldl (fun (d : Dev) p => (d.backToIdle p.1 p.2).refuseArm p.1 p.2) d
    let id := (d.get .device 0 fDEV_TAKE_TAKE_ID + 1) % 65536
    let id := if id = 0 then 1 else id
    let d := { d with core := { d.core with take := some ⟨id, tStart, none, ok⟩ } }
    let d := ok.foldl (fun (d : Dev) s =>
      let d := d.setSlot s { d.slot s with inTake := true }
      match d.rec? s with
      | some x => d.setRec s { x with takeId := id }
      | none => d) d
    let d := (d.set .device 0 fDEV_TAKE_TAKE_ID id).set .device 0 fDEV_TAKE_STREAMS ok.length
    (d.setTakeState 2).takeEnd

/-- The stop time has come: the take's streams drain, unless an exchange runs (Table 3.7 case 4). -/
def Dev.takeDrain (d : Dev) : Dev :=
  match d.core.take with
  | some t =>
    (match t.tStop with
      | some ts =>
        if ts ≤ d.now ∧ !d.exchanging then t.slots.foldl (fun (d : Dev) s => d.drainStream s 1) d else d
      | none => d)
  | none => d

/-- TAKE_STOP records its time (R57). -/
def Dev.takeStop (d : Dev) (tStop : Nat) : Dev :=
  match d.core.take with
  | some t =>
    let d := { d with core := { d.core with take := some { t with tStop := some tStop } } }
    (d.setTakeState 3).takeDrain
  | none => d

end Sys2Proof.Machine
end

