-- ==== Sys2Proof/Machine/DecodeOps.lean ====
section
/-! DEFINITION. Decode, verify, review and offload streams (chapter 10 and R286): admission, the units read, tiles on the decode
array, damage, verify outcomes, release and the outputs. -/
namespace Sys2Proof.Machine

/-! ## Paces and read reservations (R278, R279, R413) -/

/-- GT/s of a link speed code, in tenths. -/
def gtsTenths (code : Nat) : Nat := [0, 25, 50, 80, 160, 320, 640].getD code 0

/-- base_m: the port's rate less 1 % for its own structures (R278). -/
def Dev.baseOf (d : Dev) (m : Nat) : Nat :=
  let l := 58000 * 2 ^ d.get .mag m fMAG_STAT_WIDTH * gtsTenths (d.get .mag m fMAG_STAT_SPEED) / 640
  min (10 * d.get .mag m fMAG_CFG_PACE_10M) l * 99 / 100

/-- READ_m: the read reservations on a port, without slot `s` (R278). -/
def Dev.readSum (d : Dev) (m s : Nat) : Nat :=
  (d.core.decs.foldl (fun a p =>
    if p.1 ≠ s ∧ p.2.par.source = 0 ∧ p.2.port = m ∧ (d.slot p.1).state.live then a + p.2.par.rate else a) 0) +
  d.core.served.foldl (fun a v => if v.port = m then a + v.rate else a) 0

/-- R_m with a read sum. -/
def Dev.paceWith (d : Dev) (m rd : Nat) : Nat := d.baseOf m - d.get .mag m fMAG_CFG_RD_COST * rd / 16

/-- R279: a read reservation fits a port. -/
def Dev.readFits (d : Dev) (m s rate : Nat) : Bool :=
  let rd := d.readSum m s + rate
  if d.role m = 2 then decide (rd ≤ d.baseOf m)
  else
    let xs := (d.portStreams m).map (·.2)
    let w := xs.foldl (fun a x => a + x.weight) 0
    xs.all fun x => x.a1 (shareOf (d.paceWith m rd) x.weight w)

/-- Mean rate of a stored stream (R413). -/
def VolStream.meanRate (v : VolStream) (endA num den : Nat) : Nat :=
  let pics := picAhead (v.lastPic + 1) v.firstPic
  if pics = 0 ∨ den = 0 then 0 else cdiv ((endA - v.startAddr) * 8 * num) (pics * den * 1000000)

/-! ## Headers -/

/-- Read a Stream Header body (Table 8.4). -/
def parseSrcHdr (b : List Byte) : SrcHdr :=
  let f := fun (o k : Nat) => fieldLe b o k
  { ver := f 0 2, slot := f 2 2, takeId := f 4 2, region := f 6 1, cfa := f 7 1, d := f 24 1, coding := f 25 1, maxRefs := f 26 1,
    w := f 28 2, h := f 30 2, num := f 32 4, den := f 36 4, eT := f 40 2, pqo := (List.range 4).map fun i => ofTwos 8 (f (44 + i) 1),
    firstPic := f 60 3 }

/-- Read a Picture Header body (Table 8.5). -/
def parsePicHdr (b : List Byte) : PicHdr :=
  let f := fun (o k : Nat) => fieldLe b o k
  { pic := f 0 3, isP := f 4 1 = 1, nref := f 5 1, pflags := f 6 1, t0 := f 8 8, timecode := f 16 4, refA := f 20 3, refB := f 24 3,
    gmv := (ofTwos 16 (f 28 2), ofTwos 16 (f 30 2)),
    keep := (List.range (f 7 1)).map fun i => (f (60 + 4 * i) 3, (f (63 + 4 * i) 1) % 2 = 1) }

/-- Geometry of a source. -/
def SrcHdr.geo (h : SrcHdr) : Geo := ⟨h.cfa / 16, h.cfa % 4, h.d, h.w, h.h⟩

/-- A unit of 16 + LENGTH bytes is valid (R165, R166). -/
def unitValid (u : List Byte) : Bool :=
  let n := fieldLe u 8 4
  decide (fieldLe u 0 4 = 0x57564331 ∧ n % 4 = 0 ∧ n ≤ 2 ^ 28 ∧ u.length = 16 + n ∧ fieldLe u (12 + n) 4 = crc32c (u.take (12 + n)))
/-- The body size of a type other than Tile Row is the one that R165 fixes. -/
def unitSizeOk (u : List Byte) : Bool :=
  let n := fieldLe u 8 4
  match fieldLe u 4 1 with
  | 1 => decide (n = 80)
  | 2 => decide (n = 60 + 4 * fieldLe u 19 1)
  | 4 => decide (n = 72)
  | 5 => decide (n = roundUp (16 + fieldLe u 18 2) 4)
  | 15 => decide (n = 40)
  | _ => true

/-- The Stream Header that stands for a record stream at work. -/
def RecStream.srcHdr (x : RecStream) (s : Nat) : SrcHdr :=
  { ver := 0x0100, slot := s, takeId := x.takeId, region := x.par.region, cfa := x.decl.cfa, d := x.decl.d, coding := x.par.coding,
    maxRefs := x.par.maxRefs, w := x.decl.w, h := x.decl.h, num := x.decl.num, den := x.decl.den, eT := x.par.eT, pqo := x.par.pqo,
    firstPic := x.firstPic.getD 0 }

/-- The header at the front of the bytes that the arm read (check 0x12). -/
def readSrcHdr (b : List Byte) : Option SrcHdr :=
  let u := b.take 96
  let h := parseSrcHdr ((u.drop 12).take 80)
  if unitValid u ∧ fieldLe u 4 1 = 1 ∧ h.ver / 256 = 1 ∧ h.w ≠ 0 ∧ h.h ≠ 0 ∧ h.num ≠ 0 ∧ h.den ≠ 0 then some h else none

/-! ## Sources -/

/-- The volume stream that a reading stream reads: by take and record slot among this device's takes (R302). -/
def Dev.findStored (d : Dev) (m takeId slot : Nat) : Option VolStream :=
  (d.mag m).vol.bind fun v => v.streams.find? fun s =>
    decide (s.slot = slot) && v.takes.any fun t => decide (t.num = s.take ∧ t.takeId = takeId ∧ t.device = Config.deviceSerial)

/-- Does a decode stream read a record stream at work (verify, review of the running take)? -/
def Dev.liveSource (d : Dev) (x : DecStream) : Option RecStream :=
  if x.par.offload ∨ x.par.source ≠ 0 then none
  else match d.rec? x.par.recStream with
    | some r => if (x.par.verify || decide (r.takeId = x.par.takeId)) && (d.slot x.par.recStream).state.live then some r else none
    | none => none

/-- Where the source's bytes end now: the confirmed end of a stream at work, the end of a stored one. -/
def Dev.sourceEnd (d : Dev) (x : DecStream) : Nat :=
  match d.liveSource x with
  | some r => r.confAddr
  | none => match (d.mag x.port).vol.bind (·.stream? x.snum) with
    | some v => if v.nextVol ≠ 0 then v.endAddr else
        max v.endAddr ((d.confOf x.port x.snum).getD 0)
    | none => 0

/-- A source moves to its continuation (R213, R286, R303): the port whose volume follows, with the stream that opens there. -/
def Dev.nextSource (d : Dev) (x : DecStream) : Option (Nat × Nat) :=
  match d.liveSource x with
  | some r => r.volPort.bind fun m => if m = x.port ∧ r.snum = x.snum then none else some (m, r.snum)
  | none =>
    (d.mag x.port).vol.bind fun v => (v.stream? x.snum).bind fun s =>
      if s.nextVol = 0 ∨ x.rAddr < s.endAddr then none
      else (d.mountedPorts.find? fun m => ((d.mag m).vol.map (·.id)) = some s.nextVol).bind fun m =>
        ((d.mag m).vol.bind fun w => w.streams.find? fun t => decide (t.prevVol = v.id ∧ t.slot = s.slot ∧ t.startAddr = s.endAddr)).map
          fun t => (m, t.snum)

/-! ## Admission (R204, R205, Table 3.5) -/

/-- The arm parameters of ARM_DECODE. -/
def decParams (w : List Word) (base : Nat) : DecParams :=
  { source := argF w 2 28 27, srcId := argF w 2 26 24, takeId := argF w 3 31 16, recStream := argF w 3 9 0, first := argF w 4 23 0,
    last := argF w 5 23 0, pace := argF w 2 23 23 = 1, tPlay := argF w 6 31 0 + 2 ^ 32 * argF w 7 31 0, rateGs := argF w 8 12 0,
    dest := argF w 2 21 18, proxySlot := argF w 8 31 21, format := argF w 2 22 22, verifyEvery := argF w 4 31 24,
    srcRing := argF w 9 29 16, outRing := argF w 9 13 0, verify := argF w 2 18 18 = 1, review := base = 5, offload := false,
    offPeer := none, rate := 0 }

/-- A host descriptor ring is enabled with HOST_MEM = 1 (R254). -/
def Dev.hostRing (d : Dev) (n : Nat) : Bool := 8192 ≤ n ∧ n < 12288 ∧ (d.ring n).en ∧ (d.ring n).hostMem

/-- Ranges of Table 10.1 (check 0x11). -/
def Dev.decParamsOk (d : Dev) (p : DecParams) : Bool :=
  decide (p.source ≤ 2 ∧ (p.source = 1 → p.srcId ≤ 2) ∧ p.dest ≠ 0) && (p.pace || decide (1 ≤ p.rateGs ∧ p.rateGs ≤ 6400)) &&
  (p.dest / 2 % 2 = 0 || decide (1280 ≤ p.proxySlot ∧ p.proxySlot ≤ 1535)) && (!p.verify || decide (1 ≤ p.verifyEvery)) &&
  (p.dest / 4 % 2 = 0 || d.hostRing p.outRing) && (p.source ≠ 2 || d.hostRing p.srcRing)

/-- A decode stream as it stands when armed. -/
def newDec (p : DecParams) (h : SrcHdr) (port snum start : Nat) : DecStream :=
  { par := p, hdr := h, port := port, snum := snum, rAddr := start, buf := [], addr := start, expect := none, started := false,
    refSet := [], cur := none, outs := [], chunk := none, lastPic := 0, done := 0, bytes := 0, eos := false, dmg := none, units := [],
    srcBuf := 0, lastRel := 0, ovf := 0, reading := false, jumps := 0, pair := 0 }

/-- Does the mode in force permit a decode stream with these parameters (Table 3.1)? -/
def modePermitsDec (m : Nat) (p : DecParams) : Bool :=
  match m with
  | 3 => p.verify && decide (p.dest = 1)
  | 4 => p.pace && !p.verify
  | 5 => !p.verify
  | 6 => !p.pace && !p.verify && decide (p.dest < 8)
  | _ => false

/-- The read reservation of a decode stream (Table 14.6). -/
def Dev.decRate (d : Dev) (p : DecParams) (h : SrcHdr) (live : Option RecStream) (v : Option VolStream) : Nat :=
  match live with
  | some r => if p.verify then cdiv r.dsNow (if r.par.coding = 1 then 1 else p.verifyEvery) else r.dsNow
  | none =>
    let mean := if p.source = 1 then Config.partnerRate p.takeId p.recStream
      else (v.map fun s => s.meanRate (max s.endAddr ((d.confOf p.srcId s.snum).getD 0)) h.num h.den).getD 0
    if p.pace then mean else cdiv (mean * p.rateGs * 10000000 * h.den) (h.w * h.h * h.num)

/-- Decode load in samples per second (R205). -/
def decLoad (p : DecParams) (h : SrcHdr) : Nat :=
  let smp := cdiv (h.w * h.h * h.num) h.den
  if p.verify then cdiv smp (if h.coding = 1 then 1 else p.verifyEvery) else if p.pace then smp else p.rateGs * 10000000

/-- The pairs that carry reads of a port with `q` pairs (R274). -/
def readPairs (q : Nat) : List Nat := (List.range (q - q / 2)).map (q / 2 + 1 + ·)

/-- The least-loaded read pair of a port (R274): the one with the fewest reading streams, the lowest among equals. -/
def Dev.leastPair (d : Dev) (m : Nat) : Nat :=
  let load := fun (k : Nat) => d.core.decs.countP fun p => p.2.par.source = 0 && decide (p.2.port = m ∧ p.2.pair = k) && (d.slot p.1).state.live
  (readPairs (d.get .mag m fMAG_STAT_QPAIRS)).foldl (fun a k => if a = 0 ∨ load k < load a then k else a) 0

/-- Make a decode slot live. -/
def Dev.placeDec (d : Dev) (s prio : Nat) (x : DecStream) (v : Resv) : Dev :=
  (d.armSlot s prio (d.ctlFor (s % 8)) v).setDec s { x with pair := if x.par.source = 0 then d.leastPair x.port else 0 }

/-- The domain a decode stream's source needs: its magazine port or its peer port; a host source needs none. -/
def srcDoms (source id : Nat) : List Nat := if source = 0 then [0x9B + id] else if source = 1 then [0xA3 + id] else []

/-- ARM_DECODE: `bytes` is what the read of the source's Stream Header returned. The second result is the check code. -/
def Dev.armDecode (d : Dev) (s prio : Nat) (p : DecParams) (bytes : Option (List Byte)) : Dev × Nat :=
  let no := fun (c : Nat) => (d.refuseArm s c, c)
  let live := if p.source ≠ 0 then none else match d.rec? p.recStream with
    | some r => if (d.slot p.recStream).state.live ∧ (p.verify ∨ r.takeId = p.takeId) then some r else none
    | none => none
  let port := if p.source ≠ 0 then p.srcId else (live.map (·.par.port)).getD p.srcId
  let stored := if p.source ≠ 0 then none else d.findStored p.srcId p.takeId p.recStream
  let hdr? := match live with
    | some r => some (r.srcHdr p.recStream)
    | none => bytes.bind readSrcHdr
  if !d.decParamsOk p then no 0x11
  else if s < 1024 ∨ 1280 ≤ s ∨ (d.slot s).state ≠ .idle then no 1
  else if !modePermitsDec d.base p ∨ d.exchanging ∨ d.safeHold ∨ (p.verify ∧ (live.isNone ∨ d.takeRuns)) then no 2
  else if (srcDoms p.source port).any d.askedOff then no 5
  else if p.source = 0 ∧ d.get .mag port fMAG_STAT_STATE ≠ 4 then no 13
  else match hdr? with
    | none => no 0x12
    | some h =>
      let g := h.geo
      let pool := (if h.coding = 1 then h.maxRefs + 1 else 2) * g.bufBytes
      let rs := d.others s
      let load := decLoad p h
      let inter := if h.coding = 1 then load else 0
      let p := { p with rate := d.decRate p h live stored, verifyEvery := if h.coding = 1 then 1 else p.verifyEvery }
      if d.poolPrimary < sumResv rs (·.pool) + pool then no 12
      else if p.source = 0 ∧ !d.readFits port s p.rate then no 13
      else if decUnit * d.decWorking < sumResv rs (·.dec) + load ∨ d.interLimit 40 < sumResv rs (·.interDec) + inter then no 14
      else if p.source = 0 ∧ live.isNone ∧ stored.isNone then no 0x12
      else
        let start := if p.source ≠ 0 then 0 else match live, stored with
          | none, some v => (((v.index.filter fun e => decide (picAhead p.first e.1 < 2 ^ 23)).getLast?).map (·.2.1)).getD v.startAddr
          | _, _ => 0
        let x := newDec p h port ((stored.map (·.snum)).getD 0) start
        let v : Resv :=
          { Resv.none with quad := 4, pool := pool, dec := load, interDec := inter, port := port, doms := srcDoms p.source port }
        if p.verify then
          match ((d.grantQuota s 1).getD d).allocChunk s 4 true with
          | (d', none) => (d'.refuseArm s 0x13, 0x13)
          | (d', some c) => (d'.placeDec s prio { x with chunk := some c } v, 0)
        else (d.placeDec s prio x v, 0)

/-- ARM_OFFLOAD (R286). -/
def Dev.armOffload (d : Dev) (s prio port takeId recStream rate outRing : Nat) (peer : Option Nat) (bytes : Option (List Byte)) :
    Dev × Nat :=
  let no := fun (c : Nat) => (d.refuseArm s c, c)
  if peer.isNone ∧ !d.hostRing outRing ∨ peer = some 3 then no 0x11
  else if s < 1024 ∨ 1280 ≤ s ∨ (d.slot s).state ≠ .idle then no 1
  else if d.base ≠ 7 ∨ d.exchanging ∨ d.safeHold then no 2
  else if d.askedOff (0x9B + port) then no 5
  else if d.get .mag port fMAG_STAT_STATE ≠ 4 ∨ !d.readFits port s rate then no 13
  else match bytes.bind readSrcHdr, d.findStored port takeId recStream with
    | some h, some v =>
      let p : DecParams :=
        { source := 0, srcId := port, takeId := takeId, recStream := recStream, first := 0, last := 0xFFFFFF, pace := false, tPlay := 0,
          rateGs := 0, dest := 0, proxySlot := 0, format := 0, verifyEvery := 1, srcRing := 0, outRing := outRing, verify := false,
          review := false, offload := true, offPeer := peer, rate := rate }
      (d.placeDec s prio { newDec p h port v.snum v.startAddr with started := true }
        { Resv.none with quad := 4, port := port, doms := [0x9B + port] }, 0)
    | _, _ => no 0x12

/-! ## Damage (R212) -/

/-- The decode pipeline that reports damage found outside a tile: the lowest-numbered working one. -/
def Dev.lowDec (d : Dev) : Nat := ((List.range 16).findSome? d.decFor).getD 0

/-- A stream is damaged: it stops, its report is held, and it reaches FAULTED. -/
def Dev.damage (d : Dev) (s pipe : Nat) (r : Damage) : Dev :=
  match d.dec? s with
  | none => d
  | some x =>
    let d := d.bump .dec pipe fDEC_DMG_CNT_DAMAGE
    let held := (fPG_STAT_BLOCK.ext (d.reg ((0xF0 + pipe) * 4096 + 0xC))).testBit 0
    let d := if held then d else
      let d := (d.set .dec pipe fDEC_DMG0_CAUSE r.cause).set .dec pipe fDEC_DMG0_STREAM s
      let d := (d.set .dec pipe fDEC_DMG1_PICTURE r.pic).set .dec pipe fDEC_DMG3_DETAIL r.detail
      (d.set .dec pipe fDEC_DMG2_TROW r.trow).set .dec pipe fDEC_DMG2_TCOL r.tcol
    let d := d.statBit .dec pipe 0
    let d := if x.par.verify then d.raise (1659 + 3 * pipe) (0x400 + pipe) 5 s r.pic else d
    let d := d.setDec s { x with dmg := some r }
    let d := d.lower .memctl 0 fRP_OVF_USED_NOW x.ovf
    (d.endStream s .faulted 7).assertEvt (64 + pipe)

/-- Every tile of a picture is reconstructed. -/
def DecPic.tilesDone (p : DecPic) : Bool := p.rows.all fun r => r.bad.isNone && r.tiles.all fun t => t.stage = 2

/-- The first damage of a picture in unit and column order, once every tile before it is done. -/
def DecPic.firstBad (p : DecPic) : Option (Nat × Nat × Nat × Nat) :=
  let rows := p.rows.zip (List.range p.rows.length)
  let ev := rows.flatMap fun r =>
    (match r.1.bad with
      | some (c, det) => [(3, r.2, 0x7F, c, det)]
      | none => []) ++
    ((r.1.tiles.zip (List.range r.1.tiles.length)).map fun t => (t.1.stage, r.2, t.2, t.1.cause, t.1.detail))
  match ev.find? fun e => e.1 ≠ 2 with
  | some (3, r, c, cause, det) => some (r, c, cause, det)
  | _ => none

/-- Report damage that is next in order: of the picture in hand, else of the unit met after it. -/
def Dev.decSettle (d : Dev) (s : Nat) : Dev :=
  match d.dec? s with
  | none => d
  | some x =>
    if !(d.slot s).state.live then d
    else match x.cur with
      | some p => match p.firstBad with
        | some (r, c, cause, det) => d.damage s d.lowDec ⟨p.hdr.pic, r, c, cause, det⟩
        | none => (match x.dmg with
          | some m => if p.tilesDone then d.damage s d.lowDec m else d
          | none => d)
      | none => match x.dmg with
        | some m => d.damage s d.lowDec m
        | none => d

/-! ## Reading units (R165 to R171) -/

/-- The header rules of a Tile Row body (Table 8.12): the bound and each tile's place, or the offset at fault. -/
def tileRowHead (g : Geo) (pic row : Nat) (body : List Byte) : Except Nat (Nat × List (Nat × Nat)) :=
  let bound := fieldLe body 6 2
  let nt := fieldLe body 8 2
  if body.length < 16 ∨ fieldLe body 0 3 ≠ pic ∨ fieldLe body 3 1 ≠ 0 ∨ fieldLe body 4 2 ≠ row then .error 0
  else if fieldLe body 14 2 ≠ 0 then .error 14
  else if 2 ^ (g.d - 3) ≤ bound ∧ bound < 0xFFFE then .error 6
  else if bound = 0xFFFE then (if nt ≠ 0 then .error 8 else if body.length ≠ 16 then .error 16 else .ok (bound, []))
  else if nt ≠ g.tcols then .error 8
  else
    let lens := (List.range nt).map fun c => fieldLe body (16 + 4 * c) 4
    if body.length ≠ 16 + 4 * nt + lens.foldl (· + ·) 0 ∨ lens.any (fun l => l % 4 ≠ 0) then .error 16
    else .ok (bound, (List.range nt).map fun c => (16 + 4 * nt + (lens.take c).foldl (· + ·) 0, lens.getD c 0))

/-- Is a picture decoded: every one, but for a verify stream those that R214 selects. -/
def DecStream.selects (x : DecStream) (pic : Nat) : Bool :=
  !x.par.verify || decide (picAhead pic x.hdr.firstPic % x.par.verifyEvery = 0)

/-- The reference rules of a Picture Header (R139, R140): the cause and picture at fault. -/
def DecStream.refFault (x : DecStream) (h : PicHdr) : Option (Nat × Nat) :=
  let has := fun (p : Nat) => x.refSet.any fun r => r.pic = p
  let back := fun (p : Nat) => 1 ≤ picAhead h.pic p ∧ picAhead h.pic p < 2 ^ 23
  let refs := if h.nref = 0 then [] else if h.nref = 1 then [h.refA] else [h.refA, h.refB]
  match refs.find? fun p => !(has p && back p) with
  | some p => some (4, p)
  | none =>
    if 2 ≤ h.nref ∧ h.refA = h.refB then some (5, h.refB)
    else if h.keep.length = 0 ∨ x.hdr.maxRefs < h.keep.length then some (5, h.pic)
    else match h.keep.find? fun k => !(decide (k.1 = h.pic) || has k.1) || decide (1 < h.keep.countP fun e => e.1 = k.1) with
      | some k => some (5, k.1)
      | none => if decide (h.nref = 0) = h.isP ∨ 2 < h.nref then some (5, h.pic) else none

/-- Note damage of a unit outside a tile, to be reported in its order. -/
def Dev.noteDmg (d : Dev) (s pic cause detail : Nat) (trow : Nat := 0x1FF) : Dev :=
  match d.dec? s with
  | none => d
  | some x => (d.setDec s { x with dmg := some ⟨pic, trow, 0x7F, cause, detail⟩ }).decSettle s

/-- Take the unit at the front of a stream's bytes. -/
def DecStream.consume (x : DecStream) (n : Nat) : DecStream :=
  { x with buf := x.buf.drop n, addr := x.addr + n, bytes := x.bytes + n }

/-- A buffer of the reservation is free for another picture (R159). -/
def DecStream.bufferFree (x : DecStream) : Bool :=
  let held := ((x.refSet.map (·.pic)) ++ x.outs.map (·.pic)).eraseDups.length
  decide (held < if x.hdr.coding = 1 then x.hdr.maxRefs + 1 else 2)

/-- The picture after which the stream ends. -/
def DecStream.pastLast (x : DecStream) (pic : Nat) : Bool :=
  x.par.last ≠ 0xFFFFFF && decide (picAhead pic x.par.last ≠ 0 ∧ picAhead pic x.par.last < 2 ^ 23)

/-- Go back to the index entry before the place tried, in search of a start point (R206). -/
def Dev.seekBack (d : Dev) (s : Nat) (pic : Nat) : Dev :=
  match d.dec? s with
  | none => d
  | some x =>
    match (d.mag x.port).vol.bind (·.stream? x.snum) with
    | none => d.noteDmg s pic 4 pic
    | some v =>
      let idx := v.index.filter fun e => decide (picAhead x.par.first e.1 < 2 ^ 23)
      let j := x.jumps + 1
      match (idx.reverse.drop j).head? with
      | some e => d.setDec s { x with jumps := j, buf := [], addr := e.2.1, rAddr := e.2.1, reading := false }
      | none =>
        if x.addr ≤ v.startAddr ∨ x.jumps = idx.length + 1 then d.noteDmg s pic 4 pic
        else d.setDec s { x with jumps := idx.length + 1, buf := [], addr := v.startAddr, rAddr := v.startAddr, reading := false }

/-- The Picture Header of the next picture. -/
def Dev.decHeader (d : Dev) (s : Nat) (x : DecStream) (u : List Byte) : Dev × Bool :=
  let h := parsePicHdr (u.drop 12)
  let n := u.length
  if !x.started ∧ (h.isP ∨ h.keep.any fun k => k.1 ≠ h.pic) then (d.seekBack s h.pic, true)
  else if x.expect.any fun e => e ≠ h.pic then (d.noteDmg s h.pic 2 2, false)
  else if x.pastLast h.pic then (d.setDec s { x with eos := true }, false)
  else if !x.bufferFree then (d, false)
  else match (if x.selects h.pic then x.refFault h else none) with
    | some (c, p) => (d.noteDmg s h.pic c p, false)
    | none =>
      let sl := d.slot s
      let d := if sl.state = .armed then d.setSlot s { sl with state := .running } else d
      (d.setDec s { x.consume n with started := true, expect := some (picAdd h.pic 1), cur := some ⟨h, [], [], n, 0⟩ }, true)

/-- One unit of a decode stream, valid and whole. The second result says to go on. -/
def Dev.decUnit (d : Dev) (s : Nat) (x : DecStream) (u : List Byte) : Dev × Bool :=
  let body := (u.drop 12).take (u.length - 16)
  let typ := fieldLe u 4 1
  let pic := (x.cur.map (·.hdr.pic)).getD (x.expect.getD 0)
  if fieldLe u 6 2 % 2048 ≠ x.hdr.slot ∧ [1, 2, 3, 4, 5, 15].contains typ then (d.noteDmg s pic 2 typ, false)
  else match typ, x.cur with
    | 1, none =>
      if x.expect.isSome then (d.noteDmg s pic 2 1, false)
      else if fieldLe body 0 2 / 256 ≠ 1 then (d.noteDmg s pic 3 (fieldLe body 0 2), false)
      else (d.setDec s { x.consume u.length with started := true }, true)
    | 2, none => d.decHeader s x u
    | 3, some p =>
      if x.hdr.geo.trows ≤ p.rows.length then (d.noteDmg s pic 2 3, false)
      else
        let r := p.rows.length
        let row : DecRow := match tileRowHead x.hdr.geo p.hdr.pic r body with
          | .error off => ⟨body, 0, [], some (6, off)⟩
          | .ok (b, ts) => ⟨body, b, if x.selects p.hdr.pic then ts.map fun t => ⟨0, t.1, t.2, #[], [], 0, 0⟩ else [], none⟩
        let d := d.setDec s { x.consume u.length with cur := some { p with rows := p.rows ++ [row], bytes := p.bytes + u.length } }
        if row.bad.isSome then (d.decSettle s, false) else (d, true)
    | 4, some p =>
      if p.rows.length ≠ x.hdr.geo.trows ∨ fieldLe body 0 3 ≠ p.hdr.pic then (d.noteDmg s pic 2 4, false)
      else
        let x := x.consume u.length
        if x.selects p.hdr.pic then (d.setDec s { x with cur := some { p with trailer := body } }, false)
        else (d.setDec s { x with cur := none, lastPic := p.hdr.pic }, true)
    | 5, some p => (d.setDec s { x.consume u.length with cur := some { p with bytes := p.bytes + u.length } }, true)
    | 15, none => (d.setDec s { x.consume u.length with eos := true }, false)
    | t, _ =>
      if [1, 2, 3, 4, 5, 15].contains t then (d.noteDmg s pic 2 t, false) else (d.setDec s (x.consume u.length), true)

/-- One unit of an offload copy: its place in the order of R167 is checked, and it is kept for delivery (R286). -/
def Dev.offloadUnit (d : Dev) (s : Nat) (x : DecStream) (u : List Byte) : Dev × Bool :=
  let typ := fieldLe u 4 1
  let p := fieldLe u 12 3
  let bad := (d.noteDmg s ((x.cur.map (·.hdr.pic)).getD (x.expect.getD 0)) 2 typ, false)
  let y := { x.consume u.length with units := x.units ++ [u] }
  if fieldLe u 6 2 % 2048 ≠ x.hdr.slot ∧ [1, 2, 3, 4, 5, 15].contains typ then bad
  else match typ, x.cur with
    | 1, none => if x.expect.isSome then bad else (d.setDec s y, true)
    | 2, none =>
      if x.expect.any fun e => e ≠ p then bad
      else
        let sl := d.slot s
        let d := if sl.state = .armed then d.setSlot s { sl with state := .running } else d
        (d.setDec s { y with expect := some (picAdd p 1), cur := some ⟨parsePicHdr (u.drop 12), [], [], 0, 0⟩ }, true)
    | 3, some c =>
      if c.hdr.pic ≠ p ∨ fieldLe u 16 2 ≠ c.rows.length ∨ x.hdr.geo.trows ≤ c.rows.length then bad
      else (d.setDec s { y with cur := some { c with rows := c.rows ++ [⟨[], 0, [], none⟩] } }, true)
    | 4, some c =>
      if c.hdr.pic ≠ p ∨ c.rows.length ≠ x.hdr.geo.trows then bad
      else (d.setDec s { y with cur := none, done := x.done + 1, lastPic := p }, true)
    | 5, some _ => (d.setDec s y, true)
    | 15, none => (d.setDec s { y with eos := true }, false)
    | t, _ => if [1, 2, 3, 4, 5, 15].contains t then bad else (d.setDec s y, true)

/-- Read the units that stand whole in a stream's bytes; `n` bounds them. -/
def Dev.decParse (s : Nat) : Nat → Dev → Dev
  | 0, d => d
  | n + 1, d =>
    match d.dec? s with
    | none => d
    | some x =>
      if !(d.slot s).state.live ∨ x.dmg.isSome ∨ x.eos ∨ (x.cur.any fun p => !p.trailer.isEmpty) ∨
          (x.cur.isNone ∧ (d.slot s).state = .draining) ∨ x.buf.length < 16 then d
      else
        let pic := (x.cur.map (·.hdr.pic)).getD (x.expect.getD 0)
        let len := fieldLe x.buf 8 4
        if fieldLe x.buf 0 4 ≠ 0x57564331 ∨ len % 4 ≠ 0 ∨ 2 ^ 28 < len then d.noteDmg s pic 1 (x.addr % 2 ^ 32)
        else if x.buf.length < 16 + len then d
        else
          let u := x.buf.take (16 + len)
          if !unitValid u ∨ !unitSizeOk u then d.noteDmg s pic 1 (x.addr % 2 ^ 32)
          else
            let r := if x.par.offload then d.offloadUnit s x u else d.decUnit s x u
            if r.2 then Dev.decParse s n r.1 else r.1

/-! ## Tiles (R207) -/

/-- A decode pipeline is free. -/
def Dev.decFree (d : Dev) (p : Nat) : Bool := d.enabled (0xF0 + p) && (d.decp p).job.isNone

/-- Change a tile of the picture in hand. -/
def DecStream.modTile (x : DecStream) (r c : Nat) (f : DecTile → DecTile) : DecStream :=
  { x with cur := x.cur.map fun p => { p with rows := listMod p.rows r fun w => { w with tiles := listMod w.tiles c f } } }

/-- Give a tile to a pipeline. -/
def Dev.startDec (d : Dev) (pipe s r c : Nat) : Dev :=
  match d.dec? s with
  | none => d
  | some x =>
    let pic := (x.cur.map (·.hdr.pic)).getD 0
    let d := d.setDec s (x.modTile r c fun t => { t with stage := 1 })
    (d.setDecp pipe { d.decp pipe with job := some (s, pic, r, c) }).set .dec pipe fMC_STAT_BUSY 1

/-- Deal the tiles that wait to the free working pipelines, lowest first, in slot, row and column order. -/
def Dev.decDeal (d : Dev) : Dev :=
  d.core.decs.foldl (fun (d : Dev) e => match e.2.cur with
    | none => d
    | some p =>
      if !(d.slot e.1).state.live then d
      else (p.rows.zip (List.range p.rows.length)).foldl (fun (d : Dev) r =>
        (r.1.tiles.zip (List.range r.1.tiles.length)).foldl (fun (d : Dev) t =>
          if t.1.stage ≠ 0 then d
          else match ((List.range 16).filterMap d.decFor).find? d.decFree with
            | some k => d.startDec k e.1 r.2 t.2
            | none => d) d) d) d

/-- Parse, settle and deal for one stream. -/
def Dev.decRun (d : Dev) (s : Nat) : Dev :=
  match d.dec? s with
  | none => d
  | some x => ((Dev.decParse s (x.buf.length / 16 + 1) d).decSettle s).decDeal

/-- Decode one tile of the picture in hand (R105). -/
def DecStream.tile (x : DecStream) (p : DecPic) (r c : Nat) : TileDec :=
  let row := p.rows.getD r ⟨[], 0, [], none⟩
  match row.tiles[c]? with
  | none => .error (6, 0)
  | some t =>
    let bs := (row.body.drop t.off).take t.len
    let g := x.hdr.geo
    if row.bound = 0xFFFF then decodeExhausted g ⟨r, c⟩ bs
    else
      let ref := fun (k : Nat) => x.refSet.find? fun q => q.pic = k
      match decodeBounded
        { g := g, pos := ⟨r, c⟩, pic := p.hdr.pic, bound := row.bound, qpBase := 0, pqo := x.hdr.pqo,
          refA := if p.hdr.nref = 0 then none else ref p.hdr.refA, refB := if p.hdr.nref < 2 then none else ref p.hdr.refB,
          gmv := p.hdr.gmv, lambdaMul := 0, avgEn := false } bs with
      | .error (cause, det) => .error (cause, if cause = 6 then t.off + det else det)
      | .ok v => .ok v

/-- A decode spare gives its role back at its tile commit once the pipeline's restore is complete (R366). -/
def Dev.decGiveBack (d : Dev) (p : Nat) : Dev :=
  if p < 16 then d
  else
    let q := p - 16
    let role := d.get .fault3 0 fFC_DSPARE_ROLE q
    if d.get .fault3 0 fFC_DSPARE_IN_USE q = 1 ∧ !(d.get .fault3 0 fFC_WD_DEC_DEC).testBit role then
      ((d.set .fault3 0 fFC_DSPARE_IN_USE 0 q).set .fault3 0 fFC_DSPARE_ROLE 0 q).refreshMode
    else d

/-- A pipeline finishes its tile: reconstructed, or damaged. -/
def Dev.decTileDone (d : Dev) (pipe : Nat) : Dev :=
  match (d.decp pipe).job with
  | none => d
  | some (s, pic, r, c) =>
    let d := ((d.setDecp pipe { d.decp pipe with job := none }).set .dec pipe fMC_STAT_BUSY 0).decGiveBack pipe
    match d.dec? s with
    | none => d
    | some x =>
      match x.cur with
      | none => d
      | some p =>
        if p.hdr.pic ≠ pic then d
        else
          let g := x.hdr.geo
          let d := match x.tile p r c with
            | .error (cause, det) => d.setDec s (x.modTile r c fun t => { t with stage := 3, cause := cause, detail := det })
            | .ok (out, pus) =>
              let d := (d.bump .dec pipe fDEC_TILE_CNT_TILES).bump .dec pipe fMC_COMMIT_CNT_TILES
              let d := d.bump64 .dec pipe fDEC_SMP_LO_SAMPLES_LO fDEC_SMP_HI_SAMPLES_HI (g.wReal c * g.hReal r)
              let x := x.modTile r c fun t => { t with stage := 2, out := out, pus := pus }
              d.setDec s { x with cur := x.cur.map fun (p : DecPic) => { p with pipe := pipe } }
          (d.decSettle s).decDeal

/-- A machine check of a decode pipeline: its tile is decoded again on the quadrant's spare, or on any working pipeline (R207). -/
def Dev.decMachineCheck (d : Dev) (p uaddr groups : Nat) : Dev :=
  if !d.enabled (0xF0 + p) then d
  else
    let d := (d.bump .dec p fMC_MCHK_CNT_MCHK).statBit .dec p 4
    let d := if d.get .dec p fMC_MCHK_REC_VALID = 1 then d
      else ((d.set .dec p fMC_MCHK_REC_VALID 1).set .dec p fMC_MCHK_REC_GROUPS groups).set .dec p fMC_MCHK_REC_ADDR uaddr
    let d := d.raise (1658 + 3 * p) (0x400 + p) 3 groups uaddr
    let d := match (d.decp p).job with
      | none => d
      | some (s, _, r, c) =>
        let d := (d.setDecp p { d.decp p with job := none }).set .dec p fMC_STAT_BUSY 0
        let d := (d.bump .dec p fMC_MCHK_CNT_HANDED).bump .dec p fDEC_DMG_CNT_RETRIES
        let d := match d.dec? s with
          | some x => d.setDec s (x.modTile r c fun t => { t with stage := 0 })
          | none => d
        let q := p / 4
        if p < 16 ∧ d.get .fault3 0 fFC_DSPARE_IN_USE q = 0 ∧ d.get .fault3 0 fFC_DSPARE_WITHDRAWN q = 0 ∧ d.decFree (16 + q) then
          d.startDec (16 + q) s r c
        else d.decDeal
    d.assertEvt (64 + p)

/-! ## Verify (R214, R215) -/

/-- The digest of a tile's real output samples (R214). -/
def tileDigest (out : Array Int) : Nat := crc32c ((out.toList.map fun v => leBytes 2 v.toNat).flatten)

/-- Pictures that a digest ring holds. -/
def digestK (g : Geo) : Nat := 2097152 / (4 * (g.tcols * g.trows))

/-- Where the digest of a tile stands in the ring. -/
def digestOff (g : Geo) (idx r c : Nat) : Nat := (idx % digestK g * (g.tcols * g.trows) + r * g.tcols + c) * 4

/-- The encoder writes the digests of a row's tiles, as they now stand, into the ring of every verify stream of the record stream. -/
def Dev.digestRow (d : Dev) (s pic r : Nat) : Dev :=
  match (d.rec? s).bind fun x => (x.pic? pic).map fun q => (x, q) with
  | none => d
  | some (x, q) =>
    let g := x.decl.geo
    let w := q.row r
    d.core.decs.foldl (fun (d : Dev) e => match e.2.chunk with
      | none => d
      | some h =>
        if e.2.par.recStream ≠ s ∨ !e.2.par.verify then d
        else (List.range g.tcols).foldl (fun (d : Dev) c =>
          let dig := if w.closed = 2 then some 0 else match w.tiles[c]? with
            | some t => if t.stage = 2 then (if w.exhCause ≠ 0 then t.exh else t.out).map fun o => tileDigest o.out else none
            | none => none
          match dig with
          | some v => d.writeDram (d.chunkBase h + digestOff g q.idx r c) (leBytes 4 v)
          | none => d) d) d

/-- The first tile of a verified picture whose digest differs. -/
def Dev.mismatch (d : Dev) (x : DecStream) (p : DecPic) (h idx : Nat) : Option (Nat × Nat) :=
  let g := x.hdr.geo
  (List.range g.trows).findSome? fun r => ((List.range g.tcols).find? fun c =>
    let row := p.rows.getD r ⟨[], 0, [], none⟩
    let dig := if row.bound = 0xFFFE then 0 else tileDigest (((row.tiles[c]?).map (·.out)).getD #[])
    decide (fieldLe (d.readDram (d.chunkBase h + digestOff g idx r c) 4) 0 4 ≠ dig)).map fun c => (r, c)

/-- GCOUNT of a bounded tile: the count that heads its guard segment. -/
def tileGuardCount (bs : List Byte) : Nat :=
  match splitSegs 5 4 (bs.drop 4) with
  | none => 0
  | some segs =>
    let seg := (segs.getD 4 (0, [])).2
    if seg.isEmpty then 0 else match (BitR.mk (bitsOf seg) #[]).read 18 with
      | some (n, _) => n
      | none => 0

/-- The statement checks of Table 10.4 hold. -/
def DecStream.statementOk (x : DecStream) (p : DecPic) : Bool :=
  let g := x.hdr.geo
  let t := p.trailer
  let rows := p.rows.zip (List.range p.rows.length)
  let b := rows.filter fun r => r.1.bound < 0xFFFE
  let maxOf := fun (r : DecRow) => fieldLe r.body 10 2
  (b.all fun r => decide (maxOf r.1 ≤ r.1.bound)) &&
  decide (fieldLe t 6 2 = b.countP fun r => x.hdr.eT < r.1.bound) &&
  decide (fieldLe t 8 2 = rows.countP fun r => r.1.bound = 0xFFFF) && decide (fieldLe t 10 2 = rows.countP fun r => r.1.bound = 0xFFFE) &&
  decide (fieldLe t 12 2 = b.foldl (fun a r => max a (maxOf r.1)) 0) &&
  decide (fieldLe t 56 8 = b.foldl (fun a r => r.1.tiles.foldl (fun a k => a + tileGuardCount ((r.1.body.drop k.off).take k.len)) a) 0) &&
  decide (fieldLe t 48 8 = b.foldl (fun a r => a + g.rowSamples r.2) 0) && decide (fieldLe t 64 8 = p.bytes)

/-- A verify failure: counted, held as the first since its bits were cleared, and raised (Table 10.5). -/
def Dev.verifyFail (d : Dev) (s pipe pic kind row col : Nat) : Dev :=
  let st := fPG_STAT_BLOCK.ext (d.reg ((0xF0 + pipe) * 4096 + 0xC))
  let d := if st.testBit 1 || st.testBit 2 then d else
    let d := (d.set .dec pipe fDEC_VMIS0_KIND kind).set .dec pipe fDEC_VMIS0_STREAM s
    ((d.set .dec pipe fDEC_VMIS1_PICTURE pic).set .dec pipe fDEC_VMIS2_TROW row).set .dec pipe fDEC_VMIS2_TCOL col
  let d := d.bump .dec pipe (if kind = 1 then fDEC_VFY_CNT_MISMATCH else fDEC_VFY_CNT2_STATEMENT)
  (d.statBit .dec pipe kind).raise (1659 + 3 * pipe) (0x400 + pipe) 5 s pic

/-- The outcome of a verified picture (Table 10.5). -/
def Dev.verifyPic (d : Dev) (s : Nat) (x : DecStream) (p : DecPic) : Dev :=
  let g := x.hdr.geo
  let idx := picAhead p.hdr.pic x.hdr.firstPic
  let lag := match d.rec? x.par.recStream with
    | some r => decide (idx + digestK g < r.nextIdx)
    | none => false
  if lag then d.bump .dec p.pipe fDEC_VFY_CNT2_LAGGED
  else match x.chunk with
    | none => d
    | some h => match d.mismatch x p h idx with
      | some (r, c) => d.verifyFail s p.pipe p.hdr.pic 1 r c
      | none => if x.statementOk p then d.bump .dec p.pipe fDEC_VFY_CNT_PASS
                else d.verifyFail s p.pipe p.hdr.pic 2 0x1FF 0x7F

/-! ## Completion, release and outputs (R208 to R210) -/

/-- A row as the reference pool holds it. -/
def DecRow.ref (r : DecRow) : RefRow := ⟨r.bound, r.tiles.map (·.out), r.tiles.map (·.pus)⟩

/-- The sample of a released picture at canonical coordinates: 0 in an absent row (R209). -/
def outSample (g : Geo) (rows : List RefRow) (x y : Nat) : Nat :=
  match rows[y / g.hT]? with
  | none => 0
  | some row => if row.bound = 0xFFFE then 0 else match row.tiles[x / g.tW]? with
    | none => 0
    | some t => (t.getD ((y % g.hT) * g.wReal (x / g.tW) + x % g.tW) 0).toNat

/-- The picture record of R210. -/
def DecStream.record (x : DecStream) (s : Nat) (o : DecOut) : List Byte :=
  let g := x.hdr.geo
  let codes := (o.rows.map fun r => leBytes 2 r.bound).flatten
  let pad := roundUp codes.length 64 - codes.length
  let smp := (List.range g.h).flatMap fun y => (List.range g.w).flatMap fun k =>
    let q := if x.par.format = 0 then g.permute k y else (k, y)
    leBytes 2 (outSample g o.rows q.1 q.2)
  leBytes 4 (o.pic + o.flags * 2 ^ 24) ++ leBytes 2 g.trows ++ leBytes 2 s ++ leBytes 8 o.hdr.t0 ++ leBytes 4 o.hdr.timecode ++
    leBytes 2 x.hdr.takeId ++ leBytes 2 x.hdr.slot ++ leBytes 2 g.w ++ leBytes 2 g.h ++ leBytes 1 g.d ++ leBytes 1 x.par.format ++
    leBytes 2 0 ++ leBytes 4 (2 * g.w * g.h) ++ List.replicate 28 0#8 ++ codes ++ List.replicate pad 0#8 ++ smp

/-- No whole unit stands in the stream's bytes. -/
def DecStream.starved (x : DecStream) : Bool := decide (x.buf.length < 16 ∨ x.buf.length < 16 + fieldLe x.buf 8 4)

/-- The end of a decode stream: everything it will release is read by its outputs (R212 to R215, R286). -/
def Dev.decEnd (d : Dev) (s : Nat) : Dev :=
  match d.dec? s with
  | none => d
  | some x =>
    let sl := d.slot s
    if !sl.state.live ∨ x.dmg.isSome ∨ !x.outs.isEmpty ∨ !x.units.isEmpty then d
    else
      let ended := x.eos || (sl.state = .draining && x.cur.isNone) ||
        (decide (x.par.source = 0) && (d.liveSource x).isNone && (d.nextSource x).isNone && decide (d.sourceEnd x ≤ x.rAddr) && x.starved &&
          !x.reading && (x.cur.all fun p => p.trailer.isEmpty) && !(d.core.decp.any fun e => e.2.job.any fun j => j.1 = s) &&
          decide (x.rAddr ≠ 0 ∨ !x.par.verify))
      if ended then d.endStream s .closed (if sl.state = .draining then sl.reason else 9) else d

/-- Remove pictures that every output has read. -/
def Dev.decSweep (d : Dev) (s : Nat) : Dev :=
  match d.dec? s with
  | none => d
  | some x => (d.setDec s { x with outs := x.outs.filter fun o => !o.released || o.host || o.proxy || o.peer }).decEnd s

/-- Release the oldest picture not yet released (R208). -/
def Dev.releasePic (d : Dev) (s : Nat) : Dev :=
  match d.dec? s with
  | none => d
  | some x =>
    match x.outs.find? fun o => !o.released with
    | none => d
    | some o =>
      let x := { x with lastRel := o.pic, outs := x.outs.map fun p => if p.pic = o.pic then { p with released := true, relAt := d.free } else p }
      ((d.setDec s x).decSweep s).decRun s

/-- The release time of a paced picture. -/
def DecStream.releaseAt (x : DecStream) (pic : Nat) : Nat :=
  x.par.tPlay + picAhead pic x.par.first * 1000000000 * x.hdr.den / x.hdr.num

/-- Count the pictures that an overflow area must hold (R157, R158): the row that finds no granule. -/
def Dev.decOverflow (d : Dev) (s : Nat) (x : DecStream) (p : DecPic) : Nat × Option Nat :=
  let g := x.hdr.geo
  (List.range g.trows).foldl (fun (a : Nat × Option Nat) r => match a.2 with
    | some _ => a
    | none =>
      let n := if (p.rows.getD r ⟨[], 0, [], none⟩).bound = 0xFFFE then 0
        else overflowNeed (g.rowSamples r) (Config.packedRow s p.hdr.pic r)
      if d.ovfTotal < d.get .memctl 0 fRP_OVF_USED_NOW + a.1 + n then (a.1, some r) else (a.1 + n, none)) (0, none)

/-- A picture of a decode stream is complete: its set holds, it is verified, and it is ready for its outputs (R208). -/
def Dev.decPictureDone (d : Dev) (s : Nat) : Dev :=
  match d.dec? s with
  | none => d
  | some x =>
    match x.cur with
    | none => d
    | some p =>
      if !(d.slot s).state.live ∨ x.dmg.isSome ∨ p.trailer.isEmpty ∨ !p.tilesDone then d
      else
        let inter := x.hdr.coding = 1
        let ovf := if inter then d.decOverflow s x p else (0, none)
        match ovf.2 with
        | some r =>
          (d.bump .memctl 0 fRP_OVF_FAIL_DECODE).damage s d.lowDec
            ⟨p.hdr.pic, r, 0x7F, 10, d.get .memctl 0 fRP_OVF_USED_NOW⟩
        | none =>
          let used := d.get .memctl 0 fRP_OVF_USED_NOW + ovf.1
          let d := if ovf.1 = 0 then d else
            (d.set .memctl 0 fRP_OVF_USED_NOW used).raiseMax .memctl 0 fRP_OVF_USED_PEAK used
          let anyTile := p.rows.any fun r => !r.tiles.isEmpty
          let pipe := if anyTile then p.pipe else d.lowDec
          let p := { p with pipe := pipe }
          let d := (d.bump .dec pipe fDEC_PIC_CNT_PICTURES).assertEvt (64 + pipe)
          let self : RefPic := ⟨p.hdr.pic, p.hdr.isP, p.rows.map (·.ref), false⟩
          let set := p.hdr.keep.filterMap fun k => ((x.refSet ++ [self]).find? fun r => r.pic = k.1).map fun r => { r with lt := k.2 }
          let d := if x.par.verify then d.verifyPic s x p else d
          let shown := !x.par.verify && decide (picAhead p.hdr.pic x.par.first < 2 ^ 23)
          let tfl := fieldLe p.trailer 3 1 % 2
          let o : DecOut :=
            { pic := p.hdr.pic, hdr := p.hdr, flags := p.hdr.pflags % 4 + tfl * 4 + (p.hdr.pflags / 4 % 2) * 8, rows := p.rows.map (·.ref),
              released := false, host := x.par.dest / 4 % 2 = 1, proxy := x.par.dest / 2 % 2 = 1, peer := 8 ≤ x.par.dest, pipe := pipe, relAt := 0 }
          let gone := if inter ∧ set.length < x.refSet.length + 1 then min x.ovf (x.ovf / (x.refSet.length + 1)) else 0
          let d := d.lower .memctl 0 fRP_OVF_USED_NOW gone
          let x := { x with refSet := if inter then set else [], cur := none, done := x.done + 1, lastPic := p.hdr.pic,
                            outs := if shown then x.outs ++ [o] else x.outs, ovf := x.ovf + ovf.1 - gone }
          let d := d.setDec s x
          if !shown then (d.decEnd s).decRun s
          else if !x.par.pace then d.releasePic s
          else if x.releaseAt o.pic ≤ d.now ∧ (x.outs.filter fun e => !e.released).length = 1 then
            ((d.bump .dec pipe fDEC_REL_LATE_LATE).statBit .dec pipe 3).releasePic s
          else d.decRun s

/-- The time of a paced picture comes (R208). -/
def Dev.pacedRelease (d : Dev) (s : Nat) : Dev :=
  match d.dec? s with
  | none => d
  | some x =>
    match x.outs.find? fun o => !o.released with
    | none => d
    | some o => if x.par.pace ∧ (d.slot s).state.live ∧ x.releaseAt o.pic ≤ d.now then d.releasePic s else d

/-- Bytes arrive from a stream's source. -/
def Dev.decBytes (d : Dev) (s : Nat) (bs : List Byte) : Dev :=
  match d.dec? s with
  | none => d
  | some x =>
    if !(d.slot s).state.live then d
    else ((d.setDec s { x with buf := x.buf ++ bs, rAddr := x.rAddr + bs.length, reading := false }).decRun s).decEnd s

/-- A source read failed (cause 0x0B). -/
def Dev.sourceFailed (d : Dev) (s code : Nat) : Dev :=
  match d.dec? s with
  | none => d
  | some x =>
    if !(d.slot s).state.live then d
    else d.damage s d.lowDec ⟨(x.cur.map (·.hdr.pic)).getD (x.expect.getD 0), 0x1FF, 0x7F, 11, code⟩

/-- What a reading stream offers an output ring: the record of its oldest released picture, or whole units up to a length. A record
or unit larger than the buffer gives none. -/
def Dev.offer (d : Dev) (s len : Nat) : Option (List Byte) :=
  match d.dec? s with
  | none => none
  | some x =>
    if x.par.offload then
      let r := x.units.foldl (fun (a : List Byte × Bool) u =>
        if a.2 then a else if len < a.1.length + u.length then (a.1, true) else (a.1 ++ u, false)) ([], false)
      if r.1.isEmpty then none else some r.1
    else match x.outs.find? fun o => o.released && o.host with
      | some o => let b := x.record s o
                  if len < b.length then none else some b
      | none => none

/-- The offer was taken. -/
def Dev.offered (d : Dev) (s taken : Nat) : Dev :=
  match d.dec? s with
  | none => d
  | some x =>
    if x.par.offload then
      let r := x.units.foldl (fun (a : Nat × List (List Byte)) u =>
        if a.1 = 0 then (0, a.2 ++ [u]) else (a.1 - u.length, a.2)) (taken, [])
      (d.setDec s { x with units := r.2 }).decEnd s
    else match x.outs.find? fun o => o.released && o.host with
      | some o => ((d.setDec s { x with outs := x.outs.map fun p => if p.pic = o.pic then { p with host := false } else p }).decSweep
          s).decRun s
      | none => d

end Sys2Proof.Machine
end

