-- ==== Sys2Proof/Machine/MagOps.lean ====
section
/-! DEFINITION. Magazine ports at work (chapter 14): I/O commands outstanding, the structures a volume writes, the pieces of record
streams, reads for reading streams, confirmation, and exchanges. -/
namespace Sys2Proof.Machine

/-! ## Outstanding I/O commands (R274, R276) -/

/-- A piece's write is outstanding on a pair of port `m`. -/
def PieceSt.on (q : PieceSt) (m pair : Nat) : Bool := q.issued && !q.done && decide (q.port = m ∧ q.pair = pair)

/-- CIDs outstanding on a pair. -/
def Dev.usedCids (d : Dev) (m pair : Nat) : List Nat :=
  ((d.mag m).ios.filter fun c => c.pair = pair).map (·.cid) ++
  (d.core.recs.flatMap fun p => (p.2.pieces.filter fun q => q.on m pair).map (·.cid)) ++
  d.core.hosted.flatMap fun h => (h.pieces.filter fun q => q.on m pair).map (·.cid)

/-- The submission slot of the next command on a pair, which is its CID; none when depth - 1 commands are outstanding. A slot
whose command is still outstanding is passed over. -/
def Dev.freeCid (d : Dev) (m pair : Nat) : Option Nat :=
  let used := d.usedCids m pair
  let dep := d.get .mag m fMAG_QDEPTH_DEPTH
  if dep ≤ used.length + 1 then none
  else ((List.range dep).map fun j => ((d.ring (512 * m + pair)).tail + j) % dep).find? fun c => !used.contains c

/-- Publish a submission entry. -/
def Dev.submit (d : Dev) (m pair : Nat) : Dev :=
  let n := 512 * m + pair
  d.setRing n { d.ring n with tail := ((d.ring n).tail + 1) % 65536 }

/-- Take a completion entry: the submission entry is free, and one entry passes through the completion ring. -/
def Dev.takeCompletion (d : Dev) (m pair : Nat) : Dev :=
  let n := 512 * m + pair
  let d := d.setRing n { d.ring n with head := ((d.ring n).head + 1) % 65536 }
  let c := d.ring (4096 + n)
  d.setRing (4096 + n) { c with tail := (c.tail + 1) % 65536, head := (c.head + 1) % 65536 }

/-- MAG_OUTST follows the commands outstanding. -/
def Dev.refreshOutst (d : Dev) (m : Nat) : Dev :=
  let out := fun (qs : List PieceSt) => qs.countP fun q => q.issued && !q.done && decide (q.port = m)
  let ios := (d.mag m).ios
  let w := d.core.recs.foldl (fun a p => a + out p.2.pieces) 0 + d.core.hosted.foldl (fun a h => a + out h.pieces) 0 +
    ios.countP fun c => match c.kind with
      | .wml .flush => false
      | .wml _ => true
      | .orphan _ => true
      | _ => false
  let r := ios.countP fun c => match c.kind with
    | .mount _ _ => true
    | .read _ _ _ => true
    | .serve _ _ _ _ => true
    | _ => false
  (d.set .mag m fMAG_OUTST_WRITES w).set .mag m fMAG_OUTST_READS r

/-- The engine may issue I/O on a port: its queue pairs exist, and it has not stopped but for a retry (R277, R284). -/
def Dev.magIssues (d : Dev) (m : Nat) : Bool :=
  let s := d.get .mag m fMAG_STAT_STATE
  (s = 3 ∨ s = 4) && d.get .mag m fMAG_STAT_QPAIRS ≠ 0 && (!(d.mag m).stopped || (d.mag m).retrying)

/-- Issue an I/O command, if the port may and the pair has room. -/
def Dev.startIo (d : Dev) (m pair : Nat) (k : IoKind) : Dev × Bool :=
  if !d.magIssues m then (d, false)
  else match d.freeCid m pair with
    | none => (d, false)
    | some cid =>
      let x := d.mag m
      (((d.setMag m { x with ios := x.ios ++ [⟨pair, cid, k, d.free, false⟩] }).submit m pair).refreshOutst m, true)

/-! ## Sealing, and the structures of a volume (R285, R292, R300) -/

/-- Complete the mailbox commands of a kind that wait on a port. -/
def Dev.finishWaiters (d : Dev) (m kind status : Nat) (r0 : Word := 0) : Dev :=
  let x := d.mag m
  let ws := x.waiters.filter fun w => w.1 = kind
  let d := d.setMag m { x with waiters := x.waiters.filter fun w => w.1 ≠ kind }
  ws.foldl (fun (d : Dev) w => d.finishCmd w.2.1 w.2.2 status r0) d

/-- STATE of a port, with its CAUSE. -/
def Dev.magState (d : Dev) (m s cause : Nat) : Dev :=
  (d.set .mag m fMAG_STAT_STATE s).set .mag m fMAG_STAT_CAUSE cause

/-- RESULT DW0 of MAG_MOUNT. -/
def Dev.mountResult (d : Dev) (m : Nat) : Word :=
  BitVec.ofNat 32 (d.get .mag m fMAG_STAT_STATE + 16 * d.get .mag m fMAG_STAT_CAUSE)

/-- The port is sealed (STATE 7): its volume is committed and closed, and its I/O queues are deleted. -/
def Dev.sealPort (d : Dev) (m : Nat) : Dev :=
  let d := (d.magState m 7 0).dropQuota (magTag m)
  let x := d.mag m
  let pairs := (List.range (d.get .mag m fMAG_STAT_QPAIRS)).flatMap fun i => [AdminOp.mk 0 (i + 1) 13 none 0 0, AdminOp.mk 4 (i + 1) 14 none 0 0]
  let d := d.setMag m { x with
    vol := none, rec_ := none, stopped := false, retrying := false, swapTo := none, swapCmd := none, admin := x.admin ++ pairs }
  let d := d.set .mag m fMAG_STAT_QPAIRS 0
  let d := d.finishWaiters m 2 0
  match x.swapCmd with
  | some c => (d.finishCmd c.1 c.2 0 (BitVec.ofNat 32 x.swapped)).assertEvt (88 + m)
  | none => d.assertEvt (88 + m)

/-- Issue the next structure of a volume, one at a time on pair 1; a Flush only when a volatile write cache is present. -/
def Dev.pumpWml (m : Nat) : Nat → Dev → Dev
  | 0, d => d
  | n + 1, d =>
    match (d.mag m).vol with
    | none => d
    | some v =>
      if (d.mag m).ios.any fun c => match c.kind with
          | .wml _ => true
          | _ => false
      then d
      else match v.ops with
        | [] => d
        | .seal :: _ => d.sealPort m
        | op :: ops =>
          if op = .flush ∧ !(d.mag m).vwc then Dev.pumpWml m n (d.modVol m fun v => { v with ops := ops })
          else (d.startIo m 1 (.wml op)).1

/-- Issue what a volume has ready. -/
def Dev.pumpVol (d : Dev) (m : Nat) : Dev := Dev.pumpWml m ((((d.mag m).vol.map fun v => v.ops.length).getD 0) + 1) d

/-- Commit a journal slot on a port (R294). -/
def Dev.commitVol (d : Dev) (m : Nat) : Dev := (d.modVol m fun v => v.commitJournal (d.confOf m)).pumpVol m

/-- Take a checkpoint on a port (R300). -/
def Dev.checkpointVol (d : Dev) (m : Nat) : Dev := (d.modVol m fun v => v.checkpointNow d.free (d.confOf m)).pumpVol m

/-- Commit everything of a port and seal it (R285). -/
def Dev.sealVol (d : Dev) (m : Nat) : Dev :=
  ((d.modVol m fun v => v.checkpointNow d.free (d.confOf m)).modVol m fun v => { v with ops := v.ops ++ [.seal] }).pumpVol m

/-! ## Writes of pieces (R275) -/

/-- The pair on which a record stream writes. -/
def Dev.writePair (d : Dev) (m s : Nat) : Nat := 1 + s % max 1 (d.get .mag m fMAG_STAT_QPAIRS / 2)

/-- Issue a stream's pieces in order while a committed extent and a submission slot are at hand; `n` bounds them. -/
def Dev.issueRun (s : Nat) : Nat → Dev → Dev
  | 0, d => d
  | n + 1, d =>
    match d.rec? s with
    | none => d
    | some x =>
      match x.volPort, x.pieces.find? fun q => !q.issued && !q.done with
      | some m, some q =>
        if 8 ≤ m ∨ !d.magIssues m then d
        else
          let pair := d.writePair m s
          match (d.mag m).vol.bind fun v => (v.stream? x.snum).bind fun t => t.lba q.addr, d.freeCid m pair with
          | some lba, some cid =>
            let x := { x with pieces := x.pieces.map fun (r : PieceSt) => if r.addr = q.addr then
              { r with port := m, pair := pair, cid := cid, lba := lba, issuedAt := d.free, issued := true } else r }
            let d := ((d.setRec s x).acquire (x.handleAt q.addr) (magTag m)).submit m pair
            Dev.issueRun s n d
          | _, _ => d
      | _, _ => d

/-- Issue what a stream has released. -/
def Dev.issuePieces (d : Dev) (s : Nat) : Dev :=
  match d.rec? s with
  | none => d
  | some x =>
    let d := Dev.issueRun s (x.pieces.length + 1) d
    match x.volPort with
    | some m => if m < 8 then d.refreshOutst m else d
    | none => d

/-- Change a hosted stream. -/
def Dev.setHosted (d : Dev) (h : Hosted) : Dev :=
  { d with core := { d.core with hosted := d.core.hosted.map fun (e : Hosted) => if e.peer = h.peer ∧ e.slot = h.slot then h else e } }

/-- Issue the pieces of partners' streams hosted on a port; `n` bounds them. -/
def Dev.issueHosted (m : Nat) : Nat → Dev → Dev
  | 0, d => d
  | n + 1, d =>
    match d.core.hosted.find? fun h => decide (h.port = m) && h.pieces.any fun q => !q.issued && !q.done with
    | none => d
    | some h =>
      match h.pieces.find? fun q => !q.issued && !q.done with
      | none => d
      | some q =>
        let pair := d.writePair m h.slot
        match (d.mag m).vol.bind fun v => (v.stream? h.snum).bind fun t => t.lba q.addr, d.freeCid m pair with
        | some lba, some cid =>
          if !d.magIssues m then d
          else
            let h' := { h with pieces := h.pieces.map fun (r : PieceSt) => if r.addr = q.addr then
              { r with port := m, pair := pair, cid := cid, lba := lba, issuedAt := d.free, issued := true } else r }
            Dev.issueHosted m n ((d.setHosted h').submit m pair)
        | _, _ => d

/-- Issue every write that a port's streams have ready. -/
def Dev.issuePort (d : Dev) (m : Nat) : Dev :=
  let d := (d.core.recs.filter fun p => p.2.volPort = some m).foldl (fun (d : Dev) p => d.issuePieces p.1) d
  (Dev.issueHosted m (d.core.hosted.foldl (fun a h => a + h.pieces.length) 0) d).refreshOutst m

/-! ## Reads (R274, R298) -/

/-- The bytes of one read from `a`: to the end of its piece, of the source, or to the next fill. -/
def readEnd (fills : List Nat) (end_ a : Nat) : Nat :=
  fills.foldl (fun e f => if a < f then min e f else e) (min end_ (a / pieceBytes * pieceBytes + pieceBytes))

/-- Where reading goes on at `a`: past a fill that begins there. -/
def skipFill (fills : List Nat) (a : Nat) : Nat := if fills.contains a then (a / pieceBytes + 1) * pieceBytes else a

/-- Does a reading stream need more of its source: the unit at the front of its bytes is not whole? -/
def DecStream.wants (x : DecStream) : Bool :=
  !x.reading && x.dmg.isNone && !x.eos && (x.cur.all fun p => p.trailer.isEmpty) &&
    (decide (x.buf.length < 16) || decide (x.buf.length < 16 + fieldLe x.buf 8 4))

/-- Go on to the continuation of a source when its bytes on this magazine are read (R213, R286, R303). -/
def Dev.followSource (d : Dev) (s : Nat) (x : DecStream) : DecStream :=
  match d.nextSource x with
  | some (m, snum) =>
    if (match d.liveSource x with
        | some r => decide (r.resume ≤ x.rAddr)
        | none => true)
    then { x with port := m, snum := snum, pair := (d.setDec s x).leastPair m } else x
  | none => x

/-- Issue the next read of a reading stream (READ or OFFLOAD class chunk, Table 13.6). -/
def Dev.pumpRead (d : Dev) (s : Nat) : Dev :=
  match d.dec? s with
  | none => d
  | some x =>
    if x.par.source ≠ 0 ∨ !(d.slot s).state.live ∨ !x.wants then d
    else
      let x := d.followSource s x
      match (d.mag x.port).vol.bind (·.stream? x.snum) with
      | none => d
      | some v =>
        let a := skipFill v.fills x.rAddr
        let x := if a ≠ x.rAddr ∧ x.buf.isEmpty then { x with rAddr := a, addr := a } else { x with rAddr := a }
        let d := d.setDec s x
        if d.sourceEnd x ≤ a then d
        else if (v.lba a).isNone then d.sourceFailed s 0
        else if !d.magIssues x.port ∨ (d.freeCid x.port x.pair).isNone then d
        else match d.allocChunk s (if x.par.offload then 2 else 1) true with
          | (d, none) => d
          | (d, some h) => ((d.startIo x.port x.pair (.read s a h)).1).setDec s { x with reading := true }

/-- Reads of every stream that reads a port. -/
def Dev.pumpReads (d : Dev) (m : Nat) : Dev :=
  (d.core.decs.filter fun p => p.2.par.source = 0 && (p.2.port = m || (d.liveSource p.2).any fun r => r.volPort = some m)).foldl
    (fun (d : Dev) p => (d.pumpRead p.1).decEnd p.1) d

/-! ## Exchanges (R277, R281 to R285, R304) -/

/-- The record streams of a port that hold their reservations. -/
def Dev.portLive (d : Dev) (m : Nat) : List Nat := (d.portStreams m).map (·.1)

/-- A port takes part in a running exchange: as its target, or as its source while powered (R270). -/
def Dev.magBlinks (d : Dev) (m : Nat) : Bool := match d.core.exchange with
  | some e => e.target = some m || (e.from_ = m && (d.mag m).pwren)
  | none => false
/-- MAGm_ATTN: 0 low, 1 high while the port holds streams, 2 blinking (Table 14.2). -/
def Dev.magAttn (d : Dev) (m : Nat) : Nat :=
  if d.magBlinks m then 2 else if (d.portLive m).isEmpty || d.get .mag m fMAG_STAT_STATE = 6 then 0 else 1

/-- Does a set of streams pass A1 and A2 on a ROLE 1 port at its standby pace (R282)? -/
def Dev.portTakes (d : Dev) (n : Nat) (slots : List Nat) : Bool :=
  d.mounted n && d.role n = 1 && !(d.mag n).stopped && portTest (d.baseOf n) (slots.filterMap d.rec?)

/-- The target of step 1 of R282. -/
def Dev.spareFor (d : Dev) (from_ : Nat) (slots : List Nat) : Option Nat :=
  (List.range 8).find? fun n => decide (n ≠ from_) && d.portTakes n slots

/-- Change the exchange that runs. -/
def Dev.setExchange (d : Dev) (e : Option Exchange) : Dev := { d with core := { d.core with exchange := e } }

/-- First address that is not confirmed (R283). -/
def RecStream.resumeAt (x : RecStream) : Nat := (x.pieces.head?.map (·.addr)).getD x.relAddr

/-- The chunks of a stream's unreleased bytes are charged to it again. -/
def Dev.chargeBack (d : Dev) (s : Nat) (x : RecStream) : Dev :=
  x.chunks.foldl (fun (d : Dev) c =>
    if x.resumeAt ≤ c.1 * chunkBytes + chunkBytes - 1 then d.chargeTo c.2 s else d) d

/-- The port a slot's reservation names changes. -/
def Dev.movePort (d : Dev) (s n : Nat) : Dev :=
  let sl := d.slot s
  let doms := sl.resv.doms.filter fun k => !(decide (0x9B ≤ k ∧ k ≤ 0xA5))
  d.setSlot s { sl with resv := { sl.resv with port := n, doms := doms ++ [if n < 8 then 0x9B + n else 0xA3 + (n - 8)] } }

/-- A stream's writes turn to port `n` (R283): its continuation record, its ring's OUTPUT, and every piece not confirmed
to be sent again. A source that can still be written receives CONT_OUT (R303). -/
def Dev.continueOn (d : Dev) (cause n s : Nat) : Dev :=
  match d.rec? s with
  | none => d
  | some x =>
    let a := x.resumeAt
    let old := x.volPort
    let srcVol := (old.bind fun m => if m < 8 then (d.mag m).vol.map (·.id) else none).getD 0
    let d := x.pieces.foldl (fun (d : Dev) q =>
      if q.issued ∧ q.port < 8 ∧ d.core.cullet.holds.contains (x.handleAt q.addr, magTag q.port) then
        d.releaseHold (x.handleAt q.addr) (magTag q.port) else d) d
    let d := d.chargeBack s x
    let tgtVol := if n < 8 then ((d.mag n).vol.map (·.id)).getD 0 else 0
    let d := match old with
      | some m => if m < 8 ∧ cause ≠ 1 then d.modVol m fun v => v.contOut d.free x.snum cause tgtVol a x.lastDone else d
      | none => d
    let x := { x with
      par := { x.par with port := n }, resume := a, contDone := false, swapPic := none,
      pieces := x.pieces.map fun (q : PieceSt) => { q with issued := false, done := false, retried := false, port := n } }
    let x : RecStream := if old.isNone then x else { x with volPort := some n, moving := some n }
    let d := ((d.setRec s x).movePort s n).setRing (12288 + s) { d.ring (12288 + s) with output := if n < 8 then n else n + 1 }
    if 8 ≤ n ∨ old.isNone then d
    else
      match (d.mag n).vol, d.core.take with
      | some v, some t =>
        let r := v.openTake d.free x.takeId Config.deviceSerial t.tStart
        let r2 := r.1.openStream d.free r.2 s x.hd.serial x.par.region (x.firstPic.getD 0) a (some (cause, srcVol))
        let w := Vol.extend r2.2 (a + x.ds * 12500 + pieceBytes) d.free 64 r2.1
        (d.setMag n { d.mag n with vol := some w }).setRec s { x with snum := r2.2 }
      | _, _ => d

/-- The exchange's streams have all been seen to on the target: it ends (R283). `outcome` is MAG_XCHG.OUTCOME. -/
def Dev.exchangeOver (d : Dev) (e : Exchange) (outcome : Nat) : Dev :=
  let d := if e.from_ < 8 then (d.set .mag e.from_ fMAG_XCHG_OUTCOME outcome).statBit .mag e.from_ 7 else d
  (d.setExchange none).refreshMode

/-- Streams move to the chosen target together. -/
def Dev.moveAll (d : Dev) (e : Exchange) (n : Nat) : Dev :=
  let d := d.setExchange (some { e with target := some n, offers := false })
  let d := if e.from_ < 8 then d.set .mag e.from_ fMAG_XCHG_TARGET n else d
  let d := if n < 8 then d.set .mag n fMAG_CFG_ROLE 0 else d
  let d := (e.slots.filter fun s => (d.slot s).state.live).foldl (fun (d : Dev) s => d.continueOn e.cause n s) d
  if n < 8 then (d.commitVol n).issuePort n else d

/-- The port is removed (R281): nothing further is taken from its magazine, power goes, its reading streams fail, and
hosted streams end here. -/
def Dev.dropPort (d : Dev) (m : Nat) : Dev :=
  let x := d.mag m
  let d := d.finishWaiters m 1 0 6
  let d := (d.finishWaiters m 2 10).finishWaiters m 3 10
  let d := x.admin.foldl (fun (d : Dev) a => match a.cmd with
    | some c => d.finishCmd c.1 c.2 10
    | none => d) d
  let d := match x.swapCmd with
    | some c => d.finishCmd c.1 c.2 5
    | none => d
  let d := d.clearIos m
  let d := d.setMag m { x with
    pwren := false, perstN := false, presentAt := none, init := false, admin := [], ios := [], vol := none, rec_ := none,
    waiters := [], stopped := false, retrying := false, measured := none, waitMs := 0, blocked := 0, confBytes := 0, swapTo := none,
    swapCmd := none }
  let d := ((d.magState m 6 0).set .mag m fMAG_STAT_QPAIRS 0).dropQuota (magTag m)
  let d := d.core.recs.foldl (fun (d : Dev) (p : Nat × RecStream) =>
    if p.2.volPort ≠ some m then d
    else
      let d := p.2.pieces.foldl (fun (d : Dev) q =>
        if q.issued && decide (q.port = m) && d.core.cullet.holds.contains (p.2.handleAt q.addr, magTag m) then
          d.releaseHold (p.2.handleAt q.addr) (magTag m) else d) d
      d.setRec p.1 { p.2 with pieces := p.2.pieces.map fun (q : PieceSt) => { q with issued := false, done := false, retried := false } }) d
  let d := { d with core := { d.core with hosted := d.core.hosted.filter fun h => h.port ≠ m,
                                          served := d.core.served.filter fun v => v.port ≠ m } }
  let d := (d.core.decs.filter fun p => decide (p.2.par.source = 0 ∧ p.2.port = m)).foldl (fun (d : Dev) p => d.sourceFailed p.1 0) d
  ((d.refreshOutst m).statBit .mag m 3).assertEvt (88 + m)

/-- The peer ports whose link is up. -/
def Dev.upPeers (d : Dev) : List Nat := (List.range 3).filter fun p => d.get .peer p fPR_STAT_STATE = 2

/-- A control message to a partner (Table 18.3), as its kind and operands, in order. -/
def Dev.peerSay (d : Dev) (p kind : Nat) (args : List Nat) : Dev :=
  let l := (d.peer p).sent ++ [(kind :: args).flatMap fun n => leBytes 8 n]
  d.setPeer p { d.peer p with sent := l.drop (l.length - 16) }

/-- No target exists (R284): streams of a lost magazine fault, those of a magazine still powered are retried on it and
close at their next picture boundary; a full magazine's streams close likewise (R304). -/
def Dev.noTarget (d : Dev) (e : Exchange) : Dev :=
  if e.cause = 4 then
    (e.slots.foldl (fun (d : Dev) s => d.closeLater s 4) d).exchangeOver e 3
  else if (d.mag e.from_).stopped then
    let x := d.mag e.from_
    let d := d.setMag e.from_ { x with retrying := true }
    let d := d.setExchange (some { e with offers := false })
    let d := e.slots.foldl (fun (d : Dev) s =>
      let d := match d.rec? s with
        | none => d
        | some r =>
          let d : Dev := r.pieces.foldl (fun (d : Dev) (q : PieceSt) =>
            if q.issued && !q.done && d.core.cullet.holds.contains (r.handleAt q.addr, magTag e.from_) then
              d.releaseHold (r.handleAt q.addr) (magTag e.from_) else d) d
          d.setRec s { r with pieces := r.pieces.map fun (q : PieceSt) => if q.done then q else { q with issued := false, retried := true } }
      d.closeLater s 4) d
    d.issuePort e.from_
  else
    let d := e.slots.foldl (fun (d : Dev) s => d.endStream s .faulted 4) d
    (d.exchangeOver e 3).takeEnd

/-- Streams of a planned move leave at their next picture boundary (R285). -/
def Dev.markSwap (d : Dev) (slots : List Nat) : Dev :=
  slots.foldl (fun (d : Dev) s => match d.rec? s with
    | some x => d.setRec s { x with swapPic := some x.nextIdx }
    | none => d) d

/-- A target is found: an unplanned exchange moves at once and a powered source then loses power (R277 step 3); a full
magazine's streams leave at their picture boundaries. -/
def Dev.takeTarget (d : Dev) (e : Exchange) (n : Nat) : Dev :=
  if e.cause = 4 then
    let d := (d.setExchange (some { e with target := some n, offers := false })).set .mag e.from_ fMAG_XCHG_TARGET n
    let d := if n < 8 then d.set .mag n fMAG_CFG_ROLE 0 else d
    (d.setMag e.from_ { d.mag e.from_ with swapTo := some n }).markSwap e.slots
  else
    let powered := (d.mag e.from_).stopped
    let d := d.moveAll e n
    if powered then d.dropPort e.from_ else d

/-- Choose a target (R282): a ROLE 1 port, else ask the partners, else wait for a port that is being mounted. -/
def Dev.chooseTarget (d : Dev) : Dev :=
  match d.core.exchange with
  | none => d
  | some e =>
    match d.spareFor e.from_ e.slots with
    | some n => d.takeTarget e n
    | none =>
      if d.upPeers.isEmpty then
        if e.cause = 4 then d.noTarget e else d.setExchange (some { e with since := d.free, offers := false })
      else
        let xs := e.slots.filterMap d.rec?
        let sum := xs.foldl (fun a x => a + x.dsNow) 0
        (d.setExchange (some { e with since := d.free, offers := true })) |> fun (d : Dev) =>
          d.upPeers.foldl (fun (d : Dev) p => d.peerSay p 5 [xs.length, sum]) d

/-- An exchange starts from a port (R282). -/
def Dev.startExchange (d : Dev) (m cause : Nat) : Dev :=
  let slots := d.portLive m
  let d := if 8 ≤ m then d else
    let d := (d.bump .mag m fMAG_XCHG_COUNT).set .mag m fMAG_XCHG_STREAMS (min 255 slots.length)
    (d.set .mag m fMAG_XCHG_OUTCOME 0).statBit .mag m 6
  ((d.setExchange (some ⟨m, slots, none, cause, d.free, false⟩)).refreshMode).chooseTarget

/-- The next port that waits for an exchange, in port order (Table 14.9 case 3). -/
def Dev.nextExchange (d : Dev) : Dev :=
  if d.exchanging then d
  else match (List.range 8).find? fun m =>
      !(d.portLive m).isEmpty && (d.get .mag m fMAG_STAT_STATE = 6 || ((d.mag m).stopped && !(d.mag m).retrying)) with
    | some m => d.startExchange m 1
    | none =>
      match (List.range 8).find? fun m => !(d.portLive m).isEmpty && (match (d.mag m).vol with
          | some v => v.full && d.get .mag m fMAG_STAT_STATE = 4 && (d.portLive m).any fun s =>
              (d.slot s).state ≠ .draining && (d.slot s).closePend.isNone
          | none => false) with
      | some m => d.startExchange m 4
      | none =>
        match (List.range 3).find? fun p => !(d.portLive (8 + p)).isEmpty && d.get .peer p fPR_STAT_STATE = 5 with
        | some p => d.startExchange (8 + p) 1
        | none => d

/-- The running exchange ends when every moved stream that is still live has been confirmed on the target, and a planned
one has moved every stream. -/
def Dev.exchangeCheck (d : Dev) : Dev :=
  match d.core.exchange with
  | none => d
  | some e =>
    match e.target with
    | none =>
      if e.slots.all fun s => !(d.slot s).state.live then
        let retry := (d.mag e.from_).retrying
        let d := (d.exchangeOver e 3)
        (if retry then d.sealVol e.from_ else d).takeEnd.nextExchange
      else d
    | some n =>
      if e.slots.all fun s => !(d.slot s).state.live || (match d.rec? s with
          | some x => x.par.port = n && x.moving.isNone && x.swapPic.isNone
          | none => true)
      then ((d.exchangeOver e (if n < 8 then 1 else 2)).takeDrain.takeEnd).nextExchange
      else d

/-- A port that is removed while it records, or whose streams must move: an exchange starts, or the running one turns to it
(Table 14.9 cases 2 and 8). -/
def Dev.afterRemoval (d : Dev) (m : Nat) : Dev :=
  match d.core.exchange with
  | none => if (d.portLive m).isEmpty then d else d.startExchange m 1
  | some e =>
    if e.from_ = m then
      if e.cause = 1 then
        if e.target.isNone then
          if d.upPeers.isEmpty ∧ (e.slots.all fun s => (d.slot s).state = .draining) then d.noTarget e else d
        else d.exchangeCheck
      else
        let d := e.slots.foldl (fun (d : Dev) s => match d.rec? s with
          | some x => d.setRec s { x with swapPic := none }
          | none => d) d
        let d := d.setExchange none
        if (d.portLive m).isEmpty then (d.setExchange (some e)).exchangeCheck else (d.refreshMode).startExchange m 1
    else if e.target = some m then
      (d.setExchange (some { e with target := none, cause := 1, slots := d.portLive m ++ (e.slots.filter fun s =>
        !(d.portLive m).contains s && (d.slot s).state.live) })).chooseTarget
    else d

/-- A magazine is removed (R281). -/
def Dev.removePort (d : Dev) (m : Nat) : Dev :=
  if (d.mag m).retrying then
    let d := d.dropPort m
    match d.core.exchange with
    | some e => if e.from_ = m then (d.noTarget e).nextExchange else d
    | none => d
  else (d.dropPort m).afterRemoval m

/-- A magazine has stopped draining (R277). -/
def Dev.stopDraining (d : Dev) (m : Nat) : Dev :=
  let x := d.mag m
  if d.get .mag m fMAG_STAT_STATE ≠ 4 ∨ x.stopped then d
  else
    let d := ((d.setMag m { x with stopped := true }).raise (1780 + 2 * m + 1) (0x800 + m)).statBit .mag m 4
    let d := d.assertEvt (88 + m)
    if (d.portLive m).isEmpty then d.removePort m else d.afterRemoval m

/-! ## Confirmation (R276, R298, R299) -/

/-- What a stream's confirmed data brings: chunks wholly confirmed are released, INDEX entries journaled. -/
def Dev.afterConfirm (d : Dev) (s : Nat) : Dev :=
  match d.rec? s with
  | none => d
  | some x =>
    let front := roundUp x.confAddr pieceBytes
    let gone := x.chunks.filter fun c => decide (c.1 * chunkBytes + chunkBytes ≤ front)
    let due := x.idxPend.filter fun e => decide (e.2.2.2 ≤ x.confAddr)
    let d := d.setRec s { x with
      chunks := x.chunks.filter fun c => decide (front < c.1 * chunkBytes + chunkBytes),
      idxPend := x.idxPend.filter fun e => decide (x.confAddr < e.2.2.2) }
    let d := gone.foldl (fun (d : Dev) c => d.releaseHold c.2 s) d
    match x.volPort with
    | some m => if m < 8 then due.foldl (fun (d : Dev) e => d.modVol m fun v => v.index d.free x.snum e.2.1 e.1 e.2.2.1) d else d
    | none => d

/-- Confirm the pieces at the front of a stream; `n` bounds them. -/
def Dev.confirmRun (s : Nat) : Nat → Dev → Dev
  | 0, d => d
  | n + 1, d =>
    match d.rec? s with
    | none => d
    | some x =>
      match x.pieces with
      | [] => d
      | q :: qs =>
        if !q.done then d
        else
          let e := q.addr + q.len
          let d := d.setRec s { x with pieces := qs, confAddr := e, moving := if x.moving = some q.port then none else x.moving }
          let d := if q.port < 8 then
              let d := (d.bump .mag q.port fMAG_WR_CNT_WRITES).setMag q.port
                { d.mag q.port with confBytes := (d.mag q.port).confBytes + q.len }
              if q.len < pieceBytes then d.modVol q.port fun v => v.fill d.free x.snum e else d
            else d
          Dev.confirmRun s n d

/-- MAG_FLUSH commands of a port whose flushed writes are confirmed. -/
def Dev.flushCheck (d : Dev) (m : Nat) : Dev :=
  if (d.portStreams m).all fun p => decide (p.2.flushTo ≤ p.2.confAddr) then d.finishWaiters m 3 0 else d

/-- A DRAINING record stream whose End of Stream is confirmed reaches CLOSED (Table 3.3). -/
def Dev.closeDrained (d : Dev) (s : Nat) : Dev :=
  match d.rec? s with
  | none => d
  | some x =>
    let sl := d.slot s
    if sl.state = .draining ∧ x.eosDone ∧ x.pieces.isEmpty ∧ x.relAddr = x.wAddr ∧ !x.flush then
      let d := match x.volPort with
        | some m => if m < 8 then d.modVol m fun v => v.closeStream d.free x.snum 2 sl.reason x.confAddr x.lastDone
            else d
        | none => d
      ((d.endStream s .closed sl.reason).exchangeCheck).takeEnd
    else d

/-- A record stream faults (R50): its open stream on the magazine is closed there with STATE 3. -/
def Dev.faultRecord (d : Dev) (s reason : Nat) : Dev :=
  match d.rec? s with
  | none => d
  | some x =>
    let d := if !(d.slot s).state.live then d
      else match x.volPort with
        | some m => if m < 8 then d.modVol m fun v => v.closeStream d.free x.snum 3 reason x.confAddr x.lastDone else d
        | none => d
    ((d.endStream s .faulted reason).exchangeCheck).takeEnd

/-- A stream's confirmed position may have advanced. -/
def Dev.advance (d : Dev) (s : Nat) : Dev :=
  match d.rec? s with
  | none => d
  | some x =>
    let d := (Dev.confirmRun s (x.pieces.length + 1) d).afterConfirm s
    let d := d.closeDrained s
    match x.volPort with
    | some m => if m < 8 then ((d.flushCheck m).exchangeCheck).pumpReads m else d.exchangeCheck
    | none => d

/-! ## Completions (R276, R277) -/

/-- A record stream's piece outstanding under a pair and CID. -/
def Dev.pieceOf (d : Dev) (m pair cid : Nat) : Option (Nat × PieceSt) :=
  d.core.recs.findSome? fun p => (p.2.pieces.find? fun q => q.on m pair && decide (q.cid = cid)).map fun q => (p.1, q)
/-- A hosted piece outstanding under a pair and CID. -/
def Dev.hostedOf (d : Dev) (m pair cid : Nat) : Option (Hosted × PieceSt) :=
  d.core.hosted.findSome? fun h => (h.pieces.find? fun q => q.on m pair && decide (q.cid = cid)).map fun q => (h, q)

/-- Longest write latency since mount. -/
def Dev.writeLatency (d : Dev) (m issuedAt : Nat) : Dev := d.raiseMax .mag m fMAG_LAT_MAX_US ((d.free - issuedAt) / 1000)

/-- An error completion is counted. -/
def Dev.magCmdErr (d : Dev) (m : Nat) : Dev := ((d.bump .mag m fMAG_ERR_CNT_CMD_ERR).statBit .mag m 5).assertEvt (88 + m)

/-- Pieces of a hosted stream that are confirmed in order: CONFIRM goes to the origin (R347). -/
def Dev.hostedAdvance (d : Dev) (h : Hosted) : Dev :=
  let k := (h.pieces.takeWhile (·.done)).length
  match (h.pieces.take k).getLast? with
  | none => d.setHosted h
  | some q =>
    let e := q.addr + q.len
    let d := d.bump .mag h.port fMAG_WR_CNT_WRITES k
    let d := (h.pieces.take k).foldl (fun (d : Dev) q =>
      if q.len < pieceBytes then d.modVol h.port fun v => v.fill d.free h.snum (q.addr + q.len) else d) d
    let gone := h.chunks.filter fun c => decide ((c.1 + 1) * chunkBytes ≤ roundUp e pieceBytes)
    let d := gone.foldl (fun (d : Dev) c => d.releaseHold c.2 (0x1900 + h.peer)) d
    (d.setHosted { h with pieces := h.pieces.drop k, conf := e, chunks := h.chunks.filter fun c => !gone.contains c }).peerSay h.peer 8
      [h.slot, e]

/-- What a completed structure of a volume brings. -/
def Dev.wmlDone (d : Dev) (m : Nat) (op : WmlOp) : Dev :=
  let d : Dev := d.modVol m fun v => ({ v with ops := v.ops.drop 1 } : Vol).opDone op
  let d : Dev := match op with
    | .journal _ _ _ =>
      let d : Dev := d.core.recs.foldl (fun (d : Dev) (p : Nat × RecStream) =>
        if p.2.moving = some m ∧ p.2.pieces.isEmpty ∧ p.2.wAddr < p.2.relAddr + pieceBytes ∧ !p.2.flush then
          d.setRec p.1 { p.2 with moving := none } else d) d
      (d.exchangeCheck).issuePort m
    | .superA _ =>
      let d : Dev := match (d.mag m).vol, (d.mag m).rec_ with
        | some v, some r =>
          if r.stage = RecStage.done ∧ !v.checkpoint then
            (d.setMag m { d.mag m with rec_ := none, vol := some { v with recovered := true } }) else d
        | _, _ => d
      let d := if d.get .mag m fMAG_STAT_STATE = 3 then
          let d := ((d.magState m 4 0).statBit .mag m 1).assertEvt (88 + m)
          let d := (d.grantQuota (magTag m) (d.get .cullet0 0 fCU_INFLIGHT_CHUNKS)).getD d
          d.finishWaiters m 1 0 (d.mountResult m)
        else d
      let d := match d.core.exchange with
        | some e => if e.target.isNone ∧ !e.offers ∧ !(d.mag e.from_).retrying then d.chooseTarget else d
        | none => d
      d.takeEnd
    | _ => d
  d.pumpVol m

/-- An I/O command leaves the outstanding list. -/
def Dev.dropIo (d : Dev) (m : Nat) (c : IoCmd) : Dev :=
  ((d.setMag m { d.mag m with ios := (d.mag m).ios.filter fun e => e ≠ c }).takeCompletion m c.pair).refreshOutst m

/-- A write of a piece completes: with status 0 it is done; with another it is issued once more, and a second failure means
that the magazine has stopped draining (R277). -/
def Dev.writeDone (d : Dev) (m pair cid status : Nat) : Dev :=
  match d.pieceOf m pair cid, d.hostedOf m pair cid with
  | some (s, q), _ =>
    match d.rec? s with
    | none => d
    | some x =>
      let mod := fun (f : PieceSt → PieceSt) => { x with pieces := x.pieces.map fun r => if r.addr = q.addr then f r else r }
      let d := (d.takeCompletion m pair).writeLatency m q.issuedAt
      let drop := fun (d : Dev) => if d.core.cullet.holds.contains (x.handleAt q.addr, magTag m) then
        d.releaseHold (x.handleAt q.addr) (magTag m) else d
      if status = 0 then
        let d := drop (d.setRec s (mod fun r => { r with done := true }))
        ((d.advance s).issuePort m)
      else
        let d := d.magCmdErr m
        if q.retried then (d.setRec s (mod fun r => { r with issuedAt := d.free })).stopDraining m
        else match d.freeCid m pair with
          | some c => (d.setRec s (mod fun r => { r with retried := true, cid := c, issuedAt := d.free })).submit m pair
          | none => (drop (d.setRec s (mod fun r => { r with retried := true, issued := false }))).issuePort m
  | none, some (h, q) =>
    let mod := fun (f : PieceSt → PieceSt) => { h with pieces := h.pieces.map fun r => if r.addr = q.addr then f r else r }
    let d := (d.takeCompletion m pair).writeLatency m q.issuedAt
    if status = 0 then (d.hostedAdvance (mod fun r => { r with done := true })).issuePort m
    else
      let d := d.magCmdErr m
      if q.retried then d.stopDraining m
      else (d.setHosted (mod fun r => { r with retried := true, issued := false })).issuePort m
  | none, none =>
    match (d.mag m).ios.find? fun c => decide (c.pair = pair ∧ c.cid = cid) with
    | some c =>
      (match c.kind with
      | .wml op =>
        if op = .flush then d
        else
          let d := (d.dropIo m c).writeLatency m c.issuedAt
          if status = 0 then (d.bump .mag m fMAG_WR_CNT_WRITES).wmlDone m op
          else
            let d := d.magCmdErr m
            if c.retried then d.stopDraining m
            else match d.startIo m 1 (.wml op) with
              | (d, true) => d.setMag m { d.mag m with ios := (d.mag m).ios.map fun e => if e.kind = .wml op then { e with retried := true } else e }
              | (d, false) => d
      | .orphan h =>
        let d := (d.dropIo m c).writeLatency m c.issuedAt
        let d := if status = 0 then d.bump .mag m fMAG_WR_CNT_WRITES else d.magCmdErr m
        if d.core.cullet.holds.contains (h, magTag m) then d.releaseHold h (magTag m) else d
      | _ => d)
    | none => d

/-- A Flush completes. -/
def Dev.flushDone (d : Dev) (m status : Nat) : Dev :=
  match (d.mag m).ios.find? fun c => c.kind = .wml .flush with
  | none => d
  | some c =>
    let d := d.dropIo m c
    if status = 0 then d.wmlDone m .flush
    else
      let d := d.magCmdErr m
      if c.retried then d.stopDraining m
      else match d.startIo m 1 (.wml .flush) with
        | (d, true) => d.setMag m { d.mag m with ios := (d.mag m).ios.map fun e => if e.kind = .wml .flush then { e with retried := true } else e }
        | (d, false) => d

/-- The time of issue of the oldest write outstanding on a port. -/
def Dev.oldestWrite (d : Dev) (m : Nat) : Option Nat :=
  let ts := (d.core.recs.flatMap fun p => (p.2.pieces.filter fun q => q.issued && !q.done && decide (q.port = m)).map (·.issuedAt)) ++
    (d.core.hosted.flatMap fun h => (h.pieces.filter fun q => q.issued && !q.done && decide (q.port = m)).map (·.issuedAt)) ++
    ((d.mag m).ios.filter fun c => match c.kind with
      | .wml .flush => false
      | .wml _ => true
      | .orphan _ => true
      | _ => false).map (·.issuedAt)
  ts.foldl (fun a t => some (min t (a.getD t))) none

/-- MAG_CFG2.WR_TIMEOUT_MS in ns of FREE. -/
def Dev.wrTimeout (d : Dev) (m : Nat) : Nat := max 10 (d.get .mag m fMAG_CFG2_WR_TIMEOUT_MS) * 1000000
/-- MAG_CFG2.XCHG_WAIT_MS in ns. -/
def Dev.xchgWait (d : Dev) (m : Nat) : Nat := d.get .mag m fMAG_CFG2_XCHG_WAIT_MS * 1000000

/-- A write has been outstanding for WR_TIMEOUT_MS (R277); a MAG_FLUSH that waits for it completes with status 0x000A (R287). -/
def Dev.writeTimedOut (d : Dev) (m : Nat) : Dev :=
  match d.oldestWrite m with
  | some t => if t + d.wrTimeout m ≤ d.free ∧ !(d.mag m).stopped then
      ((d.bump .mag m fMAG_ERR_CNT_TIMEOUT).finishWaiters m 3 10).stopDraining m
    else d
  | none => d

/-- No port completes mounting within XCHG_WAIT_MS (R284). -/
def Dev.exchangeWaitOver (d : Dev) : Dev :=
  match d.core.exchange with
  | some e =>
    if e.target.isNone ∧ !e.offers ∧ !(d.mag e.from_).retrying ∧ e.since + d.xchgWait e.from_ ≤ d.free then
      (d.noTarget e).nextExchange else d
  | none => d

/-- A retried magazine missed a stream's time (R284): the port's open streams fault and it loses power. -/
def Dev.drainMissed (d : Dev) (s : Nat) : Dev :=
  match d.rec? s with
  | none => d
  | some x =>
    let m := x.par.port
    match x.drainAt with
    | some t =>
      if (d.slot s).state = .draining ∧ m < 8 ∧ (d.mag m).retrying ∧ t + d.xchgWait m ≤ d.free then
        let d := (d.portLive m).foldl (fun (d : Dev) k => d.endStream k .faulted 4) d
        let d := match d.core.exchange with
          | some e => if e.from_ = m then d.exchangeOver e 3 else d
          | none => d
        ((d.dropPort m).takeEnd).nextExchange
      else d
    | none => d

end Sys2Proof.Machine
end

