-- ==== Sys2Proof/Machine/PaceOps.lean ====
section
/-! DEFINITION. The calendar wheel and the DRR schedulers (R257, R258), the published pace (R278), short ports (R191), and what
a serving controller does for a record stream's magazine (R294 to R304). -/
namespace Sys2Proof.Machine

/-! ## The calendar wheel (R258) -/

/-- Bytes of a stream not yet released. -/
def RecStream.unreleased (x : RecStream) : Nat := x.wAddr - x.relAddr
/-- The next piece that may be released: a full piece, or at a flush whatever is left (R257); 0: none. -/
def RecStream.nextPiece (x : RecStream) : Nat :=
  if pieceBytes ≤ x.unreleased then pieceBytes else if x.flush then x.unreleased else 0

/-- QUANTUM of a ring on magazine port `m` at a drain rate (R257). -/
def Dev.quantumOf (d : Dev) (m ds : Nat) : Nat := if d.portPace m = 0 then 1 else max 1 (256 * ds / d.portPace m)

/-- A PACED ring's slot is reached: a carried wait is entered again; else the ring takes up the D_s published before this
microsecond (R8, Table 13.8 case 8) and becomes active, or parks while it has nothing to release or D_s is 0. -/
def Dev.ringReached (d : Dev) (n : Nat) : Dev :=
  let r := d.ring n
  if r.carryUs ≠ 0 then
    let k := min r.carryUs 4095
    d.setRing n { r.enter (d.nowUs + k) with carryUs := r.carryUs - k }
  else
    match d.rec? (n - 12288) with
    | none => d.setRing n { r with inCal := false, parked := true }
    | some x =>
      let fresh := decide (x.dsAt / 1000 = d.nowUs) && decide (r.dsUsed ≠ 0)
      let ds := if fresh then r.dsUsed else x.ds
      let r := if ds = r.dsUsed then r else
        { r with dsUsed := ds, quantum := if r.output < 8 then d.quantumOf r.output ds else r.quantum }
      if x.nextPiece = 0 ∨ ds = 0 then d.setRing n { r with inCal := false, parked := true }
      else d.setRing n { r with inCal := false, parked := false, active := true }

/-- The wheel serves the slot of the present microsecond. -/
def Dev.calendarSlot (d : Dev) : Dev :=
  d.core.rings.foldl (fun (d : Dev) (p : Nat × Ring) =>
    if p.2.inCal ∧ p.2.slot = d.nowUs % 4096 then d.ringReached p.1 else d) d

/-! ## Deficit round robin (R257) -/

/-- A ring that may be visited: a PACED one whose slot was reached, or any ring with something to release while pacing is off. -/
def Dev.ringActive (d : Dev) (n : Nat) (r : Ring) : Bool :=
  r.en && (if r.paced && d.get .queue0 0 fQU_CFG_PACE_EN = 1 then r.active
    else (d.rec? (n - 12288)).any fun x => decide (x.nextPiece ≠ 0))

/-- Take `b` bytes of the entries at the front of a ring; `n` bounds them. -/
def popEnts : Nat → Nat → List RingEnt → List RingEnt
  | 0, _, es => es
  | _, _, [] => []
  | n + 1, b, e :: es => if e.len ≤ b then popEnts n (b - e.len) es else e :: es

/-- A piece that ends a chunk passes the chunk's charge to the port's in-flight allowance, and waits while that is full (R261). -/
def Dev.allowance (d : Dev) (x : RecStream) (b : Nat) : Bool :=
  8 ≤ x.par.port || (x.relAddr + b) % chunkBytes ≠ 0 ||
    d.core.cullet.held (magTag x.par.port) < d.core.cullet.quota (magTag x.par.port)

/-- Release one piece of `b` bytes of a stream: the ring's entries are consumed, a short piece ends the block (R275). -/
def Dev.releaseOne (d : Dev) (s b : Nat) (x : RecStream) : Dev :=
  let n := 12288 + s
  let r := d.ring n
  let total := r.ents.foldl (fun a e => a + e.len) 0
  let es := popEnts r.ents.length (total - x.unreleased + b) r.ents
  let r := { r with ents := es, deficit := r.deficit - (b : Int), head := (r.head + (r.ents.length - es.length)) % 65536, lastHead := d.free }
  let h := x.handleAt x.relAddr
  let e := x.relAddr + b
  let x := { x with
    pieces := x.pieces ++ [⟨x.relAddr, b, x.par.port, 0, 0, 0, d.free, false, false, false⟩],
    relAddr := roundUp e pieceBytes, wAddr := if b < pieceBytes then roundUp e pieceBytes else x.wAddr,
    flush := x.flush && decide (e < x.wAddr) }
  let d := (d.setRing n r).setRec s x
  if x.par.port < 8 ∧ e % chunkBytes = 0 then d.chargeTo h (magTag x.par.port) else d

/-- A paced ring takes its next eligible time after a piece of `b` bytes. -/
def Dev.paceAfter (d : Dev) (n b : Nat) : Dev :=
  let r := d.ring n
  if r.paced ∧ r.dsUsed ≠ 0 ∧ d.get .queue0 0 fQU_CFG_PACE_EN = 1 then
    d.enterWheel n { r with te := r.te + 8 * b * 65536 / r.dsUsed }
  else d

/-- Release pieces while they fit the deficit; `n` bounds them. -/
def Dev.releaseRun (s : Nat) : Nat → Dev → Dev
  | 0, d => d
  | k + 1, d =>
    match d.rec? s with
    | none => d
    | some x =>
      let n := 12288 + s
      let b := x.nextPiece
      if b = 0 then d.setRing n { d.ring n with deficit := 0 }
      else if (d.ring n).deficit < (b : Int) ∨ !d.allowance x b then d
      else Dev.releaseRun s k ((d.releaseOne s b x).paceAfter n b)

/-- One visit of an output's scheduler to its next active ring. -/
def Dev.drrVisit (d : Dev) (o : Nat) : Dev :=
  let rs := (d.core.rings.filter fun p => decide (12288 ≤ p.1 ∧ p.1 < 13824) && decide (p.2.output = o) && d.ringActive p.1 p.2).map (·.1)
  let last := (d.core.drr.lookup o).getD 0
  match ((rs.find? fun n => decide (last < n)).orElse fun _ => rs.head?) with
  | none => d
  | some n =>
    let d := { d with core := { d.core with drr := tset d.core.drr o n } }
    let r := d.ring n
    let d := d.setRing n { r with deficit := r.deficit + (r.quantum * 4096 : Nat) }
    let d := Dev.releaseRun (n - 12288) ((d.ring n).deficit.toNat / pieceBytes + 3) d
    let d := d.setRing n (let r := d.ring n; { r with active := r.active && !r.inCal })
    d.issuePieces (n - 12288)

/-! ## The published pace (R278) -/

/-- A paced ring of the port waits on the in-flight allowance. -/
def Dev.waitsAllowance (d : Dev) (m : Nat) : Bool :=
  (d.portStreams m).any fun p => (d.ring (12288 + p.1)).active && decide (p.2.nextPiece ≠ 0) && !d.allowance p.2 p.2.nextPiece

/-- One millisecond of the window in which the measured rate is judged. -/
def Dev.paceWindow (d : Dev) (m base : Nat) : Dev :=
  let x := d.mag m
  let blocked := x.blocked + (if d.waitsAllowance m then 1 else 0)
  if x.waitMs < 9 then d.setMag m { x with waitMs := x.waitMs + 1, blocked := blocked }
  else
    let rate := x.confBytes * 8 / 10000
    let meas :=
      if blocked = 10 then if rate * 10 < d.portPace m * 9 then some rate else x.measured
      else match x.measured with
        | some r => if base ≤ r + base / 100 then none else some (r + base / 100)
        | none => none
    d.setMag m { x with waitMs := 0, blocked := 0, confBytes := 0, measured := meas }

/-- Publish R_m of one port; the streams' drain rates follow. A port that has stopped draining keeps its figures. -/
def Dev.publishPort (d : Dev) (m : Nat) : Dev :=
  let rd := d.readSum m 4096
  let d := if d.get .marver1 0 fRC_PORT_SHORT m = 1 then d.bump .marver1 0 fRC_SHORTCNT_MS 1 m else d
  let d := d.set .mag m fMAG_READ_MBPS rd
  if d.get .mag m fMAG_STAT_STATE ≠ 4 then
    ((d.set .marver1 0 fRC_PACE_MBPS 0 m).set .mag m fMAG_PACE_MBPS 0 |> fun d => (d.recomputeDs m).refreshShort m)
  else if (d.mag m).stopped then d
  else
    let base := d.baseOf m
    let d := if d.core.cullet.quota (magTag m) = 0 then (d.grantQuota (magTag m) (d.get .cullet0 0 fCU_INFLIGHT_CHUNKS)).getD d else d
    let role := d.role m
    let d := if role = 0 then d.paceWindow m base else d
    let r := if role ≠ 0 then 0 else let p := d.paceWith m rd
      match (d.mag m).measured with
      | some q => min p q
      | none => p
    let d := (d.set .marver1 0 fRC_PACE_MBPS r m).set .mag m fMAG_PACE_MBPS (if role = 1 then base else r)
    (d.recomputeDs m).refreshShort m

/-- Every 1 ms (R278). -/
def Dev.pacePublish (d : Dev) : Dev := (List.range 8).foldl (fun (d : Dev) m => ((d.publishPort m).issuePort m).pumpReads m) d

/-! ## Short ports (R191) -/

/-- No record stream of the port that stays fails A1. -/
def Dev.portFits (d : Dev) (m : Nat) : Bool :=
  let xs := ((d.portStreams m).filter fun p => (d.slot p.1).closePend.isNone && decide ((d.slot p.1).state ≠ .draining)).map (·.2)
  let w := xs.foldl (fun a x => a + x.weight) 0
  xs.all fun x => x.a1 (shareOf (d.portPace m) x.weight w)

/-- Close a short port's streams in order until it fits. -/
def Dev.closeShort (m : Nat) : List Nat → Dev → Dev
  | [], d => d
  | s :: ss, d => if d.portFits m then d else Dev.closeShort m ss (d.closeLater s 3)

/-- The port has stayed short for SHORT_MS; a SHORT_MS of 0 disables the closes. -/
def Dev.portShortOver (d : Dev) (m : Nat) : Dev :=
  match (d.mag m).shortAt with
  | some t =>
    if d.get .marver1 0 fRC_PORT_SHORT m = 1 ∧ !(d.mag m).stopped ∧ d.get .marver0 0 fRC_CFG2_SHORT_MS ≠ 0 ∧ t + d.get .marver0 0 fRC_CFG2_SHORT_MS * 1000000 ≤ d.free then
      Dev.closeShort m (d.closeOrder ((d.portLive m).filter fun s => decide ((d.slot s).state ≠ .draining))) d
    else d
  | none => d

/-! ## Serving a stream's magazine (R296 to R304) -/

/-- Open the stream on its volume once its first picture has begun, or its End of Stream is due without one. -/
def Dev.openOnVol (d : Dev) (s : Nat) : Dev :=
  match d.rec? s with
  | none => d
  | some x =>
    if x.volPort.isSome ∨ (x.firstPic.isNone ∧ (d.slot s).state ≠ .draining) then d
    else if 8 ≤ x.par.port then d.setRec s { x with volPort := some x.par.port }
    else match (d.mag x.par.port).vol, d.core.take with
      | some v, some t =>
        if !v.recovered then d
        else
          let r := v.openTake d.free x.takeId Config.deviceSerial t.tStart
          let r2 := r.1.openStream d.free r.2 s x.hd.serial x.par.region (x.firstPic.getD 0) 0 none
          (d.setMag x.par.port { d.mag x.par.port with vol := some r2.1 }).setRec s { x with volPort := some x.par.port, snum := r2.2 }
      | _, _ => d

/-- Keep a stream's extents D_s × 200 ms ahead of its write position: committed within 50 ms (R294), they then stand D_s × 100 ms
ahead (R297). -/
def Dev.keepAhead (d : Dev) (s : Nat) : Dev :=
  match d.rec? s with
  | none => d
  | some x => match x.volPort with
    | some m => if m < 8 then
        d.modVol m fun v => Vol.extend x.snum (x.wAddr + x.ds * 25000 + pieceBytes) d.free 64 v else d
    | none => d

/-- A magazine is full (R304). -/
def Dev.magFull (d : Dev) (m : Nat) (v : Vol) : Bool :=
  decide (v.nAu - v.auNext < 16 + (d.portStreams m).foldl (fun a p => a + cdiv p.2.bs (2 ^ 26)) 0)

/-- What the firmware does for a mounted volume: a full slot is committed, 128 slots in use take a checkpoint, a full
magazine's streams move. -/
def Dev.serveVol (d : Dev) (m : Nat) : Dev :=
  match (d.mag m).vol with
  | none => d
  | some v =>
    let d := if 4093 ≤ v.waiting.length then d.commitVol m else d
    let d := if 128 ≤ v.slotsUsed ∧ !v.checkpoint then d.checkpointVol m else d
    let d := if v.recovered ∧ !v.full ∧ !(d.portLive m).isEmpty ∧ d.magFull m v then
        (d.modVol m fun v => { v with full := true }).nextExchange
      else d
    (d.pumpVol m).issuePort m

/-- A stream of a planned move whose earlier units are flushed and confirmed goes on at the target (R285). -/
def Dev.swapStream (d : Dev) (s : Nat) : Dev :=
  match d.rec? s, d.core.exchange with
  | some x, some e =>
    match x.swapPic, e.target with
    | some k, some n =>
      let begun := decide (k < x.nextIdx) || x.firstPic.isNone
      let clear := x.pics.all fun q => decide (k ≤ q.idx)
      if !begun ∨ !clear ∨ (d.slot s).state = .draining ∧ x.nextIdx ≤ k then d
      else if x.relAddr < x.wAddr then (d.setRec s { x with flush := true }).unpark (12288 + s) x.ds
      else if !x.pieces.isEmpty then d
      else
        let d := d.continueOn e.cause n s
        let d := d.setMag e.from_ { d.mag e.from_ with swapped := (d.mag e.from_).swapped + 1 }
        let d := if n < 8 then (d.commitVol n).issuePort n else d
        d.commitVol e.from_
    | _, _ => d
  | _, _ => d

/-- A planned move whose port holds no more streams seals it. -/
def Dev.swapDone (d : Dev) : Dev :=
  (List.range 8).foldl (fun (d : Dev) m =>
    if (d.mag m).swapTo.isSome ∧ (d.portLive m).isEmpty ∧ d.get .mag m fMAG_STAT_STATE = 4 then
      match (d.mag m).vol with
      | some v => if v.ops.contains .seal then d else (d.sealVol m).exchangeCheck
      | none => d
    else d) d

/-- A take starts on a magazine with the opening of a stream: its journal slot is committed (R294), so that the stream's first
extents stand before its first write (R297). -/
def Dev.takeOpened (d : Dev) (s : Nat) : Dev :=
  match (d.rec? s).bind (·.volPort) with
  | some m => if m < 8 then d.commitVol m else d
  | none => d

/-- Everything a serving controller does for a record stream at a scan. -/
def Dev.serveStream (d : Dev) (s : Nat) : Dev :=
  if !(d.slot s).state.live then d
  else
    let closed := (d.rec? s).any fun x => x.volPort.isNone
    let d := (((d.openOnVol s).swapStream s).serveRec s).keepAhead s
    let d := (if closed then d.takeOpened s else d).swapStream s |>.swapDone
    match (d.rec? s).bind (·.volPort) with
    | some m => if m < 8 then (d.serveVol m).advance s else d.advance s
    | none => d

/-- An entry has waited 50 ms (R294). -/
def Dev.journalWait (d : Dev) (m : Nat) : Dev :=
  match (d.mag m).vol with
  | some v => if !v.waiting.isEmpty ∧ v.waitAt + 50000000 ≤ d.free then d.commitVol m else d
  | none => d

end Sys2Proof.Machine
end

