-- ==== Sys2Proof/Machine/MountOps.lean ====
section
/-! DEFINITION. Mounting a magazine (R271, R272), its admin queue (R273), the recovery of its layout (R305, R306), reads, and the
magazine commands (R287). -/
namespace Sys2Proof.Machine

/-! ## Refusal and the steps up to link-up (Table 14.3) -/

/-- The magazine is refused with a cause (Table 14.4): the slot stays powered, the link up. -/
def Dev.refuseMag (d : Dev) (m cause : Nat) : Dev :=
  let x := d.mag m
  let d := (d.clearIos m).setMag m { x with admin := x.admin.filter fun a => a.cmd.isSome, ios := [], vol := none, rec_ := none, init := false }
  let d := ((d.magState m 5 cause).refreshOutst m).statBit .mag m 2
  (d.finishWaiters m 1 0 (d.mountResult m)).assertEvt (88 + m)

/-- Mounting begins: power to the slot, PERST_N held. -/
def Dev.mountStart (d : Dev) (m : Nat) : Dev :=
  let x := d.mag m
  let d := (d.clearIos m).setMag m { x with
    pwren := true, perstN := false, presentAt := some d.free, admin := [], ios := [], vol := none, rec_ := none }
  ((d.magState m 1 0).set .mag m fMAG_STAT_QPAIRS 0).set .mag m fMAG_LAT_MAX_US 0

/-- The filtered PRSNT_N changes (R270, R281). A magazine reseated while an exchange from its port runs is mounted after it
(Table 14.9 case 4). -/
def Dev.presence (d : Dev) (m : Nat) (present : Bool) : Dev :=
  if (d.get .mag m fMAG_STAT_PRESENT = 1) = present then d
  else
    let d := ((d.set .mag m fMAG_STAT_PRESENT (if present then 1 else 0)).statBit .mag m 0).assertEvt (96 + m)
    if present then
      if d.get .mag m fMAG_CFG_AUTO_MOUNT = 1 ∧ (d.core.exchange.all fun e => e.from_ ≠ m) then d.mountStart m
      else d.setMag m { d.mag m with presentAt := some d.free }
    else if d.get .mag m fMAG_STAT_STATE = 0 ∨ d.get .mag m fMAG_STAT_STATE = 6 then d else d.removePort m

/-- Magazines that waited for an exchange to end begin to mount. -/
def Dev.mountWaiting (d : Dev) : Dev :=
  if d.exchanging then d
  else (List.range 8).foldl (fun (d : Dev) m =>
    if d.get .mag m fMAG_STAT_PRESENT = 1 ∧ d.get .mag m fMAG_STAT_STATE = 6 ∧ (d.mag m).presentAt.isSome ∧
        d.get .mag m fMAG_CFG_AUTO_MOUNT = 1 then d.mountStart m else d) d

/-- PERST_N is released 100 ms after presence. -/
def Dev.perstRelease (d : Dev) (m : Nat) : Dev :=
  match (d.mag m).presentAt with
  | some t =>
    if d.get .mag m fMAG_STAT_STATE = 1 ∧ t + 100000000 ≤ d.free then
      (d.setMag m { d.mag m with perstN := true, presentAt := some d.free }).magState m 2 0
    else d
  | none => d

/-- The link is up: the controller is enabled (Table 14.3 step 4). -/
def Dev.magLinkUp (d : Dev) (m speed width : Nat) : Dev :=
  if d.get .mag m fMAG_STAT_STATE = 2 then
    ((d.set .mag m fMAG_STAT_SPEED speed).set .mag m fMAG_STAT_WIDTH width).magState m 3 0
  else d

/-- The link did not train within 100 ms of PERST_N release. -/
def Dev.magLinkTimeout (d : Dev) (m : Nat) : Dev :=
  match (d.mag m).presentAt with
  | some t => if d.get .mag m fMAG_STAT_STATE = 2 ∧ t + 100000000 ≤ d.free then d.refuseMag m 1 else d
  | none => d

/-! ## The admin queue (R273, Table 14.5) -/

/-- Issue admin commands. -/
def Dev.adminIssue (d : Dev) (m : Nat) (ops : List AdminOp) : Dev :=
  let d := d.setMag m { d.mag m with admin := (d.mag m).admin ++ ops }
  ops.foldl (fun (d : Dev) _ => d.submit m 0) d

/-- Queue pairs requested (R274). -/
def Dev.pairsAsked (d : Dev) (m : Nat) : Nat := min 256 (d.get .mag m fMAG_CFG2_QPAIRS_M1 + 1)

/-- The commands of Table 14.3 step 5 before the queue pairs: Identify, Power Management, temperature threshold, write cache, number
of queues. -/
def Dev.mountAdmin (d : Dev) (m : Nat) : Dev :=
  let n := d.pairsAsked m - 1
  d.adminIssue m [⟨6, 2, 1, none, 0, 4096⟩, ⟨6, 1, 2, none, 0, 4096⟩, ⟨6, 0, 3, none, 0, 4096⟩, ⟨9, 2, 4, none, 0, 0⟩, ⟨10, 4, 10, none, 0, 0⟩,
    ⟨10, 6, 6, none, 0, 0⟩, ⟨9, 7 + 256 * (n + 65536 * n), 5, none, 0, 0⟩]

/-- CSTS.RDY is 1: Identify, Set Features and queue creation follow; MPSMIN is that of CAP. -/
def Dev.magReady (d : Dev) (m mqes mpsmin : Nat) : Dev :=
  if d.get .mag m fMAG_STAT_STATE = 3 ∧ d.get .mag m fMAG_STAT_QPAIRS = 0 ∧ (d.mag m).admin.isEmpty then
    (d.setMag m { d.mag m with mqes := mqes, mpsmin := mpsmin, vwc := false }).mountAdmin m
  else d

/-- CSTS.RDY did not become 1 within CAP.TO, or CSTS.CFS is 1. -/
def Dev.magReadyTimeout (d : Dev) (m : Nat) : Dev :=
  if d.get .mag m fMAG_STAT_STATE = 3 ∧ d.get .mag m fMAG_STAT_QPAIRS = 0 ∧ (d.mag m).admin.isEmpty then d.refuseMag m 2 else d

/-- Rings of a port's queue pairs 0 to `q` are enabled (Table 13.1). -/
def Dev.enableRings (d : Dev) (m q depth : Nat) : Dev :=
  let k := max 4 (min 15 (Nat.log2 (depth - 1) + 1))
  (List.range (q + 1)).foldl (fun (d : Dev) i => [512 * m + i, 4096 + 512 * m + i].foldl (fun (d : Dev) n =>
    d.setRing n { Ring.rest with base := Config.ringBase n * 256, en := true, output := m, sizeLog2 := k, owner := 0x1800 + m,
                                 hist := (d.ring n).hist }) d) d

/-! ## Reading the layout (R305) -/

/-- Nothing read yet. -/
def Recovery.start : Recovery :=
  { stage := .supers, supA := [], chains := [], jSlot := 0, jSeq := 0, scan := [], addr := 0, pic := 0, lastPic := 0, endAddr := 0, buf := [],
    bufAddr := 0, tries := 0, jumped := false, inPic := false, row := 0 }

/-- Change the recovery of a port. -/
def Dev.modRec (d : Dev) (m : Nat) (f : Recovery → Recovery) : Dev :=
  d.setMag m { d.mag m with rec_ := (d.mag m).rec_.map f }

/-- Begin the scan of the next open stream, from its last INDEX entry or the one before it. -/
def Recovery.beginScan (r : Recovery) (v : Vol) : Recovery :=
  match r.scan with
  | [] => { r with stage := .done }
  | n :: _ =>
    match (v.stream? n).bind fun s => (s.index.reverse.drop r.tries).head?.map fun e => (e.1, e.2.1) with
    | some e => { r with addr := e.2, pic := e.1, lastPic := e.1, endAddr := e.2, buf := [], bufAddr := e.2, jumped := false, inPic := false, row := 0 }
    | none =>
      let a := ((v.stream? n).map (·.startAddr)).getD 0
      { r with addr := a, pic := ((v.stream? n).map (·.firstPic)).getD 0, lastPic := ((v.stream? n).map (·.lastPic)).getD 0, endAddr := a,
               buf := [], bufAddr := a, jumped := true, inPic := false, row := 0 }

/-- The stream's scan is over: its end is recorded and it reads STATE 4. A scan that found no trailer starts again from the INDEX
entry before. -/
def Recovery.endScan (r : Recovery) (v : Vol) : Recovery × Vol :=
  match r.scan with
  | [] => (r, v)
  | n :: ns =>
    let found := match (v.stream? n).bind fun s => (s.index.reverse.drop r.tries).head? with
      | some e => decide (e.2.1 < r.endAddr)
      | none => true
    if !found then (({ r with tries := r.tries + 1 } : Recovery).beginScan v, v)
    else
      let v := v.modStream n fun s => { s with state := 4, endAddr := r.endAddr, lastPic := r.lastPic }
      let v := match v.stream? n with
        | some s => v.touch s.take fun t => t
        | none => v
      (({ r with scan := ns, tries := 0 } : Recovery).beginScan v, v)

/-- Does a unit stand in the order of R167 at this point of a scan? -/
def Recovery.unitOk (r : Recovery) (u : List Byte) (slot : Nat) : Bool :=
  let typ := fieldLe u 4 1
  let p := fieldLe u 12 3
  unitValid u && unitSizeOk u && decide (fieldLe u 6 2 = slot) &&
    (match typ with
    | 2 => !r.inPic && decide (p = r.pic)
    | 3 => r.inPic && decide (p = r.pic ∧ fieldLe u 16 2 = r.row)
    | 4 => r.inPic && decide (p = r.pic)
    | 5 => r.inPic && decide (p = r.pic)
    | 15 => !r.inPic
    | 1 => r.jumped && !r.inPic && decide (r.addr = r.endAddr)
    | _ => false)

/-- Take a valid unit. The second result says that the stream ended. -/
def Recovery.takeUnit (r : Recovery) (u : List Byte) : Recovery × Bool :=
  let typ := fieldLe u 4 1
  let a := r.addr + u.length
  let r := { r with addr := a, buf := r.buf.drop u.length }
  match typ with
  | 2 => ({ r with inPic := true, row := 0 }, false)
  | 3 => ({ r with row := r.row + 1 }, false)
  | 4 => ({ r with inPic := false, endAddr := a, lastPic := r.pic, pic := picAdd r.pic 1 }, false)
  | 15 => ({ r with endAddr := a }, true)
  | _ => (r, false)

/-- Parse what has been read of the stream being scanned; `n` bounds the units. The last result says that more must be read. -/
def scanRun (slot : Nat) (mapped : Nat → Bool) : Nat → Recovery → Vol → Recovery × Vol × Bool
  | 0, r, v => (r, v, true)
  | n + 1, r, v =>
    let len := fieldLe r.buf 8 4
    let more := mapped r.bufAddr
    let plausible := decide (16 ≤ r.buf.length) && decide (fieldLe r.buf 0 4 = 0x57564331 ∧ len % 4 = 0 ∧ len ≤ 2 ^ 28)
    if r.buf.length < 16 ∧ more then (r, v, true)
    else if plausible ∧ r.buf.length < 16 + len ∧ more then (r, v, true)
    else
      let u := r.buf.take (16 + len)
      if plausible ∧ r.unitOk u slot then
        let t := r.takeUnit u
        if t.2 then let e := t.1.endScan v; (e.1, e.2, true) else scanRun slot mapped n t.1 v
      else
        let b := roundUp r.addr pieceBytes
        if r.addr < b ∧ mapped b then
          scanRun slot mapped n { r with addr := b, buf := r.buf.drop (b - r.addr), bufAddr := max b r.bufAddr } v
        else let e := r.endScan v; (e.1, e.2, true)

/-- The recovery is complete (R306): takes still open read STATE 3, streams continued elsewhere are closed there (R303), and the
result is committed as a checkpoint. -/
def Dev.recoveryEnd (d : Dev) (m : Nat) : Dev :=
  match (d.mag m).vol with
  | none => d
  | some v =>
    let others := (d.mountedPorts.filter (· ≠ m)).flatMap fun k => match (d.mag k).vol with
      | some w => w.streams.map fun t => (t, w)
      | none => []
    let v : Vol := { v with takes := v.takes.map fun (t : VolTake) => if t.state = 1 then { t with state := 3, changed := true } else t }
    let v : Vol := v.streams.foldl (fun (v : Vol) (s : VolStream) =>
      if s.state ≠ 4 ∨ s.nextVol ≠ 0 then v
      else
        let tid := ((v.takes.find? fun t => t.num = s.take).map fun t => (t.takeId, t.device)).getD (0, 0)
        match others.find? fun e => decide (e.1.prevVol = v.id ∧ e.1.slot = s.slot) &&
            e.2.takes.any fun t => decide (t.num = e.1.take ∧ t.takeId = tid.1 ∧ t.device = tid.2) with
        | some e =>
          let a := e.1.startAddr
          let v := v.log d.free (entContOut s.snum 1 e.2.id a)
          (v.modStream s.snum fun s => { s with state := 2, endAddr := a, nextVol := e.2.id }).touch s.take fun t => t
        | none => v) v
    let v : Vol := { v with streams := v.streams.map fun (s : VolStream) => { s with index := s.index.mergeSort fun a b => decide (a.2.1 ≤ b.2.1) } }
    (d.setMag m { d.mag m with vol := some (v.checkpointNow d.free (d.confOf m)) }).pumpVol m

/-- A volume's layout is read and its journal replayed: STATE 4 (Table 14.3 step 6). -/
def Dev.mountDone (d : Dev) (m : Nat) : Dev :=
  let d := ((d.magState m 4 0).statBit .mag m 1).assertEvt (88 + m)
  let d := (d.grantQuota (magTag m) (d.get .cullet0 0 fCU_INFLIGHT_CHUNKS)).getD d
  d.finishWaiters m 1 0 (d.mountResult m)

/-- Issue the next read of a recovery, passing through stages that need none; `n` bounds the stages. -/
def Dev.recNext (m : Nat) : Nat → Dev → Dev
  | 0, d => d
  | n + 1, d =>
    let x := d.mag m
    match x.rec_ with
    | none => d
    | some r =>
      let nUse := x.nsze / 32 * 32
      let rd := fun (lba blocks : Nat) => (d.startIo m 1 (.mount lba blocks)).1
      match r.stage, x.vol with
      | .supers, _ => if r.supA.isEmpty then rd 0 32 else rd (nUse - 64) 64
      | .dirs, some v =>
        (match r.chains with
        | c :: _ => rd c.1 32
        | [] => Dev.recNext m n (d.modRec m fun r => { r with
            stage := .maps, chains := (v.streams.filter fun s => s.mapLba ≠ 0).map fun s => (s.mapLba, s.snum) }))
      | .maps, some v =>
        (match r.chains with
        | c :: _ => rd c.1 32
        | [] =>
          let v : Vol := { v with streams := v.streams.map fun (s : VolStream) => { s with
            index := s.index.mergeSort (fun a b => decide (a.2.1 ≤ b.2.1)), extents := s.extents.mergeSort (fun a b => decide (a.2 ≤ b.2)) } }
          Dev.recNext m n (d.setMag m { x with vol := some v, rec_ := some { r with stage := .journal, jSlot := v.jrnTail, jSeq := v.jrnSeq } }))
      | .journal, some _ => rd (32 + 32 * r.jSlot) 32
      | .scan, some v =>
        (match r.scan with
        | k :: _ => (match (v.stream? k).bind fun s => s.lba r.bufAddr with
          | some lba => if r.buf.length < 16 ∨ r.buf.length < 16 + fieldLe r.buf 8 4 then rd (lba / 32 * 32) 32 else d
          | none =>
            let slot := ((v.stream? k).map (·.slot)).getD 0
            let t := scanRun slot (fun a => ((v.stream? k).bind fun s => s.lba a).isSome) (r.buf.length / 16 + 4) r v
            Dev.recNext m n (d.setMag m { x with vol := some t.2.1, rec_ := some t.1 }))
        | [] => Dev.recNext m n (d.modRec m fun r => { r with stage := .done }))
      | .done, some v => if v.checkpoint ∨ v.recovered then d else d.recoveryEnd m
      | _, none => d

/-- Stages and streams bound the passes of `recNext`. -/
def Dev.recGo (d : Dev) (m : Nat) : Dev :=
  Dev.recNext m (8 + 2 * (((d.mag m).vol.map fun v => v.streams.length + v.streams.foldl (fun a s => a + s.index.length) 0).getD 0)) d

/-- A read of a recovery completes with its data. -/
def Dev.recRead (d : Dev) (m : Nat) (data : List Byte) : Dev :=
  let x := d.mag m
  match x.rec_ with
  | none => d
  | some r =>
    match r.stage, x.vol with
    | .supers, _ =>
      if r.supA.isEmpty then (d.modRec m fun r => { r with supA := data.take pieceBytes }).recGo m
      else
        let cs := ([r.supA, data.take pieceBytes, (data.drop pieceBytes).take pieceBytes]).filter superOk
        match cs.foldl (fun (a : Option (List Byte)) c => match a with
          | some b => if fieldLe b 8 8 < fieldLe c 8 8 then some c else some b
          | none => some c) none with
        | none => d.refuseMag m 7
        | some b =>
          let v := Vol.ofSuper b
          let chains := (v.takes.filter fun t => decide (t.dirLba ≠ 0 ∧ t.pieces ≠ 0)).map fun t => (t.dirLba, t.num)
          (d.setMag m { x with vol := some v, rec_ := some { r with stage := .dirs, chains := chains } }).recGo m
    | .dirs, some v =>
      match r.chains with
      | [] => d.recGo m
      | c :: cs =>
        let b := data.take pieceBytes
        let ok := pieceOk v b 3
        let v := if ok then (pieceEntries b 64).foldl (fun (v : Vol) e => v.dirRecord c.2 e) v else v
        let link := fieldLe b 32 8
        let cs := if ok ∧ link ≠ 0 then (link, c.2) :: cs else cs
        let v : Vol := { v with takes := v.takes.map fun (t : VolTake) => { t with changed := false } }
        (d.setMag m { x with vol := some v, rec_ := some { r with chains := cs } }).recGo m
    | .maps, some v =>
      match r.chains with
      | [] => d.recGo m
      | c :: cs =>
        let b := data.take pieceBytes
        let ok := pieceOk v b 2
        let v := if ok then (pieceEntries b 32).foldl (fun (v : Vol) e => v.mapEntry c.2 e) v else v
        let link := fieldLe b 32 8
        let cs := if ok ∧ link ≠ 0 then (link, c.2) :: cs else cs
        (d.setMag m { x with vol := some v, rec_ := some { r with chains := cs } }).recGo m
    | .journal, some v =>
      let b := data.take pieceBytes
      if pieceOk v b 1 ∧ fieldLe b 8 8 = r.jSeq ∧ r.jSeq < v.jrnSeq + 256 then
        let v := (pieceEntries b 32).foldl (fun (v : Vol) e => v.replay e) v
        (d.setMag m { x with
          vol := some v, rec_ := some { r with jSlot := (r.jSlot + 1) % 256, jSeq := r.jSeq + 1 } }).recGo m
      else
        let v := { v with jrnNext := r.jSlot, jrnNextSeq := r.jSeq }
        let r := ({ r with stage := .scan, scan := (v.streams.filter fun s => s.state = 1).map (·.snum) } : Recovery).beginScan v
        ((d.setMag m { x with vol := some v, rec_ := some r }).mountDone m).recGo m
    | .scan, some v =>
      match r.scan with
      | [] => d.recGo m
      | k :: _ =>
        let slot := ((v.stream? k).map (·.slot)).getD 0
        let got := data.drop (r.bufAddr % pieceBytes)
        let r := { r with buf := r.buf ++ got, bufAddr := r.bufAddr + got.length }
        let t := scanRun slot (fun a => ((v.stream? k).bind fun s => s.lba a).isSome) (r.buf.length / 16 + 4) r v
        (d.setMag m { x with vol := some t.2.1, rec_ := some t.1 }).recGo m
    | _, _ => d

/-- The queue pairs exist: with INIT the namespace is deallocated, else its layout is read (Table 14.3 step 6). -/
def Dev.mountLayout (d : Dev) (m : Nat) : Dev :=
  if (d.mag m).init then (d.startIo m 1 .dsm).1
  else (d.setMag m { d.mag m with rec_ := some Recovery.start }).recGo m

/-- Dataset Management completes: the new empty layout is written (R272, R292). -/
def Dev.dsmDone (d : Dev) (m status : Nat) : Dev :=
  match (d.mag m).ios.find? fun c => c.kind = .dsm with
  | none => d
  | some c =>
    let d := d.dropIo m c
    if status ≠ 0 then (d.magCmdErr m).refuseMag m 8
    else
      let x := d.mag m
      (d.setMag m { x with init := false, rec_ := none, vol := some (Vol.init (Config.volumeId Config.deviceSerial d.now) x.nsze d.now) }).pumpVol m

/-- MDTS in bytes holds 128 KiB; 0 states no limit. -/
def mdtsOk (mdts mpsmin : Nat) : Bool := mdts = 0 || decide (131072 ≤ 2 ^ (min mdts 32 + 12 + mpsmin))

/-- The namespace's format in use: 4,096-byte blocks, no metadata. -/
def formatOk (ns : List Byte) : Bool :=
  let o := 128 + 4 * (fieldLe ns 26 1 % 16)
  decide (fieldLe ns (o + 2) 1 = 12 ∧ fieldLe ns o 2 = 0)

/-- What a completed admin command of a mount brings. -/
def Dev.mountStep (d : Dev) (m purpose arg dw0 : Nat) (data : List Byte) : Dev :=
  let x := d.mag m
  match purpose with
  | 1 =>
    let ids := (List.range 1024).map fun i => fieldLe data (4 * i) 4
    if ids.head? = some 1 ∧ (ids.drop 1).all (· = 0) then d else d.refuseMag m 3
  | 2 => d.setMag m { x with mdts := fieldLe data 77 1 }
  | 3 =>
    let n := fieldLe data 0 8
    let d := ((d.setMag m { x with nsze := n }).set .mag m fMAG_NSZE_LO_LBAS_LO n).set .mag m fMAG_NSZE_HI_LBAS_HI (n / 2 ^ 32)
    if !formatOk data then d.refuseMag m 4
    else if !mdtsOk x.mdts x.mpsmin ∨ x.mpsmin ≠ 0 then d.refuseMag m 5
    else d
  | 6 => d.setMag m { x with vwc := dw0 % 2 = 1 }
  | 5 =>
    let q := min (d.pairsAsked m) (min (dw0 % 65536 + 1) (dw0 / 65536 + 1))
    if q < 2 ∨ x.mqes < 63 then d.refuseMag m 6
    else
      let d := d.setMag m { x with pairs := q }
      d.adminIssue m ((List.range q).flatMap fun i => [⟨5, i + 1, 7, none, 0, 0⟩, ⟨1, i + 1, 8, none, 0, 0⟩])
  | 8 =>
    if arg = x.pairs then
      let depth := min (x.mqes + 1) 1024
      ((((d.set .mag m fMAG_STAT_QPAIRS arg).set .mag m fMAG_QDEPTH_DEPTH depth).enableRings m arg depth)).mountLayout m
    else d
  | _ => d

/-- An admin command completes (R273, R287). -/
def Dev.adminDone (d : Dev) (m status dw0 : Nat) (data : List Byte) : Dev :=
  let x := d.mag m
  match x.admin with
  | [] => d
  | a :: rest =>
    let d := (d.setMag m { x with admin := rest }).takeCompletion m 0
    let d := if status = 0 then d else d.magCmdErr m
    match a.cmd with
    | some c =>
      if status = 0 then
        (d.writeHost a.host (data.take a.len)).finishCmd c.1 c.2 0 (if a.purpose = 11 then BitVec.ofNat 32 (min a.len data.length) else 0)
      else d.finishCmd c.1 c.2 10
    | none =>
      if a.purpose = 9 then
        if status = 0 ∧ fieldLe data 0 1 ≠ 0 then ((d.raise (1780 + 2 * m) (0x800 + m)).statBit .mag m 8).assertEvt (88 + m) else d
      else if 13 ≤ a.purpose ∨ d.get .mag m fMAG_STAT_STATE ≠ 3 then d
      else if status ≠ 0 then d.refuseMag m 8
      else d.mountStep m a.purpose a.arg dw0 data

/-- Every 1 s: SMART log and temperature of each mounted magazine. -/
def Dev.smartPoll (d : Dev) : Dev :=
  (List.range 8).foldl (fun (d : Dev) m =>
    if d.get .mag m fMAG_STAT_STATE = 4 then d.adminIssue m [⟨2, 2, 9, none, 0, 512⟩, ⟨10, 4, 10, none, 0, 0⟩] else d) d

/-! ## Reads (R274, R277) -/

/-- A read completes: its data goes to its stream, or the failure does. -/
def Dev.readDone (d : Dev) (m pair cid status : Nat) (data : List Byte) : Dev :=
  match (d.mag m).ios.find? fun c => decide (c.pair = pair ∧ c.cid = cid) with
  | none => d
  | some c =>
    match c.kind with
    | .mount _ _ =>
      let d := d.dropIo m c
      if status = 0 then (d.bump .mag m fMAG_RD_CNT_READS).recRead m data
      else
        let d := d.magCmdErr m
        if d.get .mag m fMAG_STAT_STATE = 3 then
          match (d.mag m).rec_ with
          | some r => if r.stage = RecStage.supers then d.recRead m (List.replicate (2 * pieceBytes) 0#8) else d.recRead m (List.replicate pieceBytes 0#8)
          | none => d
        else d.recRead m (List.replicate pieceBytes 0#8)
    | .read s a h =>
      let d := d.dropIo m c
      let d := if status = 0 then d.bump .mag m fMAG_RD_CNT_READS else d.magCmdErr m
      match d.dec? s with
      | none => d
      | some x =>
        let snum := (d.mag m).vol.bind (·.stream? x.snum)
        let e := readEnd ((snum.map (·.fills)).getD []) (d.sourceEnd x) a
        let d := if status = 0 then d.writeDram (d.chunkBase h) (data.take pieceBytes) else d
        let d := if d.core.cullet.holds.contains (h, s) then d.releaseHold h s else d
        if !x.reading ∨ x.rAddr ≠ a then d.pumpRead s
        else if status = 0 then (((d.decBytes s ((data.drop (a % 4096)).take (e - a))).pumpRead s).decEnd s)
        else d.sourceFailed s status
    | _ => d

/-! ## Magazine commands (R287) -/

/-- A stream of any kind works on the port. -/
def Dev.portBusy (d : Dev) (m : Nat) : Bool :=
  !(d.portLive m).isEmpty || (d.core.decs.any fun p => p.2.par.source = 0 && decide (p.2.port = m) && (d.slot p.1).state.live) ||
    (d.core.hosted.any fun h => h.port = m) || d.core.served.any fun v => v.port = m

/-- MAG_MOUNT for the command `c` = (mailbox, id). -/
def Dev.magMount (d : Dev) (c : Nat × Nat) (m : Nat) (init : Bool) : Dev :=
  let st := d.get .mag m fMAG_STAT_STATE
  let wait := fun (d : Dev) => d.setMag m { d.mag m with waiters := (d.mag m).waiters ++ [(1, c.1, c.2)], init := init }
  if d.get .mag m fMAG_STAT_PRESENT = 0 then d.finishCmd c.1 c.2 5
  else if st = 4 then
    if !init then d.finishCmd c.1 c.2 0 (d.mountResult m)
    else if d.portBusy m then d.finishCmd c.1 c.2 4
    else
      let d := wait d
      let d := d.clearIos m
      let d := d.setMag m { d.mag m with vol := none, rec_ := none, ios := [] }
      ((d.magState m 3 0).dropQuota (magTag m)).mountLayout m
  else if st = 7 then
    let d := (wait d).magState m 3 0
    d.mountAdmin m
  else if st = 1 ∨ st = 2 ∨ st = 3 then wait d
  else (wait d).mountStart m

/-- MAG_UNMOUNT. -/
def Dev.magUnmount (d : Dev) (c : Nat × Nat) (m : Nat) : Dev :=
  let st := d.get .mag m fMAG_STAT_STATE
  if st = 7 then d.finishCmd c.1 c.2 0
  else if st ≠ 4 then d.finishCmd c.1 c.2 5
  else if d.portBusy m then d.finishCmd c.1 c.2 4
  else (d.setMag m { d.mag m with waiters := (d.mag m).waiters ++ [(2, c.1, c.2)] }).sealVol m

/-- MAG_SWAP: while another exchange runs it is not permitted. -/
def Dev.magSwap (d : Dev) (c : Nat × Nat) (m n : Nat) : Dev :=
  if d.get .mag m fMAG_STAT_STATE ≠ 4 ∨ d.get .mag n fMAG_STAT_STATE ≠ 4 ∨ d.role n ≠ 1 ∨ m = n ∨ d.exchanging ∨ !d.mounted n then
    d.finishCmd c.1 c.2 5
  else
    let slots := d.portLive m
    let d := d.setMag m { d.mag m with swapTo := some n, swapCmd := some c, swapped := 0 }
    let d := ((d.bump .mag m fMAG_XCHG_COUNT).set .mag m fMAG_XCHG_STREAMS (min 255 slots.length)).set .mag m fMAG_XCHG_OUTCOME 0
    let d := ((d.set .mag m fMAG_XCHG_TARGET n).statBit .mag m 6).set .mag n fMAG_CFG_ROLE 0
    let d := ((d.setExchange (some ⟨m, slots, some n, 3, d.free, false⟩)).refreshMode).markSwap slots
    (slots.foldl (fun (d : Dev) s => d.swapStream s) d).swapDone

/-- Order a flush of every record stream of a port (R280). -/
def Dev.flushPort (d : Dev) (m : Nat) : Dev :=
  (d.portLive m).foldl (fun (d : Dev) s => match d.rec? s with
    | none => d
    | some x =>
      let to_ := if x.relAddr < x.wAddr then x.wAddr else (x.pieces.getLast?.map fun q => q.addr + q.len).getD 0
      (d.setRec s { x with flush := decide (x.relAddr < x.wAddr), flushTo := to_ }).unpark (12288 + s) x.ds) d

/-- MAG_FLUSH. -/
def Dev.magFlush (d : Dev) (c : Nat × Nat) (m : Nat) : Dev :=
  if d.get .mag m fMAG_STAT_STATE ≠ 4 then d.finishCmd c.1 c.2 5
  else ((d.setMag m { d.mag m with waiters := (d.mag m).waiters ++ [(3, c.1, c.2)] }).flushPort m).flushCheck m

/-- The admin queue of a port can carry a command: a magazine is powered with its controller ready. -/
def Dev.adminUp (d : Dev) (m : Nat) : Bool :=
  let s := d.get .mag m fMAG_STAT_STATE
  (s = 4 ∨ s = 5 ∨ s = 7) && decide (2 ≤ (d.mag m).mqes)

/-- MAG_LOG and MAG_IDENT: one admin command (R287). -/
def Dev.magAdmin (d : Dev) (c : Nat × Nat) (m : Nat) (op : AdminOp) : Dev :=
  if d.adminUp m then d.adminIssue m [{ op with cmd := some c }] else d.finishCmd c.1 c.2 5

end Sys2Proof.Machine
end

