-- ==== Sys2Proof/Machine/ProxyOps.lean ====
section
/-! DEFINITION. Proxy streams (chapter 11): admission and placement, the picture path, slices and replacements, RTP and RTCP. -/
namespace Sys2Proof.Machine

/-! ## Parameters and admission (R218, R226) -/

/-- The arm parameters of ARM_PROXY. -/
def proxyParams (w : List Word) : ProxyParams :=
  { srcKind := argF w 2 28 28, srcSlot := argF w 2 24 15, net := argF w 2 27 27, outW := argF w 3 31 16, outH := argF w 3 15 0,
    picDiv := argF w 4 15 11, profile := argF w 2 26 26, gop := argF w 4 31 16, rcMode := argF w 2 25 25, bitrate := argF w 5 31 14,
    cpbMs := argF w 5 13 5, sliceRows := argF w 4 10 6, gain := [argF w 6 15 0, argF w 6 31 16, argF w 7 15 0],
    lutAddr := argF w 8 31 6 * 64 + argF w 9 31 0 * 2 ^ 32, vuiTc := argF w 7 31 24, mtu := argF w 15 13 0, pt := argF w 12 15 9,
    ssrc := argF w 13 31 0, tsOffset := argF w 14 31 0 }

/-- The demosaic grid (R220). -/
def Geo.pxW (g : Geo) : Nat := if g.layout = 2 then g.w / 3 else g.w / 2
def Geo.pxH (g : Geo) : Nat := if g.layout = 2 then g.h else g.h / 2
/-- Grid lines of one tile row. -/
def Geo.pxRow (g : Geo) : Nat := g.hT / (if g.layout = 2 then 1 else 2)

/-- CPB size in bits: kb/s × ms. -/
def ProxyParams.cpbBits (p : ProxyParams) : Nat := p.bitrate * p.cpbMs
/-- CTUs of a proxy picture, its CTU rows and its slices. -/
def ProxyParams.ctuRows (p : ProxyParams) : Nat := cdiv p.outH 32
def ProxyParams.ctus (p : ProxyParams) : Nat := cdiv p.outW 32 * p.ctuRows
def ProxyParams.slices (p : ProxyParams) : Nat := cdiv p.ctuRows (max 1 p.sliceRows)
/-- Bits of the flat IDR picture (R223). -/
def ProxyParams.flatBits (p : ProxyParams) : Nat := 48 * p.ctus + 2048 * 8
/-- Pixels per second, over 1. -/
def pixRate (p : ProxyParams) (num den : Nat) : Nat := cdiv (p.outW * p.outH * num) (den * p.picDiv)

/-- Offset of the IP header in a template: after one 802.1Q tag at most. -/
def tplIp (t : List Byte) : Nat := if fieldBe t 12 2 = 0x8100 then 18 else 14
/-- A template is IPv6. -/
def tplV6 (t : List Byte) : Bool := fieldBe t (tplIp t - 2) 2 = 0x86DD
/-- Offset of its UDP header. -/
def tplUdp (t : List Byte) : Nat := tplIp t + if tplV6 t then 40 else 20
/-- The structure of R225. -/
def tplOk (t : List Byte) : Bool :=
  let o := tplIp t
  decide (42 ≤ t.length ∧ t.length ≤ 128 ∧ t.length = tplUdp t + 8) &&
    (if tplV6 t then decide (fieldBe t o 1 / 16 = 6 ∧ fieldBe t (o + 6) 1 = 17)
     else decide (fieldBe t (o - 2) 2 = 0x0800 ∧ fieldBe t o 1 = 0x45 ∧ fieldBe t (o + 9) 1 = 17))

/-- Ranges of Table 11.1 for a source of geometry `g`, with the scale and CPB rules (check 0x11). -/
def ProxyParams.ok (p : ProxyParams) (g : Geo) (tpl : List Byte) : Bool :=
  decide (p.srcSlot ≤ 1023 ∧ p.outW % 8 = 0 ∧ 64 ≤ p.outW ∧ p.outW ≤ 8192 ∧ p.outH % 8 = 0 ∧ 64 ≤ p.outH ∧ p.outH ≤ 4352 ∧
    p.outW * p.outH ≤ 35651584 ∧ 1 ≤ p.picDiv ∧ p.picDiv ≤ 16 ∧ 1 ≤ p.gop) &&
  decide (500 ≤ p.bitrate ∧ p.bitrate ≤ 240000 ∧ 20 ≤ p.cpbMs ∧ p.cpbMs ≤ 500 ∧ 1 ≤ p.sliceRows ∧ p.sliceRows ≤ 16 ∧
    576 ≤ p.mtu ∧ p.mtu ≤ 9000 ∧ 96 ≤ p.pt ∧ p.pt ≤ 127) &&
  decide (p.outW ≤ g.pxW ∧ g.pxW ≤ 8 * p.outW ∧ p.outH ≤ g.pxH ∧ g.pxH ≤ 8 * p.outH ∧ 2 * p.flatBits ≤ p.cpbBits) && tplOk tpl

/-- Where the scaler reads for output position `o` of `n`, from an axis of `m`: the sample nearest the position and the phase of 64;
the taps are the one before it and the two after it (DESIGN CHOICE, log entry 29: as Table 11.3 has it). -/
def scalePos (o n m : Nat) : Int × Nat :=
  let num : Int := (2 * o + 1) * m - n
  let q := (64 * num) / (2 * n)
  ((q + 32) / 64, (q % 64).toNat)

/-- Output pixels that a source's last unit of completion can still reach (R226). -/
def backlogOf (p : ProxyParams) (g : Geo) : Nat :=
  if p.srcKind = 1 then p.outW * p.outH
  else
    let r0 := (g.trows - 1) * g.pxRow
    let first := ((List.range p.outH).find? fun o => decide ((r0 : Int) ≤ (scalePos o p.outH g.pxH).1 + 2)).getD 0
    (p.outH - first / 32 * 32) * p.outW

/-- The live proxies other than slot `s`. -/
def Dev.liveProxies (d : Dev) (s : Nat) : List (Nat × ProxyStream) :=
  d.core.proxies.filter fun p => decide (p.1 ≠ s) && (d.slot p.1).state.live

/-- Pixel rate, streams and backlog of an engine, without slot `s`. -/
def Dev.engineUse (d : Dev) (e s : Nat) : Nat × Nat × Nat :=
  ((d.liveProxies s).filter fun p => p.2.engine = e).foldl (fun a p =>
    (a.1 + pixRate p.2.par p.2.num p.2.den, a.2.1 + 1, a.2.2 + backlogOf p.2.par p.2.geo)) (0, 0, 0)

/-- An engine works. -/
def Dev.engineWorks (d : Dev) (e : Nat) : Bool := !(d.get .fault3 0 fFC_WD_OTHER_PROXY).testBit e

/-- The engine for a proxy (R226): none qualifies, or the port limits fail. -/
def Dev.placeProxy (d : Dev) (s : Nat) (p : ProxyParams) (g : Geo) (num den : Nat) : Option Nat :=
  let net := (d.liveProxies s).filter fun q => q.2.par.net = p.net
  let cpb := net.foldl (fun a q => a + cdiv q.2.par.cpbBits 8) (cdiv p.cpbBits 8)
  let rate := net.foldl (fun a q => a + q.2.par.bitrate) p.bitrate
  if 12500000 < cpb ∨ 80000000 * 100 < rate * 105 then none
  else (List.range 4).find? fun e =>
    let u := d.engineUse e s
    d.engineWorks e && decide (u.1 + pixRate p num den ≤ 1000000000 ∧ u.2.1 + 1 ≤ 64 ∧ u.2.2 + backlogOf p g ≤ 2800000)

/-- The source of a proxy: geometry, picture rate, and that it is live. -/
def Dev.proxySource (d : Dev) (s : Nat) (p : ProxyParams) : Option (Geo × Nat × Nat) :=
  if p.srcKind = 0 then
    match d.rec? p.srcSlot with
    | some x =>
      let n := (d.liveProxies s).countP fun q => decide (q.2.par.srcKind = 0 ∧ q.2.par.srcSlot = p.srcSlot)
      if (d.slot p.srcSlot).state.live ∧ n < 2 then some (x.decl.geo, x.decl.num, x.decl.den) else none
    | none => none
  else (d.core.decs.find? fun e => decide (e.2.par.proxySlot = s ∧ e.2.par.dest / 2 % 2 = 1) && (d.slot e.1).state.live).map fun e =>
    (e.2.hdr.geo, e.2.hdr.num, e.2.hdr.den)

/-- ARM_PROXY with its template bytes. The second result is the check code. A source that is not live, or a third live proxy of one record
stream, fails check 0x11 (DESIGN CHOICE, log entry 29). -/
def Dev.armProxy (d : Dev) (s prio : Nat) (p : ProxyParams) (seq0 : Nat) (tpl : List Byte) : Dev × Nat :=
  let no := fun (c : Nat) => (d.refuseArm s c, c)
  match d.proxySource s p with
  | none => no 0x11
  | some (g, num, den) =>
    let m := d.base
    let rs := d.others s
    let pix := pixRate p num den
    if !p.ok g tpl then no 0x11
    else if s < 1280 ∨ 1536 ≤ s ∨ (d.slot s).state ≠ .idle then no 1
    else if !(if p.srcKind = 0 then m = 2 ∨ m = 3 ∨ m = 5 else m = 4 ∨ m = 5 ∨ m = 6) ∨ d.exchanging ∨ d.safeHold then no 2
    else if d.askedOff (0xA6 + p.net) then no 5
    else if 256 ≤ (d.liveProxies s).length ∨ 4000000000 < sumResv rs (·.pix) + pix then no 15
    else match d.placeProxy s p g num den with
      | none => no 0x14
      | some e =>
        let x : ProxyStream :=
          { par := p, tpl := tpl, engine := e, geo := g, num := num, den := den, nSrc := 0, srcLast := none, nPic := 0, sinceIdr := 0,
            forceIdr := true, cur := none, seq := seq0, ipId := 0, cpb := 0, cpbAt := 0, packets := 0, octets := 0, bytes := 0,
            queue := [], srcEnded := false }
        let v : Resv := { Resv.none with quad := 4, pix := pix, doms := [0xA6 + p.net, 0xA8 + e] }
        ((d.armSlot s prio (d.ctlFor (s % 8)) v).setProxy s x, 0)

/-! ## The picture path (R220, R221) -/

/-- One channel value through white balance and the transfer table. -/
def Dev.lutValue (d : Dev) (p : ProxyParams) (depth ch c : Nat) : Nat :=
  let c := min (c * p.gain.getD ch 0 / 4096) (2 ^ depth - 1)
  let i := if 12 ≤ depth then c / 2 ^ (depth - 12) else c * 2 ^ (12 - depth)
  fieldLe (d.readDram (p.lutAddr + 2 * i) 2) 0 2 % 1024

/-- The RGB pixel of a cell from its canonical samples. -/
def demosaic (layout : Nat) (s : List Nat) : List Nat :=
  if layout = 0 then [s.getD 0 0, (s.getD 1 0 + s.getD 2 0 + 1) / 2, s.getD 3 0]
  else if layout = 1 then
    let v := (s.getD 0 0 + s.getD 1 0 + s.getD 2 0 + s.getD 3 0 + 2) / 4
    [v, v, v]
  else [s.getD 0 0, s.getD 1 0, s.getD 2 0]

/-- Canonical samples of the cell at grid position (x, y). -/
def cellSamples (g : Geo) (smp : Nat → Nat → Nat) (x y : Nat) : List Nat :=
  if g.layout = 2 then (List.range 3).map fun j => smp (3 * x + j) y
  else (List.range 4).map fun j => smp (2 * x + j % 2) (2 * y + j / 2)

/-- Clamp a grid coordinate. -/
def clampTo (n : Nat) (v : Int) : Nat := (clampI 0 ((n : Int) - 1) v).toNat

/-- The scaled RGB value of one channel at an output pixel: four taps down, four across. -/
def scaled (p : ProxyParams) (g : Geo) (px : Nat → Nat → Nat) (ox oy : Nat) : Nat :=
  let sx := scalePos ox p.outW g.pxW
  let sy := scalePos oy p.outH g.pxH
  let col := fun (k : Int) => Config.scalerTap ((List.range 4).map fun (i : Nat) =>
    px (clampTo g.pxW k) (clampTo g.pxH (sy.1 + (i : Int) - 1))) sy.2 g.pxH p.outH % 1024
  Config.scalerTap ((List.range 4).map fun (i : Nat) => col (sx.1 + (i : Int) - 1)) sx.2 g.pxW p.outW % 1024

/-- BT.709 limited range (R221). -/
def toYCbCr (r g b : Int) : Int × Int × Int :=
  (64 + (186 * r + 627 * g + 63 * b + 512) / 1024, 512 + (-103 * r - 346 * g + 449 * b + 512) / 1024,
    512 + (449 * r - 407 * g - 42 * b + 512) / 1024)

/-- The luma, Cb and Cr planes of a picture whose canonical samples are `smp` (R220, R221). -/
def Dev.proxyPlanes (d : Dev) (p : ProxyParams) (g : Geo) (smp : Nat → Nat → Nat) : List (List Nat) :=
  let px := fun (ch x y : Nat) => d.lutValue p g.d ch ((demosaic g.layout (cellSamples g smp x y)).getD ch 0)
  let ycc := (List.range p.outH).flatMap fun y => (List.range p.outW).map fun x =>
    toYCbCr (scaled p g (px 0) x y) (scaled p g (px 1) x y) (scaled p g (px 2) x y)
  let a := ycc.toArray
  let at_ := fun (x y : Nat) => a.getD (y * p.outW + x) (0, 0, 0)
  let vs := if p.profile = 0 then 2 else 1
  let chroma := fun (f : Int × Int × Int → Int) => (List.range (p.outH / vs)).flatMap fun y => (List.range (p.outW / 2)).map fun x =>
    let s := (List.range (2 * vs)).map fun i => f (at_ (2 * x + i % 2) (vs * y + i / 2))
    ((s.foldl (· + ·) 0 + (vs : Int)) / (2 * (vs : Int))).toNat
  [ycc.map fun v => v.1.toNat, chroma (·.2.1), chroma (·.2.2)]

/-! ## Starting a picture (R218, R222, R223) -/

/-- A source picture that a proxy has not met: its number, place in the source, T0, when it completed, its samples, its absent rows. -/
structure SrcPic where
  pic : Nat
  t0 : Nat
  doneAt : Nat
  absent : Nat
  live : Bool

/-- The oldest source picture that has completed and that the proxy has not met. -/
def Dev.nextSrcPic (d : Dev) (s : Nat) (x : ProxyStream) : Option (SrcPic × (Nat → Nat → Nat)) :=
  let g := x.geo
  let met := fun (p : Nat) => match x.srcLast with
    | some l => !decide (1 ≤ picAhead p l ∧ picAhead p l < 2 ^ 23)
    | none => false
  if x.par.srcKind = 0 then
    (d.rec? x.par.srcSlot).bind fun r => (r.pics.find? fun q => !met q.pic && q.rows.all fun w => w.closed ≠ 0).map fun q =>
      (⟨q.pic, q.t0, q.rows.foldl (fun a w => max a w.closedAt) 0, q.rows.countP fun w => w.closed = 2, true⟩,
        fun a b => if (q.row (b / g.hT)).closed = 2 then 0 else (q.sampleAt g a b).toNat)
  else
    (d.core.decs.find? fun e => decide (e.2.par.proxySlot = s ∧ e.2.par.dest / 2 % 2 = 1)).bind fun e =>
      (e.2.outs.find? fun o => o.released && o.proxy).map fun o =>
        (⟨o.pic, o.hdr.t0, o.relAt, o.rows.countP fun w => w.bound = 0xFFFE, false⟩, outSample g o.rows)

/-- A decode source gives a picture up. -/
def Dev.takeFromDecode (d : Dev) (s pic : Nat) : Dev :=
  match d.core.decs.find? fun e => decide (e.2.par.proxySlot = s ∧ e.2.par.dest / 2 % 2 = 1) with
  | none => d
  | some (n, x) =>
    let d := d.setDec n { x with outs := x.outs.map fun o => if o.pic = pic then { o with proxy := false } else o }
    (d.decSweep n).decRun n

/-- Bits in the CPB now, filled at BITRATE up to its size; 90 % at the first picture (R223). -/
def Dev.cpbNow (d : Dev) (x : ProxyStream) : Nat :=
  if x.nPic = 0 then x.par.cpbBits * 9 / 10 else min x.par.cpbBits (x.cpb + (d.free - x.cpbAt) * x.par.bitrate / 1000000)

/-- Bits of a picture as coded. -/
def picBits (s num : Nat) (idr : Bool) (subst n : Nat) (planes : List (List Nat)) : Nat :=
  let pre := (Config.h265Before s num idr).foldl (fun a u => a + 8 * u.length) 0
  (List.range n).foldl (fun a i => a + 8 * (Config.h265Slice s num idr subst i planes).length) pre

/-- A source picture becomes available to a proxy: every PIC_DIV-th is coded, or replaced when it would overrun the CPB. -/
def Dev.proxyPicture (d : Dev) (s : Nat) : Dev :=
  match d.proxy? s with
  | none => d
  | some x =>
    let sl := d.slot s
    if !(sl.state = .armed ∨ sl.state = .running) ∨ x.cur.isSome then d
    else match d.nextSrcPic s x with
      | none => d
      | some (q, smp) =>
        let x := { x with nSrc := x.nSrc + 1, srcLast := some q.pic }
        let d := if q.live then d else d.takeFromDecode s q.pic
        if (x.nSrc - 1) % x.par.picDiv ≠ 0 then d.setProxy s x
        else
          let d := d.setSlot s { sl with state := .running }
          let planes := d.proxyPlanes x.par x.geo smp
          let idr := x.forceIdr || decide (x.par.gop ≤ x.sinceIdr)
          let room := d.cpbNow x
          let tooBig := decide (room < picBits s x.nPic idr 0 x.par.slices planes)
          let subst := if !tooBig then 0 else if x.nPic = 0 then 2 else 1
          let isIdr := idr && decide (subst ≠ 1)
          let bits := picBits s x.nPic isIdr subst x.par.slices planes
          let d := if subst = 1 then (d.bump .proxy x.engine fPX_SUBST_SKIP).statBit .proxy x.engine 1
            else if subst = 2 then (d.bump .proxy x.engine fPX_SUBST_FLAT_IDR).statBit .proxy x.engine 2 else d
          let d := d.bump .proxy x.engine fPX_ABS_ROWS_ROWS q.absent
          d.setProxy s { x with
            cur := some ⟨x.nPic, q.pic, q.t0, some q.doneAt, isIdr, subst, 0, bits, planes⟩, forceIdr := idr && !isIdr,
            sinceIdr := if isIdr then 1 else x.sinceIdr + 1, cpb := room - bits, cpbAt := d.free, nPic := x.nPic + 1 }

/-! ## Packets (R224, R225) -/

/-- The one's complement sum of 16-bit words. -/
def sum16 (bs : List Byte) : Nat :=
  let s := (List.range (cdiv bs.length 2)).foldl (fun a i => a + fieldBe (bs ++ [0#8]) (2 * i) 2) 0
  let f := fun (v : Nat) => v % 65536 + v / 65536
  f (f (f s))
/-- The Internet checksum of bytes. -/
def inetSum (bs : List Byte) : Nat := 65535 - sum16 bs % 65536

/-- Put bytes into a frame at an offset. -/
def patch (f : List Byte) (o : Nat) (b : List Byte) : List Byte := f.take o ++ b ++ f.drop (o + b.length)

/-- A frame from the template: lengths, identification, DF and checksums filled in (R225); `dport` shifts the destination port. -/
def frameOf (tpl : List Byte) (ipId dport : Nat) (payload : List Byte) : List Byte :=
  let o := tplIp tpl
  let u := tplUdp tpl
  let n := payload.length
  let f := tpl ++ payload
  let f := patch f (u + 2) (beBytes 2 (fieldBe f (u + 2) 2 + dport))
  let f := patch f (u + 4) (beBytes 2 (8 + n) ++ beBytes 2 0)
  let f := if tplV6 tpl then patch f (o + 4) (beBytes 2 (8 + n))
    else
      let f := patch f (o + 2) (beBytes 2 (28 + n) ++ beBytes 2 ipId ++ beBytes 2 0x4000)
      let f := patch f (o + 10) (beBytes 2 0)
      patch f (o + 10) (beBytes 2 (inetSum ((f.drop o).take 20)))
  let addrs := if tplV6 tpl then (f.drop (o + 8)).take 32 else (f.drop (o + 12)).take 8
  let c := inetSum (addrs ++ beBytes 2 17 ++ beBytes 2 (8 + n) ++ f.drop u)
  patch f (u + 6) (beBytes 2 (if c = 0 then 65535 else c))

/-- The RTP payloads of a NAL unit (RFC 7798): one packet, or fragmentation units; `n` bounds the fragments. -/
def fragments (nal : List Byte) (lim : Nat) : Nat → List Byte → Bool → List (List Byte)
  | 0, _, _ => []
  | n + 1, rest, first =>
    let part := rest.take (lim - 3)
    let more := rest.drop (lim - 3)
    let h0 := fieldBe nal 0 1
    let typ := h0 / 2 % 64
    let hdr := beBytes 1 (h0 / 128 * 128 + 49 * 2 + h0 % 2) ++ (nal.drop 1).take 1 ++
      beBytes 1 ((if first then 128 else 0) + (if more.isEmpty then 64 else 0) + typ)
    (hdr ++ part) :: if more.isEmpty then [] else fragments nal lim n more false
def nalPayloads (nal : List Byte) (lim : Nat) : List (List Byte) :=
  if nal.length ≤ lim then [nal] else fragments nal lim nal.length (nal.drop 2) true

/-- Largest RTP payload (R225). -/
def ProxyStream.payMax (x : ProxyStream) : Nat := x.par.mtu - if tplV6 x.tpl then 60 else 40

/-- RTP timestamp of a picture (R224). -/
def ProxyStream.stamp (x : ProxyStream) (t0 : Nat) : Nat := (t0 * 90000 / 1000000000 + x.par.tsOffset) % 2 ^ 32

/-- Send RTP payloads; the last carries the marker where `mark` says so, and then the picture's source completion. With the link down the
packets are discarded and counted, and sequence numbers still advance (R227, Table 11.5 case 7). -/
def Dev.sendRtp (d : Dev) (s t0 : Nat) (pls : List (List Byte)) (mark : Bool) (doneAt : Option Nat) : Dev :=
  (pls.zip (List.range pls.length)).foldl (fun (d : Dev) e => match d.proxy? s with
    | none => d
    | some x =>
      let last := e.2 + 1 = pls.length
      let rtp := beBytes 1 0x80 ++ beBytes 1 ((if mark ∧ last then 128 else 0) + x.par.pt) ++ beBytes 2 x.seq ++ beBytes 4 (x.stamp t0) ++
        beBytes 4 x.par.ssrc ++ e.1
      let f := frameOf x.tpl x.ipId 0 rtp
      let x := { x with seq := (x.seq + 1) % 65536, ipId := (x.ipId + 1) % 65536 }
      if d.netUp x.par.net then
        d.setProxy s { x with
          queue := x.queue ++ [⟨f, if mark ∧ last then doneAt else none⟩], packets := x.packets + 1, octets := x.octets + e.1.length }
      else ((d.setProxy s x).bump .proxy x.engine fPX_NET_DROP_PACKETS).statBit .proxy x.engine 3) d

/-- A proxy ends after the last picture of its source (R219): an end-of-sequence NAL unit goes out if it has run. -/
def Dev.proxyClose (d : Dev) (s reason : Nat) : Dev :=
  match d.proxy? s with
  | none => d
  | some x =>
    let d := if (d.slot s).state = .armed then d else d.sendRtp s ((x.cur.map (·.t0)).getD 0) [[0x48#8, 0x01#8]] true none
    d.endStream s .closed reason

/-- The source of a proxy gives no further picture. -/
def Dev.proxySrcOver (d : Dev) (s : Nat) (x : ProxyStream) : Bool :=
  let gone := if x.par.srcKind = 0 then !(d.slot x.par.srcSlot).state.live ||
      (match d.rec? x.par.srcSlot with
        | some r => r.eosDone
        | none => true)
    else !(d.core.decs.any fun e => decide (e.2.par.proxySlot = s ∧ e.2.par.dest / 2 % 2 = 1) && (d.slot e.1).state.live)
  gone && (d.nextSrcPic s x).isNone

/-- Close the proxies whose source has ended, or that drain with nothing in hand. -/
def Dev.proxyEnds (d : Dev) : Dev :=
  d.core.proxies.foldl (fun (d : Dev) p =>
    let sl := d.slot p.1
    if !sl.state.live ∨ p.2.cur.isSome then d
    else if sl.state = .draining then d.proxyClose p.1 sl.reason
    else if d.proxySrcOver p.1 p.2 then d.proxyClose p.1 9 else d) d

/-- A slice of the picture in hand is coded and packetised (R224). -/
def Dev.proxySlice (d : Dev) (s : Nat) : Dev :=
  match d.proxy? s with
  | none => d
  | some x =>
    match x.cur with
    | none => d
    | some q =>
      if !(d.slot s).state.live then d
      else
        let last := q.slices + 1 = x.par.slices
        let before := if q.slices = 0 then Config.h265Before s q.num q.idr else []
        let after := if last ∧ x.par.rcMode = 0 then Config.h265After s q.num q.bits else []
        let nals := before ++ [Config.h265Slice s q.num q.idr q.subst q.slices q.planes] ++ after
        let d := d.setProxy s { x with cur := if last then none else some { q with slices := q.slices + 1 } }
        let d := d.sendRtp s q.t0 (nals.flatMap fun n => nalPayloads n x.payMax) last q.doneAt
        if last then ((d.bump .proxy x.engine fPX_PIC_CNT_PICTURES).assertEvt (84 + x.engine)).proxyEnds else d

/-- The first queued packet of a proxy leaves its port; a picture's last is timed (R227). -/
def Dev.proxyLeaves (d : Dev) (s : Nat) : Dev :=
  match d.proxy? s with
  | none => d
  | some x =>
    match x.queue with
    | [] => d
    | p :: rest =>
      if !d.netUp x.par.net then d
      else
        let d := d.setProxy s { x with queue := rest, bytes := x.bytes + p.bytes.length }
        let d := (d.bump .proxy x.engine fPX_PKT_CNT_PACKETS).bump64 .proxy x.engine fPX_BYTES_LO_BYTES_LO fPX_BYTES_HI_BYTES_HI
          p.bytes.length
        let n := d.net x.par.net
        let d := (d.setNet x.par.net { n with lastFrame := p.bytes }).bump .net x.par.net fNET_TX_FRAMES_FRAMES
        match p.last with
        | none => d
        | some t =>
          let us := (d.free - t) / 1000
          let d := d.raiseMax .proxy x.engine fPX_LAT_MAX_US us
          if 4000000 < d.free - t then (d.bump .proxy x.engine fPX_LAT_LATE).statBit .proxy x.engine 0 else d

/-- An RTCP sender report goes to the destination port plus one (R224). -/
def Dev.rtcpReport (d : Dev) (s : Nat) : Dev :=
  match d.proxy? s with
  | none => d
  | some x =>
    if (d.slot s).state ≠ .running ∨ d.get .proxy x.engine fPX_CFG_RTCP_MS = 0 ∨ !d.netUp x.par.net then d
    else
      let sr := beBytes 1 0x80 ++ beBytes 1 200 ++ beBytes 2 6 ++ beBytes 4 x.par.ssrc ++ beBytes 8 (Config.ntpStamp d.reading).toNat ++
        beBytes 4 (x.stamp d.now) ++ beBytes 4 x.packets ++ beBytes 4 x.octets
      let n := d.net x.par.net
      let d := (d.setNet x.par.net { n with lastFrame := frameOf x.tpl x.ipId 1 sr }).bump .net x.par.net fNET_TX_FRAMES_FRAMES
      d.setProxy s { x with ipId := (x.ipId + 1) % 65536 }

end Sys2Proof.Machine
end

