-- ==== Sys2Proof/Machine/HoldOps.lean ====
section
/-! DEFINITION. SAFE_HOLD (R47) and mode requests (R46). -/
namespace Sys2Proof.Machine

/-! ## Entering SAFE_HOLD (R47) -/

/-- Rows of the pictures in hand that have not arrived are coded absent with cause 5; complete ones close in order. -/
def Dev.holdRows (d : Dev) (s : Nat) : Dev :=
  match d.rec? s with
  | none => d
  | some x =>
    let d := x.pics.foldl (fun (d : Dev) q => (List.range q.rows.length).foldl (fun (d : Dev) r =>
      if (q.row r).closed = 0 ∧ (q.row r).doneAt.isNone then d.absentRow s q.pic r 5 else d) d) d
    d.closeRows s

/-- The running exchange stops: moved streams without a confirmed write on the target fault (Table 14.9 case 5). -/
def Dev.stopExchange (d : Dev) : Dev :=
  match d.core.exchange with
  | none => d
  | some e =>
    let d := d.exchangeOver e 3
    let d := e.slots.foldl (fun (d : Dev) s => match d.rec? s with
      | some x =>
        let d := d.setRec s { x with swapPic := none }
        if x.moving.isSome ∨ (e.target.isNone ∧ d.get .mag e.from_ fMAG_STAT_STATE ≠ 4 ∧ e.from_ < 8) then d.endStream s .faulted 4 else d
      | none => d) d
    (List.range 8).foldl (fun (d : Dev) m => match (d.mag m).swapCmd with
      | some c => (d.setMag m { d.mag m with swapTo := none, swapCmd := none }).finishCmd c.1 c.2 5
      | none => d.setMag m { d.mag m with swapTo := none }) d

/-- A volume has entries or changes that no superblock holds yet. -/
def Vol.unsaved (v : Vol) : Bool :=
  !v.checkpoint && (!v.waiting.isEmpty || decide (v.slotsUsed ≠ 0) || v.takes.any (·.changed))

/-- Commit the journal and superblocks of the mounted magazines that hold no record stream any more. -/
def Dev.holdCommit (d : Dev) : Dev :=
  d.mountedPorts.foldl (fun (d : Dev) m =>
    if (d.portLive m).isEmpty ∧ ((d.mag m).vol.any Vol.unsaved) then d.checkpointVol m else d) d

/-- A board test that runs stops, with DONE 1 and PASS 0 (R410). -/
def Dev.stopTest (d : Dev) : Dev :=
  match d.core.test with
  | none => d
  | some _ =>
    let d : Dev := { d with core := { d.core with test := none } }
    ((d.set .device 0 fDEV_TEST_STAT_BUSY 0).set .device 0 fDEV_TEST_STAT_DONE 1).set .device 0 fDEV_TEST_STAT_PASS 0

/-- Some controller runs firmware. -/
def Dev.anyGaffer (d : Dev) : Bool := (List.range 8).any d.gafRuns

/-- Enter SAFE_HOLD with a cause. An entry while it is in force changes nothing. What firmware writes is left out when no controller
runs (R238). -/
def Dev.enterHold (d : Dev) (cause : Nat) : Dev :=
  if d.safeHold then d
  else
    let d := (d.set .device 0 fDEV_MODE_SH_CAUSE cause).stopTest
    let d := d.stopExchange
    let d := (d.liveSlots.filter fun p => p.1 < 1024).foldl (fun (d : Dev) p =>
      let d := d.holdRows p.1
      match (d.slot p.1).state with
      | .running => d.drainStream p.1 6
      | .armed => d.closeNow p.1 6
      | _ => d) d
    let d := (d.liveSlots.filter fun p => decide (1024 ≤ p.1)).foldl (fun (d : Dev) p =>
      if 1280 ≤ p.1 then d.proxyClose p.1 6 else d.endStream p.1 .closed 6) d
    if d.anyGaffer then
      let d := (List.range 8).foldl (fun (d : Dev) m => (d.flushPort m).commitVol m) d
      (d.holdCommit.takeEnd).refreshMode
    else d.refreshMode

/-! ## Mode requests (R46, Table 3.2) -/

/-- A fault source is in fault state. -/
def Dev.anyFault (d : Dev) : Bool := d.core.fault.recs.any fun p => p.2.state

/-- RESULT of a mode request. -/
def Dev.judgeMode (d : Dev) (req : Nat) : Nat :=
  if d.base = 0 then 1
  else if req = 10 then 0
  else if req = 0 ∨ req = 8 ∨ req = 9 ∨ 12 ≤ req then 1
  else if d.safeHold then (if req = 1 ∧ !d.anyFault then 0 else 3)
  else if d.base = 11 then (if req = 1 then 0 else 1)
  else if d.modeShown = 8 then 4
  else if req = 11 then (if d.base = 1 then 0 else 1)
  else if req = 1 then (if d.liveSlots.isEmpty then 0 else 2)
  else if d.liveSlots.all fun p => d.permits req p.1 then 0 else 2

/-- The admission holder decides the request that waits (source 119). -/
def Dev.decideMode (d : Dev) : Dev :=
  match d.core.host.modeReq with
  | none => d
  | some req =>
  let d := (d.modHost fun h => { h with modeReq := none }).releaseEvt 119
  let res := d.judgeMode req
  let d := (d.set .device 0 fDEV_MODE_RESULT res).wrap .device 0 fDEV_MODE_REQ_SEQ
  let d := if res ≠ 0 then d
    else if req = 10 then d.enterHold 4
    else ((if req = 1 then d.stopTest else d).set .device 0 fDEV_MODE_SH_CAUSE 0).set .device 0 fDEV_MODE_BASE req
  d.refreshModeWith 2

/-- A complete guarded pair on DEV_MODE_REQ: a request that comes while another waits is refused with RESULT 4 (R46). During boot,
while no controller runs, it is refused at once. -/
def Dev.requestMode (d : Dev) (req : Nat) : Dev :=
  if d.core.host.modeReq.isSome then
    ((d.set .device 0 fDEV_MODE_RESULT 4).wrap .device 0 fDEV_MODE_REQ_SEQ).statBit .device 0 1
  else
    let d := d.modHost fun h => { h with modeReq := some req }
    if d.base = 0 then d.decideMode else d.assertEvt 119

end Sys2Proof.Machine
end

