-- ==== Sys2Proof/Machine/MailOps.lean ====
section
/-! DEFINITION. The mailboxes and their commands (R35 to R38, R236, R239, Tables 12.3 to 12.6, 14.7 and 17.4). -/
namespace Sys2Proof.Machine

/-! ## Rings (R35 to R38) -/

/-- Host memory may be reached (R20): Bus Master Enable set, in D0, with the host port's domain on. -/
def Dev.busMaster (d : Dev) : Bool :=
  decide (d.get .hostport 0 fHP_LINK_BME = 1) && !d.core.host.d3hot && decide (d.domState 0xC4 = 0)

/-- Entries of the command ring and of the completion ring. -/
def Dev.sqSize (d : Dev) (m : Nat) : Nat := 2 ^ d.get .hostport 0 fMBX_CFG_SQ_LOG2 m
def Dev.cqSize (d : Dev) (m : Nat) : Nat := 2 ^ d.get .hostport 0 fMBX_CFG_CQ_LOG2 m

/-- A mailbox stops on an error (R38). -/
def Dev.mbxError (d : Dev) (m code : Nat) : Dev :=
  ((d.set .hostport 0 fMBX_STAT_ERR 1 m).set .hostport 0 fMBX_STAT_ERR_CODE code m).statBit .hostport 0 m

/-- IDLE: no command fetched and uncompleted, and no completion held. -/
def Dev.mbxIdle (d : Dev) (m : Nat) : Dev :=
  d.set .hostport 0 fMBX_STAT_IDLE (if (d.mbx m).cmds.isEmpty then 1 else 0) m

/-- SQ_TAIL is written: the doorbell (R38). -/
def Dev.sqTail (d : Dev) (m : Nat) (v : Word) : Dev :=
  let d := d.set .hostport 0 fMBX_SQ_TAIL_TAIL (fMBX_SQ_TAIL_TAIL.ext v) m
  let d := if d.get .hostport 0 fMBX_CFG_EN m = 1 ∧ d.sqSize m ≤ fMBX_SQ_TAIL_TAIL.ext v then d.mbxError m 1 else d
  d.assertEvt m

/-- CQ_HEAD is written: the host returns the entries before it. A head outside the ring, or past the entries written, is out of
range. -/
def Dev.cqHead (d : Dev) (m : Nat) (v : Word) : Dev :=
  let d := d.set .hostport 0 fMBX_CQ_HEAD_HEAD (fMBX_CQ_HEAD_HEAD.ext v) m
  let h := fMBX_CQ_HEAD_HEAD.ext v
  let n := d.cqSize m
  let x := d.mbx m
  let left := (x.cqTail + n - h) % n
  let d := if d.get .hostport 0 fMBX_CFG_EN m = 0 then d
    else if n ≤ h ∨ x.unreturned < left then d.mbxError m 2
    else d.setMbx m { x with unreturned := left }
  d.assertEvt m

/-- MBXm_CFG takes a value (R35, R38): the other fields only while EN is 0 and IDLE reads 1; setting EN restarts the mailbox. -/
def Dev.mbxCfg (d : Dev) (m : Nat) (v : Word) : Dev :=
  let a := fieldAddr .hostport 0 fMBX_CFG_EN m
  let en := d.get .hostport 0 fMBX_CFG_EN m
  let idle := d.get .hostport 0 fMBX_STAT_IDLE m
  let same := fMBX_CFG_EN.ins v en = d.reg a
  if en = 1 then
    let d := if fMBX_CFG_EN.ins v 0 = fMBX_CFG_EN.ins (d.reg a) 0 then d else d.drop
    d.set .hostport 0 fMBX_CFG_EN (fMBX_CFG_EN.ext v) m
  else if idle = 0 then (if same ∧ fMBX_CFG_EN.ext v = 0 then d else d.drop)
  else
    let d := d.setReg a v
    if fMBX_CFG_EN.ext v = 0 then d
    else
      let d := (d.set .hostport 0 fMBX_STAT_ERR 0 m).set .hostport 0 fMBX_STAT_ERR_CODE 0 m
      let d := (d.set .hostport 0 fMBX_STAT_SQ_HEAD 0 m).setMbx m Mailbox.rest
      let ok := fun (k : Nat) => decide (4 ≤ k ∧ k ≤ 12)
      if ok (fMBX_CFG_SQ_LOG2.ext v) && ok (fMBX_CFG_CQ_LOG2.ext v) then d else d.mbxError m 4

/-! ## Fetching (R36, R236, R239) -/

/-- The bits that a command's words from DW2 on may carry; words past the list are reserved. None: an unknown opcode. -/
def cmdMasks (op : Nat) : Option (List Nat) :=
  let w := 0xFFFFFFFF
  match op with
  | 0x01 => some []
  | 0x10 => some [w, w, w, w, 0xFFFFFFF0, 0xFFFFFFC0, w, 0x1FFFFF, w, w, w, w]
  | 0x11 => some [0xFFFC07FF, 0xFFFF03FF, w, 0xFFFFFF, w, w, 0xFFE01FFF, 0x3FFF3FFF]
  | 0x12 => some [0xFFFF87FF, w, 0xFFFFFFC0, 0xFFFFFFE0, w, w, 0xFFFFFFC0, w, w, w, 0xFFFFFE00, w, w, 0x3FFF]
  | 0x13 | 0x14 | 0x15 | 0x31 | 0x32 => some [0x7FF]
  | 0x16 => some [0x7FF, w, w]
  | 0x20 => some [w, w, 1]
  | 0x21 => some [w, w]
  | 0x30 => some [0x7FF, 0, 0, 0, 0, 0xFFFFFFC0, w, 0x1FFFFF, w, w, w, w]
  | 0x33 | 0x34 => some [0x7FF, w, w, w]
  | 0x40 => some [0x3F03FF, w, w, w, w, w, w, w, w, w, w, w, w]
  | 0x41 => some [0x3FF]
  | 0x42 | 0x43 | 0x51 => some [w, w]
  | 0x50 => some [w]
  | 0x60 => some [0x107]
  | 0x61 | 0x63 => some [7]
  | 0x62 => some [0x77]
  | 0x64 => some [0xFF07, w, w, w]
  | 0x65 => some [0xFF8007FF, 0xFFFF03FF, 0xFFFFF, 0x3FFF]
  | 0x66 => some [0x307, w, w]
  | 0x70 => some [0xFFFFFF0F, 0xFFFFF, w, w, w, w]
  | 0x71 => some [1, w, w]
  | 0x72 => some [3, w, w, w]
  | 0x73 => some [0xFFFF03FF, w, w, w, w, 0xFFFFFF, w]
  | 0x74 => some [0x3FF]
  | 0x75 => some [0xFFFFFF03, 0xFF]
  | 0x80 => some [3, w, w]
  | 0x81 => some [0xFFFF0013, 0x3FFF]
  | 0x82 => some [0xFFFF0013]
  | _ => none

/-- OPCODE of a command. -/
def MbxCmd.opcode (c : MbxCmd) : Nat := argF c.words 0 31 16

/-- Reserved bits and words are 0 (R239). -/
def reservedOk (ws : List Word) (masks : List Nat) : Bool :=
  ws.getD 1 0 = 0 && (List.range 14).all fun i => (ws.getD (i + 2) 0 &&& ~~~(BitVec.ofNat 32 (masks.getD i 0))) = 0#32

/-- The commands that only the admission holder carries out (R236). -/
def forHolder (op : Nat) : Bool := [0x10, 0x11, 0x12, 0x13, 0x14, 0x20, 0x21, 0x65].contains op

/-- COMMAND_FETCH: `entry` is what the read of the entry returned. -/
def Dev.commandFetch (d : Dev) (m : Nat) (entry : Option (List Word)) : Dev :=
  let x := d.mbx m
  let t := d.get .hostport 0 fMBX_CFG_TARGET m
  let head := d.get .hostport 0 fMBX_STAT_SQ_HEAD m
  let tail := d.get .hostport 0 fMBX_SQ_TAIL_TAIL m
  if d.get .hostport 0 fMBX_CFG_EN m = 0 ∨ d.get .hostport 0 fMBX_STAT_ERR m = 1 ∨ !d.busMaster ∨ !d.gafRuns t ∨
      d.domState (0x89 + t) ≠ 0 ∨ d.cqSize m ≤ x.cmds.length + x.unreturned ∨ tail = head then d
  else if d.sqSize m ≤ tail then d.mbxError m 1
  else match entry with
    | none => d.mbxError m 3
    | some e =>
      let ws := (List.range 16).map fun i => e.getD i 0
      let op := argF ws 0 31 16
      let fwd := forHolder op && decide (d.holder ≠ some t)
      let stage : CmdStage := match cmdMasks op with
        | none => .done 1 0 0
        | some ms => if !reservedOk ws ms then .done 2 0 0 else if fwd then .forwarded else .ready
      let d := d.set .hostport 0 fMBX_STAT_SQ_HEAD ((head + 1) % d.sqSize m) m
      let id := d.core.host.nextCmd
      let d := (d.setMbx m { x with cmds := x.cmds ++ [⟨id, ws, stage⟩] }).mbxIdle m
      let d := d.modHost fun h => { h with nextCmd := h.nextCmd + 1 }
      if stage = .forwarded then
        (d.modHost fun h => { h with fwdQueue := h.fwdQueue ++ [id] }).assertEvt (120 + d.holder.getD 0)
      else d

/-- Change the stage of a command wherever it waits. -/
def Dev.restage (d : Dev) (id : Nat) (st : CmdStage) : Dev :=
  d.modHost fun h => { h with mailboxes := h.mailboxes.map fun (p : Nat × Mailbox) =>
    (p.1, { p.2 with cmds := p.2.cmds.map fun c => if c.id = id ∧ c.stage = .forwarded then { c with stage := st } else c }) }

/-- ADMISSION_FORWARD: the holder takes the oldest command forwarded to it (R236). -/
def Dev.forwardTaken (d : Dev) : Dev :=
  match d.core.host.fwdQueue, d.holder with
  | id :: rest, some g =>
    let d := (d.modHost fun h => { h with fwdQueue := rest }).restage id .ready
    if rest.isEmpty then d.releaseEvt (120 + g) else d
  | _, _ => d

/-- The holder halts: forwarded commands that wait are lost (R236). -/
def Dev.forwardLost (d : Dev) : Dev :=
  let ids := d.core.host.fwdQueue
  let d := d.modHost fun h => { h with fwdQueue := [] }
  ids.foldl (fun (d : Dev) id => d.restage id (.done 9 0 0)) d

/-! ## Completing (R36) -/

/-- COMMAND_COMPLETION: the first command that is done gets its completion entry: DW0 to DW2 first, DW3 after them. -/
def Dev.commandCompletion (d : Dev) (m : Nat) : Dev :=
  let x := d.mbx m
  match x.cmds.find? fun c => match c.stage with
    | .done .. => true
    | _ => false with
  | none => d
  | some c => match c.stage with
    | .done status r0 r1 =>
      if !d.busMaster then d
      else
        let n := d.cqSize m
        let base := d.get .hostport 0 fMBX_CQ_LO_ADDR_LO m * 16 + d.get .hostport 0 fMBX_CQ_HI_ADDR_HI m * 2 ^ 32
        let a := base + 16 * x.cqTail
        let dw3 := status % 2 ^ 15 * 2 ^ 17 + (if x.phase then 2 ^ 16 else 0) + argF c.words 0 15 0
        let d := d.writeHost a (leBytes 4 r0.toNat ++ leBytes 4 r1.toNat ++ leBytes 4 (d.get .hostport 0 fMBX_STAT_SQ_HEAD m))
        let d := d.writeHost (a + 12) (leBytes 4 dw3)
        let wrap := n ≤ x.cqTail + 1
        let d := d.setMbx m { x with
          cmds := x.cmds.erase c, cqTail := if wrap then 0 else x.cqTail + 1, phase := if wrap then !x.phase else x.phase,
          unreturned := x.unreturned + 1 }
        let t := d.get .hostport 0 fMBX_CFG_TARGET m
        let d := d.bump .gaffer t fGF_CMD_CNT_DONE
        (if status ≠ 0 then d.bump .gaffer t fGF_CMD_CNT_FAILED else d).mbxIdle m
    | _ => d

/-! ## Carrying out a command -/

/-- The oldest command of a mailbox that is ready, if it is of this opcode. -/
def Dev.readyCmd (d : Dev) (m op : Nat) : Option MbxCmd :=
  match (d.mbx m).cmds.find? fun c => decide (c.stage = .ready) with
  | some c => if c.opcode = op then some c else none
  | none => none

/-- Carry out a mailbox's oldest ready command of this opcode; without one nothing happens. -/
def Dev.withCmd (d : Dev) (m op : Nat) (f : Dev → MbxCmd → Dev) : Dev :=
  match d.readyCmd m op with
  | some c => f d c
  | none => d

/-- An arm's completion: status 0x0003 with the check code when it is refused (Table 12.4). -/
def Dev.finishArm (r : Dev × Nat) (m id : Nat) : Dev :=
  r.1.finishCmd m id (if r.2 = 0 then 0 else 3) (BitVec.ofNat 32 r.2)

/-- A 64-bit parameter. -/
def arg64 (ws : List Word) (i : Nat) : Nat := argF ws i 31 0 + 2 ^ 32 * argF ws (i + 1) 31 0

/-- FW_INFO. -/
def Dev.cmdFwInfo (d : Dev) (m : Nat) (c : MbxCmd) : Dev :=
  d.finishCmd m c.id 0 (BitVec.ofNat 32 (d.fwVer (d.get .hostport 0 fMBX_CFG_TARGET m))) (BitVec.ofNat 32 encMcVer)

/-- ARM_RECORD. -/
def Dev.cmdArmRecord (d : Dev) (m : Nat) (c : MbxCmd) : Dev :=
  Dev.finishArm (d.armRecord (argF c.words 2 10 0) (argF c.words 2 31 29) (recParams c.words)) m c.id

/-- ARM_PROXY: `tpl` is what the read of the header template returned. -/
def Dev.cmdArmProxy (d : Dev) (m : Nat) (tpl : Option (List Byte)) (c : MbxCmd) : Dev :=
  match tpl with
  | none => d.finishCmd m c.id 7
  | some b =>
    let n := argF c.words 7 23 16
    Dev.finishArm (d.armProxy (argF c.words 2 10 0) (argF c.words 2 31 29) (proxyParams c.words) (argF c.words 12 31 16) (b.take n)) m c.id

/-- DISARM: an ARMED stream outside a take returns to IDLE. -/
def Dev.cmdDisarm (d : Dev) (m : Nat) (c : MbxCmd) : Dev :=
  let s := argF c.words 2 10 0
  if 1536 ≤ s then d.finishCmd m c.id 2
  else if (d.slot s).state = .armed ∧ !(d.slot s).inTake then (d.backToIdle s 0).finishCmd m c.id 0
  else d.finishCmd m c.id 5

/-- A slot is released (R52). -/
def Dev.releaseSlot (d : Dev) (s : Nat) : Dev :=
  { d with core := { d.core with
    slots := tset d.core.slots s Slot.idle,
    recs := d.core.recs.filter (fun p => p.1 ≠ s), decs := d.core.decs.filter (fun p => p.1 ≠ s),
    proxies := d.core.proxies.filter (fun p => p.1 ≠ s) } }

/-- RELEASE. -/
def Dev.cmdRelease (d : Dev) (m : Nat) (c : MbxCmd) : Dev :=
  let s := argF c.words 2 10 0
  if 1536 ≤ s then d.finishCmd m c.id 2
  else if (d.slot s).state.live then d.finishCmd m c.id 4
  else (d.releaseSlot s).finishCmd m c.id 0

/-- A close order of a stream: proxies close as R229's streams do, the others as Table 3.3 states. -/
def Dev.closeStream (d : Dev) (s reason : Nat) : Dev :=
  if 1280 ≤ s then d.proxyClose s reason else d.closeNow s reason

/-- CLOSE: close reason 0x02. -/
def Dev.cmdClose (d : Dev) (m : Nat) (c : MbxCmd) : Dev :=
  let s := argF c.words 2 10 0
  if 1536 ≤ s then d.finishCmd m c.id 2
  else if (d.slot s).state.live then (d.closeStream s 2).finishCmd m c.id 0
  else d.finishCmd m c.id 5

/-- State codes (Table 3.3). -/
def SState.code : SState → Nat
  | .idle => 0 | .armed => 1 | .running => 2 | .draining => 3 | .closed => 4 | .faulted => 5

/-- What STREAM_STATUS reports of a stream, by its kind: pictures, last picture, damage, metadata dropped, bytes. -/
def Dev.streamFigures (d : Dev) (s : Nat) : Nat × Nat × Option Damage × Nat × Nat :=
  if s < 1024 then match d.rec? s with
    | some x => (x.picsDone, x.lastDone, none, x.metaDropped, x.bytes)
    | none => (0, 0, none, 0, 0)
  else if s < 1280 then match d.dec? s with
    | some x => (x.done, x.lastPic, x.dmg, 0, x.bytes)
    | none => (0, 0, none, 0, 0)
  else match d.proxy? s with
    | some x => (x.nPic, (x.srcLast.getD 0), none, 0, x.bytes)
    | none => (0, 0, none, 0, 0)

/-- The record of Table 12.6. -/
def Dev.statusBytes (d : Dev) (s : Nat) : List Byte :=
  let sl := d.slot s
  let f := d.streamFigures s
  let dm := f.2.2.1
  let g := fun (k : Damage → Nat) => (dm.map k).getD 0
  leBytes 2 s ++ leBytes 1 sl.state.code ++ leBytes 1 (if sl.state = .closed ∨ sl.state = .faulted then sl.reason else 0) ++
    leBytes 4 f.1 ++ leBytes 4 (f.2.1 % 2 ^ 24) ++ leBytes 4 (g (·.cause) + g (·.tcol) * 256 + g (·.trow) * 65536) ++
    leBytes 4 (g (·.pic) % 2 ^ 24) ++ leBytes 4 (g (·.detail)) ++ leBytes 4 f.2.2.2.1 ++ leBytes 2 sl.check ++ leBytes 2 0 ++
    leBytes 8 f.2.2.2.2 ++ List.replicate 24 0

/-- STREAM_STATUS: `hostOk` says whether the write to host memory succeeded. -/
def Dev.cmdStreamStatus (d : Dev) (m : Nat) (hostOk : Bool) (c : MbxCmd) : Dev :=
  let s := argF c.words 2 10 0
  let a := arg64 c.words 3
  if 1536 ≤ s ∨ a % 64 ≠ 0 then d.finishCmd m c.id 2
  else if !hostOk then d.finishCmd m c.id 7
  else (d.writeHost a (d.statusBytes s)).finishCmd m c.id 0

/-- TAKE_START (R56). -/
def Dev.cmdTakeStart (d : Dev) (m : Nat) (c : MbxCmd) : Dev :=
  if d.takeRuns ∨ d.safeHold ∨ !(d.base = 2 ∨ d.base = 3 ∨ d.base = 5) then d.finishCmd m c.id 5
  else
    let r := d.takeStart (arg64 c.words 2) (argF c.words 4 0 0 = 1)
    if r.2 = 0 then r.1.finishCmd m c.id 0 (BitVec.ofNat 32 (r.1.get .device 0 fDEV_TAKE_TAKE_ID))
    else r.1.finishCmd m c.id 3 (BitVec.ofNat 32 r.2)

/-- TAKE_STOP (R57): it completes when T_stop is recorded. -/
def Dev.cmdTakeStop (d : Dev) (m : Nat) (c : MbxCmd) : Dev :=
  if d.get .device 0 fDEV_TAKE_TAKE_STATE = 2 then
    let id := d.get .device 0 fDEV_TAKE_TAKE_ID
    (d.takeStop (arg64 c.words 2)).finishCmd m c.id 0 (BitVec.ofNat 32 id)
  else d.finishCmd m c.id 5

/-- SET_INGEST (R92). -/
def Dev.cmdSetIngest (d : Dev) (m : Nat) (c : MbxCmd) : Dev :=
  let s := argF c.words 2 10 0
  match d.rec? s with
  | some x =>
    let i := ingParams c.words
    if !(d.slot s).state.live then d.finishCmd m c.id 5
    else if !i.ok (x.decl.cfa / 16) then d.finishCmd m c.id 2
    else (d.setRec s { x with ingNext := some i }).finishCmd m c.id 0
  | none => d.finishCmd m c.id (if s < 1024 then 5 else 2)

/-- FORCE_I (R141, Table 12.3). -/
def Dev.cmdForceI (d : Dev) (m : Nat) (c : MbxCmd) : Dev :=
  let s := argF c.words 2 10 0
  let sl := d.slot s
  match d.rec? s with
  | some x =>
    if sl.state = .armed ∨ sl.state = .running then
      match x.lastPic with
      | some p => (d.setRec s { x with forceI := true }).finishCmd m c.id 0 (BitVec.ofNat 32 (picAdd p.1 1))
      | none => (d.setRec s { x with forceI := true }).finishCmd m c.id 0 0x80000000#32
    else d.finishCmd m c.id 2
  | none => d.finishCmd m c.id 2

/-- FORCE_IDR (R222). -/
def Dev.cmdForceIdr (d : Dev) (m : Nat) (c : MbxCmd) : Dev :=
  let s := argF c.words 2 10 0
  if s < 1280 ∨ 1536 ≤ s then d.finishCmd m c.id 2
  else match d.proxy? s with
    | some x =>
      if (d.slot s).state.live then (d.setProxy s { x with forceIdr := true }).finishCmd m c.id 0 else d.finishCmd m c.id 5
    | none => d.finishCmd m c.id 5

/-- GET_PARAM_SETS. -/
def Dev.cmdParamSets (d : Dev) (m : Nat) (hostOk : Bool) (c : MbxCmd) : Dev :=
  let s := argF c.words 2 10 0
  if s < 1280 ∨ 1536 ≤ s then d.finishCmd m c.id 2
  else if !(d.slot s).state.live then d.finishCmd m c.id 5
  else if !hostOk then d.finishCmd m c.id 7
  else
    let b := (Config.h265ParamSets s).take (argF c.words 5 31 0)
    (d.writeHost (arg64 c.words 3) b).finishCmd m c.id 0 (BitVec.ofNat 32 b.length)

/-- HOST_META (R196): a Metadata unit of KIND 3. -/
def Dev.cmdHostMeta (d : Dev) (m : Nat) (data : Option (List Byte)) (c : MbxCmd) : Dev :=
  let s := argF c.words 2 10 0
  let n := argF c.words 5 31 0
  if 1024 ≤ s ∨ n = 0 ∨ 4096 < n then d.finishCmd m c.id 2
  else match d.rec? s, data with
    | some x, some b =>
      if (d.slot s).state.live then
        (d.queueMeta x.par.head x.par.region 3 ((List.range n).map fun i => b.getD i 0)).finishCmd m c.id 0
      else d.finishCmd m c.id 5
    | some _, none => d.finishCmd m c.id (if (d.slot s).state.live then 7 else 5)
    | none, _ => d.finishCmd m c.id 5

/-- HEAD_CMD: a HOST_CMD frame; the command waits for its ACK (R72, R239). -/
def Dev.cmdHeadCmd (d : Dev) (m : Nat) (c : MbxCmd) : Dev :=
  let h := argF c.words 2 9 0
  let n := argF c.words 2 21 16
  if n = 0 ∨ 48 < n then d.finishCmd m c.id 2
  else if d.hdState h ≠ 4 then d.finishCmd m c.id 6
  else
    let bytes := ((List.range 12).flatMap fun i => leBytes 4 (argF c.words (3 + i) 31 0)).take n
    let x := d.mbx m
    (d.setMbx m { x with cmds := x.cmds.map fun k => if k.id = c.id then { k with stage := .waiting } else k }).queueFrame h
      ⟨5, bytes, some (m, c.id)⟩

/-- The wake pattern of R81, sent back sixteen times. -/
def wakeBurst : List Byte := (List.replicate 16 (beBytes 16 0x3C5AF00F96C3A55A0FF0C33C69A55A96)).flatten

/-- HEAD_WAKE (R81): the back-channel burst, on all lanes of the head. -/
def Dev.cmdHeadWake (d : Dev) (m : Nat) (c : MbxCmd) : Dev :=
  let h := argF c.words 2 9 0
  let x := d.head h
  (d.setHead h { x with lastFrame := wakeBurst, wakes := x.wakes + 1 }).finishCmd m c.id 0

/-- The allow list is shared by all banks (R75). -/
def Dev.setAllow (d : Dev) (l : List Nat) : Dev := { d with core := { d.core with allow := l } }

/-- ALLOW_ADD and ALLOW_REMOVE. -/
def Dev.cmdAllowAdd (d : Dev) (m : Nat) (c : MbxCmd) : Dev :=
  let n := arg64 c.words 2
  let l := d.core.allow
  if l.contains n then d.finishCmd m c.id 0 (BitVec.ofNat 32 l.length)
  else if 4096 ≤ l.length then d.finishCmd m c.id 8
  else (d.setAllow (l ++ [n])).finishCmd m c.id 0 (BitVec.ofNat 32 (l.length + 1))
def Dev.cmdAllowRemove (d : Dev) (m : Nat) (c : MbxCmd) : Dev :=
  let l := d.core.allow.filter fun k => k ≠ arg64 c.words 2
  (d.setAllow l).finishCmd m c.id 0 (BitVec.ofNat 32 l.length)

/-- BUF_ASSIGN: a buffer inside DRAM that no other buffer overlaps. -/
def Dev.cmdBufAssign (d : Dev) (m : Nat) (c : MbxCmd) : Dev :=
  let n := argF c.words 2 31 0
  if n = 0 then d.finishCmd m c.id 2
  else match Config.bufPick n d.free with
    | none => d.finishCmd m c.id 8
    | some k =>
      let a := k * 65536
      let len := n * 65536
      if 2 ^ 37 < a + len ∨ d.core.host.bufs.any fun b => decide (a < b.1 + b.2 ∧ b.1 < a + len) then d.finishCmd m c.id 8
      else
        (d.modHost fun h => { h with bufs := h.bufs ++ [(a, len)] }).finishCmd m c.id 0 (BitVec.ofNat 32 a) (BitVec.ofNat 32 (a / 2 ^ 32))

/-- BUF_FREE. -/
def Dev.cmdBufFree (d : Dev) (m : Nat) (c : MbxCmd) : Dev :=
  let a := arg64 c.words 2
  if d.core.host.bufs.any fun b => b.1 = a then
    (d.modHost fun h => { h with bufs := h.bufs.filter fun b => b.1 ≠ a }).finishCmd m c.id 0
  else d.finishCmd m c.id 2

/-! ## Magazine commands (Table 14.7) -/

/-- MAG_MOUNT, MAG_UNMOUNT, MAG_SWAP and MAG_FLUSH complete when their work is done: they wait, and what they wait for
completes them. -/
def Dev.holdCmd (d : Dev) (m id : Nat) : Dev :=
  let x := d.mbx m
  d.setMbx m { x with cmds := x.cmds.map fun k => if k.id = id then { k with stage := .waiting } else k }

def Dev.cmdMagMount (d : Dev) (m : Nat) (c : MbxCmd) : Dev :=
  (d.holdCmd m c.id).magMount (m, c.id) (argF c.words 2 2 0) (argF c.words 2 8 8 = 1)
def Dev.cmdMagUnmount (d : Dev) (m : Nat) (c : MbxCmd) : Dev := (d.holdCmd m c.id).magUnmount (m, c.id) (argF c.words 2 2 0)
def Dev.cmdMagSwap (d : Dev) (m : Nat) (c : MbxCmd) : Dev :=
  (d.holdCmd m c.id).magSwap (m, c.id) (argF c.words 2 2 0) (argF c.words 2 6 4)
def Dev.cmdMagFlush (d : Dev) (m : Nat) (c : MbxCmd) : Dev := (d.holdCmd m c.id).magFlush (m, c.id) (argF c.words 2 2 0)

/-- MAG_LOG: log 0x01 or 0x02. -/
def Dev.cmdMagLog (d : Dev) (m : Nat) (c : MbxCmd) : Dev :=
  let l := argF c.words 2 15 8
  if l ≠ 1 ∧ l ≠ 2 then d.finishCmd m c.id 2
  else (d.holdCmd m c.id).magAdmin (m, c.id) (argF c.words 2 2 0)
    ⟨2, l, 11, none, arg64 c.words 3, argF c.words 5 31 0⟩

/-- MAG_IDENT. -/
def Dev.cmdMagIdent (d : Dev) (m : Nat) (c : MbxCmd) : Dev :=
  (d.holdCmd m c.id).magAdmin (m, c.id) (argF c.words 2 2 0) ⟨6, argF c.words 2 9 8, 12, none, arg64 c.words 3, 4096⟩

/-! ## Time and network commands (Table 17.4) -/

/-- This device is the gang's time root (R349). -/
def Dev.isRoot (d : Dev) : Bool := decide (d.get .peer 0 fPR_GANG_ROOT = d.core.lehr.gangId)

/-- PTP_CONFIG. -/
def Dev.cmdPtpConfig (d : Dev) (m : Nat) (c : MbxCmd) : Dev :=
  let n := argF c.words 2 0 0
  let role := argF c.words 2 3 1
  if 3 < role then d.finishCmd m c.id 2
  else if (role = 1 ∨ role = 3) ∧ !d.isRoot then d.finishCmd m c.id 5
  else
    let x := d.net n
    let r := PtpRole.ofCode role
    let st : PtpState := if r = .disabled then .disabled else if d.netUp n then .listening else .faulty
    let d := d.setNet n { x with
      role := r, domain := argF c.words 2 15 8,
      intervals := (List.range 4).map fun i => ofTwos 4 (argF c.words 2 (19 + 4 * i) (16 + 4 * i)),
      prio := [argF c.words 3 15 8, argF c.words 3 7 0], timeout := argF c.words 3 19 16,
      addr := (List.range 4).map fun i => argF c.words (4 + i) 31 0, state := st }
    d.finishCmd m c.id 0

/-- A 64-byte record in host memory. -/
def rec64 (b : List Byte) : List Byte := (List.range 64).map fun i => b.getD i 0

/-- PTP_STATUS. -/
def Dev.cmdPtpStatus (d : Dev) (m : Nat) (hostOk : Bool) (c : MbxCmd) : Dev :=
  let x := d.net (argF c.words 2 0 0)
  if !hostOk then d.finishCmd m c.id 7
  else
    let b := Config.statusRecord 0 [x.state.code, toTwos 64 x.offset, x.delay, x.gm, x.steps, d.core.time.rate]
    (d.writeHost (arg64 c.words 3) (rec64 b)).finishCmd m c.id 0

/-- TIME_SET: an offset through R323, not while a port follows a master. -/
def Dev.cmdTimeSet (d : Dev) (m : Nat) (c : MbxCmd) : Dev :=
  let ofs := argF c.words 2 1 0
  let v := arg64 c.words 3 * 2 ^ 32 + argF c.words 5 31 0
  if ofs ≠ 1 ∧ ofs ≠ 2 then d.finishCmd m c.id 2
  else if (List.range 2).any fun n => decide ((d.net n).state = .slave ∨ (d.net n).state = .uncalibrated) then d.finishCmd m c.id 5
  else (if ofs = 1 then d.stepTime (ofTwos 96 v) else d.stepTime ((v : Int) - d.reading)).finishCmd m c.id 0

/-- TRIG_SCHED (R333). -/
def Dev.cmdTrigSched (d : Dev) (m : Nat) (c : MbxCmd) : Dev :=
  let h := argF c.words 2 9 0
  let num := argF c.words 5 31 0
  let den := argF c.words 6 31 0
  if num = 0 ∨ den = 0 then d.finishCmd m c.id 2
  else if d.hdState h ≠ 4 then d.finishCmd m c.id 6
  else
    let t : TrigSched :=
      ⟨argF c.words 2 31 16, arg64 c.words 3, num, den, argF c.words 7 23 0, argF c.words 8 31 0, 0⟩
    (d.modTime fun x => { x with trigs := tset x.trigs h t }).finishCmd m c.id 0

/-- TRIG_CANCEL. -/
def Dev.cmdTrigCancel (d : Dev) (m : Nat) (c : MbxCmd) : Dev :=
  (d.modTime fun x => { x with trigs := x.trigs.filter fun p => p.1 ≠ argF c.words 2 9 0 }).finishCmd m c.id 0

/-- TC_CONFIG: TM_TC takes the values (R332). -/
def Dev.cmdTcConfig (d : Dev) (m : Nat) (c : MbxCmd) : Dev :=
  let fb := argF c.words 3 7 0
  let d := (d.set .time 0 fTM_TC_DF (argF c.words 2 0 0)).set .time 0 fTM_TC_UTC_SRC (argF c.words 2 1 1)
  let d := (d.set .time 0 fTM_TC_UTC_OFS (argF c.words 2 15 8)).set .time 0 fTM_TC_LOCAL_MIN (argF c.words 2 31 16)
  (d.set .time 0 fTM_TC_FALLBACK (if fb < 64 then fb else 24)).finishCmd m c.id 0

/-! ## The status mirror (R39) -/

/-- The 256 bytes of the mirror. -/
def Dev.mirrorBytes (d : Dev) (seq : Nat) : List Byte :=
  leBytes 8 d.now ++ leBytes 4 seq ++ leBytes 4 (d.reg (fieldAddr .device 0 fDEV_MODE_MODE 0)).toNat ++
    ((List.range 4).flatMap fun _ => leBytes 4 (d.pgFlt 4)) ++
    ((List.range 16).flatMap fun m => leBytes 2 (d.mbx m).cqTail) ++ List.replicate 184 0 ++ leBytes 4 d.now ++ leBytes 4 seq

/-- One write of the mirror: MIRROR_SEQ advances on each. -/
def Dev.mirrorWrite (d : Dev) : Dev :=
  if d.get .hostport 0 fHP_MIRROR_CTL_EN = 1 ∧ d.get .hostport 0 fHP_MIRROR_CTL_PERIOD_US ≠ 0 ∧ d.busMaster then
    let seq := (d.core.host.mirrorSeq + 1) % 2 ^ 32
    let a := d.get .hostport 0 fHP_MIRROR_LO_ADDR_LO * 256 + d.get .hostport 0 fHP_MIRROR_HI_ADDR_HI * 2 ^ 32
    (d.modHost fun h => { h with mirrorSeq := seq }).writeHost a (d.mirrorBytes seq)
  else d

end Sys2Proof.Machine
end

