-- ==== Sys2Proof/Machine/MemOps.lean ====
section
/-! DEFINITION. The DDR5 memory subsystem (chapter 16): corrected and uncorrectable reads, poison, retirement, training. -/
namespace Sys2Proof.Machine

/-! ## Capacity (R308, R309) -/

/-- Mapped capacity in GiB of the build that MC_CFG describes: the largest power of two not above the installed one. -/
def Dev.mapGib (d : Dev) : Nat :=
  let density := [8, 16, 24, 32].getD (d.get .memctl 0 fMC_CFG_DENSITY) 16
  let devs := if d.get .memctl 0 fMC_CFG_WIDTH = 0 then 4 else 2
  let gib := 20 * (d.get .memctl 0 fMC_CFG_RANKS + 1) * devs * density / 8
  if 512 ≤ gib then 512 else if 256 ≤ gib then 256 else if 128 ≤ gib then 128 else if 64 ≤ gib then 64 else 32

/-- Mapped bytes: no DRAM lies above them (R309). -/
def Dev.mapped (d : Dev) : Nat := d.get .memctl 0 fMC_STAT_MAP_GIB * 2 ^ 30

/-- The channel that answers for a device address while ten channels work (R310). -/
def chanOfAddr (a : Nat) : Nat := a / 256 % 10

/-- Lines held by a channel (R310). -/
def Dev.chanLines (d : Dev) (c : Nat) : Nat := (d.mapped / 256 + 9 - c) / 10

/-! ## Retirement (R313, R314) -/

/-- A channel is given up: the R10 limits fall at once. `state` is its MEM_STAT.STATE, `rs` RET_STATE. -/
def Dev.giveUp (d : Dev) (c state rs : Nat) : Dev :=
  let d := (d.set .memctl 0 fMC_STAT_RET_CH c).set .memctl 0 fMC_STAT_RET_STATE rs
  let d := (d.lower .memctl 0 fMC_STAT_WORKING).set .mem c fMEM_STAT_STATE state
  d.capChannel.refreshMode

/-- Retirement of a channel starts (R313). -/
def Dev.startRetire (d : Dev) (c : Nat) : Dev :=
  ((d.giveUp c 3 1).set .memctl 0 fMC_MIG_LINES (d.chanLines c)).statBit .memctl 0 0

/-- A complete pair on MC_RETIRE with REQ 1 (Table 16.5 case 3). -/
def Dev.hostRetire (d : Dev) (c : Nat) : Dev :=
  if d.get .memctl 0 fMC_STAT_RET_STATE ≠ 0 then d.bump .memctl 0 fMC_STAT_REFUSED
  else if 10 ≤ c ∨ d.get .mem c fMEM_STAT_STATE ≠ 2 then d
  else d.startRetire c

/-- The spare takeover of a channel (Table 19.5): retired under R313; a second failed channel enters SAFE_HOLD. -/
def Dev.faultRetire (d : Dev) (c : Nat) : Dev :=
  if d.get .memctl 0 fMC_STAT_RET_STATE ≠ 0 then
    if d.get .memctl 0 fMC_STAT_RET_CH = c then d else d.enterHold 3
  else if d.get .mem c fMEM_STAT_STATE = 2 then d.startRetire c else d

/-- The copy of the retiring channel's lines ends (R313 step 4). -/
def Dev.retireDone (d : Dev) : Dev :=
  if d.get .memctl 0 fMC_STAT_RET_STATE = 1 then
    let d := d.set .mem (d.get .memctl 0 fMC_STAT_RET_CH) fMEM_STAT_STATE 4
    ((d.set .memctl 0 fMC_STAT_RET_STATE 2).set .memctl 0 fMC_MIG_LINES 0).statBit .memctl 0 1
  else d

/-- A channel is lost (R314): every line of it is poisoned, and it is retired without a copy. -/
def Dev.loseChannel (d : Dev) (c : Nat) : Dev :=
  let st := d.get .mem c fMEM_STAT_STATE
  if st ≠ 2 ∧ st ≠ 3 then d
  else
    let second := d.get .memctl 0 fMC_STAT_RET_STATE ≠ 0 ∧ d.get .memctl 0 fMC_STAT_RET_CH ≠ c
    let d := d.modMem fun m => { m with
      lost := if m.lost.contains c then m.lost else m.lost ++ [c], healed := m.healed.filter fun b => burstChan b ≠ c }
    let d := (d.statBit .memctl 0 2).raiseLevel (1752 + 3 * c) 0xD00
    if second then ((d.set .mem c fMEM_STAT_STATE 5).lower .memctl 0 fMC_STAT_WORKING).enterHold 3
    else if st = 3 then
      let d := (d.set .mem c fMEM_STAT_STATE 4).set .memctl 0 fMC_MIG_LINES 0
      (d.set .memctl 0 fMC_STAT_RET_STATE 2).enterHold 1
    else (d.giveUp c 4 2).enterHold 1

/-! ## Reads (R311) -/

/-- A corrected read of a channel: counted, and MEM_CE_LIM passed once in each second raises MEMCE. -/
def Dev.corrected (d : Dev) (c : Nat) : Dev :=
  let d := d.bump .mem c fMEM_CE_CNT_CE
  let w := (d.core.mem.ceWin.lookup c).getD (d.free, 0)
  let w := if w.1 + 1000000000 ≤ d.free then (d.free, 1) else (w.1, w.2 + 1)
  let d := d.modMem fun m => { m with ceWin := tset m.ceWin c w }
  let lim := d.get .mem c fMEM_CE_LIM_PER_S
  if lim ≠ 0 ∧ w.2 = lim + 1 then (d.statBit .mem c 1).raise (1750 + 3 * c) 0xD00 else d

/-- An uncorrectable line of a channel: more than DEAD_UE lines in one second make the channel lost. -/
def Dev.badLine (d : Dev) (c line : Nat) : Dev :=
  let w := (d.core.mem.ueWin.lookup c).getD (d.free, [])
  let w := if w.1 + 1000000000 ≤ d.free then (d.free, [line]) else (w.1, if w.2.contains line then w.2 else line :: w.2)
  let d := d.modMem fun m => { m with ueWin := tset m.ueWin c w }
  if d.get .memctl 0 fMC_CFG2_DEAD_UE < w.2.length then d.loseChannel c else d

/-- Mark the burst of an address poisoned. -/
def Dev.poisonBurst (d : Dev) (a : Nat) : Dev :=
  d.modMem fun m => if m.poisoned (a / 64) then m else { m with poison := m.poison ++ [a / 64], healed := m.healed.filter (· ≠ a / 64) }

/-- The large chunk that an address lies in. -/
def Dev.chunkAt (d : Dev) (a : Nat) : Option Chunk :=
  (d.core.cullet.chunks.find? fun p => isLarge p.1 && decide (d.chunkBase p.1 ≤ a ∧ a < d.chunkBase p.1 + 2 ^ 21)).map (·.2)

/-- Reference buffers of a stream that hold a mark or a lease (R160): its reference set and the pictures it codes, decodes or outputs. -/
def Dev.bufsOf (d : Dev) (s : Nat) : Nat :=
  if (d.slot s).resv.pool = 0 then 0
  else match d.rec? s, d.dec? s with
    | some x, _ => x.refSet.length + x.pics.length
    | none, some x => x.refSet.length + x.cur.toList.length + x.outs.length
    | none, none => 0

/-- The owner tag of a stream is revoked (R264, R51): the stream goes to FAULTED with reason 0x08. -/
def Dev.revokeStream (d : Dev) (s : Nat) : Dev :=
  let d := (d.bump .memctl 0 fRP_BUFS_REVOKED (d.bufsOf s)).revokeTag s
  if s < 1024 then d.faultRecord s 8 else d.endStream s .faulted 8

/-- What the master that reads poison does (Table 16.2). `user` names the pipeline of a search engine's read, the decode stream
of a unit read, or the ring of a queue engine's read. -/
def Dev.poisonRead (d : Dev) (a mst user : Nat) : Dev :=
  let inst := mst % 256
  match mst / 256 with
  | 3 => match (d.enc inst).job with
    | some (s, pic, r, _) => d.recodeRow s pic r
    | none => d
  | 5 => match (d.enc user).job with
    | some (s, pic, r, _) => d.recodeRow s pic r
    | none => d
  | 4 =>
    let s := match (d.decp inst).job with
      | some (s, _) => s
      | none => user
    match d.dec? s with
    | some x =>
      if (d.slot s).state.live then
        d.damage s (if inst < 20 then inst else d.lowDec) ⟨(x.cur.map (·.hdr.pic)).getD x.lastPic, 0x1FF, 0x7F, 0x0B, 0xEC⟩ else d
    | none => d
  | 8 => match d.chunkAt a with
    | some c => if c.owner < 1536 then d.revokeStream c.owner else d.revokeTag c.owner
    | none => d
  | 7 =>
    if 8192 ≤ user ∧ user < 12288 then d.completeUnread user 3 else d.ringError user (d.ring user)
  | _ => d

/-- A master reads a burst that the code cannot correct, or one that is poisoned (R311). -/
def Dev.uncorrectable (d : Dev) (a mst user : Nat) : Dev :=
  if d.mapped ≤ a then d
  else
    let c := chanOfAddr a
    let d := (d.bump .mem c fMEM_UE_CNT_READ).poisonBurst a
    let held := (fPG_STAT_BLOCK.ext (d.reg ((0x40 + c) * 4096 + 0xC))).testBit 0
    let d := if held then d else
      (d.set .mem c fMEM_UE_ADDR_LO_ADDR_LO (a / 64)).set .mem c fMEM_UE_ADDR_HI_ADDR_HI (a / 2 ^ 32)
    let d := (d.statBit .mem c 0).raise (1751 + 3 * c) mst 1 none (some a)
    (d.badLine c (a / 256)).poisonRead a mst user

/-- Patrol scrub reads the line of an address: 0 clean, 1 corrected, 2 uncorrectable. -/
def Dev.scrubRead (d : Dev) (a result : Nat) : Dev :=
  if d.get .memctl 0 fMC_CFG_SCRUB_H = 0 ∨ d.mapped ≤ a then d
  else
    let c := chanOfAddr a
    let next := (a / 256 + 1) % (d.mapped / 256)
    let d := d.modMem fun m => { m with scrub := next }
    if result = 1 then d.corrected c
    else if result = 2 then ((d.bump .mem c fMEM_UE_CNT_SCRUB).poisonBurst a).badLine c (a / 256)
    else d

/-! ## Refresh, tracking, training (R316, R317) -/

/-- An RFM command, and neighbour activates drawn at an activate: two rows, four when NREF_2 is 1. -/
def Dev.refreshed (d : Dev) (c : Nat) (rfm neighbours : Bool) : Dev :=
  let d := if rfm then d.bump .mem c fMEM_NREF_CNT_RFM else d
  if !neighbours then d
  else
    let n := ((d.core.mem.nref.lookup c).getD 0) + (if d.get .memctl 0 fMC_CFG_NREF_2 = 1 then 4 else 2)
    let d := d.modMem fun m => { m with nref := tset m.nref c (n % 1024) }
    if n < 1024 then d else d.bump .mem c fMEM_NREF_CNT_NEIGHBOUR (n / 1024)

/-- DQS tracking adjusts a running channel's timing. -/
def Dev.tracked (d : Dev) (c : Nat) (adjusted beyond : Bool) : Dev :=
  let d := if adjusted then d.bump .mem c fMEM_TRAIN_RETRAINS else d
  if beyond then d.statBit .mem c 2 else d

end Sys2Proof.Machine
end

