-- ==== Sys2Proof/Machine/PeerOps.lean ====
section
/-! DEFINITION. Peer ports and the gang (chapter 18): the link, flits and credits, sharing magazines, reads and outputs for partners,
the time root, a failed member. -/
namespace Sys2Proof.Machine

/-! ## The gang (R339, R340, R349) -/

/-- This device's member number, and the member that port `p` leads to (R340). -/
def Dev.member (d : Dev) : Nat := d.core.lehr.gangId
def Dev.partner (d : Dev) (p : Nat) : Nat := (d.member + p + 1) % 4

/-- A member is marked failed. -/
def Dev.memberFailed (d : Dev) (i : Nat) : Bool := (d.get .peer 0 fPR_GANG_FAILED).testBit i

/-- Set a field of PR_GANG on every peer page. -/
def Dev.setGang (d : Dev) (r : FieldRow) (v : Nat) : Dev := (List.range 3).foldl (fun (d : Dev) p => d.set .peer p r v) d

/-- The time root is the lowest member alive; a member that rejoins reclaims it only after no take runs. -/
def Dev.refreshRoot (d : Dev) : Dev :=
  let now := d.get .peer 0 fPR_GANG_ROOT
  let best := ((List.range (d.core.lehr.gangSzM1 + 1)).find? fun i => !d.memberFailed i).getD 0
  if best = now ∨ (best < now ∧ !d.memberFailed now ∧ d.takeRuns) then d else d.setGang fPR_GANG_ROOT best

/-- The port's link is up. -/
def Dev.peerUp (d : Dev) (p : Nat) : Bool := decide (d.get .peer p fPR_STAT_STATE = 2)

/-! ## Reservations (R345) -/

/-- 27.0 GB/s in Mb/s. -/
def peerLimit : Nat := 216000

/-- The rate of a stream's picture records in Mb/s. -/
def DecStream.recordMbps (x : DecStream) : Nat :=
  let g := x.hdr.geo
  cdiv ((64 + cdiv (2 * g.trows) 64 * 64 + 2 * g.w * g.h) * 8 * x.hdr.num) (max 1 (x.hdr.den * 1000000))

/-- The peer port of a stream's picture output (DESIGN CHOICE, log entry 33). -/
def picPort (s : Nat) : Nat := Config.picturePort s % 3

/-- Rates reserved on a port, Mb/s: sent, and received. -/
def Dev.peerTx (d : Dev) (p : Nat) : Nat :=
  ((d.portStreams (8 + p)).foldl (fun a e => a + e.2.dsNow) 0) +
  (d.core.served.foldl (fun a v => if v.peer = p then a + v.rate else a) 0) +
  d.core.decs.foldl (fun a e =>
    if !(d.slot e.1).state.live then a
    else if e.2.par.offPeer = some p then a + e.2.par.rate
    else if 8 ≤ e.2.par.dest ∧ picPort e.1 = p then a + e.2.recordMbps else a) 0
def Dev.peerRx (d : Dev) (p : Nat) : Nat :=
  (d.peer p).hostPace +
  d.core.decs.foldl (fun a e =>
    if (d.slot e.1).state.live ∧ e.2.par.source = 1 ∧ e.2.par.srcId = p then a + e.2.par.rate else a) 0

/-! ## Flits (R341, R343, R344) -/

/-- Bytes of a unit or piece that one flit carries (DESIGN CHOICE, log entry 34). -/
def flitData : Nat := 224

/-- Cut bytes into flit payloads of a kind. -/
def flitsOf (what slot : Nat) : Nat → Nat → List Byte → List (List Byte)
  | 0, _, _ => []
  | n + 1, a, bs =>
    let rest := bs.drop flitData
    Config.flitMake what slot a rest.isEmpty (bs.take flitData) :: (if rest.isEmpty then [] else flitsOf what slot n (a + flitData) rest)

/-- Queue bytes on a channel. -/
def Dev.peerQueue (d : Dev) (p ch what slot addr : Nat) (bs : List Byte) : Dev :=
  let x := d.peer p
  d.setPeer p { x with txq := x.txq ++ (flitsOf what slot (bs.length + 1) addr bs).map fun f => (ch, f) }

/-- One flit leaves: it is kept, and takes a credit. -/
def Dev.sendFlit (d : Dev) (p ch : Nat) (f : List Byte) : Dev :=
  let x := d.peer p
  let kept := x.kept ++ [⟨x.txSeq, ch, f⟩]
  let d := d.setPeer p { x with
    kept := kept.drop (kept.length - 512), txSeq := (x.txSeq + 1) % 4096,
    credits := (List.range 4).map fun i => if i = ch then x.credits.getD i 0 - 1 else x.credits.getD i 0 }
  d.bump64 .peer p fPR_TX_LO_BYTES_LO fPR_TX_HI_BYTES_HI 244

/-- Send while payloads wait and their channel has credit, the lowest channel first; `n` bounds them. -/
def Dev.pumpFlits (p : Nat) : Nat → Dev → Dev
  | 0, d => d
  | n + 1, d =>
    let x := d.peer p
    match [1, 2, 3].findSome? fun ch => if x.credits.getD ch 0 = 0 then none else x.txq.find? fun q => q.1 = ch with
    | none => d
    | some q => Dev.pumpFlits p n ((d.setPeer p { x with txq := x.txq.erase q }).sendFlit p q.1 q.2)

/-- Time spent waiting for credit is counted (PR_CRED_WAIT). -/
def Dev.creditWait (d : Dev) (p : Nat) : Dev :=
  let x := d.peer p
  match x.waitAt, x.txq.isEmpty with
  | none, false => d.setPeer p { x with waitAt := some d.free }
  | some t, true => (d.setPeer p { x with waitAt := none }).bump .peer p fPR_CRED_WAIT_US (cdiv (d.free - t) 1000)
  | _, _ => d

/-- The bytes of a record stream at an address, from its chunks. -/
def Dev.streamBytes (d : Dev) (x : RecStream) (a n : Nat) : List Byte :=
  d.readDram (d.chunkBase (x.handleAt a) + a % chunkBytes) n

/-- The next piece of the streams that write to the partner is queued when no other waits. -/
def Dev.queuePiece (d : Dev) (p : Nat) : Dev :=
  if (d.peer p).txq.any fun q => q.1 = 1 then d
  else match d.core.recs.findSome? fun e =>
      (e.2.pieces.find? fun q => decide (q.port = 8 + p) && !q.issued && !q.done).map fun q => (e.1, e.2, q) with
    | none => d
    | some (s, x, q) =>
      let d := d.setRec s { x with pieces := x.pieces.map fun (r : PieceSt) =>
        if r.addr = q.addr then { r with issued := true, issuedAt := d.free } else r }
      d.peerQueue p 1 1 s q.addr (d.streamBytes x q.addr q.len)

/-- Released pictures and offload units that go to the partner are queued. -/
def Dev.queueOutputs (d : Dev) (p : Nat) : Dev :=
  d.core.decs.foldl (fun (d : Dev) e =>
    let s := e.1
    match d.dec? s with
    | none => d
    | some x =>
      if x.par.offPeer = some p then
        if x.units.isEmpty then d
        else ((x.units.foldl (fun (d : Dev) u => d.peerQueue p 3 4 s 0 u) d).setDec s { x with units := [] }).decEnd s
      else if 8 ≤ x.par.dest ∧ picPort s = p then
        let due := x.outs.filter fun o => o.released && o.peer
        if due.isEmpty then d
        else
          let d := due.foldl (fun (d : Dev) o => d.peerQueue p 2 3 s o.pic (x.record s o)) d
          ((d.setDec s { x with outs := x.outs.map fun o => if o.released then { o with peer := false } else o }).decSweep s).decRun s
      else d) d

/-- Send what the port has; `n` bounds the pieces. -/
def Dev.peerRun (p : Nat) : Nat → Dev → Dev
  | 0, d => d
  | n + 1, d =>
    let d := d.queuePiece p
    let busy := !(d.peer p).txq.isEmpty
    let d := Dev.pumpFlits p ((d.peer p).txq.length + 1) d
    if busy ∧ (d.peer p).txq.isEmpty then Dev.peerRun p n d else d

/-- Send what waits on a port whose link is up. -/
def Dev.peerPump (d : Dev) (p : Nat) : Dev :=
  if !d.peerUp p then d
  else
    let d := d.queueOutputs p
    (Dev.peerRun p (d.core.recs.foldl (fun a e => a + e.2.pieces.length) 1) d).creditWait p

/-- Every port. -/
def Dev.peerPumps (d : Dev) : Dev := (List.range 3).foldl (fun (d : Dev) p => d.peerPump p) d

/-! ## The link's life (R342, R343) -/

/-- The link of a port is lost: it retrains. -/
def Dev.peerLost (d : Dev) (p : Nat) : Dev :=
  if d.get .peer p fPR_STAT_STATE ≠ 2 then d
  else
    let x := d.peer p
    let d := d.setPeer p { x with
      gap := false, nakSeq := none, naks := 0, txq := (x.kept.map fun k => (k.channel, k.payload)) ++ x.txq, kept := [], offered := none }
    let d := (d.set .peer p fPR_STAT_STATE 3).set .peer p fPR_STAT_LOCKED 0
    let d := ((d.bump .peer p fPR_ERR_CNT_LOSSES).statBit .peer p 1).assertEvt (104 + p)
    let d := d.raiseLevel (1796 + p) (0x900 + p)
    let d := (d.core.decs.filter fun e => decide (e.2.par.source = 1 ∧ e.2.par.srcId = p)).foldl
      (fun (d : Dev) e => d.sourceFailed e.1 0) d
    let d := { d with core := { d.core with served := d.core.served.filter fun v => v.peer ≠ p } }
    match d.core.exchange with
    | some e => if e.target = some (8 + p) then d.afterRemoval (8 + p) else d
    | none => d

/-- An IDENT arrives at the end of training: the link is up if the partner is the one R340 names, else miswired. -/
def Dev.peerIdent (d : Dev) (p member sizeM1 port serial polarity delay : Nat) : Dev :=
  let sz := d.core.lehr.gangSzM1
  let st := d.get .peer p fPR_STAT_STATE
  if sz = 0 ∨ d.get .peer p fPR_CFG_EN = 0 ∨ !d.enabled (0x38 + p) ∨ st = 2 ∨ d.core.fault.heldDown.contains (29 + p) then d
  else
    let d := (d.set .peer p fPR_STAT_PARTNER member).set .peer p fPR_STAT_PSIZE_M1 sizeM1
    if sizeM1 = sz ∧ member = d.partner p ∧ member ≤ sz ∧ port = 2 - p then
      let x := d.peer p
      let d := d.setPeer p { x with
        serial := serial, txSeq := 0, rxSeq := 0, gap := false, nakSeq := none, naks := 0, kept := [], delay := delay,
        credits := PeerPort.rest.credits }
      let d := (d.set .peer p fPR_STAT_STATE 2).set .peer p fPR_STAT_POL_INV polarity
      let d := (d.set .peer p fPR_STAT_LOCKED 255).set .peer p fPR_DELAY_DELAY delay
      let f := d.get .peer 0 fPR_GANG_FAILED
      let d := if f.testBit member then d.setGang fPR_GANG_FAILED (f - 2 ^ member) else d
      let d := ((d.endLevel (1796 + p)).statBit .peer p 0).assertEvt (104 + p)
      d.refreshRoot.peerPump p
    else ((d.set .peer p fPR_STAT_STATE 4).statBit .peer p 3).assertEvt (104 + p)

/-- A NAK arrives: the kept flits are sent again from the sequence it names; the eighth for one sequence loses the link. -/
def Dev.peerNak (d : Dev) (p seq : Nat) : Dev :=
  if !d.peerUp p then d
  else
    let x := d.peer p
    let n := if x.nakSeq = some seq then x.naks + 1 else 1
    let d := d.setPeer p { x with nakSeq := some seq, naks := n }
    if 8 ≤ n then d.peerLost p
    else d.bump64 .peer p fPR_TX_LO_BYTES_LO fPR_TX_HI_BYTES_HI (244 * (x.kept.countP fun k => decide ((k.seq + 4096 - seq) % 4096 < 512)))

/-! ## What arrives (R344, R347, R348) -/

/-- A chunk of class PEER for a window of a hosted stream's addresses. -/
def Dev.hostedChunk (d : Dev) (h : Hosted) (a : Nat) : Dev × Hosted :=
  let k := a / chunkBytes
  if h.chunks.any fun c => c.1 = k then (d, h)
  else match d.allocChunk (0x1900 + h.peer) 3 true with
    | (d, some c) => (d, { h with chunks := h.chunks ++ [(k, c)] })
    | (d, none) => (d, h)

/-- Bytes of a hosted stream arrive: whole pieces, and a short one at its end, are ready to be written. -/
def Dev.hostedBytes (d : Dev) (h : Hosted) (a : Nat) (last : Bool) (bs : List Byte) : Dev :=
  if a ≠ h.addr + h.buf.length ∧ !h.buf.isEmpty then d
  else
    let h := if h.buf.isEmpty then { h with addr := a } else h
    let r := d.hostedChunk h a
    let d := r.1
    let h := { r.2 with buf := r.2.buf ++ bs }
    let d := match h.chunks.find? fun c => c.1 = a / chunkBytes with
      | some c => d.writeDram (d.chunkBase c.2 + a % chunkBytes) bs
      | none => d
    let h := if last ∨ (h.addr + h.buf.length) % pieceBytes = 0 then
        { h with pieces := h.pieces ++ [⟨h.addr, h.buf.length, h.port, 0, 0, 0, d.free, false, false, false⟩],
                 addr := h.addr + h.buf.length, buf := [] }
      else h
    let d := d.modVol h.port fun v => Vol.extend h.snum (h.addr + pieceBytes) d.free 4 v
    ((d.setHosted h).pumpVol h.port).issuePort h.port

/-- An arrival in parts is complete: a picture record or offload unit that this device has accepted goes to its host ring. -/
def Dev.arrived (d : Dev) (p kind slot : Nat) (last : Bool) (bs : List Byte) : Dev :=
  let x := d.peer p
  let got := (x.parts.find? fun q => decide (q.1 = kind ∧ q.2.1 = slot)).map (·.2.2)
  let all := (got.getD []) ++ bs
  let rest := x.parts.filter fun q => !(decide (q.1 = kind ∧ q.2.1 = slot))
  if !last then d.setPeer p { x with parts := rest ++ [(kind, slot, all)] }
  else match x.accepts.find? fun a => decide (a.kind = kind ∧ a.slot = slot) with
    | some a => d.setPeer p { x with parts := rest, inbox := x.inbox ++ [(a.ring, all)] }
    | none => d.setPeer p { x with parts := rest }

/-- A payload arrives in order on a channel. -/
def Dev.peerPayload (d : Dev) (p ch : Nat) (f : List Byte) : Dev :=
  let r := Config.flitRead ch f
  let slot := r.2.1
  let a := r.2.2.1
  let last := r.2.2.2.1
  let bs := r.2.2.2.2
  match r.1 with
  | 1 => match d.core.hosted.find? fun h => decide (h.peer = p ∧ h.slot = slot) with
    | some h => d.hostedBytes h a last bs
    | none => d
  | 2 => match d.dec? slot with
    | some x =>
      if x.par.source = 1 ∧ x.par.srcId = p then
        let d := d.decBytes slot bs
        if last ∧ (d.dec? slot).any (fun y => y.cur.all fun c => c.trailer.isEmpty) ∧ (d.slot slot).state.live then
          d.endStream slot .closed 9 else d
      else d
    | none => d
  | 3 => d.arrived p 0 slot last bs
  | 4 => d.arrived p 1 slot last bs
  | _ => d

/-- Every flit with a good CRC: credits return, and flits acknowledged are let go. -/
def Dev.peerAck (d : Dev) (p ack ch n : Nat) : Dev :=
  let x := d.peer p
  d.setPeer p { x with
    kept := x.kept.filter fun k => decide (2048 ≤ (ack + 4096 - k.seq) % 4096),
    credits := (List.range 4).map fun i => if i = ch then x.credits.getD i 0 + n else x.credits.getD i 0 }

/-- A flit arrives (Table 18.2, R343). -/
def Dev.peerFlit (d : Dev) (p : Nat) (f : List Byte) : Dev :=
  if !d.peerUp p ∨ f.length ≠ 256 then d
  else
    let x := d.peer p
    let nak := fun (d : Dev) =>
      if x.gap then d
      else (((d.setPeer p { x with gap := true }).bump .peer p fPR_ERR_CNT_NAKS).statBit .peer p 5).peerSay p 2 [x.rxSeq]
    if crc32c (f.take 252) ≠ fieldLe f 252 4 then nak d
    else if fieldLe f 2 2 % 4096 ≠ x.rxSeq then nak d
    else
      let d := d.setPeer p { x with rxSeq := (x.rxSeq + 1) % 4096, gap := false }
      let d := d.peerAck p (fieldLe f 4 2 % 4096) (fieldLe f 6 1) (fieldLe f 7 1)
      let ch := fieldLe f 1 1 % 4
      let d := if fieldLe f 0 1 = 1 then (d.peerPayload p ch ((f.drop 8).take 244)).peerSay p 3 [ch, 1] else d
      d.peerPump p

/-! ## Sharing magazines (R346, R347) -/

/-- OFFER_REQ: a partner asks for a magazine. -/
def Dev.offerAsked (d : Dev) (p sum : Nat) : Dev :=
  if !d.peerUp p ∨ d.get .peer p fPR_CFG_OFFER_EN = 0 ∨ peerLimit < d.peerRx p + sum then d
  else
    let taken := fun (m : Nat) => (List.range 3).any fun q => ((d.peer q).offered.map (·.1)) = some m
    match (List.range 8).find? fun m => d.mounted m && d.role m = 1 && !taken m && decide (sum ≤ d.get .mag m fMAG_PACE_MBPS) &&
        (d.core.exchange.all fun e => e.target ≠ some m) with
    | none => d
    | some m =>
      let x := d.peer p
      ((d.setPeer p { x with offered := some (m, d.free, sum) }).statBit .peer p 4).peerSay p 6 [m]

/-- OFFER: the origin takes a partner's offer while it awaits one. -/
def Dev.offerCame (d : Dev) (p : Nat) : Dev :=
  match d.core.exchange with
  | none => d
  | some e =>
    if !e.offers ∨ e.since + 200000 < d.free ∨ !d.peerUp p then d
    else
      let xs := e.slots.filterMap d.rec?
      let sum := xs.foldl (fun a x => a + x.dsNow) 0
      if peerLimit < d.peerTx p + sum then d
      else
        let d := d.setPeer p { d.peer p with pace := sum }
        let d := ((d.statBit .peer p 4).peerSay p 7 e.slots).takeTarget { e with offers := false } (8 + p)
        d.peerPump p

/-- No offer within 200 µs: step 3 of R282. -/
def Dev.offersOver (d : Dev) : Dev :=
  match d.core.exchange with
  | none => d
  | some e =>
    if !e.offers ∨ d.free < e.since + 200000 then d
    else if e.cause = 4 then d.noTarget { e with offers := false }
    else d.setExchange (some { e with since := d.free, offers := false })

/-- ACCEPT: the offered port takes the partner's streams: each (slot, serial, region, first picture, RESUME_ADDR). -/
def Dev.offerTaken (d : Dev) (p takeId tStart srcVol : Nat) (streams : List (Nat × Nat × Nat × Nat × Nat)) : Dev :=
  let x := d.peer p
  match x.offered with
  | none => d
  | some (m, t, sum) =>
    if t + 1000000 ≤ d.free ∨ !d.mounted m ∨ !d.peerUp p then d
    else
      let d := (d.setPeer p { x with offered := none, hostPace := x.hostPace + sum }).set .mag m fMAG_CFG_ROLE 0
      let d := d.statBit .peer p 4
      let d := streams.foldl (fun (d : Dev) e => match (d.mag m).vol with
        | none => d
        | some v =>
          let r := v.openTake d.free takeId x.serial tStart
          let r2 := r.1.openStream d.free r.2 e.1 e.2.1 e.2.2.1 e.2.2.2.1 e.2.2.2.2 (some (1, srcVol))
          let v := Vol.extend r2.2 (e.2.2.2.2 + pieceBytes) d.free 64 r2.1
          let h : Hosted := ⟨p, e.1, m, r2.2, e.2.2.2.2, [], [], e.2.2.2.2, []⟩
          let d := d.setMag m { d.mag m with vol := some v }
          { d with core := { d.core with hosted := (d.core.hosted.filter fun k => !(decide (k.peer = p ∧ k.slot = e.1))) ++ [h] } }) d
      d.commitVol m

/-- No ACCEPT within 1 ms: the reserved port is released. -/
def Dev.offerReleased (d : Dev) (p : Nat) : Dev :=
  let x := d.peer p
  match x.offered with
  | some (_, t, _) => if t + 1000000 ≤ d.free then d.setPeer p { x with offered := none } else d
  | none => d

/-- CONFIRM: the partner has confirmed a stream of this device up to an address. -/
def Dev.partnerConfirms (d : Dev) (p slot endA : Nat) : Dev :=
  match d.rec? slot with
  | none => d
  | some x =>
    if x.par.port ≠ 8 + p ∨ d.get .peer p fPR_STAT_STATE = 5 then d
    else
      let d := d.setRec slot { x with pieces := x.pieces.map fun (q : PieceSt) =>
        if q.port = 8 + p ∧ q.issued ∧ q.addr + q.len ≤ endA then { q with done := true } else q }
      ((d.advance slot).exchangeCheck).peerPump p

/-! ## Reads for a partner (R348) -/

/-- The next read of a served stream. -/
def Dev.serveNext (d : Dev) (v : Served) : Dev :=
  if v.reading then d
  else match (d.mag v.port).vol.bind (·.stream? v.snum) with
    | none => d
    | some t =>
      let endA := max t.endAddr ((d.confOf v.port v.snum).getD 0)
      let a := skipFill t.fills v.addr
      if endA ≤ a ∨ !d.magIssues v.port ∨ (t.lba a).isNone then d
      else
        let pair := 1 + d.get .mag v.port fMAG_STAT_QPAIRS / 2
        match d.allocChunk (0x1900 + v.peer) 3 true with
        | (d, none) => d
        | (d, some h) =>
          let r := d.startIo v.port pair (.serve v.peer v.recStream a h)
          if r.2 then { r.1 with core := { r.1.core with served := r.1.core.served.map fun (w : Served) =>
            if w.peer = v.peer ∧ w.recStream = v.recStream then { w with reading := true, addr := a } else w } }
          else r.1.releaseHold h (0x1900 + v.peer)

/-- READ_REQ: served as a reading stream of the port that holds the recording, or refused with a check code. -/
def Dev.readAsked (d : Dev) (p takeId recStream first mbps : Nat) : Dev :=
  if !d.peerUp p then d
  else
    let live := (d.rec? recStream).bind fun x => if x.takeId = takeId ∧ (d.slot recStream).state.live then x.volPort else none
    let port := (live.filter (· < 8)).orElse fun _ => d.mountedPorts.find? fun m => (d.findStored m takeId recStream).isSome
    match port.bind fun m => (d.findStored m takeId recStream).map fun v => (m, v) with
    | none => d.peerSay p 10 [recStream, 0x12]
    | some (m, v) =>
      if peerLimit < d.peerTx p + mbps then d.peerSay p 10 [recStream, 0x15]
      else if !d.readFits m 1536 mbps then d.peerSay p 10 [recStream, 0x0D]
      else
        let start := (((v.index.filter fun e => decide (picAhead first e.1 < 2 ^ 23)).getLast?).map (·.2.1)).getD v.startAddr
        let w : Served := ⟨p, takeId, recStream, m, v.snum, start, mbps, false⟩
        let d := { d with core := { d.core with
          served := (d.core.served.filter fun (k : Served) => !(decide (k.peer = p ∧ k.recStream = recStream))) ++ [w] } }
        (d.peerSay p 11 [recStream]).serveNext w

/-- A read served to a partner completes: its units go out on channel 2. -/
def Dev.serveDone (d : Dev) (m : Nat) (c : IoCmd) (p recStream a h status : Nat) (data : List Byte) : Dev :=
  let d := d.dropIo m c
  let d := if status = 0 then d.bump .mag m fMAG_RD_CNT_READS else d.magCmdErr m
  let d := if d.core.cullet.holds.contains (h, 0x1900 + p) then d.releaseHold h (0x1900 + p) else d
  match d.core.served.find? fun v => decide (v.peer = p ∧ v.recStream = recStream) with
  | none => d
  | some v =>
    let upd := fun (d : Dev) (f : Served → Served) => { d with core := { d.core with
      served := d.core.served.map fun (w : Served) => if w.peer = p ∧ w.recStream = recStream then f w else w } }
    if status ≠ 0 then
      { d with core := { d.core with served := d.core.served.filter fun (w : Served) => !(decide (w.peer = p ∧ w.recStream = recStream)) } }
    else
      let t := (d.mag m).vol.bind (·.stream? v.snum)
      let endA := (t.map fun t => max t.endAddr ((d.confOf m v.snum).getD 0)).getD 0
      let e := readEnd ((t.map (·.fills)).getD []) endA a
      let v' := { v with addr := e, reading := false }
      let d := upd d fun _ => v'
      ((d.peerQueue p 2 2 recStream a ((data.drop (a % 4096)).take (e - a))).peerPump p).serveNext v'

/-- A read completes: one served to a partner, or one of this device's own. -/
def Dev.nvmeRead (d : Dev) (m pair cid status : Nat) (data : List Byte) : Dev :=
  match (d.mag m).ios.find? fun c => decide (c.pair = pair ∧ c.cid = cid) with
  | some c => match c.kind with
    | .serve p r a h => d.serveDone m c p r a h status data
    | _ => d.readDone m pair cid status data
  | none => d

/-! ## Time across the gang (R349) -/

/-- TIME arrives from the root: the offset, and its correction by GAFFER0's servo. -/
def Dev.gangTime (d : Dev) (p sentNs sentFrac : Nat) : Dev :=
  if !d.peerUp p ∨ d.get .peer p fPR_STAT_PARTNER ≠ d.get .peer 0 fPR_GANG_ROOT ∨ d.isRoot ∨ !d.gafRuns 0 then d
  else
    let sent : Nat := sentNs * 2 ^ 32 + sentFrac + (d.peer p).delay * 2 ^ 32 / 10
    let ofs : Int := ((d.reading : Int) - (sent : Nat)) / 2 ^ 32
    let sat := max (-(2 ^ 31 - 1)) (min (2 ^ 31 - 1) ofs)
    (d.set .peer p fPR_TIME_OFS_NS (toTwos 32 sat)).servo ofs

/-- Every 1 ms the root sends TIME on each link. -/
def Dev.sendGangTime (d : Dev) : Dev :=
  if d.isRoot ∧ d.core.lehr.gangSzM1 ≠ 0 then
    d.upPeers.foldl (fun (d : Dev) p => d.peerSay p 4 [d.now, d.reading % 2 ^ 32]) d
  else d

/-- HEARTBEAT, every 100 µs. -/
def Dev.heartbeat (d : Dev) : Dev := (d.upPeers.foldl (fun (d : Dev) p => d.peerSay p 1 []) d).refreshRoot

/-! ## A failed member (R350, Table 18.4) -/

/-- The streams of a failed member hosted here end at their confirmed end. -/
def Dev.endHosted (d : Dev) (p : Nat) : Dev :=
  let d := d.revokeTag (0x1900 + p)
  let d := (d.core.hosted.filter fun h => h.peer = p).foldl (fun (d : Dev) h =>
    (d.modVol h.port fun v => v.closeStream d.free h.snum 3 8 h.conf 0).commitVol h.port) d
  { d with core := { d.core with hosted := d.core.hosted.filter fun h => h.peer ≠ p } }

/-- The partner of a port is failed: ALRT_I has held low for 1 ms after its filter. -/
def Dev.partnerFails (d : Dev) (p : Nat) : Dev :=
  if d.core.lehr.gangSzM1 < d.partner p ∨ d.get .peer p fPR_STAT_STATE = 5 then d
  else
    let j := d.partner p
    let x := d.peer p
    let d := d.setPeer p { x with
      offered := none, hostPace := 0, txq := [], kept := [], parts := [], accepts := [], failedPin := true, waitAt := none }
    let d := ((d.set .peer p fPR_STAT_STATE 5).set .peer p fPR_STAT_LOCKED 0).statBit .peer p 2
    let f := d.get .peer 0 fPR_GANG_FAILED
    let d := (if f.testBit j then d else d.setGang fPR_GANG_FAILED (f + 2 ^ j)).refreshRoot
    let d := d.endHosted p
    let d := { d with core := { d.core with served := d.core.served.filter fun v => v.peer ≠ p } }
    let d := (d.core.decs.filter fun e => decide (e.2.par.source = 1 ∧ e.2.par.srcId = p)).foldl
      (fun (d : Dev) e => d.sourceFailed e.1 0) d
    let d := d.core.decs.foldl (fun (d : Dev) e =>
      if 8 ≤ e.2.par.dest ∧ picPort e.1 = p then
        match d.dec? e.1 with
        | some y => ((d.setDec e.1 { y with
            par := { y.par with dest := y.par.dest - 8 }, outs := y.outs.map fun o => { o with peer := false } }).decSweep e.1).decRun e.1
        | none => d
      else d) d
    d.afterRemoval (8 + p)

/-! ## Peer commands and arms (R345, R348, Table 18.6) -/

/-- PR_RESV as it reads, in 0.01 GB/s. -/
def Dev.peerResv (d : Dev) (p : Nat) : Nat := min 65535 (cdiv (d.peerTx p) 80) * 65536 + min 65535 (cdiv (d.peerRx p) 80)

/-- PEER_STATUS. -/
def Dev.cmdPeerStatus (d : Dev) (m : Nat) (hostOk : Bool) (c : MbxCmd) : Dev :=
  let p := argF c.words 2 1 0
  if p = 3 then d.finishCmd m c.id 2
  else if !hostOk then d.finishCmd m c.id 7
  else
    let w := fun (r : FieldRow) => (d.reg (fieldAddr .peer p r 0)).toNat
    let b := Config.statusRecord 1 [w fPR_STAT_STATE, w fPR_GANG_ROOT, d.peerResv p, (d.peer p).serial]
    (d.writeHost (arg64 c.words 3) (rec64 b)).finishCmd m c.id 0

/-- PEER_ACCEPT. -/
def Dev.cmdPeerAccept (d : Dev) (m : Nat) (c : MbxCmd) : Dev :=
  let p := argF c.words 2 1 0
  let a : PeerAccept := ⟨argF c.words 2 4 4, argF c.words 2 31 16, argF c.words 3 13 0⟩
  if p = 3 then d.finishCmd m c.id 2
  else if !d.peerUp p then d.finishCmd m c.id 6
  else
    let x := d.peer p
    (d.setPeer p { x with accepts := (x.accepts.filter fun b => !(decide (b.kind = a.kind ∧ b.slot = a.slot))) ++ [a] }).finishCmd m c.id 0

/-- PEER_REFUSE. -/
def Dev.cmdPeerRefuse (d : Dev) (m : Nat) (c : MbxCmd) : Dev :=
  let p := argF c.words 2 1 0
  if p = 3 then d.finishCmd m c.id 2
  else
    let x := d.peer p
    (d.setPeer p { x with
      accepts := x.accepts.filter fun b => !(decide (b.kind = argF c.words 2 4 4 ∧ b.slot = argF c.words 2 31 16)) }).finishCmd m c.id 0

/-- No direction of a peer port goes beyond its limit. -/
def Dev.peersFit (d : Dev) : Bool := (List.range 3).all fun p => decide (d.peerTx p ≤ peerLimit ∧ d.peerRx p ≤ peerLimit)

/-- An arm that takes a peer port beyond its limit is refused with check 0x15. -/
def Dev.peerGate (before : Dev) (r : Dev × Nat) (s : Nat) : Dev × Nat :=
  if r.2 = 0 ∧ !r.1.peersFit then (before.refuseArm s 0x15, 0x15) else r

/-- ARM_DECODE: `source` is what the read of the Stream Header returned; from a partner that refuses, one byte, its check code. -/
def Dev.cmdArmDecode (d : Dev) (m : Nat) (source : Option (List Byte)) (c : MbxCmd) : Dev :=
  let p := decParams c.words d.base
  let s := argF c.words 2 10 0
  let bytes := if p.source = 1 ∧ !(p.srcId ≤ 2 ∧ d.peerUp p.srcId) then none else source
  match p.source, bytes with
  | 1, some [code] => Dev.finishArm (d.refuseArm s code.toNat, code.toNat) m c.id
  | _, _ =>
    let r := Dev.peerGate d (d.armDecode s (argF c.words 2 31 29) p bytes) s
    let d := if r.2 = 0 ∧ p.source = 1 then
        r.1.peerSay p.srcId 9 [p.takeId, p.recStream, p.first, ((r.1.dec? s).map (·.par.rate)).getD 0] else r.1
    Dev.finishArm (d, r.2) m c.id

/-- ARM_OFFLOAD. -/
def Dev.cmdArmOffload (d : Dev) (m : Nat) (source : Option (List Byte)) (c : MbxCmd) : Dev :=
  let s := argF c.words 2 10 0
  let peer := if argF c.words 2 25 25 = 1 then some (argF c.words 2 24 23) else none
  let r := d.armOffload s (argF c.words 2 31 29) (argF c.words 2 28 26) (argF c.words 3 31 16) (argF c.words 3 9 0) (argF c.words 4 19 0)
    (argF c.words 5 13 0) peer source
  Dev.finishArm (Dev.peerGate d r s) m c.id

end Sys2Proof.Machine
end

