-- ==== Sys2Proof/Machine/ResetOps.lean ====
section
/-! DEFINITION. Controllers that halt (R236 to R238), block and quadrant resets (R27, R363, R383), and the end of a restore (R366). -/
namespace Sys2Proof.Machine

/-! ## Controllers -/

/-- The admission holder is the lowest-numbered running controller (R236). Forwarded commands are lost when the old holder has
halted; otherwise they wait at the new holder's doorbell. -/
def Dev.refreshHolder (d : Dev) : Dev :=
  let old := d.holder
  let new := (List.range 8).find? d.gafRuns
  if old = new then d
  else
    let d := match old with
      | some c => (d.set .gaffer c fGF_STAT_HOLDER 0).releaseEvt (120 + c)
      | none => d
    let lost := match old with
      | some c => !d.gafRuns c
      | none => false
    let d := if lost then d.forwardLost else d
    match new with
    | some c =>
      let d := (d.set .gaffer c fGF_STAT_HOLDER 1).statBit .gaffer c 2
      let d := if d.core.host.fwdQueue.isEmpty then d else d.assertEvt (120 + c)
      if d.core.host.modeReq.isSome then d.assertEvt 119 else d
    | none => d

/-- A controller halts (R237): it is at a scan boundary from now on, so that retargets away from it take effect. -/
def Dev.haltCtl (d : Dev) (c : Nat) : Dev :=
  if !d.gafRuns c then d
  else
    let d := ((d.set .gaffer c fGF_STAT_RUNNING 0).set .gaffer c fGF_STAT_HALTED 1).statBit .gaffer c 0
    let d := d.setGaf c { d.gaf c with busy := false }
    let move := fun (p : Nat × EvtSrc) => if p.2.oldTarget = some c then (p.1, { p.2 with oldTarget := none }) else p
    let d : Dev := { d with core := { d.core with evts := d.core.evts.map move } }
    (d.refreshHolder).raiseLevel (1734 + 2 * c) (0x100 + c)

/-- The firmware of a controller runs: at boot, and after a reset of the controller (DEDUCED, log entry 38). -/
def Dev.startCtl (d : Dev) (c : Nat) : Dev :=
  let d := (d.set .gaffer c fGF_STAT_RUNNING 1).set .gaffer c fGF_STAT_HALTED 0
  ((d.setGaf c { Gaffer.rest with lastScan := d.free }).endLevel (1734 + 2 * c)).refreshHolder

/-- The takeover controller of a controller's streams (R238). -/
def Dev.takeoverCtl (d : Dev) (c : Nat) : Option Nat :=
  let other := if c % 2 = 0 then c + 1 else c - 1
  if d.gafRuns other then some other else (List.range 8).find? d.gafRuns

/-- The streams of a halted controller move to the takeover controller, which writes what was not written and commits a journal
slot on each magazine the streams write (R238). With no controller running, SAFE_HOLD is entered. -/
def Dev.takeover (d : Dev) (c : Nat) : Dev :=
  match d.takeoverCtl c with
  | none => d.enterHold 1
  | some t =>
    let moved := (d.liveSlots.filter fun p => decide (p.2.ctl = c)).map (·.1)
    let d := moved.foldl (fun (d : Dev) s => (d.setSlot s { d.slot s with ctl := t }).serveStream s) d
    let ports := ((moved.filterMap fun s => (d.rec? s).bind (·.volPort)).filter (· < 8)).eraseDups
    ports.foldl (fun (d : Dev) m => d.commitVol m) d

/-! ## Clearing registers by class (Table 20.8a) -/

/-- The registers that differ from their reset value, or were written by this command. -/
def Dev.storedRegs (d : Dev) : List Nat := d.regs.base.map (·.1) ++ d.regs.log.map (·.1)

/-- Registers whose STS fields show a state that no reset of their own block changes: where each domain stands (LP_DOMn.STATE), the
host port's link, and the state of a channel that is retired or failed. -/
def Dev.keepSts (d : Dev) (a : Nat) : Bool :=
  (0x1400 ≤ a && a < 0x1800) || a = 0xC040 ||
    (0x40040 ≤ a && a < 0x4A000 && a % 4096 = 0x40 && decide (4 ≤ d.get .mem (a / 4096 - 0x40) fMEM_STAT_STATE))

/-- The register takes its reset value in the fields of the classes named. -/
def Dev.clearReg (d : Dev) (cs : List Cls) (a : Nat) : Dev :=
  let m := cs.foldl (fun m c => m ||| classMask c a) (0 : Word)
  d.setReg a ((d.reg a &&& ~~~m) ||| (resetWord a &&& m))

/-- Clear the fields of the classes in every page of a block. -/
def Dev.clearBlock (d : Dev) (b : Nat) (cs : List Cls) : Dev :=
  let p0 := blockPage b
  let n := match pageInfo p0 with
    | some i => i.pages
    | none => 1
  (d.storedRegs.eraseDups.filter fun a => decide (p0 ≤ a / 4096 ∧ a / 4096 < p0 + n)).foldl (fun (d : Dev) a =>
    d.clearReg (if d.keepSts a then cs.filter (· ≠ .sts) else cs) a) d

/-! ## What a reset of a block does behind its registers -/

/-- The heads of a bank lose their links: admitted ones enter STATE 6 at once (Table 19.5); others start again from STATE 0. -/
def Dev.bankLost (d : Dev) (k : Nat) : Dev :=
  let d := d.set .gather k fGT_LOCK_STAT_LOCKED 0
  let d := (List.range 32).foldl (fun (d : Dev) i => d.setLane (32 * k + i) Lane.rest) d
  ((d.core.heads.map (·.1)).filter fun h => bankOf h = k).foldl (fun (d : Dev) h => d.linkLost h) d

/-- A pipeline gives up its tile, which another codes. -/
def Dev.dropPipe (d : Dev) (p : Nat) : Dev := (d.handTile p).setEnc p Pipe.rest

/-- A decode pipeline gives up its tile, which is decoded again (R207). -/
def Dev.dropDecPipe (d : Dev) (p : Nat) : Dev :=
  let d := match (d.decp p).job with
    | some (s, _, r, c) => match d.dec? s with
      | some x => (d.setDec s (x.modTile r c fun t => { t with stage := 0 })).bump .dec p fDEC_DMG_CNT_RETRIES
      | none => d
    | none => d
  (d.setDecp p Pipe.rest).set .dec p fMC_STAT_BUSY 0

/-- A ring keeps its configuration and loses its state (Table 13.2). -/
def Ring.cleared (r : Ring) : Ring :=
  { Ring.rest with base := r.base, en := r.en, leased := r.leased, hostMem := r.hostMem, paced := r.paced, output := r.output,
                   sizeLog2 := r.sizeLog2, owner := r.owner, quantum := r.quantum, dsUsed := r.dsUsed }

/-- The fault collector's sources lose what class STS holds; TOTAL stays. -/
def FaultSt.cleared (f : FaultSt) : FaultSt :=
  { f with recs := f.recs.map fun (p : Nat × FaultRec) =>
      (p.1, { FaultRec.rest with total := p.2.total, level := p.2.level, railsEq := p.2.railsEq }), fifo := [], fifoSeq := 0 }

/-- The work in hand of a block is abandoned (R27). -/
def Dev.coreReset (d : Dev) (b : Nat) : Dev :=
  if b = 0 then { d with core := { d.core with test := none } }
  else if b = 3 then { d with core := { d.core with flashCmd := none } }
  else if b = 4 then d.modFault FaultSt.cleared
  else if b = 5 then d.modTime fun t => { TimeSt.rest with refPresent := t.refPresent, rate := t.rate, gmUtc := t.gmUtc }
  else if b < 8 then (d.netLink (b - 6) false).setNet (b - 6) { d.net (b - 6) with rx := [], tx := [], txStamps := [] }
  else if b = 8 then { d with core := { d.core with evts := d.core.evts.map fun (p : Nat × EvtSrc) =>
    (p.1, { p.2 with oldTarget := none, since := 0 }) } }
  else if b = 9 then d.modHost fun h => { h with guards := [], mailboxes := [], fwdQueue := [], rdata := [], rPoison := false, rUr := false }
  else if b < 18 then
    let d := d.setGaf (b - 10) Gaffer.rest
    d.refreshHolder
  else if b = 18 then d.setCullet Cullet.rest
  else if b = 19 then { d with core := { d.core with rcLog := [] } }
  else if b = 20 then { d with core := { d.core with
    rings := d.core.rings.map fun (p : Nat × Ring) => (p.1, p.2.cleared), chans := [], drr := [] } }
  else if b < 29 then
    let m := b - 21
    if d.get .mag m fMAG_STAT_STATE = 0 ∨ d.get .mag m fMAG_STAT_STATE = 6 then d else d.removePort m
  else if b < 32 then (d.peerLost (b - 29)).setPeer (b - 29) { PeerPort.rest with
    accepts := (d.peer (b - 29)).accepts, sent := (d.peer (b - 29)).sent, failedPin := (d.peer (b - 29)).failedPin }
  else if 43 ≤ b ∧ b < 47 then
    { d with core := { d.core with proxies := d.core.proxies.map fun (p : Nat × ProxyStream) =>
      if p.2.engine = b - 43 then (p.1, { p.2 with cur := none }) else p } }
  else if 63 ≤ b ∧ b < 95 then
    let d := d.bankLost (b - 63)
    { d with core := { d.core with heads := d.core.heads.filter fun p => bankOf p.1 ≠ b - 63 } }
  else if 95 ≤ b ∧ b < 163 then d.dropPipe (b - 95)
  else if 163 ≤ b ∧ b < 183 then d.dropDecPipe (b - 163)
  else d

/-! ## Block resets -/

/-- A block reset is in progress. -/
def Dev.resetting (d : Dev) (b : Nat) : Bool := d.inReset (blockPage b)

/-- A block is put into reset: its work is abandoned, its CTL and STS fields are cleared, RESET_BUSY reads 1. -/
def Dev.holdReset (d : Dev) (b : Nat) (req : Bool) : Dev :=
  let d := (d.coreReset b).clearBlock b [.ctl, .sts]
  let d := d.hset (blockPage b) fPG_PWR_STAT_RESET_BUSY 1
  let d := if b < 18 ∧ 10 ≤ b then d.refreshHolder else d
  if req then d.hset (blockPage b) fPG_CTL_RESET_REQ 1 else d

/-- A block reset starts, and opens its quarantine window (R364). One that is requested while it runs changes nothing. -/
def Dev.startReset (d : Dev) (b : Nat) (req : Bool) : Dev :=
  if d.resetting b then d
  else
    let d := d.modFault fun f => { f with windows := f.windows ++ [⟨b, none, false⟩] }
    d.holdReset b req

/-- A block reset is asked for: a domain in retention is woken first (Table 20.11 case 4), and its RESET_REQ waits. -/
def Dev.askReset (d : Dev) (b : Nat) (req : Bool) : Dev :=
  let n := pageDom (blockPage b)
  if d.domState n = 0 then d.startReset b req
  else if d.domState n = 1 then (d.hset (blockPage b) fPG_CTL_RESET_REQ 1).wakeBy n 3
  else d

/-- The withdrawal of a restored element ends (R366): a pipeline's role returns when its spare commits its next tile. -/
def Dev.restoreDone (d : Dev) (b : Nat) : Dev :=
  let off := fun (d : Dev) (r : FieldRow) (bit : Nat) =>
    let w := d.get .fault3 0 r
    d.set .fault3 0 r (if w.testBit bit then w - 2 ^ bit else w)
  let d :=
    if 95 ≤ b ∧ b < 127 then off d fFC_WD_ENC0_ENC (b - 95)
    else if 127 ≤ b ∧ b < 159 then off d fFC_WD_ENC1_ENC (b - 127)
    else if 159 ≤ b ∧ b < 163 then (off d fFC_WD_ENC2_ENC (b - 159)).set .fault3 0 fFC_ESPARE_WITHDRAWN 0 (b - 159)
    else if 163 ≤ b ∧ b < 179 then off d fFC_WD_DEC_DEC (b - 163)
    else if 179 ≤ b ∧ b < 183 then (off d fFC_WD_DEC_DEC (b - 163)).set .fault3 0 fFC_DSPARE_WITHDRAWN 0 (b - 179)
    else if 47 ≤ b ∧ b < 63 then off d fFC_WD_OTHER_ME (b - 47)
    else if 43 ≤ b ∧ b < 47 then off d fFC_WD_OTHER_PROXY (b - 43)
    else if 63 ≤ b ∧ b < 95 then d.modFault fun f => { f with heldDown := f.heldDown.filter (· ≠ b) }
    else if 183 ≤ b then
      let mark := fun (w : QuarWin) => if w.quadrant = some (b - 183) then { w with resetDone := true } else w
      (off d fFC_WD_OTHER_QUAD (b - 183)).modFault fun f => { f with windows := f.windows.map mark }
    else d
  let d := d.modFault fun f => { f with restoring := f.restoring.filter (· ≠ b) }
  (d.bump .fault3 0 fFC_RESTORE_CNT_DONE).refreshMode

/-- What a block does when its reset has ended: its link retrains, a controller's firmware runs. -/
def Dev.afterReset (d : Dev) (b : Nat) : Dev :=
  if b = 8 then d.evtResume
  else if 10 ≤ b ∧ b < 18 then d.startCtl (b - 10)
  else if 32 ≤ b ∧ b < 42 then
    if d.get .mem (b - 32) fMEM_STAT_STATE < 4 then d.set .mem (b - 32) fMEM_STAT_STATE 1 else d
  else d

/-- A block is held by the isolation of its quadrant, which only a restore ends (R363). -/
def Dev.heldByQuad (d : Dev) (b : Nat) : Bool := match blockQuad b with
  | some q => (d.get .fault3 0 fFC_WD_OTHER_QUAD).testBit q && !d.core.fault.restoring.contains (183 + q)
  | none => false

/-- A block reset completes (RESET_DONE). -/
def Dev.endReset (d : Dev) (b : Nat) : Dev :=
  if !d.resetting b ∨ d.heldByQuad b then d
  else
    let p := blockPage b
    let d := (d.hset p fPG_PWR_STAT_RESET_BUSY 0).hset p fPG_CTL_RESET_REQ 0
    let d := d.stat p (2 ^ 21)
    let d := d.modFault fun f => { f with windows := f.windows.map fun w =>
      if w.quadrant.isNone ∧ w.block = b then { w with resetDone := true } else w }
    let d := d.afterReset b
    let d := if d.core.fault.restoring.contains b then d.restoreDone b else d
    match blockQuad b with
    | some q => if d.core.fault.restoring.contains (183 + q) ∧ !((quadBlocks q).any d.resetting) then d.restoreDone (183 + q) else d
    | none => d

/-! ## Quadrants (R363) -/

/-- A quadrant is isolated: the owner tag of every record stream whose head lies there is revoked, its blocks are held in reset,
its controllers' streams move, and what no longer fits elsewhere closes. -/
def Dev.isolate (d : Dev) (q : Nat) : Dev :=
  let ss := (d.liveSlots.filter fun p => decide (p.1 < 1024) && (match d.rec? p.1 with
    | some x => decide (bankQuad (bankOf x.par.head) = q)
    | none => false)).map (·.1)
  let d := ss.foldl (fun (d : Dev) s => d.revokeStream s) d
  let d := d.modFault fun f => { f with windows := f.windows ++ [⟨blockPage 10, some q, false⟩] }
  let d := d.set .fault3 0 fFC_WD_OTHER_QUAD (d.get .fault3 0 fFC_WD_OTHER_QUAD ||| 2 ^ q)
  let d := (d.haltCtl (2 * q)).haltCtl (2 * q + 1)
  let d := (quadBlocks q).foldl (fun (d : Dev) b => d.holdReset b false) d
  let d := [2 * q, 2 * q + 1].foldl (fun (d : Dev) c => d.takeover c) d
  (((d.capQuad q false).capDecode).decDeal.statBit .fault0 0 3).refreshMode

end Sys2Proof.Machine
end

