-- ==== Sys2Proof/Machine/FaultOps.lean ====
section
/-! DEFINITION. The fault collector (chapter 19): capture, classification, reactions, sparing, quarantine, clearing and restoring. -/
namespace Sys2Proof.Machine

/-! ## Settings of a class (R359, Table 19.9) -/

/-- N of a class; 0 is taken as 1. -/
def Dev.fcN (d : Dev) (c : Nat) : Nat := max 1 (d.get .fault0 0 fFC_CLASS_N c)

/-- W of a class in nanoseconds of FREE; W 0 is taken as 1. -/
def Dev.fcW (d : Dev) (c : Nat) : Nat :=
  let u := d.get .fault0 0 fFC_CLASS_UNIT c
  max 1 (d.get .fault0 0 fFC_CLASS_W c) * (if u = 0 then 1000 else if u = 1 then 1000000 else 1000000000)

/-- The severe mask; class 12 always carries SAFE_HOLD. -/
def Dev.fcSevere (d : Dev) (c : Nat) : Nat :=
  let m := d.get .fault0 0 fFC_REACT_SEVERE c
  if c = 12 then m ||| 0x20 else m

/-! ## The record FIFO (R358) -/

/-- Write one packet: `w2` to `w6` are DW2 to DW6 of the record taken for this event. A full FIFO loses its oldest packet. -/
def Dev.putPacket (d : Dev) (src : Nat) (conseq severe path : Bool) (ws : List Word) (react count : Nat) : Dev :=
  let f := d.core.fault
  let bit := fun (b : Bool) (n : Nat) => if b then 2 ^ n else 0
  let pkt := [BitVec.ofNat 32 (8 * 2 ^ 24 + bit conseq 23 + bit severe 22 + bit path 21 + srcClass src * 2 ^ 16 + src)] ++ ws ++
    [BitVec.ofNat 32 (f.fifoSeq * 2 ^ 16 + react), BitVec.ofNat 32 (count * 2 ^ 24)]
  let full := 1024 ≤ f.fifo.length
  let d := d.modFault fun f => { f with fifo := (if full then f.fifo.drop 1 else f.fifo) ++ [pkt], fifoSeq := (f.fifoSeq + 1) % 65536 }
  let d := if full then (d.bump .fault0 0 fFC_LOST_PACKETS).statBit .fault0 0 4 else d
  d.requestLine 0

/-- DW2 to DW6 of a record for an event. -/
def Dev.eventWords (d : Dev) (e : FaultEvent) : List Word :=
  [BitVec.ofNat 32 (e.mst % 4096 * 2 ^ 20 + e.access % 16 * 2 ^ 16 + e.detail % 65536), BitVec.ofNat 32 e.addr,
   BitVec.ofNat 32 (e.addr / 2 ^ 32), BitVec.ofNat 32 d.now, BitVec.ofNat 32 (d.now / 2 ^ 32)]

/-! ## Classification (R354, R357, R359, R364) -/

/-- A source enters fault state: PG_STAT.FAULT_RAISED of its block, FC_LAST, FC_CNT.SEVERE. -/
def Dev.enterFault (d : Dev) (src : Nat) (path : Bool) (mask : Nat) : Dev :=
  let d := d.setFrec src { d.frec src with state := true, path := path || (d.frec src).path, react := mask }
  let d := (d.stat (blockPage (srcBlock src)) (2 ^ 20)).statBit .fault0 0 0
  let d := (d.set .fault0 0 fFC_LAST_REACT mask).set .fault0 0 fFC_LAST_CLASS (srcClass src)
  (d.set .fault0 0 fFC_LAST_SOURCE src).bump .fault0 0 fFC_CNT_SEVERE

/-- Do the equal rails of a path fault still hold? -/
def Dev.railsHold (d : Dev) (src : Nat) : Bool := (d.frec src).railsEq && Config.causeHolds (4096 + src) d.free

/-- Does a source's level cause still hold? What no state of the block shows is a free value. -/
def Dev.levelHolds (d : Dev) (src : Nat) : Bool :=
  if 1995 ≤ src ∧ src < 2043 then (d.frec src).level && Config.causeHolds src d.free else (d.frec src).level

/-- One event is taken: the second result is the mask of reactions it brings. -/
def Dev.takeEvent (d : Dev) (e : FaultEvent) : Dev × Nat :=
  match srcInfo e.src with
  | none => (d, 0)
  | some i =>
    let r := d.frec e.src
    if !e.path ∧ d.railsHold e.src then (d, 0)
    else
      let conseq := d.quarantined i.block
      let full := d.fullCapture e.src
      let ws := d.eventWords e
      let first := full && !r.captured
      let r : FaultRec := { r with total := min (r.total + 1) (2 ^ 32 - 1), conseq := conseq, railsEq := e.path }
      let r : FaultRec := if first then { r with captured := true, dw2 := ws[0]!, addr := e.addr % 2 ^ 64, time := d.now % 2 ^ 64 } else r
      let d := d.setFrec e.src r
      let r' := d.frec e.src
      let pack := fun (d : Dev) (severe : Bool) (mask : Nat) =>
        if full then d.putPacket e.src conseq severe e.path ws mask (d.frec e.src).count else d
      if conseq then (pack ((d.bump .fault0 0 fFC_CONSEQ_CNT_EVENTS).setFrec e.src { r' with path := r'.path || e.path }) false 0, 0)
      else if e.path then
        if r'.state then (pack (d.setFrec e.src { r' with path := true }) false 0, 0)
        else
          let m := d.fcSevere i.cls
          (pack (d.enterFault e.src true m) true m, m)
      else if r'.state then (pack d false 0, 0)
      else
        let old := if r'.count = 0 ∨ d.fcW i.cls ≤ d.free - r'.winStart then 0 else r'.count
        let start := if old = 0 then d.free else r'.winStart
        let n := min (old + 1) 255
        let d := d.setFrec e.src { r' with count := n, winStart := start }
        if d.fcN i.cls ≤ n then
          let m := d.fcSevere i.cls
          (pack (d.enterFault e.src false m) true m, m)
        else
          let m := d.get .fault0 0 fFC_REACT_MINOR i.cls
          (pack d false m, m)

/-! ## Spare takeover (R362, Table 19.5) -/

/-- A withdrawal bit of FAULT page 3 is set. -/
def Dev.withdraw (d : Dev) (r : FieldRow) (bit : Nat) : Dev := d.set .fault3 0 r (d.get .fault3 0 r ||| 2 ^ bit)

/-- Spare takeover of an encode pipeline. -/
def Dev.encTakeover (d : Dev) (p : Nat) : Dev :=
  if 64 ≤ p then
    let q := p - 64
    if d.get .fault3 0 fFC_ESPARE_WITHDRAWN q = 1 then d
    else
      let held := d.get .fault3 0 fFC_ESPARE_IN_USE q = 1
      let d := ((d.set .fault3 0 fFC_ESPARE_WITHDRAWN 1 q).withdraw fFC_WD_ENC2_ENC q).handTile p
      if held then ((d.set .fault3 0 fFC_ESPARE_IN_USE 0 q).set .fault3 0 fFC_ESPARE_ROLE 0 q).capQuad q false else d
  else
    let q := p / 16
    let wd := if p < 32 then fFC_WD_ENC0_ENC else fFC_WD_ENC1_ENC
    if (d.get .fault3 0 wd).testBit (p % 32) then d
    else
      let d := (d.handTile p).withdraw wd (p % 32)
      let d := if d.get .fault3 0 fFC_ESPARE_IN_USE q = 0 ∧ d.get .fault3 0 fFC_ESPARE_WITHDRAWN q = 0 then
          (d.set .fault3 0 fFC_ESPARE_IN_USE 1 q).set .fault3 0 fFC_ESPARE_ROLE p q
        else if d.get .fault3 0 fFC_ESPARE_IN_USE q = 1 ∧ d.get .fault3 0 fFC_ESPARE_ROLE q = p then d
        else d.capQuad q false
      d.askReset (95 + p) false

/-- Spare takeover of a decode pipeline. -/
def Dev.decTakeover (d : Dev) (p : Nat) : Dev :=
  if 16 ≤ p then
    let q := p - 16
    if d.get .fault3 0 fFC_DSPARE_WITHDRAWN q = 1 then d
    else
      let held := d.get .fault3 0 fFC_DSPARE_IN_USE q = 1
      let d := ((d.set .fault3 0 fFC_DSPARE_WITHDRAWN 1 q).withdraw fFC_WD_DEC_DEC p).dropDecPipe p
      if held then (((d.set .fault3 0 fFC_DSPARE_IN_USE 0 q).set .fault3 0 fFC_DSPARE_ROLE 0 q).capDecode).decDeal else d.decDeal
  else
    let q := p / 4
    if (d.get .fault3 0 fFC_WD_DEC_DEC).testBit p then d
    else
      let d := (d.dropDecPipe p).withdraw fFC_WD_DEC_DEC p
      let d := if d.get .fault3 0 fFC_DSPARE_IN_USE q = 0 ∧ d.get .fault3 0 fFC_DSPARE_WITHDRAWN q = 0 then
          (d.set .fault3 0 fFC_DSPARE_IN_USE 1 q).set .fault3 0 fFC_DSPARE_ROLE p q
        else if d.get .fault3 0 fFC_DSPARE_IN_USE q = 1 ∧ d.get .fault3 0 fFC_DSPARE_ROLE q = p then d
        else d.capDecode
      (d.askReset (163 + p) false).decDeal

/-- An element is held down until it is restored, or until the next boot. -/
def Dev.holdDown (d : Dev) (b : Nat) : Dev :=
  if d.core.fault.heldDown.contains b then d else d.modFault fun f => { f with heldDown := f.heldDown ++ [b] }

/-- Spare takeover by element. -/
def Dev.spareTakeover (d : Dev) (b : Nat) : Dev :=
  let d := d.statBit .fault0 0 2
  let d :=
    if 95 ≤ b ∧ b < 163 then d.encTakeover (b - 95)
    else if 163 ≤ b ∧ b < 183 then d.decTakeover (b - 163)
    else if 47 ≤ b ∧ b < 63 then
      if (d.get .fault3 0 fFC_WD_OTHER_ME).testBit (b - 47) then d
      else (d.withdraw fFC_WD_OTHER_ME (b - 47)).capQuad ((b - 47) / 4) true
    else if 43 ≤ b ∧ b < 47 then
      if (d.get .fault3 0 fFC_WD_OTHER_PROXY).testBit (b - 43) then d
      else
        let d := d.withdraw fFC_WD_OTHER_PROXY (b - 43)
        ((d.core.proxies.filter fun p => p.2.engine = b - 43).map (·.1)).foldl (fun (d : Dev) s => d.proxyClose s 5) d
    else if 63 ≤ b ∧ b < 95 then (d.holdDown b).bankLost (b - 63)
    else if 32 ≤ b ∧ b < 42 then d.faultRetire (b - 32)
    else if 10 ≤ b ∧ b < 18 then d.haltCtl (b - 10)
    else if 21 ≤ b ∧ b < 29 then
      let m := b - 21
      if (d.portLive m).isEmpty then (if d.get .mag m fMAG_STAT_STATE = 4 then d.removePort m else d)
      else (d.setMag m { d.mag m with stopped := true }).afterRemoval m
    else if 29 ≤ b ∧ b < 32 then (d.holdDown b).peerLost (b - 29)
    else if 6 ≤ b ∧ b < 8 then (d.holdDown b).netLink (b - 6) false
    else (d.enterHold 1).statBit .fault0 0 1
  d.refreshMode

/-! ## Reactions (R360, R361, Table 19.4) -/

/-- The streams placed on a block's element: by its power domain, or served by its controller. -/
def Dev.placedOn (d : Dev) (b : Nat) : List Nat :=
  if 43 ≤ b ∧ b < 47 then (d.core.proxies.filter fun p => decide (p.2.engine = b - 43) && (d.slot p.1).state.live).map (·.1)
  else
    let n := pageDom (blockPage b)
    if n = 0 ∨ n = 0xC9 then []
    else (d.liveSlots.filter fun p => p.2.resv.doms.contains n || decide (n = 0x89 + p.2.ctl)).map (·.1)

/-- Stream close. -/
def Dev.closePlaced (d : Dev) (b : Nat) : Dev :=
  (d.placedOn b).foldl (fun (d : Dev) s => if 1280 ≤ s then d.proxyClose s 5 else d.closeLater s 5) d

/-- The owner tag that an event names: in DETAIL for QLEASE and CHUNK, the owner of the ring for QRING, the owner of the chunk at
ADDR otherwise. -/
def Dev.ownerNamed (d : Dev) (e : FaultEvent) : Option Nat :=
  if e.src = 1804 ∨ e.src = 1805 then some e.detail
  else if e.src = 1803 then some (d.ring (e.detail % 16384)).owner
  else (d.chunkAt e.addr).map (·.owner)

/-- The block of a master of the classes that receive a block reset. -/
def masterBlock (cls inst : Nat) : Option Nat :=
  match cls with
  | 1 => if inst < 8 then some (10 + inst) else none
  | 2 => if inst < 32 then some (63 + inst) else none
  | 3 => if inst < 68 then some (95 + inst) else none
  | 4 => if inst < 20 then some (163 + inst) else none
  | 5 => if inst < 16 then some (47 + inst) else none
  | 6 => if inst < 4 then some (43 + inst) else none
  | 8 => if inst < 8 then some (21 + inst) else none
  | 9 => if inst < 3 then some (29 + inst) else none
  | _ => none

/-- Revoke owner. Tags outside the ranges of R260 and masters of class 0xF name no owner. -/
def Dev.revokeOwner (d : Dev) (tag : Nat) : Dev :=
  if tag < 0x600 then d.revokeStream tag
  else if 0x1000 ≤ tag ∧ tag < 0x1F00 then
    let d := d.revokeTag tag
    match masterBlock ((tag - 0x1000) / 256) (tag % 256) with
    | some b => d.askReset b false
    | none => d
  else d

/-- Carry out one reaction of an event. `hold`: SAFE_HOLD was applied in this cycle, which makes the reactions after it moot. -/
def Dev.react (d : Dev) (bit : Nat) (e : FaultEvent) (hold : Bool) : Dev :=
  let b := srcBlock e.src
  match bit with
  | 5 => ((d.modFault fun f => { f with holdAt := some d.free }).enterHold 1).statBit .fault0 0 1
  | 2 =>
    if hold then d
    else match blockQuad b with
      | none => (d.enterHold 1).statBit .fault0 0 1
      | some q =>
        let w := d.get .fault3 0 fFC_WD_OTHER_QUAD
        if w.testBit q then d
        else if w ≠ 0 then (d.enterHold 1).statBit .fault0 0 1
        else d.isolate q
  | 4 => match d.ownerNamed e with
    | some tag => d.revokeOwner tag
    | none => d
  | 3 => if hold || d.safeHold then d else d.closePlaced b
  | 1 => if hold then d else d.spareTakeover b
  | 6 => d.assertEvt 116
  | _ => d

/-- The order of one cycle's reactions: for isolation the lower quadrant first, for sparing the lower-numbered pipeline, otherwise
ascending source numbers. -/
def reactOrder (bit : Nat) (l : List (FaultEvent × Nat)) : List (FaultEvent × Nat) :=
  l.mergeSort fun a b =>
    let key := fun (e : FaultEvent) => if bit = 2 then (blockQuad (srcBlock e.src)).getD 4
      else if bit = 1 ∧ 95 ≤ srcBlock e.src then srcBlock e.src else 0
    decide (key a.1 < key b.1 ∨ (key a.1 = key b.1 ∧ a.1.src ≤ b.1.src))

/-- The reactions of one cycle, in the order of R361. A controller that entered fault state at source GAFFER loses its streams (R238). -/
def Dev.reactAll (d : Dev) (l : List (FaultEvent × Nat)) : Dev :=
  let d := [5, 2, 4, 3, 1, 6].foldl (fun (d : Dev) bit =>
    let hold := (l.any fun p => p.2.testBit 5) || d.core.fault.holdAt = some d.free
    (reactOrder bit (l.filter fun p => p.2.testBit bit)).foldl (fun (d : Dev) p => d.react bit p.1 hold) d) d
  l.foldl (fun (d : Dev) p =>
    if 1734 ≤ p.1.src ∧ p.1.src < 1750 ∧ p.1.src % 2 = 0 ∧ (d.frec p.1.src).state ∧ !d.gafRuns ((p.1.src - 1734) / 2) then
      d.takeover ((p.1.src - 1734) / 2) else d) d

/-- One cycle of the collector: the events raised are taken in order, a path fault hiding its source's own event (Table 19.8 case 6),
then their reactions are applied. -/
def Dev.collect (d : Dev) : Dev :=
  let es := d.core.fault.raised
  let d := d.modFault fun f => { f with raised := [] }
  let es := es.filter fun e => e.path || !(es.any fun o => o.path && decide (o.src = e.src))
  let r := es.foldl (fun (a : Dev × List (FaultEvent × Nat)) e =>
    let t := a.1.takeEvent e
    (t.1, a.2 ++ [(e, t.2)])) (d, [])
  r.1.reactAll r.2

/-- The collector runs until no event is left, at most `n` cycles; what is left then is taken by the next command. -/
def Dev.settle : Nat → Dev → Dev
  | 0, d => d
  | n + 1, d => if d.core.fault.raised.isEmpty then d else Dev.settle n d.collect

/-! ## Quarantine (R364) -/

/-- The oldest window whose reset has completed closes: each source of its group whose level cause still holds, path faults
included, is taken as one new event. -/
def Dev.windowClose (d : Dev) : Dev :=
  match d.core.fault.windows.find? (·.resetDone) with
  | none => d
  | some w =>
    let group := d.windowBlocks w
    let d := d.modFault fun f => { f with windows := f.windows.erase w }
    ((d.core.fault.recs.map (·.1)).mergeSort (· ≤ ·)).foldl (fun (d : Dev) src =>
      if !group.contains (srcBlock src) then d
      else if d.railsHold src then d.raisePath src
      else if d.levelHolds src then d.raise src 0xC00 5
      else d.setFrec src { d.frec src with level := false, railsEq := false }) d

/-! ## Clearing and restoring (R365, R366) -/

/-- One source is cleared; it returns to fault state if it was in it and its cause still holds. -/
def Dev.clearSource (d : Dev) (src : Nat) : Dev :=
  match srcInfo src with
  | none => d
  | some _ =>
    let r := d.frec src
    let path := d.railsHold src
    let lvl := d.levelHolds src
    let clear : FaultRec := { FaultRec.rest with total := r.total, level := lvl, railsEq := path, winStart := r.winStart }
    let d := d.setFrec src clear
    if r.state ∧ (path ∨ lvl) then
      let d := d.setFrec src { clear with state := true, path := path }
      let d := (d.bump .fault0 0 fFC_CNT_RERAISE).statBit .fault0 0 5
      let e : FaultEvent := ⟨src, 0xC00, 5, Config.faultDetail src d.free % 65536, Config.faultAddr src d.free % 2 ^ 64, path⟩
      if d.fullCapture src then d.putPacket src false true path (d.eventWords e) 0 0 else d
    else d

/-- A write to FC_CLR (R365): with ALL, every source in fault state. -/
def Dev.fcClear (d : Dev) (v : Word) : Dev :=
  if v.getLsbD 31 then
    (((d.core.fault.recs.filter fun p => p.2.state).map (·.1)).mergeSort (· ≤ ·)).foldl (fun (d : Dev) s => d.clearSource s) d
  else d.clearSource (bitsNat v 11 0)

/-- The element that FC_RESTORE names, as a block; 183 + q: quadrant q. -/
def restoreElem (kind inst : Nat) : Option Nat :=
  match kind with
  | 0 => if inst < 68 then some (95 + inst) else none
  | 1 => if inst < 20 then some (163 + inst) else none
  | 2 => if inst < 16 then some (47 + inst) else none
  | 3 => if inst < 4 then some (43 + inst) else none
  | 4 => if inst < 32 then some (63 + inst) else none
  | 5 => if inst < 4 then some (183 + inst) else none
  | _ => none

/-- A source of the element is in fault state. -/
def Dev.elemFaulty (d : Dev) (b : Nat) : Bool :=
  d.core.fault.recs.any fun p => p.2.state && (if 183 ≤ b then decide (blockQuad (srcBlock p.1) = some (b - 183))
    else decide (srcBlock p.1 = b))

/-- A complete pair on FC_RESTORE with REQ 1 (R366): refused for KIND 6 and 7, for an element that does not exist, for a quadrant that is not
isolated, and while a source of the element is in fault state. -/
def Dev.fcRestore (d : Dev) (v : Word) : Dev :=
  if !v.getLsbD 31 then d
  else match restoreElem (bitsNat v 10 8) (bitsNat v 7 0) with
    | none => d.bump .fault3 0 fFC_RESTORE_CNT_REFUSED
    | some b =>
      if d.elemFaulty b ∨ (183 ≤ b ∧ !(d.get .fault3 0 fFC_WD_OTHER_QUAD).testBit (b - 183)) then d.bump .fault3 0 fFC_RESTORE_CNT_REFUSED
      else
        let d := d.modFault fun f => { f with restoring := if f.restoring.contains b then f.restoring else f.restoring ++ [b] }
        if 183 ≤ b then d else d.askReset b false

end Sys2Proof.Machine
end

