-- ==== Sys2Proof/Machine/PowerOps.lean ====
section
/-! DEFINITION. Power domains at work, coordinated retention, the Lehr timer, supplies and dips (R371 to R381, R393, R394). -/
namespace Sys2Proof.Machine

/-! ## Requests and entries (R374) -/

/-- A write of REQ, IDLE_US or TWAKE of a domain: REQ 0b00 (or 0b11) wakes it, the others ask for its state. -/
def Dev.powerRequest (d : Dev) (n req : Nat) : Dev :=
  if req = 1 ∨ req = 2 then d.requestEntry n req
  else if d.domState n = 0 ∧ (d.enteringOf n).isNone then d else d.wakeBy n 8

/-- The idle timer of a domain reaches IDLE_US: retention is requested; a request through REQ that was refused is tried again. -/
def Dev.idleExpiry (d : Dev) (n : Nat) : Dev :=
  if n = 0 ∨ n = 0xC9 ∨ d.domState n ≠ 0 then d
  else
    let req := d.get .lehrPower 0 fLP_DOM_REQ n
    if req = 1 ∨ req = 2 then d.requestEntry n req
    else if d.get .lehrPower 0 fLP_DOM_IDLE_US n ≠ 0 then d.requestEntry n 1 else d

/-- Off keeps nothing in the domain: every field of its pages but those of class ID is lost, with the work in hand. -/
def Dev.domLost (d : Dev) (n : Nat) : Dev :=
  match domPage n with
  | none => d
  | some p =>
    let b := blockIdx p
    let d := d.modHost fun h => { h with lockWritten := h.lockWritten.filter (· ≠ b) }
    let d := d.modHost fun h => { h with latched := h.latched.filter fun (x : Nat × Word) => firstPage (x.1 / 4096) ≠ p }
    (d.coreReset b).clearBlock b [.cfg, .ctl, .sts, .cnt, .lck]

/-- A domain reaches the state its entry asked for; a wake that came meanwhile is served now, as an exit (R376). -/
def Dev.enterState (d : Dev) (m : DomMove) : Dev :=
  let d := if m.toState = 2 then d.domLost m.dom else d
  let d := (d.set .lehrPower 0 fLP_DOM_STATE m.toState m.dom).modLehr fun l => { l with entering := l.entering.filter (·.dom ≠ m.dom) }
  match m.wake with
  | some src => (d.wakeOne m.dom src).assertEvt 118
  | none => d

/-- An entry completes; the members of a group enter together (R377). -/
def Dev.entryDone (d : Dev) (n : Nat) : Dev :=
  match d.enteringOf n with
  | none => d
  | some m =>
    let ms := d.core.lehr.groupMembers
    let d := if ms.contains n then
        let moves := d.core.lehr.entering.filter fun x => ms.contains x.dom
        let d := (d.modLehr fun l => { l with groupMembers := [] }).set .lehrPower 0 fLP_CLSTAT_RESULT 1
        let d := (d.bump .lehrPower 0 fLP_CLCNT_ENTERED).statBit .lehrPower 0 0
        moves.foldl (fun (d : Dev) x => d.enterState x) d
      else d.enterState m
    d.refreshAsleep

/-! ## Coordinated retention (R377) -/

/-- The members of a group, in ascending identifier order. -/
def groupOf (kind i : Nat) : List Nat :=
  match kind with
  | 0 => (List.range 4).map (fun k => 1 + 4 * i + k) ++ [0x59 + i]
  | 1 => if i < 4 then (List.range 8).map (fun k => 0x69 + 8 * i + k) ++ (List.range 4).map (fun k => 0xAC + 4 * i + k) else []
  | 2 => if i < 4 then (List.range 4).map (fun k => 0x45 + 4 * i + k) ++ [0x55 + i] else []
  | _ => []

/-- A member refuses: its entry is judged under R374, or it has work in hand. -/
def Dev.memberRefuses (d : Dev) (n : Nat) : Bool :=
  d.domState n = 0 && (d.enteringOf n).isNone && ((d.judgeEntry n 1).isSome || !d.domIdle n)

/-- A complete pair on LP_CLREQ. KIND 3, and a quadrant that does not exist, are refused. -/
def Dev.groupRequest (d : Dev) (v : Word) : Dev :=
  if !v.getLsbD 31 then d
  else if !d.core.lehr.groupMembers.isEmpty then d.drop
  else
    let ms := groupOf (bitsNat v 17 16) (bitsNat v 3 0)
    if ms.isEmpty then d.set .lehrPower 0 fLP_CLSTAT_RESULT 2
    else match ms.find? d.memberRefuses with
      | some r =>
        let d := ms.foldl (fun (d : Dev) m => d.refuseEntry m r) d
        let d := (d.set .lehrPower 0 fLP_CLSTAT_RESULT 2).set .lehrPower 0 fLP_CLSTAT_REFUSER r
        (d.bump .lehrPower 0 fLP_CLCNT_ROLLED_BACK).statBit .lehrPower 0 1
      | none =>
        let on := ms.filter fun n => d.domState n = 0
        if on.isEmpty then
          ((d.set .lehrPower 0 fLP_CLSTAT_RESULT 1).bump .lehrPower 0 fLP_CLCNT_ENTERED).statBit .lehrPower 0 0
        else
          let d := on.foldl (fun (d : Dev) m => if (d.enteringOf m).isSome then d else d.beginEntry m 1) d
          (d.modLehr fun l => { l with groupMembers := on }).set .lehrPower 0 fLP_CLSTAT_RESULT 3

/-! ## The Lehr timer -/

/-- A complete pair on LP_TIMER arms or disarms the one-shot timer. -/
def Dev.timerArm (d : Dev) (v : Word) : Dev :=
  d.modLehr fun l => { l with timer := if v.getLsbD 31 then some (bitsNat v 30 0) else none }

/-- The timer fires: every domain with TWAKE set is woken. -/
def Dev.timerFires (d : Dev) : Dev :=
  match d.core.lehr.timer with
  | none => d
  | some _ =>
    let d := (d.modLehr fun l => { l with timer := none }).set .lehrPower 0 fLP_TIMER_EN 0
    ((d.statBit .lehrPower 0 2).assertEvt 118).wakeBy 0 6

/-! ## Supplies (R378 to R381) -/

/-- Warning and reset levels of the rails in units of 0.1 mV (Table 20.4). -/
def railWarn (r : Nat) : Nat := [7125, 7600, 7125, 8550, 8550, 11400, 10450, 17100].getD r 0
def railReset (r : Nat) : Nat := [6750, 7200, 6750, 8100, 8100, 10800, 9900, 16200].getD r 0

/-- Configuration writes are frozen (R380). -/
def Dev.frozen (d : Dev) : Bool := d.get .lehrSupply 0 fLS_LAST_DIP_FROZEN = 1

/-- Every picture in flight is marked SUPPLY_EVENT (R174, R380). -/
def Dev.markSupply (d : Dev) : Dev :=
  let mark := fun (p : Nat × RecStream) => (p.1, { p.2 with pics := p.2.pics.map fun (q : PicSt) => { q with supply := true } })
  { d with core := { d.core with recs := d.core.recs.map mark } }

/-- A dip is detected: `mv` lies below the rail's warning level and above its reset level. The second of two within 10 ms escalates; the
result says that boot must start again (R381). -/
def Dev.dip (d : Dev) (r mv : Nat) : Dev × Bool :=
  if railWarn r ≤ 10 * mv ∨ 10 * mv < railReset r ∨ (d.core.lehr.dips.any fun p => p.1 = r) then (d, false)
  else
    let d := (d.set .lehrSupply 0 fLS_RAIL_MV mv r).set .lehrSupply 0 fLS_RAIL_WARN 1 r
    let again := d.core.lehr.lastDip.any fun t => d.free - t ≤ 10000000
    let d := d.modLehr fun l => { l with dips := l.dips ++ [(r, d.free)], lastDip := some d.free }
    let d := (d.set .lehrSupply 0 fLS_LAST_DIP_FROZEN 1).bump .lehrSupply 0 fLS_DIP_CNT_DIPS
    let d := ((d.set .lehrSupply 0 fLS_LAST_DIP_RAIL r).statBit .lehrSupply 0 0).markSupply
    let d := (d.raiseLevel (2043 + r) 0xC00).assertEvt 117
    if again then
      let d := (d.bump .lehrSupply 0 fLS_DIP_CNT_ESCALATIONS).statBit .lehrSupply 0 1
      if d.base = 0 then (d, true) else (d.enterHold 2, false)
    else (d, false)

/-- A dipped rail is back above its warning level: the duration of the dip is recorded. -/
def Dev.dipOver (d : Dev) (r mv : Nat) : Dev :=
  match d.core.lehr.dips.find? fun p => p.1 = r with
  | none => d
  | some (_, t) =>
    if 10 * mv < railWarn r then d
    else
      let d := (d.set .lehrSupply 0 fLS_RAIL_MV mv r).set .lehrSupply 0 fLS_RAIL_WARN 0 r
      let d := (d.set .lehrSupply 0 fLS_LAST_DIP_RAIL r).set .lehrSupply 0 fLS_LAST_DIP_US (min 65535 ((d.free - t) / 1000))
      (d.modLehr fun l => { l with dips := l.dips.filter fun p => p.1 ≠ r }).endLevel (2043 + r)

/-- Every rail has stayed above its warning level for FREEZE_HOLD_US: the freeze lifts. -/
def Dev.freezeLifts (d : Dev) : Dev :=
  if d.core.lehr.dips.isEmpty ∧ d.frozen then d.set .lehrSupply 0 fLS_LAST_DIP_FROZEN 0 else d

end Sys2Proof.Machine
end

