-- ==== Sys2Proof/Machine/RegRead.lean ====
section
/-! DEFINITION. What a read of BAR0 returns: the registers that show a state held elsewhere (chapters 03 to 20), the complements of
guarded registers (R30), the indirect windows (R41), and the reads that latch or take away (R203, R321). -/
namespace Sys2Proof.Machine

/-! ## Values computed from the state -/

/-- A load in units (Tables 3.6, 7.10, 11.4): whether a part of a unit counts is a free value (DESIGN CHOICE, log entry 41). -/
def loadIn (v unit : Nat) : Nat := v / unit + (if v % unit ≠ 0 ∧ Config.loadRound v unit then 1 else 0)

/-- Sum over the live slots. -/
def Dev.sumLive (d : Dev) (f : Slot → Nat) : Nat := d.liveSlots.foldl (fun a p => a + f p.2) 0

/-- The word with a field that only the silicon or the world determines (DESIGN CHOICE, log entry 37). -/
def Dev.withSample (d : Dev) (a : Nat) (w : Word) (r : FieldRow) : Word := r.ins w (r.ext (Config.sampled a d.free))

/-- Codes of consecutive slots packed into one word, `bits` each. -/
def packed (n bits : Nat) (f : Nat → Nat) : Word :=
  BitVec.ofNat 32 ((List.range (32 / bits)).foldl (fun a i => a + f (32 / bits * n + i) % 2 ^ bits * 2 ^ (bits * i)) 0)

/-- Words of 32 flags. -/
def flags32 (n : Nat) (f : Nat → Bool) : Word :=
  BitVec.ofNat 32 ((List.range 32).foldl (fun a i => if f (32 * n + i) then a + 2 ^ i else a) 0)

/-- A live record stream. -/
def Dev.liveRec (d : Dev) (s : Nat) : Option RecStream := if s < 1024 ∧ (d.slot s).state.live then d.rec? s else none

/-- floor(256 × F_s / (8 × B_s)), at most 255 (Table 9.10). -/
def RecStream.occByte (x : RecStream) : Nat := if x.bs = 0 then 0 else min 255 (256 * x.f / (8 * x.bs))

/-- RC_S_* of the stream that RC_SEL names (Table 9.9). -/
def Dev.streamWindow (d : Dev) (off : Nat) : Word :=
  match d.liveRec (d.get .marver0 0 fRC_SEL_STREAM) with
  | none => 0
  | some x =>
    match off with
    | 0x040 => BitVec.ofNat 32 x.ds
    | 0x044 => BitVec.ofNat 32 x.bs
    | 0x048 => BitVec.ofNat 32 (x.f / 8)
    | 0x04C => BitVec.ofNat 32 (x.peak / 8)
    | 0x050 => BitVec.ofNat 32 (x.xs + x.hs)
    | 0x054 => BitVec.ofNat 32 (x.rung * 2 ^ 28 + x.top * 2 ^ 24 + (BitVec.ofInt 5 x.qadj).toNat * 2 ^ 19 +
        qpBaseOf (x.eOf x.rung) x.qadj % 64 * 2 ^ 13 + min 8191 (x.eOf x.rung))
    | 0x058 => BitVec.ofInt 32 ((x.pics.getLast?.map (·.carry)).getD 0)
    | 0x05C => BitVec.ofNat 32 x.lastGrant
    | 0x060 => BitVec.ofNat 32 (min 65535 x.rowsStr * 65536 + min 65535 x.rowsExh)
    | 0x064 => BitVec.ofNat 32 (min 65535 x.latMax)
    | 0x068 => BitVec.ofNat 32 (min 15 x.downCnt)
    | _ => 0

/-- CU_KINFO of the chunk that CU_KSEL names (Table 13.10). -/
def Dev.chunkInfo (d : Dev) : Word :=
  let h := d.get .cullet3 0 fCU_KSEL_HANDLE
  match d.core.cullet.chunks.lookup h with
  | none => 0xFFFF1000#32
  | some k => BitVec.ofNat 32 (k.owner % 65536 * 65536 + (if k.quota then 0 else k.cls % 8) * 2 ^ 13 + min 255 (d.core.cullet.count h))

/-- Buffers of the reference pool in use (RP_BUFS.LIVE). -/
def Dev.liveBufs (d : Dev) : Nat := d.liveSlots.foldl (fun a p => a + d.bufsOf p.1) 0

/-- The header registers that show what the power page or the collector holds (Table 2.5). -/
def Dev.headerView (d : Dev) (page off : Nat) : Option Word :=
  let n := pageDom page
  match off with
  | 0x010 => some 0
  | 0x014 => some (BitVec.ofNat 32 (d.pgFlt (blockIdx page)))
  | 0x018 => some (if n = 0 then 0 else d.reg (fieldAddr .lehrPower 0 fLP_DOM_REQ n) &&& 0xC000FFFF#32)
  | 0x01C =>
    let bit := fun (b : Bool) (k : Nat) => if b then 2 ^ k else 0
    let st := bit (d.quiesced page) 29 + bit (d.inReset page) 28
    some (if n = 0 then BitVec.ofNat 32 (st + 0xFFFF)
      else BitVec.ofNat 32 (d.domState n * 2 ^ 30 + st) ||| (d.reg (fieldAddr .lehrPower 0 fLP_REF_REFUSALS n) &&& 0x0FFFFFFF#32))
  | _ => none

/-- The block registers that show a state held elsewhere; none: the register shows what is stored in it. -/
def Dev.blockView (d : Dev) (k : PageKind) (i off a : Nat) : Option Word :=
  let w := d.reg a
  let nat := fun (n : Nat) => some (BitVec.ofNat 32 n)
  match k with
  | .device =>
    if 0x054 ≤ off ∧ off < 0x064 then
      let q := (off - 0x054) / 4
      let s := fun (f : Resv → Nat) => d.sumLive fun x => if x.resv.quad = q then f x.resv else 0
      nat (min 65535 (loadIn (s (·.enc)) 10000000) * 65536 + min 65535 (loadIn (s (·.inter)) 10000000))
    else if off = 0x064 then
      nat (min 65535 (loadIn (d.sumLive (·.resv.dec)) 10000000) * 65536 + min 65535 (loadIn (d.sumLive (·.resv.interDec)) 10000000))
    else if off = 0x068 then nat (min 65535 (loadIn (d.sumLive (·.resv.pix)) 1000000) * 65536 + (d.liveProxies 1536).length % 512)
    else if off = 0x06C then nat (d.sumLive (·.resv.tctx) % 65536)
    else if off = 0x08C then some (d.withSample a (d.withSample a w fDEV_TEMP_CLUSTER) fDEV_TEMP_TEMP)
    else if 0x400 ≤ off ∧ off < 0x700 then some (packed ((off - 0x400) / 4) 4 fun s => (d.slot s).state.code)
    else none
  | .lehrPower =>
    if 0x404 ≤ off ∧ off ≤ 0x400 + 4 * 0xC9 then some (fLP_DOM_BUSY.ins w (if d.domBusy ((off - 0x400) / 4) then 1 else 0)) else none
  | .lehrSupply =>
    if 0x040 ≤ off ∧ off < 0x060 then
      let r := (off - 0x040) / 4
      if d.core.lehr.dips.any fun p => p.1 = r then none else some (d.withSample a w fLS_RAIL_MV)
    else none
  | .fault0 =>
    if off = 0x054 then
      let n := d.core.fault.windows.length
      nat ((if n = 0 then 0 else 2 ^ 31) + min 255 n)
    else if off = 0x164 then some (w ||| 0x00200000#32)
    else none
  | .fault2 =>
    if 0x400 ≤ off ∧ off < 0x504 then some (flags32 ((off - 0x400) / 4) fun n => (d.frec n).state)
    else if 0x600 ≤ off ∧ off < 0x704 then some (flags32 ((off - 0x600) / 4) fun n => (d.frec n).path)
    else none
  | .time => if off = 0x040 then nat (d.now % 2 ^ 32) else if off = 0x04C then nat (d.free % 2 ^ 32) else none
  | .net =>
    if off = 0x060 then some (d.withSample a w fNET_FEC_CORR_CODEWORDS)
    else if off = 0x064 then some (d.withSample a w fNET_FEC_UNC_CODEWORDS) else none
  | .event =>
    if 0x040 ≤ off ∧ off < 0x060 then some (flags32 ((off - 0x040) / 4) fun n => decide (n < 136 ∧ d.get .event 0 fEVT_SRC_PEND n = 1))
    else if 0x400 ≤ off ∧ off < 0x800 then
      if evtExternal ((off - 0x400) / 4) then none else some (fEVT_SRC_FILT.ins w 0)
    else none
  | .gaffer => if off = 0x044 then some (fGF_STAT_STREAMS.ins w (d.liveSlots.countP fun p => p.2.ctl = i)) else none
  | .cullet0 =>
    let c := d.core.cullet
    if off = 0x050 then nat ((512 - c.inUse false) * 2 ^ 22 + d.freeLarge % 2 ^ 18)
    else if off = 0x054 then nat (c.unused % 2 ^ 18)
    else if off = 0x058 then nat (c.holds.length % 2 ^ 17)
    else none
  | .cullet1 =>
    if 0x040 ≤ off ∧ off < 0x080 ∧ off % 8 = 4 then
      let n := (off - 0x040) / 8
      nat (d.core.cullet.classUse n false % 1024 * 2 ^ 22 + d.core.cullet.classUse n true % 2 ^ 18)
    else none
  | .cullet2 =>
    let t := d.get .cullet2 0 fCU_QSEL_TAG
    if off = 0x044 then nat (d.core.cullet.quota t % 2 ^ 18) else if off = 0x048 then nat (d.core.cullet.held t % 2 ^ 18) else none
  | .cullet3 => if off = 0x044 then some d.chunkInfo else none
  | .marver0 => if off = 0x04C then some ((d.core.rcLog.head?.map (·.1)).getD 0) else none
  | .marver1 =>
    let m := (off - 0x040) / 16
    if 0x040 ≤ off ∧ off < 0x0C0 ∧ off % 16 = 4 then nat ((d.portStreams m).foldl (fun a p => a + p.2.ds) 0)
    else if 0x040 ≤ off ∧ off < 0x0C0 ∧ off % 16 = 8 then some (fRC_PORT_STREAMS.ins w (d.portStreams m).length)
    else none
  | .marver2 => some (d.streamWindow off)
  | .marver3 =>
    if 0x400 ≤ off ∧ off < 0x600 then some (packed ((off - 0x400) / 4) 4 fun s => ((d.liveRec s).map (·.rung)).getD 0)
    else if 0x600 ≤ off ∧ off < 0xA00 then some (packed ((off - 0x600) / 4) 8 fun s => ((d.liveRec s).map (·.occByte)).getD 0)
    else none
  | .queue0 =>
    if off = 0x058 then nat (d.nowUs % 4096)
    else if 0x400 ≤ off ∧ off < 0x480 then
      match (d.ring (d.get .queue0 0 fQU_HSEL_RING)).hist[(off - 0x400) / 4]? with
      | some h => nat (min 65535 h.1 * 65536 + h.2 % 65536)
      | none => some 0
    else none
  | .peer =>
    if off = 0x048 then
      let l := d.core.lehr
      some ((w &&& 0x0FFFFFFF#32) ||| BitVec.ofNat 32 (l.gangId % 4 * 2 ^ 30 + l.gangSzM1 % 4 * 2 ^ 28))
    else if off = 0x04C then nat (d.peerResv i)
    else none
  | .mem =>
    if off = 0x040 then some (d.withSample a w fMEM_STAT_TEMP)
    else if off = 0x05C then some (d.withSample a w fMEM_INORDER_CNT_ENTRIES)
    else if off = 0x060 then some (d.withSample a w fMEM_BURSTS_RD_BURSTS)
    else if off = 0x064 then some (d.withSample a w fMEM_BURSTS_WR_BURSTS)
    else none
  | .memctl =>
    if off = 0x710 then nat (cdiv (d.sumLive (·.resv.pool)) 65536)
    else if off = 0x71C then some (fRP_BUFS_LIVE.ins w d.liveBufs)
    else none
  | .proxy =>
    let u := d.engineUse i 1536
    if off = 0x044 then nat (min 65535 (loadIn u.1 1000000) * 65536 + u.2.1 % 128)
    else if off = 0x048 then nat (u.2.2 % 2 ^ 22)
    else none
  | .me =>
    if off = 0x064 then nat (min 65535 (loadIn (sumResv (d.liveSlots.map (·.2.resv)) fun r => r.onCluster i r.inter) (10000000 * 2 ^ 20)))
    else if off = 0x05C then some (d.withSample a w fME_CACHE_FILLS) else none
  | .gather =>
    if off = 0x59C then
      nat (min 65535 (((d.core.recs.filter fun p => (d.slot p.1).state.live && decide (bankOf p.2.par.head = i)).foldl
        (fun a p => a + p.2.decl.ringBytes) 0) / 4096))
    else none
  | .enc | .dec => if off = 0x304 then some (d.withSample a (d.withSample a w fMC_STAT_UPC) fMC_STAT_WAIT) else none
  | _ => none

/-- The upper words that a read of the lower word latches (Tables 5.12, 10.8, 11.4, 18.5): (kind, lower offset, upper offset). -/
def latchPairs : List (PageKind × Nat × Nat) := [(.enc, 0x224, 0x228), (.dec, 0x048, 0x04C), (.proxy, 0x058, 0x05C), (.peer, 0x058, 0x05C)]

/-! ## The indirect windows (R41, R42) -/

/-- A 64-bit value as two words. -/
def words64 (n : Nat) : List Word := [BitVec.ofNat 32 n, BitVec.ofNat 32 (n / 2 ^ 32)]

/-- A tile context as its last commit left it (Table 5.6); DW32 to DW127 carry no format. -/
def TileCtx.words (t : TileCtx) : List Word :=
  let w := BitVec.ofNat 32
  [w t.gen, w (t.stream * 65536 + t.state), w t.picture, w (t.trow * 65536 + t.tcol), w (t.wReal * 65536 + t.hReal),
   w ((if t.absent then 2 ^ 31 else 0) + t.lines)] ++
  ((List.range 8).map fun i => w (t.mask / 2 ^ (32 * i))) ++
  [w (t.replaced * 65536 + t.clipped), w t.arrival, w t.bound, w t.budget, w t.coded, w t.qpBase, w t.maxErr] ++
  words64 (BitVec.ofInt 64 t.sumSigned).toNat ++ (List.range 4).flatMap (fun i => words64 (t.sumAbs.getD i 0)) ++ [w t.guards]

/-- A ring's state entry (Table 13.2). -/
def Dev.ringWords (d : Dev) (n : Nat) : List Word :=
  let r := d.ring n
  let w := BitVec.ofNat 32
  let bit := fun (b : Bool) (k : Nat) => if b then 2 ^ k else 0
  let left := if r.leaseOwner = 0xFFFF then 0 else (r.leaseAt + 100000 - d.free) / 1000
  [w (r.base % 2 ^ 32 / 256 * 256 + ringEntryLog2 n * 16), w (r.base / 2 ^ 32),
   w (bit r.en 31 + bit r.leased 30 + bit r.hostMem 29 + bit r.paced 28 + r.output % 16 * 2 ^ 24 + r.sizeLog2 % 16 * 2 ^ 20 + r.owner % 65536),
   w (r.tail * 65536 + r.head), w (r.leaseOwner * 65536 + left), BitVec.ofInt 32 r.deficit, w (r.quantum * 65536 + r.carryUs),
   w (bit r.parked 31 + bit r.inCal 30 + r.slot % 4096 * 65536 + r.te % 65536)]

/-- A source's fault record (Table 19.2). -/
def Dev.faultWords (d : Dev) (n : Nat) : List Word :=
  match srcInfo n with
  | none => List.replicate 8 0
  | some i =>
    let r := d.frec n
    let w := BitVec.ofNat 32
    let bit := fun (b : Bool) (k : Nat) => if b then 2 ^ k else 0
    [w (bit r.state 31 + bit r.path 30 + bit r.conseq 29 + bit (d.fullCapture n) 28 + i.cls * 2 ^ 23 + r.count * 256), w r.total, r.dw2] ++
      words64 r.addr ++ words64 r.time ++ [w r.react]

/-- A dword of the apertures at 0x18_0000 to 0x1F_FFFF; `a` is its BAR0 address. -/
def Dev.window (d : Dev) (a : Nat) : Word :=
  let o := a % 0x20000
  let sel := fun (r : FieldRow) => d.get .hostport 0 r
  if a < 0x1A0000 then
    let s := sel fHP_IWIN_SEL_SEL0
    if 160 ≤ s then 0
    else match d.core.tctx.lookup (256 * s + o / 512) with
      | some t => if o % 512 < 128 then t.words.getD (o % 512 / 4) 0 else Config.sampled a d.free
      | none => 0
  else if a < 0x1C0000 then
    if 4 ≤ sel fHP_IWIN_SEL_SEL1 then 0 else if 5 ≤ o % 32 / 4 then 0 else Config.romWord (sel fHP_IWIN_SEL_SEL1) (o / 4)
  else if a < 0x1E0000 then
    if 4 ≤ sel fHP_IWIN_SEL_SEL2 then 0 else (d.ringWords (4096 * sel fHP_IWIN_SEL_SEL2 + o / 32)).getD (o % 32 / 4) 0
  else if sel fHP_IWIN_SEL_SEL3 ≠ 0 then 0
  else (d.faultWords (o / 32)).getD (o % 32 / 4) 0

/-! ## A read -/

/-- A register as a read shows it; `off` has a register of its own. -/
def Dev.ownView (d : Dev) (p : PageInfo) (page off : Nat) : Word :=
  if off < 0x40 then (d.headerView page off).getD (d.reg (hdrAddr page off))
  else
    let a := page * 4096 + off
    if latchPairs.any fun l => decide (l.1 = p.kind ∧ l.2.2 = off) then (d.core.host.latched.lookup a).getD 0
    else (d.blockView p.kind p.inst off a).getD (d.reg a)

/-- A guarded register lies at this offset of a kind of page. -/
def guardedAt (k : PageKind) (off : Nat) : Bool := decide (0x40 ≤ off ∧ off < 0x800) && (regFields k off).any fun r => r.acc = .rwg

/-- The pages that answer while a host reset is in progress, or without a valid slot (R382, R390). -/
def bootPage (page : Nat) : Bool := page ≤ 3 || page = 0xC

/-- BAR0 answers only these pages now. -/
def Dev.bootGate (d : Dev) : Bool :=
  d.core.boot.phase = .noSlot ∨ (d.core.boot.hostReset ∧ d.core.boot.phase ≠ .running)

/-- What a read of one dword of BAR0 returns, its domain being on or in retention; a domain that is off reads 0 (R18). -/
def Dev.readReg (d : Dev) (a : Nat) : Word :=
  let a := a / 4 * 4
  let page := a / 4096
  let off := a % 4096
  if d.bootGate ∧ !bootPage page then 0
  else if 0x180 ≤ page then d.window a
  else match pageInfo page with
    | none => 0
    | some p =>
      if d.domState p.dom = 2 then 0
      else if !(regFields p.kind off).isEmpty then d.ownView p page off
      else if 0x840 ≤ off ∧ guardedAt p.kind (off - 0x800) then ~~~(d.ownView p page (off - 0x800))
      else 0

/-- A guard miss of a page (R31). -/
def Dev.guardMiss (d : Dev) (page : Nat) : Dev := (d.stat page (2 ^ 22)).hbump page fPG_EVT_GUARD_MISS

/-- The value that waits for its complement on a page. -/
def Dev.pendOf (d : Dev) (page : Nat) : Option GuardPend := d.core.host.guards.find? fun g => g.page = page

/-- Forget the pending value of a page. -/
def Dev.unpend (d : Dev) (page : Nat) : Dev := d.modHost fun h => { h with guards := h.guards.filter fun g => g.page ≠ page }

/-- A pending value is dropped: one guard miss. -/
def Dev.dropPend (d : Dev) (page : Nat) : Dev :=
  if (d.pendOf page).isSome then (d.unpend page).guardMiss page else d

/-- A request reaches a page: it counts as one transaction for the value that waits there, and the 16th without the complement drops it
(R30, Table 2.8 case 4). -/
def Dev.countAccess (d : Dev) (page : Nat) : Dev :=
  match d.pendOf page with
  | none => d
  | some g =>
    let d := (d.unpend page).modHost fun h => { h with guards := h.guards ++ [{ g with count := g.count + 1 }] }
    if 16 ≤ g.count + 1 then d.dropPend page else d

/-- A read performed for the outside: its page counts a transaction, and a domain in retention wakes first (R18). -/
def Dev.touchPage (d : Dev) (page : Nat) : Dev :=
  let d := d.countAccess page
  if d.domState (pageDom page) = 1 then d.wakeBy (pageDom page) 3 else d

/-- Return data to the reader. -/
def Dev.answer (d : Dev) (ws : List Word) : Dev := d.modHost fun h => { h with rdata := ws, rPoison := false, rUr := false }

/-- Read a register whose upper words are latched by the read: `hi` are the registers that take them, with their values. -/
def Dev.latchRead (d : Dev) (a : Nat) (hi : List (Nat × Word)) : Dev :=
  if (d.bootGate ∧ !bootPage (a / 4096)) ∨ d.domState (pageDom (a / 4096)) = 2 then d.answer [0]
  else
    let d := d.touchPage (a / 4096)
    let v := d.readReg a
    (hi.foldl (fun (d : Dev) p => d.modHost fun h => { h with latched := tset h.latched p.1 p.2 }) d).answer [v]

end Sys2Proof.Machine
end

