-- ==== Sys2Proof/Machine/DeviceOps.lean ====
section
/-! DEFINITION. Resets of the whole device (R382, R383), the configuration flash (R385, R391), and board tests and JTAG (R408, R409). -/
namespace Sys2Proof.Machine

/-! ## Resets of the device -/

/-- Kinds of reset, as LS_RST_CAUSE.LAST numbers them. -/
inductive RstKind where
  | powerOn | supply | pin | host
  deriving DecidableEq, Repr

/-- LS_RST_CAUSE.LAST. -/
def RstKind.code : RstKind → Nat
  | .powerOn => 1 | .supply => 2 | .pin => 3 | .host => 4

/-- The state behind the registers after a reset: the flash and JTAG stay, and of Lehr what its always-on domain holds; a host
reset keeps the host port's link state, and a pin or host reset the 156.25 MHz reference. -/
def Core.afterReset (c : Core) (k : RstKind) : Core :=
  let l := c.lehr
  let keep := k ≠ .powerOn
  { Core.reset with
    flash := c.flash
    jtag := c.jtag
    lehr := { Lehr.rest with
      gangId := l.gangId, gangSzM1 := l.gangSzM1, pinLow := l.pinLow
      lastDip := if keep then l.lastDip else none
      seq := if k = .pin ∨ k = .host then l.seq else Lehr.rest.seq }
    host := { HostPort.rest with d3hot := if k = .host then c.host.d3hot else false }
    time := { TimeSt.rest with refPresent := if k = .pin ∨ k = .host then c.time.refPresent else false } }

/-- A register takes its reset value in every field that the reset clears; class AO is cleared by a power-on reset alone. -/
def Dev.resetReg (d : Dev) (k : RstKind) (a : Nat) : Dev :=
  if k = .host ∧ a = 0xC040 then d
  else
    let cs : List Cls := if k = .powerOn then [.cfg, .ctl, .sts, .cnt, .lck, .ao] else [.cfg, .ctl, .sts, .cnt, .lck]
    d.clearReg cs a

/-- A reset of the device (Tables 20.7 and 20.8a). DRAM contents are not kept (R382). -/
def Dev.deviceReset (d : Dev) (k : RstKind) : Dev :=
  let d := (d.storedRegs.eraseDups).foldl (fun (d : Dev) a => d.resetReg k a) d
  let d : Dev := { d with core := d.core.afterReset k, dram := Overlay.clear memDefault d.dram }
  d.set .lehrSupply 0 fLS_RST_CAUSE_LAST k.code

/-- Boot begins (Table 20.10 step 1). -/
def Dev.bootStart (d : Dev) (hostReset : Bool) : Dev :=
  let d := d.bump .lehrSupply 0 fLS_RST_CAUSE_BOOTS
  { d with core := { d.core with boot := ⟨.image, [], [], hostReset, 0⟩ } }

/-- A complete pair on LS_RST_REQ (R394): REQ with KIND 1 starts a host reset, other kinds are ignored. -/
def Dev.resetRequest (d : Dev) (v : Word) : Dev :=
  if fLS_RST_REQ_REQ.ext v = 1 ∧ fLS_RST_REQ_KIND.ext v = 1 then (d.deviceReset .host).bootStart true else d

/-! ## The flash (R385, R391) -/

/-- What an unlisted byte of the flash reads as: erased. -/
def flashDefault (_ : Nat) : Byte := 0xFF

/-- Bytes of the flash. -/
def Dev.flashBytes (d : Dev) (a n : Nat) : List Byte :=
  (List.range n).map fun i => Sparse.get flashDefault d.core.flash (a + i)

/-- Write one byte of the flash. -/
def Dev.setFlash (d : Dev) (a : Nat) (b : Byte) : Dev :=
  { d with core := { d.core with flash := Sparse.set flashDefault d.core.flash a b } }

/-- Section i of a slot's header (Table 20.9): type, offset within the body, length. -/
def sectionAt (h : List Byte) (i : Nat) : Nat × Nat × Nat := (fieldLe h (32 + 16 * i) 4, fieldLe h (36 + 16 * i) 4, fieldLe h (40 + 16 * i) 4)

/-- The first section of a type. -/
def findSection (h : List Byte) (typ : Nat) : Option (Nat × Nat) :=
  (((List.range (min 16 (fieldLe h 24 4))).map (sectionAt h)).find? fun s => s.1 = typ).map fun s => (s.2.1, s.2.2)

/-- Base of a slot. -/
def slotBase (s : Nat) : Nat := s * 0x2000000

/-- The page lies in the stage key section of either slot. -/
def Dev.keyPage (d : Dev) (page : Nat) : Bool :=
  [0, 1].any fun s => match findSection (d.flashBytes (slotBase s) 4096) 4 with
    | some (o, n) =>
      let a := slotBase s + 0x1000 + o
      decide (page * 256 < a + n ∧ a < page * 256 + 256)
    | none => false

/-- A flash command is refused. -/
def Dev.flashRefuse (d : Dev) (code : Nat) : Dev := (d.set .config 0 fCF_FSTAT_ERR 1).set .config 0 fCF_FSTAT_ERR_CODE code

/-- A complete pair on CF_FCMD (R391). GO while a command runs changes nothing; the error code of an operation that does not exist is a
free value (DESIGN CHOICE, log entry 37). -/
def Dev.flashCommand (d : Dev) (v : Word) : Dev :=
  let op := fCF_FCMD_OP.ext v
  let page := d.get .config 0 fCF_FADDR_PAGE
  let slot := d.get .config 0 fCF_BOOT_SLOT
  if fCF_FCMD_GO.ext v = 0 ∨ d.core.flashCmd.isSome then d
  else if op = 0 ∨ 3 < op then d.flashRefuse (fCF_FSTAT_ERR_CODE.ext (Config.sampled 0x3058 d.free))
  else if op ≠ 1 ∧ slot < 2 ∧ page / 0x20000 = slot then d.flashRefuse 1
  else if op ≠ 1 ∧ d.frozen then d.flashRefuse 2
  else if op = 1 ∧ d.keyPage page then d.flashRefuse 4
  else
    let d := (d.set .config 0 fCF_FSTAT_ERR 0).set .config 0 fCF_FSTAT_ERR_CODE 0
    { d.set .config 0 fCF_FSTAT_BUSY 1 with core := { d.core with flashCmd := some (op, page) } }

/-- Program one byte: onto an erased byte it stands as written; onto another the result is a free value. -/
def programmed (old new : Byte) : Byte := if old = 0xFF then new else Config.overProgram old new

/-- The 256 bytes of CF_BUF. -/
def Dev.flashBuffer (d : Dev) : List Byte := (List.range 64).flatMap fun n => wordBytes (d.reg (0x3400 + 4 * n))

/-- A flash command finishes. What a program or an erase that failed leaves in the flash is a free value. -/
def Dev.flashDone (d : Dev) (error : Bool) : Dev :=
  match d.core.flashCmd with
  | none => d
  | some (op, page) =>
    let d : Dev := { d.set .config 0 fCF_FSTAT_BUSY 0 with core := { d.core with flashCmd := none } }
    let a := page * 256
    let buf := d.flashBuffer
    let d :=
      if op = 1 then
        if error then d
        else (List.range 64).foldl (fun (d : Dev) n => d.setReg (0x3400 + 4 * n) (BitVec.ofNat 32 (ofLe (d.flashBytes (a + 4 * n) 4)))) d
      else if op = 2 then
        (List.range 256).foldl (fun (d : Dev) i =>
          let old := Sparse.get flashDefault d.core.flash (a + i)
          let new := buf.getD i 0
          d.setFlash (a + i) (if error then Config.overProgram old new else programmed old new)) d
      else
        let s := a / 65536
        let gone := fun (p : Host.Cell) => decide (p.1 / 65536 = s)
        if error then
          ((d.core.flash.filter gone).map (·.1)).foldl (fun (d : Dev) k =>
            d.setFlash k (Config.overProgram (Sparse.get flashDefault d.core.flash k) 0xFF)) d
        else { d with core := { d.core with flash := d.core.flash.filter fun p => !gone p } }
    if error then ((d.flashRefuse 3)).statBit .config 0 2 else d.statBit .config 0 1

/-! ## Board tests (R408) -/

/-- Units of a test kind. -/
def testUnits (kind : Nat) : Nat := [32, 8, 3, 2, 10].getD kind 0
/-- The page of a test's unit. -/
def testPage (kind i : Nat) : Nat := [0x80, 0x30, 0x38, 0x09, 0x40].getD kind 0 + i

/-- The link that a test uses is reset (Table 20.7, Link). -/
def Dev.testLink (d : Dev) (kind i : Nat) : Dev :=
  match kind with
  | 0 => d.bankLost i
  | 1 => if d.get .mag i fMAG_STAT_STATE = 0 ∨ d.get .mag i fMAG_STAT_STATE = 6 then d else d.removePort i
  | 2 => d.peerLost i
  | 3 => d.netLink i false
  | _ => d

/-- A complete pair on DEV_TEST; the second result is false where the write is discarded. -/
def Dev.testStart (d : Dev) (v : Word) : Dev × Bool :=
  let kind := fDEV_TEST_KIND.ext v
  let i := fDEV_TEST_INDEX.ext v
  if fDEV_TEST_GO.ext v = 0 then (d, true)
  else if d.modeShown ≠ 11 ∨ d.core.test.isSome ∨ testUnits kind ≤ i then (d.drop, false)
  else
    let d := (d.set .device 0 fDEV_TEST_STAT_DONE 0).set .device 0 fDEV_TEST_STAT_PASS 0
    if d.domState (pageDom (testPage kind i)) = 2 then
      ((d.set .device 0 fDEV_TEST_STAT_DONE 1).set .device 0 fDEV_TEST_STAT_ERRORS 0xFFFF, true)
    else
      let l := fDEV_TEST_LOOP.ext v
      let d := (d.set .device 0 fDEV_TEST_STAT_BUSY 1).set .device 0 fDEV_TEST_STAT_ERRORS 0
      let d := (d.set .device 0 fDEV_TEST_MASK_FAILED 0).testLink kind i
      ({ d with core := { d.core with test := some ⟨kind, i, if l = 1 then 1 else 0⟩ } }, true)

/-- A line test has overwritten a channel: what its written bytes hold is a free value (DESIGN CHOICE, log entry 37). -/
def Dev.overwriteChannel (d : Dev) (c : Nat) : Dev :=
  (((d.dram.base ++ d.dram.log).map (·.1)).filter fun a => burstChan (a / 64) = c).foldl (fun (d : Dev) a =>
    d.setDram a ((Config.sampled a d.free).setWidth 8)) d

/-- The test ends: each lane passes with zero errors. -/
def Dev.testDone (d : Dev) (errors : Nat) (failed : Word) : Dev :=
  match d.core.test with
  | none => d
  | some t =>
    let d : Dev := { d with core := { d.core with test := none } }
    let d := (d.set .device 0 fDEV_TEST_STAT_BUSY 0).set .device 0 fDEV_TEST_STAT_DONE 1
    let d := d.set .device 0 fDEV_TEST_STAT_PASS (if errors = 0 ∧ failed = 0 then 1 else 0)
    let d := (d.set .device 0 fDEV_TEST_STAT_ERRORS (min errors 0xFFFF)).set .device 0 fDEV_TEST_MASK_FAILED failed.toNat
    if t.kind = 4 then d.overwriteChannel t.index else d

/-! ## JTAG (R409) -/

/-- The value IDCODE loads. -/
def jtagId : Word := 0xA10244ED#32

/-- Load a JTAG instruction. EXTEST, CLAMP and HIGHZ act only while SYS_RESET_N is low, and otherwise as BYPASS. -/
def Dev.jtagLoad (d : Dev) (ir : JtagIr) : Dev :=
  let low := d.core.lehr.pinLow
  let j := { d.core.jtag with
    ir := ir
    dr := if ir = .idcode then jtagId else d.core.jtag.dr
    drivesPins := low && decide (ir = .extest ∨ ir = .clamp)
    floatsPins := low && decide (ir = .highz) }
  { d with core := { d.core with jtag := j } }

/-- SAMPLE/PRELOAD: a preload sets the boundary-scan register. -/
def Dev.jtagPreload (d : Dev) (p : Option (List Bool)) : Dev :=
  let d := d.jtagLoad .samplePreload
  match p with
  | some b => { d with core := { d.core with jtag := { d.core.jtag with bsr := b } } }
  | none => d

/-- SYS_RESET_N rises: the pins return to the RL1024. -/
def Dev.jtagRelease (d : Dev) : Dev :=
  { d with core := { d.core with jtag := { d.core.jtag with drivesPins := false, floatsPins := false } } }

end Sys2Proof.Machine
end

