-- ==== Sys2Proof/Machine/RegWrite.lean ====
section
/-! DEFINITION. A write of BAR0 by a master (R21, R22, R27, R28, R30 to R33): what is discarded, what is guarded or locked, and what a
register's write does. -/
namespace Sys2Proof.Machine

/-! ## Access codes -/

/-- The bits of a register that a write may change directly or through a guarded pair. -/
def writableMask (k : PageKind) (off : Nat) : Word :=
  (regFields k off).foldl (fun m r => if r.acc = .rw ∨ r.acc = .rwg then m ||| r.mask else m) 0

/-- Some field of the register at an offset has an access code. -/
def hasAcc (k : PageKind) (off : Nat) (c : Acc) : Bool := (regFields k off).any fun r => r.acc = c

/-- Doorbells, which PAGE_LOCK leaves writable (Table 2.5). -/
def isDoorbell (k : PageKind) (off : Nat) : Bool :=
  k = .queueDb || (k = .hostport && decide (0x100 ≤ off ∧ off < 0x300 ∧ (off % 32 = 0x14 ∨ off % 32 = 0x18)))

/-- The register is under a set lock bit: its group's, or PAGE_LOCK, which covers PG_PWR and every writable block register but
doorbells. -/
def Dev.locked (d : Dev) (page : Nat) (k : PageKind) (off : Nat) : Bool :=
  let l := d.reg (hdrAddr page 0x020)
  if off = 0x018 then l.getLsbD 31
  else if off < 0x40 then false
  else (l.getLsbD 31 && !isDoorbell k off) || (regFields k off).any fun r => match r.lock with
    | some g => l.getLsbD g
    | none => false

/-- A lock violation (R33): the write is ignored, the page's status and count record it, and LOCK captures it in full. -/
def Dev.lockViolation (d : Dev) (mst a : Nat) : Dev :=
  let page := a / 4096
  ((d.stat page (2 ^ 23)).hbump page fPG_EVT_LOCK_VIOL).raise (2 * blockIdx page + 1) mst 2 none (some a)

/-! ## What a write does -/

/-- Store the writable bits of a value. -/
def Dev.store (d : Dev) (k : PageKind) (off a : Nat) (v : Word) : Dev :=
  let m := writableMask k off
  d.setReg a ((d.reg a &&& ~~~m) ||| (v &&& m))

/-- A write to PG_CTL: QUIESCE and ENABLE take the values written; RESET_REQ 1 asks for a block reset, 0 changes nothing. -/
def Dev.writeCtl (d : Dev) (page : Nat) (v : Word) : Dev :=
  let d := (d.hset page fPG_CTL_QUIESCE (fPG_CTL_QUIESCE.ext v)).hset page fPG_CTL_ENABLE (fPG_CTL_ENABLE.ext v)
  if fPG_CTL_RESET_REQ.ext v = 1 then d.askReset (blockIdx page) true else d

/-- A write to PG_STAT_CLR (R32): it clears the masked bits only when its SEQ is the page's. The records that a bit holds are released
with it (Tables 12.2 and 13.9). -/
def Dev.statClear (d : Dev) (page : Nat) (v : Word) : Dev :=
  let w := d.reg (page * 4096 + 0x00C)
  if (w >>> 24) = (v >>> 24) then
    let d := d.setReg (page * 4096 + 0x00C) (w &&& ~~~(v &&& 0x00FFFFFF#32))
    match pageInfo page with
    | some p =>
      if p.kind = .queue0 ∧ v.getLsbD 2 then d.set .queue0 0 fQU_WARN_VALID 0
      else if (p.kind = .enc ∧ v.getLsbD 9) ∨ (p.kind = .dec ∧ v.getLsbD 4) then d.set p.kind p.inst fMC_MCHK_REC_VALID 0
      else d
    | none => d
  else d.hbump page fPG_EVT_CLEAR_MISS

/-- A write to REQ and IDLE_US of a domain, through PG_PWR or LP_DOMn. -/
def Dev.writeDomain (d : Dev) (n : Nat) (v : Word) (twake : Bool) : Dev :=
  if n = 0 then d
  else
    let d := (d.set .lehrPower 0 fLP_DOM_REQ (fLP_DOM_REQ.ext v) n).set .lehrPower 0 fLP_DOM_IDLE_US (fLP_DOM_IDLE_US.ext v) n
    let d := if twake then d.set .lehrPower 0 fLP_DOM_TWAKE (fLP_DOM_TWAKE.ext v) n else d
    d.powerRequest n (fLP_DOM_REQ.ext v)

/-- A write to EVT_SRCn (R242, R247): TARGET of the mailboxes, the mode request and the doorbells stays; a source that is pending moves
between views at the old target's next scan boundary, or at once where that controller sleeps or is halted. -/
def Dev.writeEvtSrc (d : Dev) (n : Nat) (v : Word) : Dev :=
  let fixed := decide (n < 16 ∨ n = 119 ∨ (120 ≤ n ∧ n < 128))
  let old := d.evtView n
  let v := if fixed then fEVT_SRC_TARGET.ins v (d.get .event 0 fEVT_SRC_TARGET n) else v
  let d := d.store .event (0x400 + 4 * n) (fieldAddr .event 0 fEVT_SRC_TARGET n) v
  if d.evtTarget n = old then d.setEvt n { d.evt n with oldTarget := none }
  else
    let d := if fixed then d else d.bump .event 0 fEVT_CNT_RETARGETS
    let runs := d.gafRuns old ∧ d.domState (0x89 + old) = 0
    let d := d.setEvt n { d.evt n with oldTarget := if runs then some old else none }
    if !runs ∧ d.get .event 0 fEVT_SRC_PEND n = 1 then d.evtTargetSleep n else d

/-- A write to a doorbell of a DMA descriptor ring (R254). -/
def Dev.doorbell (d : Dev) (i : Nat) (v : Word) : Dev := d.tailBy (8192 + i) 0x1000 (v.toNat % 65536)

/-- Lanes whose receiver is switched off lose lock (Table 4.10). -/
def Dev.writeLaneOn (d : Dev) (bank : Nat) (v : Word) : Dev :=
  let d := d.set .gather bank fGT_LANE_ON_ON v.toNat
  (List.range 32).foldl (fun (d : Dev) i => if v.getLsbD i then d else d.lockLost (32 * bank + i)) d

/-- No chunk is held and no quota granted (R268). -/
def Cullet.unusedAll (c : Cullet) : Bool := c.chunks.isEmpty && c.quotas.all fun q => q.2 = 0

/-- The registers that may be written only under a condition: a write made otherwise is discarded (R35, R164, R254, R268, R312). -/
def Dev.writeAllowed (d : Dev) (k : PageKind) (off : Nat) : Bool :=
  match k with
  | .hostport =>
    if 0x100 ≤ off ∧ off < 0x300 ∧ off % 32 < 0x10 then
      let m := (off - 0x100) / 32
      decide (d.get .hostport 0 fMBX_CFG_EN m = 0 ∧ d.get .hostport 0 fMBX_STAT_IDLE m = 1)
    else true
  | .cullet0 => if off < 0x04C then d.core.cullet.unusedAll else true
  | .memctl =>
    if off = 0x040 then (List.range 10).all fun c => d.get .mem c fMEM_STAT_STATE = 0
    else if 0x700 ≤ off ∧ off ≤ 0x70C then (d.liveSlots.all fun p => p.2.resv.pool = 0)
    else true
  | _ => true

/-- A write to MAG_CFG: a magazine that is seated and not mounted begins to mount when AUTO_MOUNT is set (R271). -/
def Dev.writeMagCfg (d : Dev) (m : Nat) (v : Word) : Dev :=
  let was := d.get .mag m fMAG_CFG_AUTO_MOUNT
  let d := d.store .mag 0x040 (fieldAddr .mag m fMAG_CFG_AUTO_MOUNT 0) v
  if was = 0 ∧ d.get .mag m fMAG_CFG_AUTO_MOUNT = 1 ∧ d.get .mag m fMAG_STAT_PRESENT = 1 ∧ d.get .mag m fMAG_STAT_STATE = 0 then
    d.mountStart m else d

/-- A register takes a value: the second result is false where the write is discarded. -/
def Dev.writeAct (d : Dev) (mst : Nat) (p : PageInfo) (page off : Nat) (v : Word) : Dev × Bool :=
  let a := hdrAddr page off
  let stored := d.store p.kind off a v
  if off = 0x008 then (d.writeCtl page v, true)
  else if off = 0x010 then (d.statClear page v, true)
  else if off = 0x018 then (d.writeDomain p.dom v false, true)
  else if !d.writeAllowed p.kind off then (d.drop, false)
  else match p.kind with
    | .hostport =>
      if off < 0x100 then (stored, true)
      else
        let m := (off - 0x100) / 32
        (if off % 32 = 0x10 then d.mbxCfg m v else if off % 32 = 0x14 then d.sqTail m v
          else if off % 32 = 0x18 then d.cqHead m v else stored, true)
    | .device =>
      if off = 0x04C then (stored.requestMode (fDEV_MODE_REQ_REQ.ext v), true)
      else if off = 0x080 then
        let r := d.testStart v
        (if r.2 then r.1.store p.kind off a v else r.1, r.2)
      else (stored, true)
    | .gather =>
      (if off = 0x04C then d.writeLaneOn p.inst v else if off = 0x050 then d.qrel p.inst v else stored, true)
    | .memctl =>
      if off = 0x048 then (if fMC_RETIRE_REQ.ext v = 1 then stored.hostRetire (fMC_RETIRE_CH.ext v) else stored, true)
      else if off = 0x708 then (stored.set .memctl 0 fRP_OVF_USED_PEAK (d.get .memctl 0 fRP_OVF_USED_NOW), true)
      else (stored, true)
    | .event => (d.writeEvtSrc ((off - 0x400) / 4) v, true)
    | .queue0 =>
      if off = 0x054 then
        if d.ringConfigOk v then ((d.ringConfig v).store p.kind off a v, true) else (d.drop, false)
      else (stored, true)
    | .queueDb => (stored.doorbell (512 * p.inst + (off - 0x040) / 4) v, true)
    | .queueCh =>
      if off % 32 = 0x08 ∧ fCH_CFG_EN.ext v = 1 then
        (stored.set .queueCh p.inst fCH_OWNER_OWNER (0x1000 + mst) ((off - 0x040) / 32), true)
      else (stored, true)
    | .mag => (if off = 0x040 then d.writeMagCfg p.inst v else stored, true)
    | .time => (if off = 0x068 then stored.tmApply v else stored, true)
    | .peer => (if off = 0x040 ∧ fPR_CFG_EN.ext v = 0 then stored.peerLost p.inst else stored, true)
    | .fault0 => (if off = 0x040 then d.fcClear v else stored, true)
    | .fault1 =>
      let n := (off - 0x400) / 4
      let keep := flags32 n fun s => alwaysFull s || (srcInfo s).isNone
      (d.setReg a ((d.reg a &&& keep) ||| (v &&& ~~~keep)), true)
    | .fault3 => (stored.fcRestore v, true)
    | .lehrPower =>
      if off = 0x040 then (stored.groupRequest v, true)
      else if off = 0x04C then (stored.timerArm v, true)
      else (d.writeDomain ((off - 0x400) / 4) v true, true)
    | .lehrSupply => (if off = 0x06C then stored.resetRequest v else stored, true)
    | .config => (if off = 0x054 then stored.flashCommand v else stored, true)
    | _ => (stored, true)

/-! ## One dword -/

/-- The instance of a page within its kind (the doorbell and channel pages of QUEUE count from their first page). -/
def PageInfo.ofKind (p : PageInfo) : PageInfo := match p.kind with
  | .queueDb => { p with inst := p.inst - 1 }
  | .queueCh => { p with inst := p.inst - 9 }
  | _ => p

/-- A discarded write to a page: it counts, and comes between the halves of a guarded pair (Table 2.8 case 3). -/
def Dev.discard (d : Dev) (page : Nat) : Dev := (d.dropPend page).drop

/-- A guarded pair is complete. -/
def Dev.pairDone (d : Dev) (mst : Nat) (p : PageInfo) (page off : Nat) (v : Word) : Dev × Bool :=
  let a := hdrAddr page off
  let flash := decide (p.kind = .config ∧ off = 0x054 ∧ fCF_FCMD_GO.ext v = 1 ∧ (fCF_FCMD_OP.ext v = 2 ∨ fCF_FCMD_OP.ext v = 3))
  if d.frozen && !flash then (d.drop, false)
  else if d.locked page p.kind off then (d.lockViolation mst a, false)
  else d.writeAct mst p page off v

/-- The write of a complement. -/
def Dev.writeComplement (d : Dev) (mst : Nat) (p : PageInfo) (page off : Nat) (v : Word) (held : Bool) : Dev × Bool :=
  match d.pendOf page with
  | none => if held then (d.drop, false) else (d.guardMiss page, false)
  | some g =>
    if g.off ≠ off then
      let d := d.dropPend page
      if held then (d.drop, false) else (d.guardMiss page, false)
    else if g.val ≠ ~~~v then (let d := d.dropPend page; if held then d.drop else d, false)
    else if held then ((d.unpend page).drop, false)
    else (d.unpend page).pairDone mst p page off g.val

/-- The first write to PG_LOCK after a reset that clears it sets the lock bits; a later one is a violation, and one while configuration
writes are frozen is discarded (R33, R380). -/
def Dev.writeLock (d : Dev) (mst page : Nat) (v : Word) : Dev × Bool :=
  let b := blockIdx page
  if d.frozen then (d.drop, false)
  else if d.core.host.lockWritten.contains b then (d.lockViolation mst (hdrAddr page 0x020), false)
  else ((d.modHost fun h => { h with lockWritten := h.lockWritten ++ [b] }).setReg (hdrAddr page 0x020) v, true)

/-- BAR0 reaches registers: from the end of the configuration records on, and throughout a host reset (R382, R389). -/
def Dev.barLive (d : Dev) : Bool :=
  d.core.boot.hostReset || match d.core.boot.phase with
    | .training | .running | .noSlot => true
    | _ => false

/-- One dword written by a master, with its byte enables; the second result says that the write took effect. `open_` lets the configuration
loader write to a block that is held in reset on its return from off (R384). -/
def Dev.writeDword (d : Dev) (mst a : Nat) (v : Word) (be : BitVec 4) (open_ : Bool := false) : Dev × Bool :=
  let page := a / 4096
  let off := a % 4096
  if be ≠ 0xF#4 then (d.discard page, false)
  else match pageInfo page with
    | none => (d.drop, false)
    | some p =>
      let p := p.ofKind
      if d.domState p.dom = 2 ∨ (d.bootGate ∧ !bootPage page ∧ mst / 256 ≠ 0xA) then (d.discard page, false)
      else
        let d := match d.enteringOf p.dom with
          | some m => if m.since = d.free then d.abortEntry p.dom 0xFF03 else d.wakeBy p.dom 3
          | none => if d.domState p.dom = 1 then d.wakeBy p.dom 3 else d
        let held := d.inReset page && !open_
        if (regFields p.kind off).isEmpty then
          if 0x840 ≤ off ∧ guardedAt p.kind (off - 0x800) then d.writeComplement mst p page (off - 0x800) v held
          else (d.discard page, false)
        else if held then (d.discard page, false)
        else
          let d := d.dropPend page
          if guardedAt p.kind off then
            (d.modHost fun h => { h with guards := h.guards ++ [⟨page, off, v, 1⟩] }, true)
          else if off = 0x020 then d.writeLock mst page v
          else if !(hasAcc p.kind off .rw || hasAcc p.kind off .wo) then (d.drop, false)
          else if d.locked page p.kind off then (d.lockViolation mst (hdrAddr page off), false)
          else d.writeAct mst p page off v

/-! ## Requests -/

/-- Count a write request at its page. -/
def Dev.countWrite (d : Dev) (page : Nat) : Dev :=
  let more := fun (g : GuardPend) => if g.page = page then { g with count := g.count + 1 } else g
  d.modHost fun h => { h with guards := h.guards.map more }

/-- The 16th transaction has passed without the complement (Table 2.8 case 4). -/
def Dev.expirePend (d : Dev) (page : Nat) : Dev := match d.pendOf page with
  | some g => if 16 ≤ g.count then d.dropPend page else d
  | none => d

/-- A write request of 1 to 16 dwords within one page; one that crosses a page takes no effect (R21). Before BAR0 is usable a request
reaches nothing. -/
def Dev.writeRequest (d : Dev) (mst a : Nat) (dws : List (Word × BitVec 4)) : Dev :=
  let a := a / 4 * 4
  if dws.isEmpty ∨ 16 < dws.length ∨ 4096 < a % 4096 + 4 * dws.length ∨ 0x200000 ≤ a ∨ !d.barLive then d
  else
    let page := a / 4096
    let d := d.countWrite page
    let r := dws.foldl (fun (s : Dev × Nat) w => ((s.1.writeDword mst s.2 w.1 w.2).1, s.2 + 4)) (d, a)
    r.1.expirePend page

/-- A write of one whole dword. -/
def Dev.busWrite (d : Dev) (mst a : Nat) (v : Word) : Dev := d.writeRequest mst a [(v, 0xF#4)]

/-- A guarded pair: the value, then its complement (R30). -/
def Dev.busPair (d : Dev) (mst a : Nat) (v : Word) : Dev := (d.busWrite mst a v).busWrite mst (a + 0x800) (~~~v)

end Sys2Proof.Machine
end

