-- ==== Sys2Proof/Machine/BootOps.lean ====
section
/-! DEFINITION. The power-up sequencer (R378), the resets that start boot (R379, R382), the configuration image and boot (R385 to R390),
and a domain's return (R373, R384). -/
namespace Sys2Proof.Machine

/-- Change the sequencer. -/
def Dev.modSeq (d : Dev) (f : Sequencer → Sequencer) : Dev := d.modLehr fun l => { l with seq := f l.seq }

/-- Change boot. -/
def Dev.modBoot (d : Dev) (f : Boot → Boot) : Dev := { d with core := { d.core with boot := f d.core.boot } }

/-! ## The configuration image (R385 to R388) -/

/-- What the header of a slot shows (CF_BOOT.REJ_A): 0 where it is valid. -/
def headerVerdict (h : List Byte) : Nat :=
  if h.all fun b => b = 0xFF then 8
  else if fieldLe h 0 4 ≠ 0x4746434F ∨ fieldLe h 5 1 ≠ 1 then 1
  else if crc32c (h.take 4088) ≠ fieldLe h 4088 4 then 2
  else if fieldLe h 4092 4 ≠ 0x5EA1C0DE then 3
  else 0

/-- The bytes of a section of a body; none: the image has no such section. -/
def sectionBytes (h body : List Byte) (typ : Nat) : Option (List Byte) := (findSection h typ).map fun s => (body.drop s.1).take s.2

/-- What the body of a slot shows: 4 its CRC, 5 its signature. -/
def bodyVerdict (h body : List Byte) : Nat :=
  if crc32c body ≠ fieldLe h 20 4 then 4
  else match sectionBytes h body 2, sectionBytes h body 3 with
    | some fw, some sig => if Config.signatureOk fw sig then 0 else 5
    | _, _ => 5

/-- Register records: 16 bytes each (R387). -/
def parseRecs : Nat → List Byte → List CfgRec
  | 0, _ => []
  | n + 1, bs =>
    if bs.length < 16 then []
    else
      let w := fun (i : Nat) => fieldLe bs (4 * i) 4
      ⟨w 0 / 2 ^ 28, w 0 % 2 ^ 21, BitVec.ofNat 32 (w 1), BitVec.ofNat 32 (w 2), w 3⟩ :: parseRecs n (bs.drop 16)

/-- Serial numbers of 8 bytes. -/
def parseSerials : Nat → List Byte → List Nat
  | 0, _ => []
  | n + 1, bs => if bs.length < 8 then [] else fieldLe bs 0 8 :: parseSerials n (bs.drop 8)

/-- The stage key and its tag stand in a bank. -/
def Dev.keyIn (d : Dev) (bank : Nat) : Dev := match d.core.stageKey with
  | some k => (d.set .gather bank fGT_KEY_LOADED 1).set .gather bank fGT_KEY_KEY_TAG (fieldBe (sha256 k) 0 2)
  | none => d

/-- The firmware version stands in a controller. -/
def Dev.firmwareIn (d : Dev) (c ver : Nat) : Dev := d.setReg (fieldAddr .gaffer c fGF_FW_VER_BUILD 0) (BitVec.ofNat 32 ver)

/-- Load the image of a slot: firmware, stage key, allow list and records. -/
def Dev.loadImage (d : Dev) (slot : Nat) (h body : List Byte) : Dev :=
  let recs := match sectionBytes h body 1 with
    | some b => parseRecs (b.length / 16) b
    | none => []
  let serials := match sectionBytes h body 5 with
    | some b => parseSerials (min 4096 (b.length / 8)) b
    | none => []
  let d := ((d.set .config 0 fCF_BOOT_SLOT slot).set .config 0 fCF_SEQ_LO_SEQ_LO (fieldLe h 8 4)).set .config 0 fCF_SEQ_HI_SEQ_HI (fieldLe h 12 4)
  let d : Dev := { d with core := { d.core with stageKey := sectionBytes h body 4, allow := serials } }
  let d := (List.range 32).foldl (fun (d : Dev) b => d.keyIn b) d
  let ver := Config.firmwareVersion ((sectionBytes h body 2).getD [])
  let d := (List.range 8).foldl (fun (d : Dev) c => d.firmwareIn c ver) d
  d.modBoot fun b => { b with phase := .records, recs := recs, image := recs, fwVer := ver }

/-! ## Records (R387) -/

/-- A record's condition holds. -/
def Dev.recHolds (d : Dev) (r : CfgRec) : Bool := (d.readReg r.off &&& r.mask) = r.val

/-- Apply one record: whether it was carried out; none: it waits. -/
def Dev.applyRec (d : Dev) (r : CfgRec) : Dev × Option Bool :=
  let a := r.off / 4 * 4
  match r.op with
  | 0 => let w := d.writeDword 0xA00 a r.val 0xF#4 true; (w.1, some w.2)
  | 1 =>
    let w := (d.writeDword 0xA00 a r.val 0xF#4 true).1.writeDword 0xA00 (a + 0x800) (~~~r.val) 0xF#4 true
    (w.1, some w.2)
  | 2 => (d, if d.recHolds r then some true else none)
  | _ => (d, none)

/-- A record is counted. -/
def Dev.countRec (d : Dev) (ok : Bool) : Dev := d.bump .config 0 (if ok then fCF_RECS_APPLIED else fCF_RECS_REJECTED)

/-- The records have ended: every channel trains (Table 20.10 step 5). -/
def Dev.recsDone (d : Dev) : Dev :=
  let d := d.modBoot fun b => { b with phase := .training, recs := [] }
  (List.range 10).foldl (fun (d : Dev) c => d.set .mem c fMEM_STAT_STATE 1) d

/-- Apply records in order until one waits. Any other OP ends them with one rejection; a record that resets the device ends them too. -/
def Dev.runRecs : List CfgRec → Dev → Dev
  | [], d => d.recsDone
  | r :: rs, d =>
    if 3 < r.op then (d.countRec false).recsDone
    else match d.applyRec r with
      | (d, none) => d.modBoot fun b => { b with recs := r :: rs }
      | (d, some ok) => if d.core.boot.phase = .records then Dev.runRecs rs (d.countRec ok) else d

/-- Apply the records of the image just loaded. -/
def Dev.startRecs (d : Dev) : Dev := Dev.runRecs d.core.boot.recs d

/-- The wait of the record in front ends: its condition holds now, or its timeout has passed. -/
def Dev.recWaitEnd (d : Dev) : Dev :=
  if d.core.boot.phase ≠ .records then d
  else match d.core.boot.recs with
    | [] => d
    | r :: rs => Dev.runRecs rs (d.countRec (r.op ≠ 2 || d.recHolds r))

/-- The records of the loaded image that address a page, applied on a return from off (R384); waits are judged as they are met. -/
def Dev.applyPage (d : Dev) (page : Nat) : Dev :=
  ((d.core.boot.image.takeWhile fun r => decide (r.op ≤ 3)).filter fun r => decide (r.off / 4096 = page) && decide (r.op ≠ 3)).foldl
    (fun (d : Dev) r => let w := d.applyRec r; w.1.countRec (w.2.getD false)) d

/-! ## Boot (R386, R389, R390) -/

/-- Neither slot is valid: every domain but the host port's and the spine is off. -/
def Dev.noSlot (d : Dev) : Dev :=
  let d := (d.set .config 0 fCF_BOOT_SLOT 2).modBoot fun b => { b with phase := .noSlot, recs := [], image := [] }
  (List.range 0xC9).foldl (fun (d : Dev) n => if n = 0 ∨ n = 0xC4 then d else d.set .lehrPower 0 fLP_DOM_STATE 2 n) d

/-- The body of a slot. -/
def Dev.slotBody (d : Dev) (s : Nat) (h : List Byte) : List Byte := d.flashBytes (slotBase s + 0x1000) (fieldLe h 16 4)

/-- A slot's verdict is shown. -/
def Dev.showVerdict (d : Dev) (s v : Nat) : Dev := d.set .config 0 (if s = 0 then fCF_BOOT_REJ_A else fCF_BOOT_REJ_B) v

/-- The headers and bodies are read and checked, and a slot is taken (R386). -/
def Dev.imageLoaded (d : Dev) : Dev :=
  if d.core.boot.phase ≠ .image then d
  else
    let ha := d.flashBytes (slotBase 0) 4096
    let hb := d.flashBytes (slotBase 1) 4096
    let va := headerVerdict ha
    let vb := headerVerdict hb
    let d := (d.showVerdict 0 va).showVerdict 1 vb
    let hdr := fun (s : Nat) => if s = 0 then ha else hb
    let first := if va ≠ 0 then 1 else if vb ≠ 0 then 0 else if fieldLe ha 8 8 < fieldLe hb 8 8 then 1 else 0
    if va ≠ 0 ∧ vb ≠ 0 then d.noSlot
    else
      let body := d.slotBody first (hdr first)
      let v1 := bodyVerdict (hdr first) body
      if v1 = 0 then (d.loadImage first (hdr first) body).startRecs
      else
        let d := d.showVerdict first v1
        let other := 1 - first
        if (if other = 0 then va else vb) ≠ 0 then d.noSlot
        else
          let body := d.slotBody other (hdr other)
          let v2 := bodyVerdict (hdr other) body
          if v2 = 0 then
            let d := (d.set .config 0 fCF_BOOT_FALLBACK 1).statBit .config 0 0
            (d.loadImage other (hdr other) body).startRecs
          else (d.showVerdict other v2).noSlot

/-- Controllers run, and the base mode becomes IDLE (Table 20.10 steps 6 and 7). Two channels that failed end boot in SAFE_HOLD (R314). -/
def Dev.bootEnd (d : Dev) : Dev :=
  let failed := (List.range 10).filter fun c => d.get .mem c fMEM_STAT_STATE = 5
  let d := (d.set .memctl 0 fMC_STAT_MAP_GIB d.mapGib).set .memctl 0 fMC_STAT_WORKING 10
  let d := d.modBoot fun b => { b with phase := .running, hostReset := false }
  let d := match failed with
    | c :: _ => d.giveUp c 4 2
    | [] => d
  let d := (List.range 8).foldl (fun (d : Dev) c => d.startCtl c) d
  let d := d.setBase 1
  if 2 ≤ failed.length then (d.set .memctl 0 fMC_STAT_WORKING (10 - failed.length)).enterHold 3 else d.refreshMode

/-- A channel's training ends. -/
def Dev.trained (d : Dev) (c : Nat) (ok : Bool) (ms : Nat) : Dev :=
  if d.get .mem c fMEM_STAT_STATE ≠ 1 then d
  else
    let d := d.set .mem c fMEM_TRAIN_MS ms
    let boot := d.core.boot.phase = .training
    let d := d.set .mem c fMEM_STAT_STATE (if ok then 2 else if boot then 5 else 2)
    if boot then (if (List.range 10).any fun k => d.get .mem k fMEM_STAT_STATE = 1 then d else d.bootEnd)
    else if ok then d else d.loseChannel c

/-! ## Rails and pins (R378, R379, R382) -/

/-- Rails that the board's standby supply feeds. -/
def standbyRail (r : Nat) : Bool := r = 2 ∨ r = 7

/-- A rail whose enable is driven. -/
def Sequencer.driven (q : Sequencer) (r : Nat) : Bool :=
  standbyRail r || (if r < 2 then q.en0 else if r < 6 then q.en1 else q.en2)

/-- The enables follow the rails (Table 20.5). -/
def Sequencer.advance (q : Sequencer) : Sequencer :=
  let up := fun (l : List Nat) => l.all fun r => q.good.contains r
  if q.waiting ∨ q.lehrFail then q
  else
    let q := { q with en0 := q.en0 || up [2, 7] }
    let q := { q with en1 := q.en1 || (q.en0 && up [0, 1]) }
    { q with en2 := q.en2 || (q.en1 && up [3, 4, 5]) }

/-- A rail rises above its warning level; with the last, the spine is switched on and boot begins. -/
def Dev.railGood (d : Dev) (r : Nat) : Dev :=
  let q := d.core.lehr.seq
  if d.core.boot.phase ≠ .sequencing ∨ !q.driven r ∨ q.lehrFail then d
  else
    let d := d.modSeq fun q => ({ q with good := if q.good.contains r then q.good else q.good ++ [r] }).advance
    let q := d.core.lehr.seq
    if q.en2 ∧ q.good.contains 6 then
      let d := d.refBack
      if d.core.lehr.pinLow then d.modBoot fun b => { b with phase := .inReset } else d.bootStart false
    else d

/-- Every enable drops. -/
def Sequencer.drop (q : Sequencer) : Sequencer :=
  { q with en0 := false, en1 := false, en2 := false, good := q.good.filter standbyRail, waiting := true }

/-- A rail is not above its warning level 5 ms after its enable. -/
def Dev.railTimeout (d : Dev) (r : Nat) : Dev :=
  let q := d.core.lehr.seq
  if d.core.boot.phase ≠ .sequencing ∨ !q.driven r ∨ standbyRail r ∨ q.good.contains r then d
  else (d.modSeq fun q => { q.drop with fails := q.fails + 1 }).statBit .lehrSupply 0 2

/-- 100 ms after a failure: another attempt, or after three LEHR_FAIL_N. -/
def Dev.seqRetry (d : Dev) : Dev :=
  if !d.core.lehr.seq.waiting ∨ d.core.boot.phase ≠ .sequencing then d
  else if 3 ≤ d.core.lehr.seq.fails then
    (d.modSeq fun q => { q with lehrFail := true, waiting := false }).modBoot fun b => { b with phase := .railFail }
  else d.modSeq fun q => ({ q with waiting := false }).advance

/-- A rail other than VDD_AO falls below its reset level: a supply reset; the enables drop, and the sequence starts again. -/
def Dev.supplyFails (d : Dev) (r : Nat) : Dev :=
  if r = 2 ∨ d.core.boot.phase = .railFail ∨ !d.core.lehr.seq.good.contains r then d
  else
    let good := d.core.lehr.seq.good.filter fun k => standbyRail k && decide (k ≠ r)
    let d := d.deviceReset .supply
    d.modSeq fun q => { q with good := good, waiting := true }

/-- A power-on reset: the straps are read. -/
def Dev.powerOn (d : Dev) (id szM1 : Nat) : Dev :=
  let d := d.deviceReset .powerOn
  let d : Dev := { d with core := { d.core with jtag := Jtag.rest } }
  d.modLehr fun l => { l with gangId := id, gangSzM1 := szM1 }

/-- SYS_RESET_N is held low. -/
def Dev.pinLow (d : Dev) : Dev :=
  let phase := d.core.boot.phase
  if phase = .sequencing ∨ phase = .railFail then d.modLehr fun l => { l with pinLow := true }
  else
    let d := d.deviceReset .pin
    (d.modLehr fun l => { l with pinLow := true }).modBoot fun b => { b with phase := .inReset }

/-- SYS_RESET_N rises: the pins return, and boot begins from the release. -/
def Dev.pinRelease (d : Dev) : Dev :=
  let d := (d.modLehr fun l => { l with pinLow := false }).jtagRelease
  if d.core.boot.phase = .inReset then d.bootStart false else d

/-- A second dip in BOOT starts boot again (R381): registers as after a pin reset, configuration writes frozen while the dip holds. -/
def Dev.rebootOnDip (d : Dev) : Dev :=
  let host := d.core.boot.hostReset
  let dips := d.core.lehr.dips
  let rails := (List.range 8).map fun r => (r, d.reg (fieldAddr .lehrSupply 0 fLS_RAIL_WARN r))
  let d := (d.storedRegs.eraseDups).foldl (fun (d : Dev) a => d.resetReg (if host then .host else .pin) a) d
  let d : Dev := { d with core := d.core.afterReset (if host then .host else .pin), dram := Overlay.clear memDefault d.dram }
  let d := (d.modLehr fun l => { l with dips := dips }).set .lehrSupply 0 fLS_LAST_DIP_FROZEN 1
  let d := rails.foldl (fun (d : Dev) p => d.setReg (fieldAddr .lehrSupply 0 fLS_RAIL_WARN p.1) p.2) d
  d.bootStart host

/-- A dip (R380, R381). -/
def Dev.railDips (d : Dev) (r mv : Nat) : Dev :=
  let x := d.dip r mv
  if x.2 then x.1.rebootOnDip else x.1

/-! ## A domain's return (R373, R376, R384) -/

/-- A domain is back on. From off its block is reset and takes its records from the image, its key or firmware with them; from retention
a reset that waited begins (Table 20.11 case 4). -/
def Dev.domainBack (d : Dev) (n : Nat) : Dev :=
  match d.core.lehr.exiting.find? fun m => m.dom = n with
  | none => d
  | some m =>
    let d := d.modLehr fun l => { l with exiting := l.exiting.filter fun x => x.dom ≠ n }
    let d := (d.set .lehrPower 0 fLP_DOM_STATE 0 n).refreshAsleep
    match domPage n with
    | none => d
    | some p =>
      let b := blockIdx p
      if m.fromOff then
        let d := (d.startReset b false).applyPage p
        if 63 ≤ b ∧ b < 95 then d.keyIn (b - 63) else if 10 ≤ b ∧ b < 18 then d.firmwareIn (b - 10) d.core.boot.fwVer else d
      else
        let d := if d.hget p fPG_CTL_RESET_REQ = 1 ∧ !d.resetting b then d.startReset b true else d
        if n = 0xC0 ∧ !d.resetting b then d.evtResume else d

/-! ## The host port's link (R19, R20, R382) -/

/-- The link has trained. -/
def Dev.hostUp (d : Dev) (speed width : Nat) : Dev :=
  if speed = 0 ∨ 6 < speed then d else (d.set .hostport 0 fHP_LINK_SPEED speed).set .hostport 0 fHP_LINK_WIDTH width

/-- PERST#, a hot reset or link down: the link's state is reset. -/
def Dev.hostDown (d : Dev) : Dev :=
  let d := ((d.set .hostport 0 fHP_LINK_SPEED 0).set .hostport 0 fHP_LINK_WIDTH 0).set .hostport 0 fHP_LINK_BME 0
  d.modHost fun h => { h with d3hot := false }

end Sys2Proof.Machine
end

