-- ==== Sys2Proof/Machine/ScanOps.lean ====
section
/-! DEFINITION. The event controller and the firmware's scan (R236, R237, R241 to R245), and how a command ends. -/
namespace Sys2Proof.Machine

/-! ## The scan order (R244, Table 12.8) -/

/-- The rank of a source. -/
def scanRank (n : Nat) : Nat :=
  if n < 16 then 8
  else if n < 48 then 5
  else if n < 64 then 4
  else if n < 88 then 6
  else if n < 104 then 2
  else if n < 112 then 7
  else if n = 112 ∨ n = 113 then 4
  else if n = 114 ∨ n = 115 then 6
  else if n = 116 ∨ n = 117 then 1
  else if n = 118 then 7
  else if n < 128 then 3
  else 7

/-- A mailbox source that has been pending for 1 ms stands ahead of ranks 3 to 7. -/
def Dev.rankNow (d : Dev) (n : Nat) : Nat :=
  if n < 16 ∧ (d.evt n).since + 1000000 ≤ d.free then 2 else scanRank n

/-- The place of a source within its rank: mailboxes rotate, starting after the one served last. -/
def rankPlace (last n : Nat) : Nat := if n < 16 then 1000 + (n + 15 - last) % 16 else n

/-- The source taken: the lowest rank, then the first place. -/
def Dev.firstSource (d : Dev) (c : Nat) : Option Nat :=
  let last := (d.gaf c).lastMbx
  let key := fun (n : Nat) => d.rankNow n * 4096 + rankPlace last n
  (d.pendView c).foldl (fun (b : Option Nat) n => match b with
    | none => some n
    | some m => if key n < key m then some n else some m) none

/-- A handler's cause is cleared when it takes an internal source, except where another command clears it: the mode request and
the doorbells, whose work is taken by MODE_REQUEST's decision and ADMISSION_FORWARD. -/
def keepsLevel (n : Nat) : Bool := n = 119 || (120 ≤ n && n < 128)

/-- The target takes a source: its count is read and cleared; an internal source's level falls. -/
def Dev.takeSource (d : Dev) (n : Nat) : Dev :=
  let d := d.set .event 0 fEVT_SRC_COUNT 0 n
  if evtExternal n || keepsLevel n then d else d.releaseEvt n

/-- What the firmware does for the streams and parts it serves. -/
def Dev.serveAll (d : Dev) (c : Nat) : Dev :=
  let mine := (d.liveSlots.filter fun p => decide (p.1 < 1024 ∧ p.2.ctl = c)).map (·.1)
  let d := mine.foldl (fun (d : Dev) s => d.serveStream s) d
  let d := (List.range 8).foldl (fun (d : Dev) m => d.pumpReads m) d
  let d := if c = 0 then (d.ptpServe 0).ptpServe 1 else d
  let d := (d.proxyEnds).takeEnd.mountWaiting
  (d.mountedPorts.foldl (fun (d : Dev) m => d.pumpVol m) d).peerPumps

/-- Source 117: every controller flushes its streams' rings and commits a journal slot with a SUPPLY entry (R380). -/
def Dev.supplyEntry (d : Dev) : Dev :=
  d.mountedPorts.foldl (fun (d : Dev) m =>
    let d := d.flushPort m
    let d := d.modVol m fun v => { v with waiting := v.waiting ++ [entSupply d.now] }
    d.commitVol m) d

/-- The handler of a source. -/
def Dev.handle (d : Dev) (n : Nat) : Dev :=
  if n = 117 then d.supplyEntry
  else if n = 119 then d.decideMode
  else d

/-- A retarget away from a controller takes effect at its boundary (R242, Table 12.9 case 6). -/
def Dev.moveViews (d : Dev) (c : Nat) : Dev :=
  ((d.core.evts.filter fun p => p.2.oldTarget = some c).map (·.1)).foldl (fun (d : Dev) n =>
    let d := d.setEvt n { d.evt n with oldTarget := none }
    if d.get .event 0 fEVT_SRC_PEND n = 1 then d.evtTargetSleep n else d) d

/-- A controller reaches a scan boundary (R242 to R244): the handler before it has ended, views move, and the first pending source
is taken and handled. -/
def Dev.scanBoundary (d : Dev) (c : Nat) : Dev :=
  if !d.gafRuns c ∨ d.domState (0x89 + c) ≠ 0 then d
  else
    let g := d.gaf c
    let d := (d.wrap .gaffer c fGF_HEARTBEAT_SCANS).raiseMax .gaffer c fGF_SCAN_MAX_US ((d.free - g.lastScan) / 1000)
    let d := (d.setGaf c { g with lastScan := d.free, busy := false }).moveViews c
    match d.firstSource c with
    | none => d.serveAll c
    | some n =>
      let g := d.gaf c
      let d := d.setGaf c { g with busy := true, lastMbx := if n < 16 then n else g.lastMbx }
      ((d.takeSource n).handle n).serveAll c

/-! ## Halts (R237) -/

/-- Firmware halts its controller; its streams move when source GAFFER enters fault state (R238). -/
def Dev.firmwareHalt (d : Dev) (c : Nat) : Dev := d.haltCtl c

/-- A controller whose heartbeat has not advanced for 10 ms, with a source pending or a handler running. -/
def Dev.heartbeatLost (d : Dev) (c : Nat) : Dev :=
  let g := d.gaf c
  if d.gafRuns c ∧ d.domState (0x89 + c) = 0 ∧ (g.busy || !(d.pendView c).isEmpty) ∧ g.lastScan + 10000000 ≤ d.free then d.haltCtl c else d

/-! ## Outside lines (R241, Table 12.7) -/

/-- A source asserts or releases; an external line comes here once it has passed its filter. A reserved source is never pending. -/
def Dev.eventLine (d : Dev) (n : Nat) (level : Bool) : Dev :=
  if 136 ≤ n ∨ (evtExternal n ∧ d.domState 0xC0 ≠ 0 ∧ d.get .event 0 fEVT_SRC_WATCH n = 0) then d
  else if level then d.assertEvt n
  else d.releaseEvt n

/-! ## The end of a command -/

/-- Cycles of the collector that one command may bring about before the next takes up what is left. -/
def settleFuel : Nat := 64

/-- The state after a command that was not refused: the collector has taken its events, and its writes are applied. -/
def State.conclude (s : State) (d : Dev) : Host.Outcome State Fault Refusal := .next (s.commit (d.settle settleFuel))

/-- Run a command's effect. -/
def State.run (s : State) (f : Dev → Dev) : Host.Outcome State Fault Refusal := s.conclude (f s.begin)

end Sys2Proof.Machine
end

