-- ==== Sys2Proof/Machine/HostOps.lean ====
section
/-! DEFINITION. BAR2 (R40, R311), triplicated fields (R29), latching reads, and what a DMA descriptor transfers (R253, R210, R286). -/
namespace Sys2Proof.Machine

/-! ## BAR2 (R40) -/

/-- The DRAM address of a BAR2 offset. -/
def Dev.bar2Addr (d : Dev) (off : Nat) : Nat := d.get .hostport 0 fHP_BAR2_CTL_WINDOW * 2 ^ 36 + off

/-- A host write through BAR2: discarded and counted while WR_EN is 0, or where no DRAM backs it. A poisoned burst that it does not cover
whole stays poisoned (R311). -/
def Dev.bar2Write (d : Dev) (off : Nat) (data : List Byte) : Dev :=
  if data.isEmpty ∨ 2 ^ 36 < off + data.length ∨ !d.barLive then d
  else
    let a := d.bar2Addr off
    if d.get .hostport 0 fHP_BAR2_CTL_WR_EN = 0 then d.drop
    else if d.mapped ≤ a then d.drop
    else
      let d' := d.writeDram a (data.take (d.mapped - a))
      if d.mapped < a + data.length then d'.drop else d'

/-- One dword of a BAR2 read. -/
def Dev.bar2Dword (d : Dev) (a : Nat) : Word :=
  if d.mapped ≤ a then 0xFFFFFFFF#32 else BitVec.ofNat 32 (ofLe (d.readDram a 4))

/-- The bursts that a range of bytes touches. -/
def burstsOf (a n : Nat) : List Nat := (List.range ((a + n + 63) / 64 - a / 64)).map (a / 64 + ·)

/-- A host read through BAR2 of `ndw` dwords: each poisoned burst it touches is an uncorrectable read by the host port, and the data
returns with EP set (Table 16.2). -/
def Dev.bar2Read (d : Dev) (off ndw : Nat) : Dev :=
  let off := off / 4 * 4
  if ndw = 0 ∨ 2 ^ 36 < off + 4 * ndw ∨ !d.barLive then d
  else
    let a := d.bar2Addr off
    let bad := (burstsOf a (4 * ndw)).filter fun b => decide (64 * b < d.mapped) && d.core.mem.poisoned b
    let ws := (List.range ndw).map fun i => d.bar2Dword (a + 4 * i)
    let d := bad.foldl (fun (d : Dev) b => d.uncorrectable (64 * b) 0x000 0) d
    d.modHost fun h => { h with rdata := ws, rPoison := !bad.isEmpty, rUr := false }

/-! ## The host port's state (R20) -/

/-- Bus Master Enable and the power state change; what is held waits on. -/
def Dev.busMasterChange (d : Dev) (bme d3hot : Bool) : Dev :=
  (d.set .hostport 0 fHP_LINK_BME (if bme then 1 else 0)).modHost fun h => { h with d3hot := d3hot }

/-! ## Triplicated fields (R29) -/

/-- The bitwise majority of three copies. -/
def majority (a b c : Word) : Word := (a &&& b) ||| (a &&& c) ||| (b &&& c)

/-- The copies of a page's PG_CTL disagree: the majority goes back to all three, VOTE_CORR counts, and VOTE is raised. -/
def Dev.vote (d : Dev) (page : Nat) (c0 c1 c2 : Word) : Dev :=
  if (c0 = c1 ∧ c1 = c2) ∨ 183 ≤ blockIdx page ∨ d.domState (pageDom page) = 2 then d
  else
    let d := d.setReg (hdrAddr page 0x008) (majority c0 c1 c2)
    (d.hbump page fPG_EVT_VOTE_CORR).raise (2 * blockIdx page)

/-! ## Reads that change state -/

/-- A read of a register of a page that reaches it does `f`; a page that is off or gated answers 0 and keeps its state. -/
def Dev.readThen (d : Dev) (a : Nat) (f : Dev → Dev) : Dev :=
  if (d.bootGate ∧ !bootPage (a / 4096)) ∨ d.domState (pageDom (a / 4096)) = 2 then d.answer [0]
  else
    let d := d.touchPage (a / 4096)
    (f d).answer [d.readReg a]

/-- A read of TM_NOW_LO latches TM_NOW_HI and TM_NOW_FRAC from the same tick (R322). -/
def Dev.readNow (d : Dev) : Dev :=
  d.readThen 0x8040 fun d =>
    (d.set .time 0 fTM_NOW_HI_NS_HI (d.now / 2 ^ 32 % 2 ^ 32)).set .time 0 fTM_NOW_FRAC_FRAC (d.reading % 2 ^ 32)

/-- A read of TM_FREE_LO latches TM_FREE_HI (R321). -/
def Dev.readFree (d : Dev) : Dev := d.readThen 0x804C fun d => d.set .time 0 fTM_FREE_HI_FREE_HI (d.free / 2 ^ 32)

/-- A read of RC_LOG0 returns the oldest entry's first word, latches its second word and removes it (R203). -/
def Dev.readLog (d : Dev) : Dev :=
  d.readThen 0x1C04C fun d => match d.core.rcLog with
    | [] => d
    | e :: es => { (d.set .marver0 0 fRC_LOG1_PICTURE (fRC_LOG1_PICTURE.ext e.2)) with core := { d.core with rcLog := es } }

/-! ## DMA descriptors (R253) -/

/-- The reading stream that a host ring serves: as its output ring, or as its source ring. -/
def Dev.ringStream (d : Dev) (n : Nat) (source : Bool) : Option (Nat × DecStream) :=
  d.core.decs.find? fun p => (d.slot p.1).state.live &&
    (if source then decide (p.2.par.source = 2 ∧ p.2.par.srcRing = n)
     else decide (p.2.par.outRing = n) && (p.2.par.offload || decide (p.2.par.dest / 4 % 2 = 1)))

/-- A reading stream has a record or a unit to offer. -/
def DecStream.offers (x : DecStream) : Bool :=
  if x.par.offload then !x.units.isEmpty else x.outs.any fun o => o.released && o.host

/-- What a partner sent for a host ring (R351), the oldest first. -/
def Dev.inboxFor (d : Dev) (n : Nat) : Option (Nat × List Byte) :=
  (List.range 3).findSome? fun p => ((d.peer p).inbox.find? fun i => i.1 = n).map fun i => (p, i.2)

/-- The oldest entry for a ring leaves a list. -/
def dropFirst (n : Nat) : List (Nat × List Byte) → List (Nat × List Byte)
  | [] => []
  | i :: is => if i.1 = n then is else i :: dropFirst n is

/-- OP 1: an output buffer takes the record or the units offered, or is too small for them (R210, R286). -/
def Dev.descOutput (d : Dev) (n : Nat) (ctrl : Word) (len host : Nat) : Dev :=
  match d.ringStream n false with
  | some (s, x) =>
    if !x.offers then d
    else match d.offer s len with
      | some b => ((d.writeHost host b).completeDesc n ctrl 0 b.length).offered s b.length
      | none => d.completeDesc n ctrl 1 0
  | none => match d.inboxFor n with
    | none => d
    | some (p, b) =>
      if len < b.length then d.completeDesc n ctrl 1 0
      else
        let d := (d.writeHost host b).completeDesc n ctrl 0 b.length
        d.setPeer p { d.peer p with inbox := dropFirst n (d.peer p).inbox }

/-- The transfer of a descriptor that meets no error: `data` is what the engine read of host memory. An OP that Table 13.3 does not define
completes with a STATUS that is a free value (DESIGN CHOICE, log entry 42). -/
def Dev.descTransfer (d : Dev) (n op : Nat) (ctrl : Word) (len host dev : Nat) (data : List Byte) : Dev :=
  match op with
  | 1 => d.descOutput n ctrl len host
  | 2 => match d.ringStream n true with
    | some (s, x) =>
      if data.length ≠ len ∨ !x.wants then d else (d.completeDesc n ctrl 0 len).decBytes s data
    | none => d
  | 3 =>
    let bad := (burstsOf dev len).filter d.core.mem.poisoned
    if bad.isEmpty then (d.writeHost host (d.readDram dev len)).completeDesc n ctrl 0 len
    else (bad.foldl (fun (d : Dev) b => d.uncorrectable (64 * b) 0x700 n) d)
  | 4 => if data.length ≠ len then d else (d.writeDram dev data).completeDesc n ctrl 0 len
  | _ => d.completeDesc n ctrl ((Config.sampled n d.free).toNat % 128) 0

/-- The descriptor at the HEAD of a host ring is carried out (R253, R254): `desc` is its eight words as the engine read them; a `status` of
2, 3 or 4 is an error that the transfer met after `data`. On a ring that is disabled the later descriptors complete with STATUS 4. -/
def Dev.descDone (d : Dev) (n : Nat) (desc : List Word) (status : Nat) (data : List Byte) : Dev :=
  let r := d.ring n
  if r.occ = 0 ∨ !r.hostMem ∨ desc.length ≠ 8 ∨ status = 1 ∨ d.domState 0xC3 = 2 then d
  else
    let w := fun (i : Nat) => (desc.getD i 0).toNat
    let ctrl := desc.getD 0 0
    let op := w 0 / 256 % 256
    let d' := if status = 0 then d.descTransfer n op ctrl (w 1) (w 2 + w 3 * 2 ^ 32) (w 4 + w 5 * 2 ^ 32) data
      else
        let d := d.completeDesc n ctrl status (min data.length (w 1))
        match op, d.ringStream n true with
        | 2, some (s, _) => d.sourceFailed s status
        | _, _ => d
    if r.en then d' else d'.abortDescs n

end Sys2Proof.Machine
end

