-- ==== Sys2Proof/Machine/CodingExec.lean ====
section
/-! DEFINITION. What the happenings of ingest, coding and rate control do (chapters 05 to 09 and 12). -/
namespace Sys2Proof.Machine

/-- HOLD_US has passed since a packet of a later row or picture (R99): rows whose moment has come close. -/
def execHoldExpiry (slot : Fin 1024) (s : State) : Host.Outcome State Fault Refusal :=
  s.run fun d => d.closeRows slot.val

/-- The deadline of a picture in flight is reached (R99): rows whose moment has come close. -/
def execPictureDeadline (slot : Fin 1024) (s : State) : Host.Outcome State Fault Refusal :=
  s.run fun d => d.closeRows slot.val

/-- A picture is overdue (R102). -/
def execMissingPicture (slot : Fin 1024) (s : State) : Host.Outcome State Fault Refusal :=
  s.run fun d => d.declareMissing slot.val

/-- Marver grants the next tile row its budget (R195). -/
def execRowGrant (slot : Fin 1024) (s : State) : Host.Outcome State Fault Refusal :=
  s.run fun d => d.grantRow slot.val

/-- The ready tiles of a cluster are given to its free pipelines (R54). -/
def execTileDispatch (cluster : Fin 16) (s : State) : Host.Outcome State Fault Refusal :=
  s.run fun d => d.dispatch cluster.val

/-- Every tile of a row has coded its first `k` strips (R198). -/
def execStripCheckpoint (slot : Fin 1024) (row k : Nat) (s : State) : Host.Outcome State Fault Refusal :=
  s.run fun d => d.checkpoint slot.val row k

/-- A pipeline completes a tile; `selfCheckOk` false injects a failing bound check (R97, R127). A spare may give its role back, and the tile's digest goes to the rings of verify streams (R214). -/
def execTileCommit (pipe : Fin 68) (selfCheckOk : Bool) (s : State) : Host.Outcome State Fault Refusal :=
  s.run fun d =>
    let job := (d.enc pipe.val).job
    let d := (d.tileCommit pipe.val selfCheckOk).refreshMode
    match job with
    | some (s, pic, r, _) => d.digestRow s pic r
    | none => d

/-- The next complete Tile Row unit is handed to its ring (R167, R188, R201); the digests of an absent or exhausted row are as it is emitted (R214). -/
def execTileRowEmit (slot : Fin 1024) (s : State) : Host.Outcome State Fault Refusal :=
  s.run fun d =>
    let d := match (d.rec? slot.val).bind (·.nextRow) with
      | some (q, r) => d.digestRow slot.val q.pic r
      | none => d
    d.rowEmit slot.val

/-- Every receiver model drains (R189). -/
def execMrmDrainTick (s : State) : Host.Outcome State Fault Refusal :=
  s.run fun d => d.drainTick

/-- Every quadrant's restart credit changes (R199). -/
def execRestartCreditTick (s : State) : Host.Outcome State Fault Refusal :=
  s.run fun d => d.creditStep

/-- A machine check of an encode or a decode pipeline (R207, R234). -/
def execMachineCheck (decode : Bool) (pipe : Fin 68) (uaddr : BitVec 13) (groups : BitVec 8) (s : State) :
    Host.Outcome State Fault Refusal :=
  s.run fun d =>
    if decode then (if pipe.val < 20 then d.decMachineCheck pipe.val uaddr.toNat groups.toNat else d)
    else d.encMachineCheck pipe.val uaddr.toNat groups.toNat

/-- A control order reaches a pipeline and is latched (R233). -/
def execPipelineOrder (decode : Bool) (pipe : Fin 68) (order : Fin 5) (s : State) : Host.Outcome State Fault Refusal :=
  s.run fun d =>
    if decode then (if pipe.val < 20 then d.setDecp pipe.val (latchOrder (d.decp pipe.val) order.val) else d)
    else d.setEnc pipe.val (latchOrder (d.enc pipe.val) order.val)

/-- A pipeline reaches a commit point `gap` microcycles after the last (R233): MC_GAP keeps the most seen, and latched orders are taken. -/
def execCommitPoint (decode : Bool) (pipe : Fin 68) (gap : BitVec 12) (s : State) : Host.Outcome State Fault Refusal :=
  s.run fun d =>
    let g := min 2048 gap.toNat
    if decode then
      if pipe.val < 20 then
        let d := d.raiseMax .dec pipe.val fMC_GAP_MAX g
        d.setDecp pipe.val { d.decp pipe.val with orders := [] }
      else d
    else (d.raiseMax .enc pipe.val fMC_GAP_MAX g).takeOrders pipe.val

end Sys2Proof.Machine
end

