-- ==== Sys2Proof/Machine/DecodeExec.lean ====
section
/-! DEFINITION. What the happenings of decode and proxy streams do (chapters 10 and 11). -/
namespace Sys2Proof.Machine

/-- A decode pipeline ends a tile (R207). -/
def execDecodeTileDone (pipe : Fin 20) (s : State) : Host.Outcome State Fault Refusal :=
  s.run fun d => d.decTileDone pipe.val

/-- A picture's rows, trailer and reference update are complete (R208). -/
def execDecodePictureComplete (slot : Fin 256) (s : State) : Host.Outcome State Fault Refusal :=
  s.run fun d => d.decPictureDone (1024 + slot.val)

/-- A paced picture's release time arrives (R208). -/
def execPacedRelease (slot : Fin 256) (s : State) : Host.Outcome State Fault Refusal :=
  s.run fun d => d.pacedRelease (1024 + slot.val)

/-- A proxy slice is coded and made into packets (R224). -/
def execProxySliceComplete (slot : Fin 256) (s : State) : Host.Outcome State Fault Refusal :=
  s.run fun d => d.proxySlice (1280 + slot.val)

/-- A source picture is available to a proxy stream (R226). -/
def execProxyPictureStart (slot : Fin 256) (s : State) : Host.Outcome State Fault Refusal :=
  s.run fun d => d.proxyPicture (1280 + slot.val)

/-- An RTCP sender report is due (R224). -/
def execRtcpSenderReport (slot : Fin 256) (s : State) : Host.Outcome State Fault Refusal :=
  s.run fun d => d.rtcpReport (1280 + slot.val)

/-- A queued packet has left its port (R227). -/
def execProxyPacketLeavesPort (slot : Fin 256) (s : State) : Host.Outcome State Fault Refusal :=
  s.run fun d => d.proxyLeaves (1280 + slot.val)

end Sys2Proof.Machine
end

