-- ==== Sys2Proof/Machine/EventExec.lean ====
section
/-! DEFINITION. What the happenings of the Gaffer controllers, the event controller and the fabric do (chapter 12, R355). -/
namespace Sys2Proof.Machine

/-- A controller reaches a scan boundary (R242 to R244). -/
def execScanBoundary (ctl : Fin 8) (s : State) : Host.Outcome State Fault Refusal :=
  s.run fun d => d.scanBoundary ctl.val

/-- Firmware halts its controller (R237). -/
def execGafferHalt (ctl : Fin 8) (s : State) : Host.Outcome State Fault Refusal :=
  s.run fun d => d.firmwareHalt ctl.val

/-- A controller's heartbeat has stood still for 10 ms (R237). -/
def execGafferHeartbeatTimeout (ctl : Fin 8) (s : State) : Host.Outcome State Fault Refusal :=
  s.run fun d => d.heartbeatLost ctl.val

/-- A source inside the device asserts or releases (R241). -/
def execEventAssert (src : Fin 256) (level : Bool) (s : State) : Host.Outcome State Fault Refusal :=
  s.run fun d => if evtExternal src.val then d else d.eventLine src.val level

/-- An external line has held its new level for FILT cycles (R241). -/
def execExternalFilterPass (src : Fin 256) (level : Bool) (s : State) : Host.Outcome State Fault Refusal :=
  s.run fun d => if evtExternal src.val then d.eventLine src.val level else d

/-- A guarded pair on EVT_SRCn (R242). -/
def execEvtSrcWrite (mst : Fin 4096) (src : Fin 256) (v : Word) (s : State) : Host.Outcome State Fault Refusal :=
  s.run fun d => d.busPair mst.val (fieldAddr .event 0 fEVT_SRC_TARGET src.val) v

/-- A handshake of a block is not completed within 10 µs: FABRIC (R355). -/
def execFabricHandshakeTimeout (block : Fin 183) (s : State) : Host.Outcome State Fault Refusal :=
  s.run fun d => d.raise (1808 + block.val)

end Sys2Proof.Machine
end

