-- ==== Sys2Proof/Machine/FaultExec.lean ====
section
/-! DEFINITION. What the happenings of the fault collector do (chapter 19). -/
namespace Sys2Proof.Machine

/-- A source raises an event (R359). PATH raises one by its rails, and a source whose cause is a level holds it from here on. -/
def execFaultSourceEvent (src : Fin 2053) (mst : Fin 4096) (access : Fin 16) (detail : BitVec 16) (addr : Nat) (s : State) :
    Host.Outcome State Fault Refusal :=
  s.run fun d =>
    if src.val < 4096 ∧ (srcInfo src.val).isNone then d
    else
      let d := if ((srcInfo src.val).map (·.level)).getD false then d.setFrec src.val { d.frec src.val with level := true } else d
      d.raise src.val mst.val access.val detail.toNat addr

/-- The two rails of a source are equal for two cycles (R354). -/
def execPathFault (src : Fin 2053) (s : State) : Host.Outcome State Fault Refusal :=
  s.run fun d => if (srcInfo src.val).isNone then d else d.raisePath src.val

/-- The quarantine windows whose 50 µs have passed close (R364). -/
def execQuarantineClose (s : State) : Host.Outcome State Fault Refusal :=
  s.run fun d => d.windowClose

/-- A write to FC_CLR with ALL 0 (R365). -/
def execFcClr (mst : Fin 4096) (src : Fin 4096) (s : State) : Host.Outcome State Fault Refusal :=
  s.run fun d => d.busWrite mst.val 0x4040 (BitVec.ofNat 32 src.val)

/-- A write to FC_CLR with ALL 1 (R365). -/
def execFcClrAll (mst : Fin 4096) (s : State) : Host.Outcome State Fault Refusal :=
  s.run fun d => d.busWrite mst.val 0x4040 0x80000000#32

/-- A guarded pair on FC_RESTORE (R366). -/
def execFcRestore (mst : Fin 4096) (v : Word) (s : State) : Host.Outcome State Fault Refusal :=
  s.run fun d => d.busPair mst.val (fieldAddr .fault3 0 fFC_RESTORE_REQ 0) v

end Sys2Proof.Machine
end

