-- ==== Sys2Proof/Machine/HostExec.lean ====
section
/-! DEFINITION. What the commands of register space and the host port do (chapter 02). -/
namespace Sys2Proof.Machine

/-- A write request to BAR0 by any master (R21, R22, R28, R30 to R34). Armature does not forward one of class 0xF; the path fault that its island
raises instead is a PATH_FAULT (R15; DEDUCED, log entry 9). -/
def execRegisterWrite (mst : Fin 4096) (addr : Nat) (dws : List (Word × BitVec 4)) (s : State) : Host.Outcome State Fault Refusal :=
  s.run fun d => if mst.val / 256 = 0xF then d else d.writeRequest mst.val addr dws

/-- The 16th transaction to the page has passed without the complement (R31 case 4): one guard miss. -/
def execGuardPairExpiry (page : Fin 512) (s : State) : Host.Outcome State Fault Refusal :=
  s.run fun d => d.dropPend page.val

/-- A write to PG_STAT_CLR (R32). -/
def execPgStatClr (mst : Fin 4096) (page : Fin 512) (seq : BitVec 8) (mask : BitVec 24) (s : State) : Host.Outcome State Fault Refusal :=
  s.run fun d => d.busWrite mst.val (page.val * 4096 + 0x010) (seq ++ mask)

/-- RESET_REQ is written 1, the other bits of PG_CTL as they stand (R27). -/
def execResetReq (mst : Fin 4096) (page : Fin 512) (s : State) : Host.Outcome State Fault Refusal :=
  s.run fun d => d.busWrite mst.val (page.val * 4096 + 0x008) (d.reg (hdrAddr page.val 0x008) ||| 0x4#32)

/-- QUIESCE is written 1, ENABLE as it stands (R24). -/
def execQuiesce (mst : Fin 4096) (page : Fin 512) (s : State) : Host.Outcome State Fault Refusal :=
  s.run fun d =>
    let v := d.reg (hdrAddr page.val 0x008) &&& 0x1#32
    d.busWrite mst.val (page.val * 4096 + 0x008) (v ||| 0x2#32)

/-- ENABLE is written, QUIESCE as it stands (R24). -/
def execEnable (mst : Fin 4096) (page : Fin 512) (on : Bool) (s : State) : Host.Outcome State Fault Refusal :=
  s.run fun d =>
    let v := d.reg (hdrAddr page.val 0x008) &&& 0x2#32
    d.busWrite mst.val (page.val * 4096 + 0x008) (v ||| (if on then 1#32 else 0#32))

/-- A block reset completes (R27). -/
def execResetDone (page : Fin 512) (s : State) : Host.Outcome State Fault Refusal :=
  s.run fun d => d.endReset (blockIdx page.val)

/-- A write to PG_LOCK (R33). -/
def execPgLockWrite (mst : Fin 4096) (page : Fin 512) (v : Word) (s : State) : Host.Outcome State Fault Refusal :=
  s.run fun d => d.busWrite mst.val (page.val * 4096 + 0x020) v

/-- A write of REQ and IDLE_US of a domain in LP_DOMn, TWAKE as it stands (R374). -/
def execPowerRequest (mst : Fin 4096) (dom : Fin 202) (req : Fin 4) (idleUs : BitVec 16) (s : State) : Host.Outcome State Fault Refusal :=
  s.run fun d =>
    let v := fLP_DOM_REQ.ins (idleUs.setWidth 32) req.val
    d.busWrite mst.val (fieldAddr .lehrPower 0 fLP_DOM_REQ dom.val) (fLP_DOM_TWAKE.ins v (d.get .lehrPower 0 fLP_DOM_TWAKE dom.val))

/-- The copies of PG_CTL disagree (R29). -/
def execVote (page : Fin 512) (c0 c1 c2 : Word) (s : State) : Host.Outcome State Fault Refusal :=
  s.run fun d => d.vote page.val c0 c1 c2

/-- A host write through BAR2 (R40). -/
def execBar2Write (off : Nat) (data : List Byte) (s : State) : Host.Outcome State Fault Refusal :=
  s.run fun d => d.bar2Write off data

/-- A host read through BAR2 (R40, Table 16.2). -/
def execBar2Read (off : Nat) (ndw : Fin 17) (s : State) : Host.Outcome State Fault Refusal :=
  s.run fun d => d.bar2Read off ndw.val

/-- Bus Master Enable or the power state of the function changes (R20). -/
def execHostBusMasterChange (bme d3hot : Bool) (s : State) : Host.Outcome State Fault Refusal :=
  s.run fun d => d.busMasterChange bme d3hot

/-- PERST#, a hot reset or link down of the host port (R382). -/
def execHostPortLinkReset (s : State) : Host.Outcome State Fault Refusal :=
  s.run fun d => d.hostDown

/-- A write to MBXm_SQ_TAIL: the doorbell (R35 to R38). -/
def execMbxSqTail (m : Fin 16) (v : Word) (s : State) : Host.Outcome State Fault Refusal :=
  s.run fun d => d.busWrite 0x000 (0xC114 + 0x20 * m.val) v

/-- A write to MBXm_CQ_HEAD (R36, R38). -/
def execMbxCqHead (m : Fin 16) (v : Word) (s : State) : Host.Outcome State Fault Refusal :=
  s.run fun d => d.busWrite 0x000 (0xC118 + 0x20 * m.val) v

/-- A guarded pair on MBXm_CFG that sets EN (R38). -/
def execMbxEnable (m : Fin 16) (cfg : Word) (s : State) : Host.Outcome State Fault Refusal :=
  s.run fun d => d.busPair 0x000 (0xC110 + 0x20 * m.val) (cfg ||| 0x80000000#32)

/-- A guarded pair on MBXm_CFG that clears EN (R38). -/
def execMbxDisable (m : Fin 16) (cfg : Word) (s : State) : Host.Outcome State Fault Refusal :=
  s.run fun d => d.busPair 0x000 (0xC110 + 0x20 * m.val) (cfg &&& 0x7FFFFFFF#32)

/-- The serving controller fetches the next command of a mailbox; `entry` is what the read of host memory returned (R36). -/
def execCommandFetch (m : Fin 16) (entry : Option (List Word)) (s : State) : Host.Outcome State Fault Refusal :=
  s.run fun d => d.commandFetch m.val entry

/-- The completion entry of the oldest command that is done is written (R36). -/
def execCommandCompletion (m : Fin 16) (s : State) : Host.Outcome State Fault Refusal :=
  s.run fun d => d.commandCompletion m.val

/-- The status mirror is written (R39). -/
def execMirrorWrite (s : State) : Host.Outcome State Fault Refusal :=
  s.run fun d => d.mirrorWrite

/-- A guarded pair on DEV_MODE_REQ (R46). -/
def execModeRequest (mst : Fin 4096) (req : Word) (s : State) : Host.Outcome State Fault Refusal :=
  s.run fun d => d.busPair mst.val 0x4C req

/-- The host port link finishes training (R19, Table 2.11). -/
def execHostLinkUp (speed : Fin 8) (widthLog2 : Fin 4) (s : State) : Host.Outcome State Fault Refusal :=
  s.run fun d => d.hostUp speed.val widthLog2.val

end Sys2Proof.Machine
end

