-- ==== Sys2Proof/Machine/LinkExec.lean ====
section
/-! DEFINITION. What the happenings of the head links do (chapter 04). -/
namespace Sys2Proof.Machine

/-- A lane gains block lock (R65). -/
def execBlockLockGained (lane : Fin 1024) (s : State) : Host.Outcome State Fault Refusal :=
  s.run fun d => d.lockGained lane.val

/-- A lane loses block lock (R65). -/
def execBlockLockLost (lane : Fin 1024) (s : State) : Host.Outcome State Fault Refusal :=
  s.run fun d => d.lockLost lane.val

/-- An ALIGN block arrives on a lane; `badHeaders` is the number of invalid sync headers since the last one (R66, R67, R79). -/
def execAlign (lane : Fin 1024) (logical carry spares : BitVec 8) (count : BitVec 16) (badHeaders : Nat) (s : State) :
    Host.Outcome State Fault Refusal :=
  s.run fun d => d.alignBlock lane.val logical.toNat carry.toNat spares.toNat count.toNat badHeaders

/-- A PSTART block arrives (R98). -/
def execPstart (head : Fin 1024) (region : Fin 16) (picture : BitVec 24) (s : State) : Host.Outcome State Fault Refusal :=
  s.run fun d => d.recvPstart head.val region.val picture.toNat

/-- A SAMPLE packet arrives (R87). -/
def execSample (head : Fin 1024) (packet : List Byte) (s : State) : Host.Outcome State Fault Refusal :=
  s.run fun d => d.recvSample head.val packet

/-- A META packet arrives (R175). -/
def execMetaPacket (head : Fin 1024) (packet : List Byte) (s : State) : Host.Outcome State Fault Refusal :=
  s.run fun d => d.recvMeta head.val packet

/-- A MOTION packet arrives (R155). -/
def execMotion (head : Fin 1024) (packet : List Byte) (s : State) : Host.Outcome State Fault Refusal :=
  s.run fun d => d.recvMotion head.val packet

/-- A HELLO arrives (R74, R75). -/
def execHello (head : Fin 1024) (packet : List Byte) (s : State) : Host.Outcome State Fault Refusal :=
  s.run fun d => d.recvHello head.val packet

/-- A RESPONSE arrives (R76). -/
def execResponse (head : Fin 1024) (packet : List Byte) (s : State) : Host.Outcome State Fault Refusal :=
  s.run fun d => d.recvResponse head.val packet

/-- An ACK packet arrives (R72). -/
def execAck (head : Fin 1024) (packet : List Byte) (s : State) : Host.Outcome State Fault Refusal :=
  s.run fun d => d.recvAck head.val packet

/-- An ECHO packet arrives (R73). -/
def execEcho (head : Fin 1024) (packet : List Byte) (s : State) : Host.Outcome State Fault Refusal :=
  s.run fun d => d.recvEcho head.val packet

/-- A hostility interval of 1 ms ends (R82). -/
def execHostileIntervalEnd (s : State) : Host.Outcome State Fault Refusal :=
  s.run fun d => d.hostileEnd

/-- Police credits grow (R80). -/
def execPoliceCreditTick (s : State) : Host.Outcome State Fault Refusal :=
  s.run fun d => d.creditTick

/-- A REPLAY frame goes out (R77). -/
def execReplayFrame (head : Fin 1024) (s : State) : Host.Outcome State Fault Refusal :=
  s.run fun d => d.sendFrame head.val 1

/-- A LANE_MAP frame goes out (R79). -/
def execLaneMapFrame (head : Fin 1024) (s : State) : Host.Outcome State Fault Refusal :=
  s.run fun d => d.sendFrame head.val 2

/-- A TRIGGER frame goes out (R72). -/
def execTriggerFrame (head : Fin 1024) (s : State) : Host.Outcome State Fault Refusal :=
  s.run fun d => d.sendFrame head.val 3

/-- A TIME frame goes out (R72). -/
def execTimeFrame (head : Fin 1024) (s : State) : Host.Outcome State Fault Refusal :=
  s.run fun d => d.sendTime head.val

/-- A HOST_CMD frame goes out (R72). -/
def execHostCmdFrame (head : Fin 1024) (s : State) : Host.Outcome State Fault Refusal :=
  s.run fun d => d.sendFrame head.val 5

/-- A CHALLENGE frame goes out (R76). -/
def execChallengeFrame (head : Fin 1024) (s : State) : Host.Outcome State Fault Refusal :=
  s.run fun d => d.sendFrame head.val 6

/-- An ADMIT frame goes out (R73). -/
def execAdmitFrame (head : Fin 1024) (s : State) : Host.Outcome State Fault Refusal :=
  s.run fun d => d.sendFrame head.val 7

/-- A TRAIN frame goes out, and its ECHO is timed from here (R73). -/
def execTrainFrame (head : Fin 1024) (s : State) : Host.Outcome State Fault Refusal :=
  s.run fun d => d.sendTrain head.val

/-- An ACK frame goes out (R71). -/
def execAckFrame (head : Fin 1024) (s : State) : Host.Outcome State Fault Refusal :=
  s.run fun d => d.sendFrame head.val 9

/-- 200 µs have passed without the ACK of a frame (R72). -/
def execBackchannelResendTimeout (head : Fin 1024) (tag : BitVec 8) (s : State) : Host.Outcome State Fault Refusal :=
  s.run fun d => d.resendTimeout head.val tag.toNat

/-- No RESPONSE came in time (R82). -/
def execResponseTimeout (head : Fin 1024) (s : State) : Host.Outcome State Fault Refusal :=
  s.run fun d => d.responseTimeout head.val

/-- Every lane of the head has been out of lock for 1 ms (R82). -/
def execLinkLost (head : Fin 1024) (s : State) : Host.Outcome State Fault Refusal :=
  s.run fun d => d.linkLost head.val

/-- A write to GT_QREL (R82). -/
def execGtQrel (mst : Fin 4096) (bank : Fin 32) (v : Word) (s : State) : Host.Outcome State Fault Refusal :=
  s.run fun d => d.busWrite mst.val ((0x80 + bank.val) * 4096 + 0x050) v

/-- A write to GT_LANE_ON (R76). -/
def execGtLaneOn (mst : Fin 4096) (bank : Fin 32) (v : Word) (s : State) : Host.Outcome State Fault Refusal :=
  s.run fun d => d.busWrite mst.val ((0x80 + bank.val) * 4096 + 0x04C) v

/-- A lane's squelch detector recognises the wake pattern (R81). -/
def execWakePattern (lane : Fin 1024) (s : State) : Host.Outcome State Fault Refusal :=
  s.run fun d => d.wakePattern lane.val

end Sys2Proof.Machine
end

