-- ==== Sys2Proof/Machine/MagExec.lean ====
section
/-! DEFINITION. What the happenings of the magazine ports do (chapters 14 and 15). -/
namespace Sys2Proof.Machine

/-- PRSNT_N changes after its filter (R270). -/
def execMagPresenceChange (port : Fin 8) (present : Bool) (s : State) : Host.Outcome State Fault Refusal :=
  s.run fun d => d.presence port.val present

/-- PERST_N is released (Table 14.3). -/
def execMagPerstRelease (port : Fin 8) (s : State) : Host.Outcome State Fault Refusal :=
  s.run fun d => d.perstRelease port.val

/-- The magazine's link has trained (Table 14.3). -/
def execMagLinkUp (port : Fin 8) (speed widthLog2 : Fin 8) (s : State) : Host.Outcome State Fault Refusal :=
  s.run fun d => d.magLinkUp port.val speed.val widthLog2.val

/-- The link has not trained within 100 ms (R270). -/
def execMagLinkTimeout (port : Fin 8) (s : State) : Host.Outcome State Fault Refusal :=
  s.run fun d => d.magLinkTimeout port.val

/-- The controller reports ready, with MQES and MPSMIN of its capabilities (R272). -/
def execMagReady (port : Fin 8) (mqes : BitVec 16) (mpsmin : BitVec 4) (s : State) : Host.Outcome State Fault Refusal :=
  s.run fun d => d.magReady port.val mqes.toNat mpsmin.toNat

/-- The controller is not ready in time (R270). -/
def execMagReadyTimeout (port : Fin 8) (s : State) : Host.Outcome State Fault Refusal :=
  s.run fun d => d.magReadyTimeout port.val

/-- The oldest admin command completes (R273). -/
def execNvmeAdminCompletion (port : Fin 8) (status : BitVec 15) (dw0 : Word) (data : List Byte) (s : State) :
    Host.Outcome State Fault Refusal :=
  s.run fun d => d.adminDone port.val status.toNat dw0.toNat data

/-- A write completes (R276, R277). -/
def execNvmeWriteCompletion (port : Fin 8) (pair : Fin 257) (cid : Fin 1024) (status : BitVec 15) (s : State) :
    Host.Outcome State Fault Refusal :=
  s.run fun d => d.writeDone port.val pair.val cid.val status.toNat

/-- A read completes (R274, R277, R348). -/
def execNvmeReadCompletion (port : Fin 8) (pair : Fin 257) (cid : Fin 1024) (status : BitVec 15) (data : List Byte) (s : State) :
    Host.Outcome State Fault Refusal :=
  s.run fun d => d.nvmeRead port.val pair.val cid.val status.toNat data

/-- A flush completes (R280). -/
def execNvmeFlushCompletion (port : Fin 8) (status : BitVec 15) (s : State) : Host.Outcome State Fault Refusal :=
  s.run fun d => d.flushDone port.val status.toNat

/-- A write has been outstanding for WR_TIMEOUT_MS (R277). -/
def execWriteTimeout (port : Fin 8) (s : State) : Host.Outcome State Fault Refusal :=
  s.run fun d => d.writeTimedOut port.val

/-- The root port reports data link down (R281). -/
def execMagLinkDown (port : Fin 8) (s : State) : Host.Outcome State Fault Refusal :=
  s.run fun d =>
    let st := d.get .mag port.val fMAG_STAT_STATE
    if st = 0 ∨ st = 6 then d else (d.assertEvt (88 + port.val)).removePort port.val

/-- A completion timeout of the port is reported to the engine (R269). -/
def execPcieCompletionTimeout (port : Fin 8) (s : State) : Host.Outcome State Fault Refusal :=
  s.run fun d => d.assertEvt (88 + port.val)

/-- No port came within XCHG_WAIT_MS (R282). -/
def execExchangeWaitTimeout (s : State) : Host.Outcome State Fault Refusal :=
  s.run fun d => d.exchangeWaitOver

/-- A stopped magazine has not confirmed a stream in time (R284). -/
def execDrainConfirmTimeout (slot : Fin 1024) (s : State) : Host.Outcome State Fault Refusal :=
  s.run fun d => d.drainMissed slot.val

/-- Every port's pace is published (R278). -/
def execPacePublish (s : State) : Host.Outcome State Fault Refusal :=
  s.run fun d => d.pacePublish

/-- A port has been short for SHORT_MS (R191). -/
def execPortShortTimeout (port : Fin 8) (s : State) : Host.Outcome State Fault Refusal :=
  s.run fun d => d.portShortOver port.val

/-- SMART logs and temperatures are read (R273). -/
def execSmartPoll (s : State) : Host.Outcome State Fault Refusal :=
  s.run fun d => d.smartPoll

/-- A journal entry has waited 50 ms (R294). -/
def execJournalWaitExpiry (port : Fin 8) (s : State) : Host.Outcome State Fault Refusal :=
  s.run fun d => d.journalWait port.val

/-- A Dataset Management command of INIT completes (R272). -/
def execDatasetManagementCompletion (port : Fin 8) (status : BitVec 15) (s : State) : Host.Outcome State Fault Refusal :=
  s.run fun d => d.dsmDone port.val status.toNat

end Sys2Proof.Machine
end

