-- ==== Sys2Proof/Machine/MailExec.lean ====
section
/-! DEFINITION. What the mailbox commands do (Tables 12.3, 14.7, 17.4 and 18.6). -/
namespace Sys2Proof.Machine

/-- FW_INFO: firmware version and encode ROM image (R239). -/
def execFwInfo (m : Fin 16) (s : State) : Host.Outcome State Fault Refusal :=
  s.run fun d => d.withCmd m.val 0x01 fun d c => d.cmdFwInfo m.val c

/-- ARM_RECORD: checks, placement and reservation of a record stream (R53 to R55). -/
def execArmRecord (m : Fin 16) (s : State) : Host.Outcome State Fault Refusal :=
  s.run fun d => d.withCmd m.val 0x10 fun d c => d.cmdArmRecord m.val c

/-- ARM_DECODE: `source` is what the read of the source's first unit returned (R204). -/
def execArmDecode (m : Fin 16) (source : Option (List Byte)) (s : State) : Host.Outcome State Fault Refusal :=
  s.run fun d => d.withCmd m.val 0x11 fun d c => d.cmdArmDecode m.val source c

/-- ARM_PROXY: `tpl` is what the read of the header template returned (R218). -/
def execArmProxy (m : Fin 16) (tpl : Option (List Byte)) (s : State) : Host.Outcome State Fault Refusal :=
  s.run fun d => d.withCmd m.val 0x12 fun d c => d.cmdArmProxy m.val tpl c

/-- DISARM: an ARMED slot returns to IDLE (R239). -/
def execDisarm (m : Fin 16) (s : State) : Host.Outcome State Fault Refusal :=
  s.run fun d => d.withCmd m.val 0x13 fun d c => d.cmdDisarm m.val c

/-- RELEASE: a CLOSED or FAULTED slot returns to IDLE (R52). -/
def execRelease (m : Fin 16) (s : State) : Host.Outcome State Fault Refusal :=
  s.run fun d => d.withCmd m.val 0x14 fun d c => d.cmdRelease m.val c

/-- CLOSE: the stream closes with reason 0x02 (R239). -/
def execClose (m : Fin 16) (s : State) : Host.Outcome State Fault Refusal :=
  s.run fun d => d.withCmd m.val 0x15 fun d c => d.cmdClose m.val c

/-- STREAM_STATUS: a 64-byte record in host memory; `hostOk` says that the write reached it (R240). -/
def execStreamStatus (m : Fin 16) (hostOk : Bool) (s : State) : Host.Outcome State Fault Refusal :=
  s.run fun d => d.withCmd m.val 0x16 fun d c => d.cmdStreamStatus m.val hostOk c

/-- TAKE_START: the ARMED record streams are judged again and a take begins (R56). -/
def execTakeStart (m : Fin 16) (s : State) : Host.Outcome State Fault Refusal :=
  s.run fun d => d.withCmd m.val 0x20 fun d c => d.cmdTakeStart m.val c

/-- TAKE_STOP: the stop time of the running take (R57). -/
def execTakeStop (m : Fin 16) (s : State) : Host.Outcome State Fault Refusal :=
  s.run fun d => d.withCmd m.val 0x21 fun d c => d.cmdTakeStop m.val c

/-- The time base reaches T_stop (R57). -/
def execTakeStopTime (s : State) : Host.Outcome State Fault Refusal :=
  s.run fun d => d.takeDrain.takeEnd

/-- SET_INGEST: defect map and black levels from the next picture on (R92). -/
def execSetIngest (m : Fin 16) (s : State) : Host.Outcome State Fault Refusal :=
  s.run fun d => d.withCmd m.val 0x30 fun d c => d.cmdSetIngest m.val c

/-- FORCE_I: the next coded picture is an I picture (R141, R170). -/
def execForceI (m : Fin 16) (s : State) : Host.Outcome State Fault Refusal :=
  s.run fun d => d.withCmd m.val 0x31 fun d c => d.cmdForceI m.val c

/-- FORCE_IDR: the next proxy picture is an IDR picture (R222). -/
def execForceIdr (m : Fin 16) (s : State) : Host.Outcome State Fault Refusal :=
  s.run fun d => d.withCmd m.val 0x32 fun d c => d.cmdForceIdr m.val c

/-- GET_PARAM_SETS: VPS, SPS and PPS to host memory (R222). -/
def execGetParamSets (m : Fin 16) (hostOk : Bool) (s : State) : Host.Outcome State Fault Refusal :=
  s.run fun d => d.withCmd m.val 0x33 fun d c => d.cmdParamSets m.val hostOk c

/-- HOST_META: `data` is what the read of host memory returned (R239). -/
def execHostMeta (m : Fin 16) (data : Option (List Byte)) (s : State) : Host.Outcome State Fault Refusal :=
  s.run fun d => d.withCmd m.val 0x34 fun d c => d.cmdHostMeta m.val data c

/-- HEAD_CMD: a HOST_CMD frame is queued for a head (R72). -/
def execHeadCmd (m : Fin 16) (s : State) : Host.Outcome State Fault Refusal :=
  s.run fun d => d.withCmd m.val 0x40 fun d c => d.cmdHeadCmd m.val c

/-- HEAD_WAKE: the wake pattern on every lane of a head (R81). -/
def execHeadWake (m : Fin 16) (s : State) : Host.Outcome State Fault Refusal :=
  s.run fun d => d.withCmd m.val 0x41 fun d c => d.cmdHeadWake m.val c

/-- ALLOW_ADD: a serial number enters the allow list (R75). -/
def execAllowAdd (m : Fin 16) (s : State) : Host.Outcome State Fault Refusal :=
  s.run fun d => d.withCmd m.val 0x42 fun d c => d.cmdAllowAdd m.val c

/-- ALLOW_REMOVE: a serial number leaves the allow list (R75). -/
def execAllowRemove (m : Fin 16) (s : State) : Host.Outcome State Fault Refusal :=
  s.run fun d => d.withCmd m.val 0x43 fun d c => d.cmdAllowRemove m.val c

/-- BUF_ASSIGN: a DRAM buffer for host software (R239). -/
def execBufAssign (m : Fin 16) (s : State) : Host.Outcome State Fault Refusal :=
  s.run fun d => d.withCmd m.val 0x50 fun d c => d.cmdBufAssign m.val c

/-- BUF_FREE: such a buffer returns (R239). -/
def execBufFree (m : Fin 16) (s : State) : Host.Outcome State Fault Refusal :=
  s.run fun d => d.withCmd m.val 0x51 fun d c => d.cmdBufFree m.val c

/-- The admission holder takes the oldest forwarded command (R236). -/
def execAdmissionForward (s : State) : Host.Outcome State Fault Refusal :=
  s.run fun d => d.forwardTaken

/-- MAG_MOUNT: a port is mounted, mounted anew or initialised (R287). -/
def execMagMount (m : Fin 16) (s : State) : Host.Outcome State Fault Refusal :=
  s.run fun d => d.withCmd m.val 0x60 fun d c => d.cmdMagMount m.val c

/-- MAG_UNMOUNT: a port that holds no stream is sealed (R285). -/
def execMagUnmount (m : Fin 16) (s : State) : Host.Outcome State Fault Refusal :=
  s.run fun d => d.withCmd m.val 0x61 fun d c => d.cmdMagUnmount m.val c

/-- MAG_SWAP: a planned exchange (R285). -/
def execMagSwap (m : Fin 16) (s : State) : Host.Outcome State Fault Refusal :=
  s.run fun d => d.withCmd m.val 0x62 fun d c => d.cmdMagSwap m.val c

/-- MAG_FLUSH: partial pieces are written and confirmed (R280). -/
def execMagFlush (m : Fin 16) (s : State) : Host.Outcome State Fault Refusal :=
  s.run fun d => d.withCmd m.val 0x63 fun d c => d.cmdMagFlush m.val c

/-- MAG_LOG: a log page into host memory (R287). -/
def execMagLog (m : Fin 16) (s : State) : Host.Outcome State Fault Refusal :=
  s.run fun d => d.withCmd m.val 0x64 fun d c => d.cmdMagLog m.val c

/-- MAG_IDENT: Identify data into host memory (R287). -/
def execMagIdent (m : Fin 16) (s : State) : Host.Outcome State Fault Refusal :=
  s.run fun d => d.withCmd m.val 0x66 fun d c => d.cmdMagIdent m.val c

/-- ARM_OFFLOAD: a copy of one record stream's units (R286). -/
def execArmOffload (m : Fin 16) (source : Option (List Byte)) (s : State) : Host.Outcome State Fault Refusal :=
  s.run fun d => d.withCmd m.val 0x65 fun d c => d.cmdArmOffload m.val source c

/-- PTP_CONFIG: a port's PTP settings (R335). -/
def execPtpConfig (m : Fin 16) (s : State) : Host.Outcome State Fault Refusal :=
  s.run fun d => d.withCmd m.val 0x70 fun d c => d.cmdPtpConfig m.val c

/-- PTP_STATUS: a port's PTP record to host memory (R335). -/
def execPtpStatus (m : Fin 16) (hostOk : Bool) (s : State) : Host.Outcome State Fault Refusal :=
  s.run fun d => d.withCmd m.val 0x71 fun d c => d.cmdPtpStatus m.val hostOk c

/-- TIME_SET: a step or a set of the time base (R335). -/
def execTimeSet (m : Fin 16) (s : State) : Host.Outcome State Fault Refusal :=
  s.run fun d => d.withCmd m.val 0x72 fun d c => d.cmdTimeSet m.val c

/-- TRIG_SCHED: a head's trigger schedule (R333). -/
def execTrigSched (m : Fin 16) (s : State) : Host.Outcome State Fault Refusal :=
  s.run fun d => d.withCmd m.val 0x73 fun d c => d.cmdTrigSched m.val c

/-- TRIG_CANCEL: the schedule ends (R335). -/
def execTrigCancel (m : Fin 16) (s : State) : Host.Outcome State Fault Refusal :=
  s.run fun d => d.withCmd m.val 0x74 fun d c => d.cmdTrigCancel m.val c

/-- TC_CONFIG: timecode settings (R332, R335). -/
def execTcConfig (m : Fin 16) (s : State) : Host.Outcome State Fault Refusal :=
  s.run fun d => d.withCmd m.val 0x75 fun d c => d.cmdTcConfig m.val c

/-- PEER_STATUS: a peer port's record to host memory (R351). -/
def execPeerStatus (m : Fin 16) (hostOk : Bool) (s : State) : Host.Outcome State Fault Refusal :=
  s.run fun d => d.withCmd m.val 0x80 fun d c => d.cmdPeerStatus m.val hostOk c

/-- PEER_ACCEPT: a partner's pictures or units into a host ring (R351). -/
def execPeerAccept (m : Fin 16) (s : State) : Host.Outcome State Fault Refusal :=
  s.run fun d => d.withCmd m.val 0x81 fun d c => d.cmdPeerAccept m.val c

/-- PEER_REFUSE: an acceptance ends (R351). -/
def execPeerRefuse (m : Fin 16) (s : State) : Host.Outcome State Fault Refusal :=
  s.run fun d => d.withCmd m.val 0x82 fun d c => d.cmdPeerRefuse m.val c

end Sys2Proof.Machine
end

