-- ==== Sys2Proof/Machine/MemExec.lean ====
section
/-! DEFINITION. What the happenings of the DDR5 memory do (chapter 16). -/
namespace Sys2Proof.Machine

/-- A read is corrected (R311). -/
def execMemCorrectedRead (ch : Fin 10) (s : State) : Host.Outcome State Fault Refusal :=
  s.run fun d => d.corrected ch.val

/-- A master's read cannot be corrected (R311, Table 16.2); `user` names whose read it was. -/
def execMemUncorrectableRead (addr : Nat) (mst : Fin 4096) (user : Nat) (s : State) : Host.Outcome State Fault Refusal :=
  s.run fun d => d.uncorrectable addr mst.val user

/-- Patrol scrub reads a line: clean, corrected or uncorrectable (R311). -/
def execPatrolScrub (addr : Nat) (result : Fin 3) (s : State) : Host.Outcome State Fault Refusal :=
  s.run fun d => d.scrubRead addr result.val

/-- A guarded pair on MC_RETIRE (R313). -/
def execMcRetire (mst : Fin 4096) (v : Word) (s : State) : Host.Outcome State Fault Refusal :=
  s.run fun d => d.busPair mst.val 0x4A048 v

/-- The copy of a retiring channel completes (R313). -/
def execRetirementCopyDone (s : State) : Host.Outcome State Fault Refusal :=
  s.run fun d => d.retireDone

/-- A channel stops responding or loses training (R314). -/
def execChannelLost (ch : Fin 10) (s : State) : Host.Outcome State Fault Refusal :=
  s.run fun d => d.loseChannel ch.val

/-- A refresh or RFM is issued, with neighbour activates or without (R316). -/
def execRefreshDue (ch : Fin 10) (rfm : Bool) (neighbours : Bool) (s : State) : Host.Outcome State Fault Refusal :=
  s.run fun d => d.refreshed ch.val rfm neighbours

/-- A running channel tracks its DQS oscillator (R317). -/
def execDqsTrack (ch : Fin 10) (adjusted beyondLimit : Bool) (s : State) : Host.Outcome State Fault Refusal :=
  s.run fun d => d.tracked ch.val adjusted beyondLimit

/-- A channel's training ends (R317). -/
def execChannelTrainingDone (ch : Fin 10) (ok : Bool) (ms : BitVec 8) (s : State) : Host.Outcome State Fault Refusal :=
  s.run fun d => d.trained ch.val ok ms.toNat

end Sys2Proof.Machine
end

