-- ==== Sys2Proof/Machine/PeerExec.lean ====
section
/-! DEFINITION. What the happenings of the peer ports do (chapter 18). -/
namespace Sys2Proof.Machine

/-- An IDENT arrives (R342). -/
def execPeerIdent (p : Fin 3) (member sizeM1 port : Fin 4) (serial : BitVec 64) (polarity : BitVec 8) (delay01ns : BitVec 16) (s : State) :
    Host.Outcome State Fault Refusal :=
  s.run fun d => d.peerIdent p.val member.val sizeM1.val port.val serial.toNat polarity.toNat delay01ns.toNat

/-- A flit arrives (R343). -/
def execPeerDataFlit (p : Fin 3) (flit : List Byte) (s : State) : Host.Outcome State Fault Refusal :=
  s.run fun d => d.peerFlit p.val flit

/-- A NAK arrives (R343). -/
def execPeerNak (p : Fin 3) (seq : BitVec 12) (s : State) : Host.Outcome State Fault Refusal :=
  s.run fun d => d.peerNak p.val seq.toNat

/-- A peer link is lost (R343). -/
def execPeerLinkLost (p : Fin 3) (s : State) : Host.Outcome State Fault Refusal :=
  s.run fun d => d.peerLost p.val

/-- A HEARTBEAT goes out on every link (R344). -/
def execHeartbeat (s : State) : Host.Outcome State Fault Refusal :=
  s.run fun d => d.heartbeat

/-- TIME arrives from the root (R349). -/
def execPeerTime (p : Fin 3) (sentNs : BitVec 64) (sentFrac : Word) (s : State) : Host.Outcome State Fault Refusal :=
  s.run fun d => d.gangTime p.val sentNs.toNat sentFrac.toNat

/-- The root sends TIME (R349). -/
def execPeerTimeSend (s : State) : Host.Outcome State Fault Refusal :=
  s.run fun d => d.sendGangTime

/-- An OFFER_REQ arrives for streams of a summed rate (R346). -/
def execOfferReq (p : Fin 3) (_streams : Nat) (sumMbps : Nat) (s : State) : Host.Outcome State Fault Refusal :=
  s.run fun d => d.offerAsked p.val sumMbps

/-- An OFFER arrives (R346). -/
def execOffer (p : Fin 3) (_port : Fin 8) (s : State) : Host.Outcome State Fault Refusal :=
  s.run fun d => d.offerCame p.val

/-- No offer came within 200 µs (R346). -/
def execOfferTimeout (s : State) : Host.Outcome State Fault Refusal :=
  s.run fun d => d.offersOver

/-- An ACCEPT arrives with the streams it moves (R347). -/
def execAccept (p : Fin 3) (takeId : BitVec 16) (tStart srcVolume : BitVec 64) (streams : List (Nat × Nat × Nat × Nat × Nat)) (s : State) :
    Host.Outcome State Fault Refusal :=
  s.run fun d => d.offerTaken p.val takeId.toNat tStart.toNat srcVolume.toNat streams

/-- No ACCEPT followed an offer within 1 ms (R352). -/
def execOfferReleaseTimeout (p : Fin 3) (s : State) : Host.Outcome State Fault Refusal :=
  s.run fun d => d.offerReleased p.val

/-- A CONFIRM arrives (R347). -/
def execConfirm (p : Fin 3) (slot : Fin 1024) (endAddr : Nat) (s : State) : Host.Outcome State Fault Refusal :=
  s.run fun d => d.partnerConfirms p.val slot.val endAddr

/-- A READ_REQ arrives (R348). -/
def execReadReq (p : Fin 3) (takeId : BitVec 16) (recStream : Fin 1024) (first : BitVec 24) (mbps : Nat) (s : State) :
    Host.Outcome State Fault Refusal :=
  s.run fun d => d.readAsked p.val takeId.toNat recStream.val first.toNat mbps

/-- ALRT_I of a partner has been low for 1 ms (R350). -/
def execPartnerFailed (p : Fin 3) (s : State) : Host.Outcome State Fault Refusal :=
  s.run fun d => d.partnerFails p.val

end Sys2Proof.Machine
end

