-- ==== Sys2Proof/Machine/PowerExec.lean ====
section
/-! DEFINITION. What the happenings of power, reset, boot and the flash do (chapter 20). -/
namespace Sys2Proof.Machine

/-- A domain's idle timer reaches IDLE_US (R374). -/
def execIdleTimerExpiry (dom : Fin 202) (s : State) : Host.Outcome State Fault Refusal :=
  s.run fun d => d.idleExpiry dom.val

/-- A domain's entry completes (R373, R377). -/
def execDomainEntryDone (dom : Fin 202) (s : State) : Host.Outcome State Fault Refusal :=
  s.run fun d => d.entryDone dom.val

/-- A wake source acts on a domain (R375). -/
def execDomainWake (dom : Fin 202) (source : Fin 9) (s : State) : Host.Outcome State Fault Refusal :=
  s.run fun d => d.wakeBy dom.val source.val

/-- A domain is back on (R373, R384). -/
def execDomainExitDone (dom : Fin 202) (s : State) : Host.Outcome State Fault Refusal :=
  s.run fun d => d.domainBack dom.val

/-- A guarded pair on LP_CLREQ (R377). -/
def execLpClreq (mst : Fin 4096) (v : Word) (s : State) : Host.Outcome State Fault Refusal :=
  s.run fun d => d.busPair mst.val 0x1040 v

/-- A guarded pair on LP_TIMER (R375). -/
def execLpTimerArm (mst : Fin 4096) (v : Word) (s : State) : Host.Outcome State Fault Refusal :=
  s.run fun d => d.busPair mst.val 0x104C v

/-- The Lehr timer fires (R375). -/
def execLpTimerExpiry (s : State) : Host.Outcome State Fault Refusal :=
  s.run fun d => d.timerFires

/-- A rail has been below its warning level for 1 µs (R380, R381). -/
def execDip (rail : Fin 8) (mv : BitVec 16) (s : State) : Host.Outcome State Fault Refusal :=
  s.run fun d => d.railDips rail.val mv.toNat

/-- A dipped rail is back above its warning level (R380). -/
def execDipRecovery (rail : Fin 8) (mv : BitVec 16) (s : State) : Host.Outcome State Fault Refusal :=
  s.run fun d => d.dipOver rail.val mv.toNat

/-- Every rail has stayed above its warning level for FREEZE_HOLD_US (R380). -/
def execFreezeLift (s : State) : Host.Outcome State Fault Refusal :=
  s.run fun d => d.freezeLifts

/-- A rail other than VDD_AO falls below its reset level (R379); VDD_AO brings a power-on reset instead. -/
def execSupplyReset (rail : Fin 8) (s : State) : Host.Outcome State Fault Refusal :=
  s.run fun d => d.supplyFails rail.val

/-- First power, or VDD_AO below its reset level: the gang straps are read (R382, R339). -/
def execPowerOnReset (gangId gangSzM1 : Fin 4) (s : State) : Host.Outcome State Fault Refusal :=
  s.run fun d => d.powerOn gangId.val gangSzM1.val

/-- A sequenced rail is above its warning level (R378). -/
def execSeqRailGood (rail : Fin 8) (s : State) : Host.Outcome State Fault Refusal :=
  s.run fun d => d.railGood rail.val

/-- A rail is not good within 5 ms of its enable (R378). -/
def execSeqRailTimeout (rail : Fin 8) (s : State) : Host.Outcome State Fault Refusal :=
  s.run fun d => d.railTimeout rail.val

/-- 100 ms have passed since a sequencing failure (R378). -/
def execSeqRetry (s : State) : Host.Outcome State Fault Refusal :=
  s.run fun d => d.seqRetry

/-- SYS_RESET_N is held low (R382). -/
def execPinReset (s : State) : Host.Outcome State Fault Refusal :=
  s.run fun d => d.pinLow

/-- SYS_RESET_N rises (R389). -/
def execPinResetRelease (s : State) : Host.Outcome State Fault Refusal :=
  s.run fun d => d.pinRelease

/-- A guarded pair on LS_RST_REQ with REQ 1 and KIND 1 (R382, R394). -/
def execHostReset (mst : Fin 4096) (v : Word) (s : State) : Host.Outcome State Fault Refusal :=
  s.run fun d => d.busPair mst.val 0x206C (fLS_RST_REQ_KIND.ins (fLS_RST_REQ_REQ.ins v 1) 1)

/-- Headers and bodies of the flash are read and checked (R386). -/
def execBootImageLoaded (s : State) : Host.Outcome State Fault Refusal :=
  s.run fun d => d.imageLoaded

/-- A record's wait ends (R387). -/
def execConfigRecordWaitEnd (s : State) : Host.Outcome State Fault Refusal :=
  s.run fun d => d.recWaitEnd

/-- A pair on CF_FCMD with OP 1 (R391). -/
def execFlashReadPage (mst : Fin 4096) (s : State) : Host.Outcome State Fault Refusal :=
  s.run fun d => d.busPair mst.val 0x3054 0x80000001#32

/-- A pair on CF_FCMD with OP 2 (R391). -/
def execFlashProgram (mst : Fin 4096) (s : State) : Host.Outcome State Fault Refusal :=
  s.run fun d => d.busPair mst.val 0x3054 0x80000002#32

/-- A pair on CF_FCMD with OP 3 (R391). -/
def execFlashErase (mst : Fin 4096) (s : State) : Host.Outcome State Fault Refusal :=
  s.run fun d => d.busPair mst.val 0x3054 0x80000003#32

/-- A flash command finishes (R391). -/
def execFlashCommandDone (error : Bool) (s : State) : Host.Outcome State Fault Refusal :=
  s.run fun d => d.flashDone error

end Sys2Proof.Machine
end

