-- ==== Sys2Proof/Machine/QueueExec.lean ====
section
/-! DEFINITION. What the happenings of queues, DMA and Cullet do (chapter 13). -/
namespace Sys2Proof.Machine

/-- A producer asks for a lease (R252). -/
def execLeaseRequest (ring : Fin 16384) (tag : BitVec 16) (s : State) : Host.Outcome State Fault Refusal :=
  s.run fun d => d.lease ring.val tag.toNat

/-- A lease has been held for 100 µs (R252). -/
def execLeaseExpiry (ring : Fin 16384) (s : State) : Host.Outcome State Fault Refusal :=
  s.run fun d => d.leaseExpire ring.val

/-- A producer advances TAIL (R249, R252). -/
def execRingTailAdvance (ring : Fin 16384) (tag : BitVec 16) (tail : BitVec 16) (s : State) : Host.Outcome State Fault Refusal :=
  s.run fun d => d.tailBy ring.val tag.toNat tail.toNat

/-- A consumer advances HEAD (R249). -/
def execRingHeadAdvance (ring : Fin 16384) (head : BitVec 16) (s : State) : Host.Outcome State Fault Refusal :=
  s.run fun d => if (d.ring ring.val).en then d.advanceHead ring.val head.toNat else d

/-- A write to a doorbell of a DMA descriptor ring (R254). -/
def execQuDb (mst : Fin 4096) (i : Fin 4096) (v : Word) (s : State) : Host.Outcome State Fault Refusal :=
  s.run fun d => d.busWrite mst.val (fieldAddr .queueDb (i.val / 512) fQU_DB_TAIL (i.val % 512)) v

/-- A guarded pair on QU_RCFG (R254). -/
def execQuRcfg (mst : Fin 4096) (v : Word) (s : State) : Host.Outcome State Fault Refusal :=
  s.run fun d => d.busPair mst.val 0x20054 v

/-- The descriptor at the HEAD of a host ring is carried out (R253). -/
def execDmaDescriptorDone (ring : Fin 4096) (desc : List Word) (status : Fin 5) (data : List Byte) (s : State) :
    Host.Outcome State Fault Refusal :=
  s.run fun d => d.descDone (8192 + ring.val) desc status.val data

/-- A peripheral asserts its request line (R255). -/
def execDmaRequestLine (line : Fin 256) (s : State) : Host.Outcome State Fault Refusal :=
  s.run fun d => d.requestLine line.val

/-- A circular channel's burst completes (R255). -/
def execDmaBurstDone (ch : Fin 64) (data : List Byte) (s : State) : Host.Outcome State Fault Refusal :=
  s.run fun d => d.burstDone ch.val data

/-- A guarded pair on CH_CFG (R255). -/
def execChCfgWrite (mst : Fin 4096) (ch : Fin 64) (v : Word) (s : State) : Host.Outcome State Fault Refusal :=
  s.run fun d => d.busPair mst.val (fieldAddr .queueCh (ch.val / 32) fCH_CFG_EN (ch.val % 32)) v

/-- The calendar wheel serves its slot (R258). -/
def execCalendarSlot (s : State) : Host.Outcome State Fault Refusal :=
  s.run fun d => d.calendarSlot

/-- An output's scheduler visits an active ring (R257). -/
def execPieceRelease (output : Fin 12) (s : State) : Host.Outcome State Fault Refusal :=
  s.run fun d => d.drrVisit output.val

/-- Depth and delay of every ring are recorded (R259). -/
def execRingSample (s : State) : Host.Outcome State Fault Refusal :=
  s.run fun d => d.ringSample

/-- A requester asks Cullet for a chunk (R263). -/
def execChunkAllocate (tag : BitVec 16) (cls : Fin 8) (large : Bool) (s : State) : Host.Outcome State Fault Refusal :=
  s.run fun d => (d.allocChunk tag.toNat cls.val large).1

/-- A holder releases its hold (R261). -/
def execChunkRelease (handle : Word) (tag : BitVec 16) (s : State) : Host.Outcome State Fault Refusal :=
  s.run fun d => d.releaseHold handle.toNat tag.toNat

end Sys2Proof.Machine
end

