-- ==== Sys2Proof/Machine/TestExec.lean ====
section
/-! DEFINITION. What latching reads, board tests and JTAG do (R187, R203, R217, R229, R353, R408, R409). -/
namespace Sys2Proof.Machine

/-- A read of RC_LOG0 (R203). -/
def execRcLog0Read (s : State) : Host.Outcome State Fault Refusal :=
  s.run fun d => d.readLog

/-- A read of ENC_TBYTES_LO (R187). -/
def execEncTbytesRead (pipe : Fin 68) (s : State) : Host.Outcome State Fault Refusal :=
  s.run fun d =>
    let hi := fieldAddr .enc pipe.val fENC_TBYTES_HI_BYTES_HI 0
    d.latchRead (fieldAddr .enc pipe.val fENC_TBYTES_LO_BYTES_LO 0) [(hi, d.reg hi)]

/-- A read of DEC_SMP_LO (R217). -/
def execDecSmpRead (pipe : Fin 20) (s : State) : Host.Outcome State Fault Refusal :=
  s.run fun d =>
    let hi := fieldAddr .dec pipe.val fDEC_SMP_HI_SAMPLES_HI 0
    d.latchRead (fieldAddr .dec pipe.val fDEC_SMP_LO_SAMPLES_LO 0) [(hi, d.reg hi)]

/-- A read of PX_BYTES_LO (R229). -/
def execPxBytesRead (engine : Fin 4) (s : State) : Host.Outcome State Fault Refusal :=
  s.run fun d =>
    let hi := fieldAddr .proxy engine.val fPX_BYTES_HI_BYTES_HI 0
    d.latchRead (fieldAddr .proxy engine.val fPX_BYTES_LO_BYTES_LO 0) [(hi, d.reg hi)]

/-- A read of PR_TX_LO (R353). -/
def execPrTxRead (p : Fin 3) (s : State) : Host.Outcome State Fault Refusal :=
  s.run fun d =>
    let hi := fieldAddr .peer p.val fPR_TX_HI_BYTES_HI 0
    d.latchRead (fieldAddr .peer p.val fPR_TX_LO_BYTES_LO 0) [(hi, d.reg hi)]

/-- A DEV_TEST pair with KIND 0 (R408). -/
def execTestGatherBank (mst : Fin 4096) (index : Fin 32) (loop : Fin 4) (s : State) : Host.Outcome State Fault Refusal :=
  s.run fun d => d.busPair mst.val 0x80 (BitVec.ofNat 32 (2 ^ 31 + 0 * 2 ^ 24 + index.val * 2 ^ 16 + loop.val * 2 ^ 8))

/-- A DEV_TEST pair with KIND 1 (R408). -/
def execTestMagPort (mst : Fin 4096) (index : Fin 32) (loop : Fin 4) (s : State) : Host.Outcome State Fault Refusal :=
  s.run fun d => d.busPair mst.val 0x80 (BitVec.ofNat 32 (2 ^ 31 + 1 * 2 ^ 24 + index.val * 2 ^ 16 + loop.val * 2 ^ 8))

/-- A DEV_TEST pair with KIND 2 (R408). -/
def execTestPeerPort (mst : Fin 4096) (index : Fin 32) (loop : Fin 4) (s : State) : Host.Outcome State Fault Refusal :=
  s.run fun d => d.busPair mst.val 0x80 (BitVec.ofNat 32 (2 ^ 31 + 2 * 2 ^ 24 + index.val * 2 ^ 16 + loop.val * 2 ^ 8))

/-- A DEV_TEST pair with KIND 3 (R408). -/
def execTestNetPort (mst : Fin 4096) (index : Fin 32) (loop : Fin 4) (s : State) : Host.Outcome State Fault Refusal :=
  s.run fun d => d.busPair mst.val 0x80 (BitVec.ofNat 32 (2 ^ 31 + 3 * 2 ^ 24 + index.val * 2 ^ 16 + loop.val * 2 ^ 8))

/-- A DEV_TEST pair with KIND 4 (R408). -/
def execTestDdr5Channel (mst : Fin 4096) (index : Fin 32) (loop : Fin 4) (s : State) : Host.Outcome State Fault Refusal :=
  s.run fun d => d.busPair mst.val 0x80 (BitVec.ofNat 32 (2 ^ 31 + 4 * 2 ^ 24 + index.val * 2 ^ 16 + loop.val * 2 ^ 8))

/-- A board test ends (R408). -/
def execTestDone (errors : Nat) (failed : Word) (s : State) : Host.Outcome State Fault Refusal :=
  s.run fun d => d.testDone errors failed

/-- JTAG BYPASS (R409). -/
def execBypass (s : State) : Host.Outcome State Fault Refusal :=
  s.run fun d => d.jtagLoad .bypass

/-- JTAG IDCODE (R409). -/
def execIdcode (s : State) : Host.Outcome State Fault Refusal :=
  s.run fun d => d.jtagLoad .idcode

/-- JTAG SAMPLE/PRELOAD (R409). -/
def execSamplePreload (preload : Option (List Bool)) (s : State) : Host.Outcome State Fault Refusal :=
  s.run fun d => d.jtagPreload preload

/-- JTAG EXTEST (R409). -/
def execExtest (s : State) : Host.Outcome State Fault Refusal :=
  s.run fun d => d.jtagLoad .extest

/-- JTAG CLAMP (R409). -/
def execClamp (s : State) : Host.Outcome State Fault Refusal :=
  s.run fun d => d.jtagLoad .clamp

/-- JTAG HIGHZ (R409). -/
def execHighz (s : State) : Host.Outcome State Fault Refusal :=
  s.run fun d => d.jtagLoad .highz

end Sys2Proof.Machine
end

