-- ==== Sys2Proof/Machine/TimeExec.lean ====
section
/-! DEFINITION. What the happenings of the time base and the network ports do (chapter 17). -/
namespace Sys2Proof.Machine

/-- A pair on TM_APPLY with OFS 1 (R323). -/
def execTimeStepAdd (mst : Fin 4096) (v : Word) (s : State) : Host.Outcome State Fault Refusal :=
  s.run fun d => d.busPair mst.val 0x8068 (fTM_APPLY_OFS.ins v 1)

/-- A pair on TM_APPLY with OFS 2 (R323). -/
def execTimeSetAbsolute (mst : Fin 4096) (v : Word) (s : State) : Host.Outcome State Fault Refusal :=
  s.run fun d => d.busPair mst.val 0x8068 (fTM_APPLY_OFS.ins v 2)

/-- A pair on TM_APPLY with RATE_EN (R323). -/
def execTimeRateInstall (mst : Fin 4096) (v : Word) (s : State) : Host.Outcome State Fault Refusal :=
  s.run fun d => d.busPair mst.val 0x8068 (fTM_APPLY_RATE_EN.ins v 1)

/-- A read of TM_NOW_LO (R322). -/
def execTmNowRead (s : State) : Host.Outcome State Fault Refusal :=
  s.run fun d => d.readNow

/-- A read of TM_FREE_LO (R321). -/
def execTmFreeRead (s : State) : Host.Outcome State Fault Refusal :=
  s.run fun d => d.readFree

/-- The reference is lost (R324). -/
def execRefclkLoss (s : State) : Host.Outcome State Fault Refusal :=
  s.run fun d => d.refLost

/-- The reference returns (R324). -/
def execRefclkReturn (s : State) : Host.Outcome State Fault Refusal :=
  s.run fun d => d.refBack

/-- An edge of TIME_PPS_IN or EVT_INn is stamped (R327). -/
def execPinStamp (src : Fin 9) (rising : Bool) (s : State) : Host.Outcome State Fault Refusal :=
  s.run fun d => d.stampPin src.val rising

/-- The reading reaches a whole second (R326). -/
def execPpsOut (s : State) : Host.Outcome State Fault Refusal :=
  s.run fun d => d.ppsRise

/-- A head's next trigger is handed to Gather, or skipped (R333). -/
def execTriggerDue (head : Fin 1024) (s : State) : Host.Outcome State Fault Refusal :=
  s.run fun d => d.triggerDue head.val

/-- An Ethernet frame arrives (R329). -/
def execEthFrameReceive (net : Fin 2) (frame : List Byte) (s : State) : Host.Outcome State Fault Refusal :=
  s.run fun d => d.ethReceive net.val frame

/-- The next PTP frame goes out (R329). -/
def execPtpFrameTransmit (net : Fin 2) (s : State) : Host.Outcome State Fault Refusal :=
  s.run fun d => d.ptpTransmit net.val

/-- A PTP message interval expires (R330). -/
def execPtpMessageDue (net : Fin 2) (msg : Fin 16) (s : State) : Host.Outcome State Fault Refusal :=
  s.run fun d => d.ptpDue net.val msg.val

/-- A slave port has lost its master (R331). -/
def execAnnounceReceiptTimeout (net : Fin 2) (s : State) : Host.Outcome State Fault Refusal :=
  s.run fun d => d.announceLost net.val

/-- An Ethernet link goes up or down (R328). -/
def execNetLinkChange (net : Fin 2) (up : Bool) (s : State) : Host.Outcome State Fault Refusal :=
  s.run fun d => d.netLink net.val up

end Sys2Proof.Machine
end

