-- ==== Sys2Proof/Machine/Dispatch.lean ====
section
/-! DEFINITION. The dispatch: one arm for each command, in the order of the table, each a direct call of its meaning. -/
namespace Sys2Proof.Machine

/-- What each command does to everything but the queue. -/
def exec (i : Instr) (s : State) : Host.Outcome State Fault Refusal :=
  match i with
  | .registerWrite mst addr dws => Sys2Proof.Machine.execRegisterWrite mst addr dws s
  | .guardPairExpiry page => Sys2Proof.Machine.execGuardPairExpiry page s
  | .pgStatClr mst page seq mask => Sys2Proof.Machine.execPgStatClr mst page seq mask s
  | .resetReq mst page => Sys2Proof.Machine.execResetReq mst page s
  | .quiesce mst page => Sys2Proof.Machine.execQuiesce mst page s
  | .enable mst page on => Sys2Proof.Machine.execEnable mst page on s
  | .resetDone page => Sys2Proof.Machine.execResetDone page s
  | .pgLockWrite mst page v => Sys2Proof.Machine.execPgLockWrite mst page v s
  | .powerRequest mst dom req idleUs => Sys2Proof.Machine.execPowerRequest mst dom req idleUs s
  | .vote page c0 c1 c2 => Sys2Proof.Machine.execVote page c0 c1 c2 s
  | .bar2Write off data => Sys2Proof.Machine.execBar2Write off data s
  | .bar2Read off ndw => Sys2Proof.Machine.execBar2Read off ndw s
  | .hostBusMasterChange bme d3hot => Sys2Proof.Machine.execHostBusMasterChange bme d3hot s
  | .hostPortLinkReset => Sys2Proof.Machine.execHostPortLinkReset s
  | .mbxSqTail m v => Sys2Proof.Machine.execMbxSqTail m v s
  | .mbxCqHead m v => Sys2Proof.Machine.execMbxCqHead m v s
  | .mbxEnable m cfg => Sys2Proof.Machine.execMbxEnable m cfg s
  | .mbxDisable m cfg => Sys2Proof.Machine.execMbxDisable m cfg s
  | .commandFetch m entry => Sys2Proof.Machine.execCommandFetch m entry s
  | .commandCompletion m => Sys2Proof.Machine.execCommandCompletion m s
  | .mirrorWrite => Sys2Proof.Machine.execMirrorWrite s
  | .modeRequest mst req => Sys2Proof.Machine.execModeRequest mst req s
  | .fwInfo m => Sys2Proof.Machine.execFwInfo m s
  | .armRecord m => Sys2Proof.Machine.execArmRecord m s
  | .armDecode m source => Sys2Proof.Machine.execArmDecode m source s
  | .armProxy m tpl => Sys2Proof.Machine.execArmProxy m tpl s
  | .disarm m => Sys2Proof.Machine.execDisarm m s
  | .release m => Sys2Proof.Machine.execRelease m s
  | .close m => Sys2Proof.Machine.execClose m s
  | .streamStatus m hostOk => Sys2Proof.Machine.execStreamStatus m hostOk s
  | .takeStart m => Sys2Proof.Machine.execTakeStart m s
  | .takeStop m => Sys2Proof.Machine.execTakeStop m s
  | .takeStopTime => Sys2Proof.Machine.execTakeStopTime s
  | .setIngest m => Sys2Proof.Machine.execSetIngest m s
  | .forceI m => Sys2Proof.Machine.execForceI m s
  | .forceIdr m => Sys2Proof.Machine.execForceIdr m s
  | .getParamSets m hostOk => Sys2Proof.Machine.execGetParamSets m hostOk s
  | .hostMeta m data => Sys2Proof.Machine.execHostMeta m data s
  | .headCmd m => Sys2Proof.Machine.execHeadCmd m s
  | .headWake m => Sys2Proof.Machine.execHeadWake m s
  | .allowAdd m => Sys2Proof.Machine.execAllowAdd m s
  | .allowRemove m => Sys2Proof.Machine.execAllowRemove m s
  | .bufAssign m => Sys2Proof.Machine.execBufAssign m s
  | .bufFree m => Sys2Proof.Machine.execBufFree m s
  | .admissionForward => Sys2Proof.Machine.execAdmissionForward s
  | .blockLockGained lane => Sys2Proof.Machine.execBlockLockGained lane s
  | .blockLockLost lane => Sys2Proof.Machine.execBlockLockLost lane s
  | .align lane logical carry spares count badHeaders => Sys2Proof.Machine.execAlign lane logical carry spares count badHeaders s
  | .pstart head region picture => Sys2Proof.Machine.execPstart head region picture s
  | .sample head packet => Sys2Proof.Machine.execSample head packet s
  | .metaPacket head packet => Sys2Proof.Machine.execMetaPacket head packet s
  | .motion head packet => Sys2Proof.Machine.execMotion head packet s
  | .hello head packet => Sys2Proof.Machine.execHello head packet s
  | .response head packet => Sys2Proof.Machine.execResponse head packet s
  | .ack head packet => Sys2Proof.Machine.execAck head packet s
  | .echo head packet => Sys2Proof.Machine.execEcho head packet s
  | .hostileIntervalEnd => Sys2Proof.Machine.execHostileIntervalEnd s
  | .policeCreditTick => Sys2Proof.Machine.execPoliceCreditTick s
  | .replayFrame head => Sys2Proof.Machine.execReplayFrame head s
  | .laneMapFrame head => Sys2Proof.Machine.execLaneMapFrame head s
  | .triggerFrame head => Sys2Proof.Machine.execTriggerFrame head s
  | .timeFrame head => Sys2Proof.Machine.execTimeFrame head s
  | .hostCmdFrame head => Sys2Proof.Machine.execHostCmdFrame head s
  | .challengeFrame head => Sys2Proof.Machine.execChallengeFrame head s
  | .admitFrame head => Sys2Proof.Machine.execAdmitFrame head s
  | .trainFrame head => Sys2Proof.Machine.execTrainFrame head s
  | .ackFrame head => Sys2Proof.Machine.execAckFrame head s
  | .backchannelResendTimeout head tag => Sys2Proof.Machine.execBackchannelResendTimeout head tag s
  | .responseTimeout head => Sys2Proof.Machine.execResponseTimeout head s
  | .linkLost head => Sys2Proof.Machine.execLinkLost head s
  | .gtQrel mst bank v => Sys2Proof.Machine.execGtQrel mst bank v s
  | .gtLaneOn mst bank v => Sys2Proof.Machine.execGtLaneOn mst bank v s
  | .wakePattern lane => Sys2Proof.Machine.execWakePattern lane s
  | .holdExpiry slot => Sys2Proof.Machine.execHoldExpiry slot s
  | .pictureDeadline slot => Sys2Proof.Machine.execPictureDeadline slot s
  | .missingPicture slot => Sys2Proof.Machine.execMissingPicture slot s
  | .rowGrant slot => Sys2Proof.Machine.execRowGrant slot s
  | .tileDispatch cluster => Sys2Proof.Machine.execTileDispatch cluster s
  | .stripCheckpoint slot row k => Sys2Proof.Machine.execStripCheckpoint slot row k s
  | .tileCommit pipe selfCheckOk => Sys2Proof.Machine.execTileCommit pipe selfCheckOk s
  | .tileRowEmit slot => Sys2Proof.Machine.execTileRowEmit slot s
  | .mrmDrainTick => Sys2Proof.Machine.execMrmDrainTick s
  | .restartCreditTick => Sys2Proof.Machine.execRestartCreditTick s
  | .machineCheck decode pipe uaddr groups => Sys2Proof.Machine.execMachineCheck decode pipe uaddr groups s
  | .pipelineOrder decode pipe order => Sys2Proof.Machine.execPipelineOrder decode pipe order s
  | .commitPoint decode pipe gap => Sys2Proof.Machine.execCommitPoint decode pipe gap s
  | .scanBoundary ctl => Sys2Proof.Machine.execScanBoundary ctl s
  | .gafferHalt ctl => Sys2Proof.Machine.execGafferHalt ctl s
  | .gafferHeartbeatTimeout ctl => Sys2Proof.Machine.execGafferHeartbeatTimeout ctl s
  | .eventAssert src level => Sys2Proof.Machine.execEventAssert src level s
  | .externalFilterPass src level => Sys2Proof.Machine.execExternalFilterPass src level s
  | .evtSrcWrite mst src v => Sys2Proof.Machine.execEvtSrcWrite mst src v s
  | .fabricHandshakeTimeout block => Sys2Proof.Machine.execFabricHandshakeTimeout block s
  | .leaseRequest ring tag => Sys2Proof.Machine.execLeaseRequest ring tag s
  | .leaseExpiry ring => Sys2Proof.Machine.execLeaseExpiry ring s
  | .ringTailAdvance ring tag tail => Sys2Proof.Machine.execRingTailAdvance ring tag tail s
  | .ringHeadAdvance ring head => Sys2Proof.Machine.execRingHeadAdvance ring head s
  | .quDb mst n v => Sys2Proof.Machine.execQuDb mst n v s
  | .quRcfg mst v => Sys2Proof.Machine.execQuRcfg mst v s
  | .dmaDescriptorDone ring desc status data => Sys2Proof.Machine.execDmaDescriptorDone ring desc status data s
  | .dmaRequestLine line => Sys2Proof.Machine.execDmaRequestLine line s
  | .dmaBurstDone ch data => Sys2Proof.Machine.execDmaBurstDone ch data s
  | .chCfgWrite mst ch v => Sys2Proof.Machine.execChCfgWrite mst ch v s
  | .calendarSlot => Sys2Proof.Machine.execCalendarSlot s
  | .pieceRelease output => Sys2Proof.Machine.execPieceRelease output s
  | .ringSample => Sys2Proof.Machine.execRingSample s
  | .chunkAllocate tag cls large => Sys2Proof.Machine.execChunkAllocate tag cls large s
  | .chunkRelease handle tag => Sys2Proof.Machine.execChunkRelease handle tag s
  | .magPresenceChange port present => Sys2Proof.Machine.execMagPresenceChange port present s
  | .magPerstRelease port => Sys2Proof.Machine.execMagPerstRelease port s
  | .magLinkUp port speed widthLog2 => Sys2Proof.Machine.execMagLinkUp port speed widthLog2 s
  | .magLinkTimeout port => Sys2Proof.Machine.execMagLinkTimeout port s
  | .magReady port mqes mpsmin => Sys2Proof.Machine.execMagReady port mqes mpsmin s
  | .magReadyTimeout port => Sys2Proof.Machine.execMagReadyTimeout port s
  | .nvmeAdminCompletion port status dw0 data => Sys2Proof.Machine.execNvmeAdminCompletion port status dw0 data s
  | .nvmeWriteCompletion port pair cid status => Sys2Proof.Machine.execNvmeWriteCompletion port pair cid status s
  | .nvmeReadCompletion port pair cid status data => Sys2Proof.Machine.execNvmeReadCompletion port pair cid status data s
  | .nvmeFlushCompletion port status => Sys2Proof.Machine.execNvmeFlushCompletion port status s
  | .writeTimeout port => Sys2Proof.Machine.execWriteTimeout port s
  | .magLinkDown port => Sys2Proof.Machine.execMagLinkDown port s
  | .pcieCompletionTimeout port => Sys2Proof.Machine.execPcieCompletionTimeout port s
  | .exchangeWaitTimeout => Sys2Proof.Machine.execExchangeWaitTimeout s
  | .drainConfirmTimeout slot => Sys2Proof.Machine.execDrainConfirmTimeout slot s
  | .pacePublish => Sys2Proof.Machine.execPacePublish s
  | .portShortTimeout port => Sys2Proof.Machine.execPortShortTimeout port s
  | .smartPoll => Sys2Proof.Machine.execSmartPoll s
  | .magMount m => Sys2Proof.Machine.execMagMount m s
  | .magUnmount m => Sys2Proof.Machine.execMagUnmount m s
  | .magSwap m => Sys2Proof.Machine.execMagSwap m s
  | .magFlush m => Sys2Proof.Machine.execMagFlush m s
  | .magLog m => Sys2Proof.Machine.execMagLog m s
  | .magIdent m => Sys2Proof.Machine.execMagIdent m s
  | .armOffload m source => Sys2Proof.Machine.execArmOffload m source s
  | .journalWaitExpiry port => Sys2Proof.Machine.execJournalWaitExpiry port s
  | .memCorrectedRead ch => Sys2Proof.Machine.execMemCorrectedRead ch s
  | .memUncorrectableRead addr mst user => Sys2Proof.Machine.execMemUncorrectableRead addr mst user s
  | .patrolScrub addr result => Sys2Proof.Machine.execPatrolScrub addr result s
  | .mcRetire mst v => Sys2Proof.Machine.execMcRetire mst v s
  | .retirementCopyDone => Sys2Proof.Machine.execRetirementCopyDone s
  | .channelLost ch => Sys2Proof.Machine.execChannelLost ch s
  | .refreshDue ch rfm neighbours => Sys2Proof.Machine.execRefreshDue ch rfm neighbours s
  | .dqsTrack ch adjusted beyondLimit => Sys2Proof.Machine.execDqsTrack ch adjusted beyondLimit s
  | .channelTrainingDone ch ok ms => Sys2Proof.Machine.execChannelTrainingDone ch ok ms s
  | .timeStepAdd mst v => Sys2Proof.Machine.execTimeStepAdd mst v s
  | .timeSetAbsolute mst v => Sys2Proof.Machine.execTimeSetAbsolute mst v s
  | .timeRateInstall mst v => Sys2Proof.Machine.execTimeRateInstall mst v s
  | .tmNowRead => Sys2Proof.Machine.execTmNowRead s
  | .tmFreeRead => Sys2Proof.Machine.execTmFreeRead s
  | .refclkLoss => Sys2Proof.Machine.execRefclkLoss s
  | .refclkReturn => Sys2Proof.Machine.execRefclkReturn s
  | .pinStamp src rising => Sys2Proof.Machine.execPinStamp src rising s
  | .ppsOut => Sys2Proof.Machine.execPpsOut s
  | .triggerDue head => Sys2Proof.Machine.execTriggerDue head s
  | .ethFrameReceive net frame => Sys2Proof.Machine.execEthFrameReceive net frame s
  | .ptpFrameTransmit net => Sys2Proof.Machine.execPtpFrameTransmit net s
  | .ptpMessageDue net msg => Sys2Proof.Machine.execPtpMessageDue net msg s
  | .announceReceiptTimeout net => Sys2Proof.Machine.execAnnounceReceiptTimeout net s
  | .netLinkChange net up => Sys2Proof.Machine.execNetLinkChange net up s
  | .ptpConfig m => Sys2Proof.Machine.execPtpConfig m s
  | .ptpStatus m hostOk => Sys2Proof.Machine.execPtpStatus m hostOk s
  | .timeSet m => Sys2Proof.Machine.execTimeSet m s
  | .trigSched m => Sys2Proof.Machine.execTrigSched m s
  | .trigCancel m => Sys2Proof.Machine.execTrigCancel m s
  | .tcConfig m => Sys2Proof.Machine.execTcConfig m s
  | .decodeTileDone pipe => Sys2Proof.Machine.execDecodeTileDone pipe s
  | .decodePictureComplete slot => Sys2Proof.Machine.execDecodePictureComplete slot s
  | .pacedRelease slot => Sys2Proof.Machine.execPacedRelease slot s
  | .proxySliceComplete slot => Sys2Proof.Machine.execProxySliceComplete slot s
  | .proxyPictureStart slot => Sys2Proof.Machine.execProxyPictureStart slot s
  | .rtcpSenderReport slot => Sys2Proof.Machine.execRtcpSenderReport slot s
  | .peerIdent p member sizeM1 port serial polarity delay01ns => Sys2Proof.Machine.execPeerIdent p member sizeM1 port serial polarity delay01ns s
  | .peerDataFlit p flit => Sys2Proof.Machine.execPeerDataFlit p flit s
  | .peerNak p seq => Sys2Proof.Machine.execPeerNak p seq s
  | .peerLinkLost p => Sys2Proof.Machine.execPeerLinkLost p s
  | .heartbeat => Sys2Proof.Machine.execHeartbeat s
  | .peerTime p sentNs sentFrac => Sys2Proof.Machine.execPeerTime p sentNs sentFrac s
  | .peerTimeSend => Sys2Proof.Machine.execPeerTimeSend s
  | .offerReq p streams sumMbps => Sys2Proof.Machine.execOfferReq p streams sumMbps s
  | .offer p port => Sys2Proof.Machine.execOffer p port s
  | .offerTimeout => Sys2Proof.Machine.execOfferTimeout s
  | .accept p takeId tStart srcVolume streams => Sys2Proof.Machine.execAccept p takeId tStart srcVolume streams s
  | .offerReleaseTimeout p => Sys2Proof.Machine.execOfferReleaseTimeout p s
  | .confirm p slot endAddr => Sys2Proof.Machine.execConfirm p slot endAddr s
  | .readReq p takeId recStream first mbps => Sys2Proof.Machine.execReadReq p takeId recStream first mbps s
  | .partnerFailed p => Sys2Proof.Machine.execPartnerFailed p s
  | .peerStatus m hostOk => Sys2Proof.Machine.execPeerStatus m hostOk s
  | .peerAccept m => Sys2Proof.Machine.execPeerAccept m s
  | .peerRefuse m => Sys2Proof.Machine.execPeerRefuse m s
  | .faultSourceEvent src mst access detail addr => Sys2Proof.Machine.execFaultSourceEvent src mst access detail addr s
  | .pathFault src => Sys2Proof.Machine.execPathFault src s
  | .quarantineClose => Sys2Proof.Machine.execQuarantineClose s
  | .fcClr mst src => Sys2Proof.Machine.execFcClr mst src s
  | .fcClrAll mst => Sys2Proof.Machine.execFcClrAll mst s
  | .fcRestore mst v => Sys2Proof.Machine.execFcRestore mst v s
  | .idleTimerExpiry dom => Sys2Proof.Machine.execIdleTimerExpiry dom s
  | .domainEntryDone dom => Sys2Proof.Machine.execDomainEntryDone dom s
  | .domainWake dom source => Sys2Proof.Machine.execDomainWake dom source s
  | .domainExitDone dom => Sys2Proof.Machine.execDomainExitDone dom s
  | .lpClreq mst v => Sys2Proof.Machine.execLpClreq mst v s
  | .lpTimerArm mst v => Sys2Proof.Machine.execLpTimerArm mst v s
  | .lpTimerExpiry => Sys2Proof.Machine.execLpTimerExpiry s
  | .dip rail mv => Sys2Proof.Machine.execDip rail mv s
  | .dipRecovery rail mv => Sys2Proof.Machine.execDipRecovery rail mv s
  | .freezeLift => Sys2Proof.Machine.execFreezeLift s
  | .supplyReset rail => Sys2Proof.Machine.execSupplyReset rail s
  | .powerOnReset gangId gangSzM1 => Sys2Proof.Machine.execPowerOnReset gangId gangSzM1 s
  | .seqRailGood rail => Sys2Proof.Machine.execSeqRailGood rail s
  | .seqRailTimeout rail => Sys2Proof.Machine.execSeqRailTimeout rail s
  | .seqRetry => Sys2Proof.Machine.execSeqRetry s
  | .pinReset => Sys2Proof.Machine.execPinReset s
  | .hostReset mst v => Sys2Proof.Machine.execHostReset mst v s
  | .bootImageLoaded => Sys2Proof.Machine.execBootImageLoaded s
  | .configRecordWaitEnd => Sys2Proof.Machine.execConfigRecordWaitEnd s
  | .flashReadPage mst => Sys2Proof.Machine.execFlashReadPage mst s
  | .flashProgram mst => Sys2Proof.Machine.execFlashProgram mst s
  | .flashErase mst => Sys2Proof.Machine.execFlashErase mst s
  | .flashCommandDone error => Sys2Proof.Machine.execFlashCommandDone error s
  | .rcLog0Read => Sys2Proof.Machine.execRcLog0Read s
  | .encTbytesRead pipe => Sys2Proof.Machine.execEncTbytesRead pipe s
  | .decSmpRead pipe => Sys2Proof.Machine.execDecSmpRead pipe s
  | .pxBytesRead engine => Sys2Proof.Machine.execPxBytesRead engine s
  | .prTxRead p => Sys2Proof.Machine.execPrTxRead p s
  | .testGatherBank mst index loop => Sys2Proof.Machine.execTestGatherBank mst index loop s
  | .testMagPort mst index loop => Sys2Proof.Machine.execTestMagPort mst index loop s
  | .testPeerPort mst index loop => Sys2Proof.Machine.execTestPeerPort mst index loop s
  | .testNetPort mst index loop => Sys2Proof.Machine.execTestNetPort mst index loop s
  | .testDdr5Channel mst index loop => Sys2Proof.Machine.execTestDdr5Channel mst index loop s
  | .testDone errors failed => Sys2Proof.Machine.execTestDone errors failed s
  | .bypass => Sys2Proof.Machine.execBypass s
  | .idcode => Sys2Proof.Machine.execIdcode s
  | .samplePreload preload => Sys2Proof.Machine.execSamplePreload preload s
  | .extest => Sys2Proof.Machine.execExtest s
  | .clamp => Sys2Proof.Machine.execClamp s
  | .highz => Sys2Proof.Machine.execHighz s
  | .pinResetRelease => Sys2Proof.Machine.execPinResetRelease s
  | .hostLinkUp speed widthLog2 => Sys2Proof.Machine.execHostLinkUp speed widthLog2 s
  | .datasetManagementCompletion port status => Sys2Proof.Machine.execDatasetManagementCompletion port status s
  | .proxyPacketLeavesPort slot => Sys2Proof.Machine.execProxyPacketLeavesPort slot s

end Sys2Proof.Machine
end

