-- ==== Sys2Proof/Machine/Idle.lean ====
section
/-! DEFINITION. What passes while no command waits: one tick of the counter FREE (R321), where its reference clock runs. -/
namespace Sys2Proof.Machine

/-- One tick of FREE, 1 ns, while the 156.25 MHz reference is present (R321); without it FREE stands still and
nothing changes (DESIGN CHOICE, log entry 4). -/
def idleTick (s : State) : State :=
  if s.core.time.refPresent then
    { s with core := { s.core with time := { s.core.time with free := (s.core.time.free + 1) % 2 ^ 64 } } }
  else s

end Sys2Proof.Machine
end

