-- ==== Sys2Proof/Safety.lean ====
section
/-! DEFINITION. The terms that the statements use: a command that answers a next state, a state at rest, an open page, and the
invariant that every step keeps. -/
namespace Sys2Proof.Machine

/-- The command answers a next state, and `P` holds of it. -/
def Answers (c : Instr) (s : State) (P : State → Prop) : Prop := ∃ t, exec c s = .next t ∧ P t

/-- No fault event waits for the collector. -/
def State.calm (s : State) : Bool := s.core.fault.raised.isEmpty

/-- The command's effect `f` raises no fault event (R354), so that its own writes are all that it does. -/
def State.calmFor (s : State) (f : Dev → Dev) : Bool := (f s.begin).core.fault.raised.isEmpty

/-- The collector knows this source: it is in fault state and its rails differ as they should, no quarantine window is open, the source
is not one of the sequencer's (which react to every event), and no event waits. One more event of it is counted and nothing reacts. -/
def State.knows (s : State) (src : Nat) : Bool :=
  s.calm && (srcInfo src).isSome && (s.begin.frec src).state && !(s.begin.frec src).railsEq && s.core.fault.windows.isEmpty &&
    !(decide (1734 ≤ src) && decide (src < 1750))

/-- A read of a page of BAR0 reaches its registers: the page answers, its domain is on, and no guarded value waits. -/
def State.reads (s : State) (page : Nat) : Bool :=
  s.calm && !(s.begin.bootGate && !bootPage page) && decide (s.begin.domState (pageDom page) = 0) && s.core.host.guards.isEmpty

/-- A table's keys are strictly rising: one entry for each key. -/
def rising {α : Type} : List (Nat × α) → Bool
  | [] => true
  | p :: m => (m.all fun q => decide (p.1 < q.1)) && rising m

/-- The state with another core. -/
def State.withCore (s : State) (c : Core) : State := { s with core := c }

/-- The canonical form of DRAM and of host memory: addresses strictly rising, no entry equal to what an unlisted address reads as. -/
def Memory.wf (m : List Host.Cell) : Bool := Sparse.wf memDefault m

/-- A register word keeps the bits that may not change: reserved bits read 0 (R22), fields of class ID never change (Table 2.4). -/
def regsFixed (m : List (Nat × Word)) : Bool := m.all fun p => regVal p.1 p.2 = p.2

/-- The invariant of every step: registers, DRAM and host memory in canonical form, and every register word with its fixed bits. -/
def State.inv (s : State) : Bool :=
  Sparse.wf resetWord s.regs && regsFixed s.regs && Memory.wf s.dram && Memory.wf s.hostMem

/-- A write by a master reaches the registers of a page: BAR0 answers it, its domain is on and stays on, its block is neither in
reset nor locked, no guarded value waits, configuration writes are not frozen, and no fault event waits for the collector. -/
def State.opens (s : State) (page : Nat) : Bool :=
  s.calm && s.begin.barLive && !(s.begin.bootGate && !bootPage page) && decide (s.begin.domState (pageDom page) = 0) &&
    (s.begin.enteringOf (pageDom page)).isNone && !s.begin.inReset page && decide (s.begin.reg (hdrAddr page 0x020) = 0) &&
    s.core.host.guards.isEmpty && !s.begin.frozen

/-- A mailbox holds the command, carried out with a status and RESULT and waiting for its completion entry (R36). -/
def State.done (s : State) (m : Nat) (c : MbxCmd) (status : Nat) (r0 r1 : Word) : Prop :=
  { c with stage := .done status r0 r1 } ∈ (s.begin.mbx m).cmds

/-- A mailbox holds the command, carried out and waiting for a head or a magazine (R239). -/
def State.waits (s : State) (m : Nat) (c : MbxCmd) : Prop := { c with stage := .waiting } ∈ (s.begin.mbx m).cmds

end Sys2Proof.Machine
end

