-- ==== Sys2Proof/Certificates/Slice0/Obligations.lean ====
section
/-! DEFINITION. The statements for the provers: one `def Obligations.<Name> : Prop` each. A clause holds for every state and every operand
that meets its hypotheses; `Answers c s P` says that the command completes, with a next state of which `P` holds. `s.begin` is the state as a
command reads it. -/
open Sys2Proof Sys2Proof.Machine

/-! ## The queue, the step and the invariant -/

/-- A step takes the command at the front of the queue and runs it on the state with the queue's rest. -/
def Obligations.StepRunsFrontCommand : Prop :=
  ∀ (c : Instr) (q : List Instr) (s : State), step (s.withPending (c :: q)) = exec c (s.withPending q)

/-- With no command waiting, a step lets one tick of FREE pass where the 156.25 MHz reference runs (R321), and changes nothing
where it does not. That a step of the model is this tick is the model's choice (log entry 4). -/
def Obligations.EmptyQueueLetsOneTickPass : Prop :=
  ∀ s : State, s.pending = [] →
    (s.core.time.refPresent = true →
      step s = .next (s.withCore { s.core with time := { s.core.time with free := (s.core.time.free + 1) % 2 ^ 64 } })) ∧
    (s.core.time.refPresent = false → step s = .next s)

/-- Every command answers a next state and leaves the commands that wait as they are (log entry 4: the queue is the model's). -/
def Obligations.EveryCommandAnswersAndKeepsQueue : Prop :=
  ∀ (c : Instr) (s : State), Answers c s fun t => t.pending = s.pending

/-- The state after a power-on reset meets the invariant. -/
def Obligations.ResetMeetsInvariant : Prop := State.reset.inv = true

/-- Every step keeps the invariant: registers, DRAM and host memory stay in canonical form, and the bits of every register word that may
not change stand at their fixed value. -/
def Obligations.EveryStepKeepsInvariant : Prop :=
  ∀ s t : State, s.inv = true → step s = .next t → t.inv = true

/-- In a state that meets the invariant every register reads 0 in its reserved bits and its fixed value in its fields of class ID, and so
does it after any command. -/
def Obligations.FixedBitsNeverChange : Prop :=
  ∀ (c : Instr) (s : State) (a : Nat), s.inv = true →
    (s.begin.reg a &&& ~~~wrMask a) = (resetWord a &&& ~~~wrMask a) ∧
    Answers c s fun t => (t.begin.reg a &&& ~~~wrMask a) = (resetWord a &&& ~~~wrMask a)

/-! ## JTAG and the latching reads -/

/-- The JTAG instructions (R409). Each is loaded; IDCODE loads 0xA10244ED; SAMPLE/PRELOAD sets the boundary-scan register where it preloads;
EXTEST and CLAMP drive the pins and HIGHZ floats them only while SYS_RESET_N is low. Nothing else changes. -/
def Obligations.JtagInstructionsLoad : Prop :=
  ∀ (s : State) (b : List Bool), s.calm = true →
    let put := fun (j : Jtag) => s.withCore { s.core with jtag := j }
    let j := s.core.jtag
    let low := s.core.lehr.pinLow
    exec .bypass s = .next (put { j with ir := .bypass, drivesPins := false, floatsPins := false }) ∧
    exec .idcode s = .next (put { j with ir := .idcode, dr := 0xA10244ED#32, drivesPins := false, floatsPins := false }) ∧
    exec (.samplePreload none) s = .next (put { j with ir := .samplePreload, drivesPins := false, floatsPins := false }) ∧
    exec (.samplePreload (some b)) s =
      .next (put { j with ir := .samplePreload, bsr := b, drivesPins := false, floatsPins := false }) ∧
    exec .extest s = .next (put { j with ir := .extest, drivesPins := low, floatsPins := false }) ∧
    exec .clamp s = .next (put { j with ir := .clamp, drivesPins := low, floatsPins := false }) ∧
    exec .highz s = .next (put { j with ir := .highz, drivesPins := false, floatsPins := low })

/-! ## Register writes by a master (chapter 02) -/

/-- A whole-dword write of a directly written register of an open page stores its writable bits and leaves the others, on the pages of NET,
CULLET pages 1 to 3, MARVER, MEM, PROXY, ME, ENC and DEC, where no register acts on being written (Table 2.7, R21), for every master class that is issued (R15). -/
def Obligations.DirectWriteStoresWritableBits : Prop :=
  ∀ (s : State) (mst : Fin 4096) (page off : Nat) (p : PageInfo) (v : Word),
    s.inv = true → s.opens page = true → pageInfo page = some p →
    p.kind ∈ [.net, .cullet1, .cullet2, .cullet3, .marver0, .marver1, .marver2, .marver3, .mem, .proxy, .me, .enc, .dec] →
    mst.val / 256 ≠ 0xF → off % 4 = 0 → 0x40 ≤ off → off < 0x1000 → hasAcc p.kind off .rw = true → guardedAt p.kind off = false →
    Answers (.registerWrite mst (page * 4096 + off) [(v, 0xF#4)]) s fun t =>
      t.begin.reg (page * 4096 + off) =
        (s.begin.reg (page * 4096 + off) &&& ~~~writableMask p.kind off) ||| (v &&& writableMask p.kind off)

/-- A guarded value whose complement does not come is dropped and counts one guard miss (R31). -/
def Obligations.GuardedPairExpires : Prop :=
  ∀ (s : State) (page : Fin 512), s.calm = true → (pageInfo page.val).isSome = true → (s.begin.pendOf page.val).isSome = true →
    Answers (.guardPairExpiry page) s fun t =>
      t.begin.pendOf page.val = none ∧
      t.begin.hget page.val fPG_EVT_GUARD_MISS = min (s.begin.hget page.val fPG_EVT_GUARD_MISS + 1) 255 ∧
      t.begin.hget page.val fPG_STAT_GUARD_MISS = 1

/-- PG_CTL and PG_STAT of an open page (R24, R27, R32): ENABLE and QUIESCE take the value written,
PG_STAT_CLR with the page's SEQ clears the masked bits, and RESET_REQ reads 1 after a reset request (where the request raises no fault event). -/
def Obligations.ControlAndStatusWrites : Prop :=
  ∀ (s : State) (mst : Fin 4096) (page : Fin 512) (on : Bool) (seq : BitVec 8) (mask : BitVec 24),
    s.opens page.val = true → (pageInfo page.val).isSome = true →
    (Answers (.enable mst page on) s fun t =>
      t.begin.hget page.val fPG_CTL_ENABLE = (if on then 1 else 0) ∧
      t.begin.hget page.val fPG_CTL_QUIESCE = s.begin.hget page.val fPG_CTL_QUIESCE) ∧
    (Answers (.quiesce mst page) s fun t =>
      t.begin.hget page.val fPG_CTL_QUIESCE = 1 ∧
      t.begin.hget page.val fPG_CTL_ENABLE = s.begin.hget page.val fPG_CTL_ENABLE) ∧
    (s.begin.reg (page.val * 4096 + 0x00C) >>> 24 = seq.setWidth 32 → Answers (.pgStatClr mst page seq mask) s fun t =>
      ∀ i, i < 24 → mask.getLsbD i = true → (t.begin.reg (page.val * 4096 + 0x00C)).getLsbD i = false) ∧
    (s.calmFor (fun d => d.busWrite mst.val (page.val * 4096 + 0x008) (d.reg (hdrAddr page.val 0x008) ||| 0x4#32)) = true →
      Answers (.resetReq mst page) s fun t => t.begin.hget page.val fPG_CTL_RESET_REQ = 1)

/-- The first write to PG_LOCK of an open page sets the lock bits it writes (R33). -/
def Obligations.FirstLockWriteSetsLocks : Prop :=
  ∀ (s : State) (mst : Fin 4096) (page : Fin 512) (v : Word), s.opens page.val = true → (pageInfo page.val).isSome = true →
    s.core.host.lockWritten.contains (blockIdx page.val) = false →
    Answers (.pgLockWrite mst page v) s fun t =>
      t.begin.reg (hdrAddr page.val 0x020) = v ∧ t.core.host.lockWritten = s.core.host.lockWritten ++ [blockIdx page.val]

/-! ## The host port and the mailboxes (chapter 02) -/

/-- The doorbells of a mailbox (R35, R36, R38): a write of SQ_TAIL makes the mailbox's event source assert, and so does one of CQ_HEAD, which
also returns the completion entries before the head written. -/
def Obligations.MailboxDoorbells : Prop :=
  ∀ (s : State) (m : Fin 16) (v : Word), s.opens 0xC = true →
    let n := s.begin.cqSize m.val
    let head := fMBX_CQ_HEAD_HEAD.ext v
    let left := ((s.begin.mbx m.val).cqTail + n - head) % n
    (Answers (.mbxSqTail m v) s fun t => (t.begin.evt m.val).level = true) ∧
    (s.begin.get .hostport 0 fMBX_CFG_EN m.val = 1 → head < n → left ≤ (s.begin.mbx m.val).unreturned →
      Answers (.mbxCqHead m v) s fun t => (t.begin.evt m.val).level = true ∧ (t.begin.mbx m.val).unreturned = left)

/-- MBXm_CFG (R38): setting EN while it is 0 and IDLE reads 1 restarts the mailbox with no command, completion slot 0 and PHASE 1; clearing EN
leaves what the mailbox holds. -/
def Obligations.MailboxEnableAndDisable : Prop :=
  ∀ (s : State) (m : Fin 16) (cfg : Word), s.opens 0xC = true →
    (s.begin.get .hostport 0 fMBX_CFG_EN m.val = 0 → s.begin.get .hostport 0 fMBX_STAT_IDLE m.val = 1 →
      4 ≤ fMBX_CFG_SQ_LOG2.ext cfg → fMBX_CFG_SQ_LOG2.ext cfg ≤ 12 → 4 ≤ fMBX_CFG_CQ_LOG2.ext cfg → fMBX_CFG_CQ_LOG2.ext cfg ≤ 12 →
      Answers (.mbxEnable m cfg) s fun t => t.begin.mbx m.val = Mailbox.rest ∧ t.begin.get .hostport 0 fMBX_STAT_SQ_HEAD m.val = 0) ∧
    (s.begin.get .hostport 0 fMBX_CFG_EN m.val = 1 → Answers (.mbxDisable m cfg) s fun t =>
      t.begin.get .hostport 0 fMBX_CFG_EN m.val = 0 ∧ t.begin.mbx m.val = s.begin.mbx m.val)

/-- A command whose entry was read is fetched (R36, R239): it stands behind the others of its mailbox, ready, or done with status 0x0001
for an unknown opcode and 0x0002 for a reserved bit set, or forwarded to the admission holder. -/
def Obligations.CommandFetchTakesEntry : Prop :=
  ∀ (s : State) (m : Fin 16) (e : List Word), s.calm = true →
    let t0 := s.begin.get .hostport 0 fMBX_CFG_TARGET m.val
    let ws := (List.range 16).map fun i => e.getD i 0
    let op := (ws.getD 0 0).toNat / 65536
    s.begin.get .hostport 0 fMBX_CFG_EN m.val = 1 → s.begin.get .hostport 0 fMBX_STAT_ERR m.val = 0 → s.begin.busMaster = true →
    s.begin.gafRuns t0 = true → s.begin.domState (0x89 + t0) = 0 →
    (s.begin.mbx m.val).cmds.length + (s.begin.mbx m.val).unreturned < s.begin.cqSize m.val →
    s.begin.get .hostport 0 fMBX_SQ_TAIL_TAIL m.val ≠ s.begin.get .hostport 0 fMBX_STAT_SQ_HEAD m.val →
    s.begin.get .hostport 0 fMBX_SQ_TAIL_TAIL m.val < s.begin.sqSize m.val →
    Answers (.commandFetch m (some e)) s fun t => ∃ c : MbxCmd,
      (t.begin.mbx m.val).cmds = (s.begin.mbx m.val).cmds ++ [c] ∧ c.words = ws ∧
      (cmdMasks op = none → c.stage = .done 1 0 0) ∧
      (∀ ms, cmdMasks op = some ms → reservedOk ws ms = false → c.stage = .done 2 0 0) ∧
      (∀ ms, cmdMasks op = some ms → reservedOk ws ms = true →
        c.stage = if forHolder op ∧ s.begin.holder ≠ some t0 then .forwarded else .ready)

/-- The oldest command that is done gets its completion entry, 16 bytes at its slot of the completion ring (R36): RESULT in DW0 and DW1, SQ_HEAD in
DW2, and status, PHASE and identifier in DW3. The command leaves the mailbox, and one more entry waits for the host. -/
def Obligations.CommandCompletionWritesEntry : Prop :=
  ∀ (s : State) (m : Fin 16) (c : MbxCmd) (status : Nat) (r0 r1 : Word), s.calm = true → s.begin.busMaster = true →
    (s.begin.mbx m.val).cmds.head? = some c → c.stage = .done status r0 r1 →
    let x := s.begin.mbx m.val
    let a := s.begin.get .hostport 0 fMBX_CQ_LO_ADDR_LO m.val * 16 + s.begin.get .hostport 0 fMBX_CQ_HI_ADDR_HI m.val * 2 ^ 32 + 16 * x.cqTail
    Answers (.commandCompletion m) s fun t =>
      (t.begin.mbx m.val).cmds = x.cmds.tail ∧ (t.begin.mbx m.val).unreturned = x.unreturned + 1 ∧
      (∀ i, i < 4 → t.begin.hostByte (a + i) = (leBytes 4 r0.toNat).getD i 0 ∧ t.begin.hostByte (a + 4 + i) = (leBytes 4 r1.toNat).getD i 0 ∧
        t.begin.hostByte (a + 8 + i) = (leBytes 4 (s.begin.get .hostport 0 fMBX_STAT_SQ_HEAD m.val)).getD i 0 ∧
        t.begin.hostByte (a + 12 + i) =
          (leBytes 4 (status % 2 ^ 15 * 2 ^ 17 + (if x.phase then 2 ^ 16 else 0) + (c.words.getD 0 0).toNat % 2 ^ 16)).getD i 0) ∧
      (∀ b, (b < a ∨ a + 16 ≤ b) → t.begin.hostByte b = s.begin.hostByte b) ∧ t.dram = s.dram

/-- The status mirror (R39): each write advances MIRROR_SEQ and writes 256 bytes at the mirror's address. -/
def Obligations.MirrorWriteFillsMirror : Prop :=
  ∀ s : State, s.calm = true → s.begin.get .hostport 0 fHP_MIRROR_CTL_EN = 1 → s.begin.get .hostport 0 fHP_MIRROR_CTL_PERIOD_US ≠ 0 →
    s.begin.busMaster = true →
    let a := s.begin.get .hostport 0 fHP_MIRROR_LO_ADDR_LO * 256 + s.begin.get .hostport 0 fHP_MIRROR_HI_ADDR_HI * 2 ^ 32
    Answers .mirrorWrite s fun t =>
      t.core.host.mirrorSeq = (s.core.host.mirrorSeq + 1) % 2 ^ 32 ∧
      (∀ i, i < 4 → t.begin.hostByte (a + 8 + i) = (leBytes 4 ((s.core.host.mirrorSeq + 1) % 2 ^ 32)).getD i 0) ∧
      (∀ b, (b < a ∨ a + 256 ≤ b) → t.begin.hostByte b = s.begin.hostByte b) ∧ t.regs = s.regs ∧ t.dram = s.dram

/-- A mode request (R46): with none waiting it waits for the admission holder, whose source asserts. -/
def Obligations.ModeRequestWaits : Prop :=
  ∀ (s : State) (mst : Fin 4096) (v : Word), s.opens 0 = true → s.core.host.modeReq = none → s.begin.base ≠ 0 →
    Answers (.modeRequest mst v) s fun t =>
      t.core.host.modeReq = some (v.toNat % 16) ∧ (t.begin.evt 119).level = true

/-- The host port's own state: Bus Master Enable and the power state (R20), PERST#, a hot reset or a link that goes down (R382), and a link that comes up. -/
def Obligations.HostPortFollowsItsLink : Prop :=
  ∀ (s : State) (bme d3 : Bool) (speed : Fin 8) (w : Fin 4), s.calm = true →
    (Answers (.hostBusMasterChange bme d3) s fun t =>
      t.begin.get .hostport 0 fHP_LINK_BME = (if bme then 1 else 0) ∧ t.core.host.d3hot = d3) ∧
    (Answers .hostPortLinkReset s fun t =>
      t.begin.get .hostport 0 fHP_LINK_SPEED = 0 ∧ t.begin.get .hostport 0 fHP_LINK_WIDTH = 0 ∧ t.begin.get .hostport 0 fHP_LINK_BME = 0 ∧
      t.core.host.d3hot = false) ∧
    (1 ≤ speed.val → speed.val ≤ 6 → Answers (.hostLinkUp speed w) s fun t =>
      t.begin.get .hostport 0 fHP_LINK_SPEED = speed.val ∧ t.begin.get .hostport 0 fHP_LINK_WIDTH = w.val)

/-- BAR2 (R40): with WR_EN 1 a write inside the mapped capacity stores its bytes and no others; a read of bursts that are not poisoned returns the
bytes of DRAM, a word at a time. -/
def Obligations.Bar2ReadsAndWritesDram : Prop :=
  ∀ (s : State) (off : Nat) (data : List Byte) (n : Fin 17), s.calm = true → s.begin.barLive = true →
    let a := s.begin.get .hostport 0 fHP_BAR2_CTL_WINDOW * 2 ^ 36 + off
    (s.begin.get .hostport 0 fHP_BAR2_CTL_WR_EN = 1 → off + data.length ≤ 2 ^ 36 → a + data.length ≤ s.begin.mapped →
      Answers (.bar2Write off data) s fun t =>
        (∀ i, i < data.length → t.begin.dramByte (a + i) = data.getD i 0) ∧
        (∀ b, (b < a ∨ a + data.length ≤ b) → t.begin.dramByte b = s.begin.dramByte b) ∧ t.hostMem = s.hostMem ∧ t.regs = s.regs) ∧
    (off % 4 = 0 → n.val ≠ 0 → off + 4 * n.val ≤ 2 ^ 36 → a + 4 * n.val ≤ s.begin.mapped →
      ((burstsOf a (4 * n.val)).any fun b => s.core.mem.poisoned b) = false →
      Answers (.bar2Read off n) s fun t =>
        t.core.host.rdata = (List.range n.val).map (fun i => BitVec.ofNat 32 (ofLe (s.begin.readDram (a + 4 * i) 4))) ∧
        t.core.host.rPoison = false ∧ t.dram = s.dram ∧ t.hostMem = s.hostMem ∧ t.regs = s.regs)

/-! ## Mailbox commands (Tables 12.3, 14.7, 17.4 and 18.6) -/

/-- FW_INFO, HEAD_WAKE, the allow list and the host's DRAM buffers (R239, R75, R81): each completes with status 0 and its RESULT, and does what it names.
A buffer's place is a free value (log entry 32): for every place that Config offers the buffer is there, or the command completes with status 0x0008
where the place is outside DRAM or overlaps another buffer. -/
def Obligations.HeadListAndBufferCommands : Prop :=
  ∀ (s : State) (m : Fin 16) (c : MbxCmd), s.calm = true →
    let h := argF c.words 2 9 0
    let n := arg64 c.words 2
    (s.begin.readyCmd m.val 0x01 = some c → Answers (.fwInfo m) s fun t =>
      t.done m.val c 0 (BitVec.ofNat 32 (s.begin.fwVer (s.begin.get .hostport 0 fMBX_CFG_TARGET m.val))) (BitVec.ofNat 32 encMcVer)) ∧
    (s.begin.readyCmd m.val 0x41 = some c → Answers (.headWake m) s fun t =>
      t.done m.val c 0 0 0 ∧ (t.begin.head h).lastFrame = wakeBurst ∧ (t.begin.head h).wakes = (s.begin.head h).wakes + 1) ∧
    (s.begin.readyCmd m.val 0x42 = some c → s.core.allow.contains n = false → s.core.allow.length < 4096 → Answers (.allowAdd m) s fun t =>
      t.done m.val c 0 (BitVec.ofNat 32 (s.core.allow.length + 1)) 0 ∧ t.core.allow = s.core.allow ++ [n]) ∧
    (s.begin.readyCmd m.val 0x43 = some c → Answers (.allowRemove m) s fun t =>
      t.done m.val c 0 (BitVec.ofNat 32 t.core.allow.length) 0 ∧ t.core.allow = s.core.allow.filter (fun k => k ≠ n)) ∧
    (s.begin.readyCmd m.val 0x50 = some c → argF c.words 2 31 0 ≠ 0 → Answers (.bufAssign m) s fun t =>
      match Config.bufPick (argF c.words 2 31 0) s.begin.free with
      | none => t.done m.val c 8 0 0
      | some k =>
        if 2 ^ 37 < k * 65536 + argF c.words 2 31 0 * 65536 ∨
            (s.core.host.bufs.any fun b => decide (k * 65536 < b.1 + b.2 ∧ b.1 < k * 65536 + argF c.words 2 31 0 * 65536)) = true then
          t.done m.val c 8 0 0
        else t.done m.val c 0 (BitVec.ofNat 32 (k * 65536)) (BitVec.ofNat 32 (k * 65536 / 2 ^ 32)) ∧
          t.core.host.bufs = s.core.host.bufs ++ [(k * 65536, argF c.words 2 31 0 * 65536)]) ∧
    (s.begin.readyCmd m.val 0x51 = some c → (s.core.host.bufs.any fun b => b.1 = n) = true → Answers (.bufFree m) s fun t =>
      t.done m.val c 0 0 0 ∧ t.core.host.bufs = s.core.host.bufs.filter (fun b => b.1 ≠ n))

/-- The time and network commands of Table 17.4: PTP_CONFIG sets a port's role and state, TIME_SET steps the time base by the value given (OFS 1) or to
it (OFS 2), TRIG_SCHED and TRIG_CANCEL begin and end a head's trigger schedule, TC_CONFIG sets the UTC offset's source and value (R332). -/
def Obligations.TimeAndNetworkCommands : Prop :=
  ∀ (s : State) (m : Fin 16) (c : MbxCmd), s.calm = true →
    let n := argF c.words 2 0 0
    let role := argF c.words 2 3 1
    let h := argF c.words 2 9 0
    let v := arg64 c.words 3 * 2 ^ 32 + argF c.words 5 31 0
    let free := (List.range 2).any fun n => decide ((s.begin.net n).state = .slave ∨ (s.begin.net n).state = .uncalibrated)
    (s.begin.readyCmd m.val 0x70 = some c → role ≤ 3 → (role = 1 ∨ role = 3 → s.begin.isRoot = true) → Answers (.ptpConfig m) s fun t =>
      t.done m.val c 0 0 0 ∧ (t.begin.net n).role = PtpRole.ofCode role ∧ (t.begin.net n).domain = argF c.words 2 15 8 ∧
      (t.begin.net n).state = if role = 0 then .disabled else if s.begin.netUp n then .listening else .faulty) ∧
    (s.begin.readyCmd m.val 0x72 = some c → free = false → argF c.words 2 1 0 = 1 → Answers (.timeSet m) s fun t =>
      t.done m.val c 0 0 0 ∧ t.core.time = { s.core.time with offset := s.core.time.offset + ofTwos 96 v }) ∧
    (s.begin.readyCmd m.val 0x72 = some c → free = false → argF c.words 2 1 0 = 2 → Answers (.timeSet m) s fun t =>
      t.done m.val c 0 0 0 ∧ t.begin.reading = v) ∧
    (s.begin.readyCmd m.val 0x73 = some c → argF c.words 5 31 0 ≠ 0 → argF c.words 6 31 0 ≠ 0 → s.begin.hdState h = 4 →
      Answers (.trigSched m) s fun t => t.done m.val c 0 0 0 ∧ t.core.time.trigs.lookup h =
        some ⟨argF c.words 2 31 16, arg64 c.words 3, argF c.words 5 31 0, argF c.words 6 31 0, argF c.words 7 23 0, argF c.words 8 31 0, 0⟩) ∧
    (s.begin.readyCmd m.val 0x74 = some c → Answers (.trigCancel m) s fun t =>
      t.done m.val c 0 0 0 ∧ ∀ p ∈ t.core.time.trigs, p.1 ≠ h) ∧
    (s.begin.readyCmd m.val 0x75 = some c → Answers (.tcConfig m) s fun t =>
      t.done m.val c 0 0 0 ∧ t.begin.get .time 0 fTM_TC_UTC_SRC = argF c.words 2 1 1 ∧ t.begin.get .time 0 fTM_TC_UTC_OFS = argF c.words 2 15 8)

/-- The commands that write a record into host memory (Tables 12.6, 17.4 and 18.6): with host memory answering, each writes its bytes at the address of its
parameters and completes with status 0; no other byte of host memory changes, and none of DRAM. -/
def Obligations.RecordCommandsFillHostMemory : Prop :=
  ∀ (s : State) (m : Fin 16) (c : MbxCmd), s.calm = true →
    let a := arg64 c.words 3
    let slot := argF c.words 2 10 0
    let fills := fun (cmd : Instr) (n : Nat) (r0 : Word) => Answers cmd s fun t =>
      t.done m.val c 0 r0 0 ∧ t.dram = s.dram ∧ t.regs = s.regs ∧ ∀ b, (b < a ∨ a + n ≤ b) → t.begin.hostByte b = s.begin.hostByte b
    (s.begin.readyCmd m.val 0x16 = some c → slot < 1536 → a % 64 = 0 →
      fills (.streamStatus m true) 64 0 ∧
      Answers (.streamStatus m true) s fun t => ∀ i, i < 64 → t.begin.hostByte (a + i) = (s.begin.statusBytes slot).getD i 0) ∧
    (s.begin.readyCmd m.val 0x33 = some c → 1280 ≤ slot → slot < 1536 → (s.begin.slot slot).state.live = true →
      fills (.getParamSets m true) (((Config.h265ParamSets slot).take (argF c.words 5 31 0)).length)
        (BitVec.ofNat 32 ((Config.h265ParamSets slot).take (argF c.words 5 31 0)).length)) ∧
    (s.begin.readyCmd m.val 0x71 = some c → fills (.ptpStatus m true) 64 0) ∧
    (s.begin.readyCmd m.val 0x80 = some c → argF c.words 2 1 0 ≠ 3 → fills (.peerStatus m true) 64 0)

/-- The commands that order something of a stream or a head (Table 12.3): SET_INGEST, FORCE_I, FORCE_IDR, HOST_META and HEAD_CMD. HEAD_CMD waits for
the ACK of its frame (R239). -/
def Obligations.StreamAndHeadOrders : Prop :=
  ∀ (s : State) (m : Fin 16) (c : MbxCmd), s.calm = true →
    let n := argF c.words 2 10 0
    (∀ x, s.begin.readyCmd m.val 0x30 = some c → s.begin.rec? n = some x → (s.begin.slot n).state.live = true →
      (ingParams c.words).ok (x.decl.cfa / 16) = true → Answers (.setIngest m) s fun t =>
        t.done m.val c 0 0 0 ∧ t.begin.rec? n = some { x with ingNext := some (ingParams c.words) }) ∧
    (∀ x, s.begin.readyCmd m.val 0x31 = some c → s.begin.rec? n = some x → ((s.begin.slot n).state = .armed ∨ (s.begin.slot n).state = .running) →
      Answers (.forceI m) s fun t => t.done m.val c 0 (match x.lastPic with
        | some p => BitVec.ofNat 32 (picAdd p.1 1)
        | none => 0x80000000#32) 0 ∧ t.begin.rec? n = some { x with forceI := true }) ∧
    (∀ x, s.begin.readyCmd m.val 0x32 = some c → 1280 ≤ n → n < 1536 → s.begin.proxy? n = some x → (s.begin.slot n).state.live = true →
      Answers (.forceIdr m) s fun t => t.done m.val c 0 0 0 ∧ t.begin.proxy? n = some { x with forceIdr := true }) ∧
    (∀ x data, s.begin.readyCmd m.val 0x34 = some c → n < 1024 → argF c.words 5 31 0 ≠ 0 → argF c.words 5 31 0 ≤ 4096 →
      s.begin.rec? n = some x → s.begin.streamOf x.par.head x.par.region = some (n, x) → (s.begin.slot n).state = .running → x.eosDone = false →
      Answers (.hostMeta m (some data)) s fun t => t.done m.val c 0 0 0 ∧
        ∃ y k, t.begin.rec? n = some y ∧ y.metaQ = x.metaQ ++ [k] ∧ k.kind = 3 ∧
          k.data = (List.range (argF c.words 5 31 0)).map fun i => data.getD i 0) ∧
    (s.begin.readyCmd m.val 0x40 = some c → argF c.words 2 21 16 ≠ 0 → argF c.words 2 21 16 ≤ 48 → s.begin.hdState (argF c.words 2 9 0) = 4 →
      Answers (.headCmd m) s fun t => t.waits m.val c ∧ ∃ f : BcFrame,
        (t.begin.head (argF c.words 2 9 0)).queue = (s.begin.head (argF c.words 2 9 0)).queue ++ [f] ∧ f.typ = 5 ∧
        f.payload.length = argF c.words 2 21 16 ∧ f.cmd = some (m.val, c.id))

/-- PEER_ACCEPT and PEER_REFUSE (R351): the acceptance of a kind and slot is made, in place of one made before, or ends. The admission holder takes
the oldest command forwarded to it (R236): it leaves the queue, and it is ready in its mailbox. -/
def Obligations.PeerAcceptancesAndForwardedCommands : Prop :=
  ∀ (s : State) (m : Fin 16) (c : MbxCmd), s.calm = true →
    let p := argF c.words 2 1 0
    let kept := (s.begin.peer p).accepts.filter fun b => !(decide (b.kind = argF c.words 2 4 4 ∧ b.slot = argF c.words 2 31 16))
    (s.begin.readyCmd m.val 0x81 = some c → p ≠ 3 → s.begin.peerUp p = true → Answers (.peerAccept m) s fun t =>
      t.done m.val c 0 0 0 ∧
      (t.begin.peer p).accepts = kept ++ [⟨argF c.words 2 4 4, argF c.words 2 31 16, argF c.words 3 13 0⟩]) ∧
    (s.begin.readyCmd m.val 0x82 = some c → p ≠ 3 → Answers (.peerRefuse m) s fun t =>
      t.done m.val c 0 0 0 ∧ (t.begin.peer p).accepts = kept) ∧
    (∀ (m g id : Nat) (rest : List Nat) (c : MbxCmd), s.core.host.fwdQueue = id :: rest → s.begin.holder = some g →
      c ∈ (s.begin.mbx m).cmds → c.id = id → c.stage = .forwarded → Answers .admissionForward s fun t =>
        t.core.host.fwdQueue = rest ∧ { c with stage := .ready } ∈ (t.begin.mbx m).cmds)

/-! ## Streams and takes (chapter 03) -/

/-- An arm that passes its checks (R53, Table 3.5): the slot reads ARMED with the priority asked for, and the command completes with
status 0. -/
def Obligations.ArmCommandsArmTheirSlot : Prop :=
  ∀ (s : State) (m : Fin 16) (c : MbxCmd), s.calm = true →
    let n := argF c.words 2 10 0
    let prio := argF c.words 2 31 29
    let armed := fun (cmd : Instr) => Answers cmd s fun t =>
      t.done m.val c 0 0 0 ∧ (t.begin.slot n).state = .armed ∧ (t.begin.slot n).prio = prio
    (s.begin.readyCmd m.val 0x10 = some c → (s.begin.armRecord n prio (recParams c.words)).2 = 0 → armed (.armRecord m)) ∧
    (∀ src, s.begin.readyCmd m.val 0x11 = some c →
      let p := decParams c.words s.begin.base
      p.source ≠ 1 → (Dev.peerGate s.begin (s.begin.armDecode n prio p src) n).2 = 0 → armed (.armDecode m src)) ∧
    (∀ tpl, s.begin.readyCmd m.val 0x12 = some c →
      (s.begin.armProxy n prio (proxyParams c.words) (argF c.words 12 31 16) (tpl.take (argF c.words 7 23 16))).2 = 0 →
      armed (.armProxy m (some tpl))) ∧
    (∀ src, s.begin.readyCmd m.val 0x65 = some c →
      (Dev.peerGate s.begin (s.begin.armOffload n prio (argF c.words 2 28 26) (argF c.words 3 31 16) (argF c.words 3 9 0) (argF c.words 4 19 0)
        (argF c.words 5 13 0) (if argF c.words 2 25 25 = 1 then some (argF c.words 2 24 23) else none) src) n).2 = 0 →
      armed (.armOffload m src))

/-- DISARM, RELEASE and CLOSE (Tables 3.3 and 12.3, R52): an ARMED slot outside a take and a slot that is not live return to IDLE; a RUNNING record,
decode or offload stream drains with close reason 0x02, and an ARMED decode or proxy stream closes with it. -/
def Obligations.StreamsEndOnCommand : Prop :=
  ∀ (s : State) (m : Fin 16) (c : MbxCmd), s.calm = true →
    let n := argF c.words 2 10 0
    (s.begin.readyCmd m.val 0x13 = some c → n < 1536 → (s.begin.slot n).state = .armed → (s.begin.slot n).inTake = false →
      s.calmFor (fun d => d.backToIdle n 0) = true → Answers (.disarm m) s fun t => t.begin.slot n = Slot.idle) ∧
    (s.begin.readyCmd m.val 0x14 = some c → n < 1536 → (s.begin.slot n).state.live = false → Answers (.release m) s fun t =>
      t.done m.val c 0 0 0 ∧ t.begin.slot n = Slot.idle ∧ (∀ k, k ≠ n → t.begin.slot k = s.begin.slot k)) ∧
    (s.begin.readyCmd m.val 0x15 = some c → n < 1280 → (s.begin.slot n).state = .running → Answers (.close m) s fun t =>
      t.done m.val c 0 0 0 ∧ (t.begin.slot n).state = .draining ∧ (t.begin.slot n).reason = 2) ∧
    (s.begin.readyCmd m.val 0x15 = some c → 1024 ≤ n → n < 1536 → (s.begin.slot n).state = .armed → (1280 ≤ n → (s.begin.proxy? n).isSome = true) →
      s.calmFor (fun d => d.closeStream n 2) = true →
      Answers (.close m) s fun t => (t.begin.slot n).state = .closed ∧ (t.begin.slot n).reason = 2)

/-- Takes (R56, R57): TAKE_START begins a take of the ARMED record streams with its start time, TAKE_STOP records the stop time, and at the stop time
the take's streams that have not ended drain with close reason 0x01. -/
def Obligations.TakesBeginAndEnd : Prop :=
  ∀ (s : State) (m : Fin 16) (c : MbxCmd), s.calm = true →
    let armed := (s.core.slots.filter fun p => decide (p.1 < 1024) && decide (p.2.state = .armed)).map (·.1)
    (s.begin.readyCmd m.val 0x20 = some c → s.begin.takeRuns = false → s.begin.safeHold = false →
      (s.begin.base = 2 ∨ s.begin.base = 3 ∨ s.begin.base = 5) →
      armed ≠ [] → (∀ n ∈ armed, s.begin.recheck n = 0 ∧ (s.begin.slot n).state = .armed) → Answers (.takeStart m) s fun t =>
        ∃ k, t.core.take = some k ∧ k.tStart = arg64 c.words 2 ∧ k.tStop = none ∧ k.slots = armed ∧
          ∀ n ∈ armed, (t.begin.slot n).inTake = true ∧ (t.begin.slot n).state = .armed) ∧
    (∀ k, s.begin.readyCmd m.val 0x21 = some c → s.begin.get .device 0 fDEV_TAKE_TAKE_STATE = 2 → s.core.take = some k → Answers (.takeStop m) s fun t =>
      t.done m.val c 0 (BitVec.ofNat 32 (s.begin.get .device 0 fDEV_TAKE_TAKE_ID)) 0 ∧ t.core.take = some { k with tStop := some (arg64 c.words 2) }) ∧
    (∀ k ts n, s.core.take = some k → k.tStop = some ts → ts ≤ s.begin.now → s.core.exchange = none → n ∈ k.slots →
      ((s.begin.slot n).state = .running ∨ (s.begin.slot n).state = .armed) → Answers .takeStopTime s fun t =>
        (t.begin.slot n).state = .draining ∧ (t.begin.slot n).reason = 1)

/-! ## The time base (chapter 17) -/

/-- The reading of the time base (R322): FREE since the last rate change, times the rate, on OFFSET, in units of 2^-32 ns, its integer part in
nanoseconds; a new rate takes effect with OFFSET and FREE_R at that tick, so that the reading is continuous; a read of TM_NOW_LO answers the nanoseconds' low word and latches
TM_NOW_HI and TM_NOW_FRAC from the same tick. -/
def Obligations.TimeBaseReadingFollowsRate : Prop :=
  ∀ (s : State) (mst : Fin 4096) (v : Word),
    let tm := s.core.time
    let rate := s.begin.get .time 0 fTM_RATE_INT_INT * 2 ^ 32 + s.begin.get .time 0 fTM_RATE_FRAC_FRAC
    ((s.begin.reading : Int) = (tm.offset + ((tm.free : Int) - tm.freeR) * tm.rate) % 2 ^ 96) ∧ s.begin.now = s.begin.reading / 2 ^ 32 ∧
    (s.opens 8 = true → fTM_APPLY_OFS.ext v = 0 → Answers (.timeRateInstall mst v) s fun t =>
      t.core.time = { tm with offset := tm.offset + ((tm.free : Int) - tm.freeR) * tm.rate, freeR := tm.free, rate := min 0x100418937 (max 0xFFBE76C9 rate) } ∧
      t.begin.reading = s.begin.reading) ∧
    (s.reads 8 = true → Answers .tmNowRead s fun t => t.core.host.rdata = [BitVec.ofNat 32 s.begin.now] ∧
      t.begin.get .time 0 fTM_NOW_HI_NS_HI = s.begin.now / 2 ^ 32 ∧ t.begin.get .time 0 fTM_NOW_FRAC_FRAC = s.begin.reading % 2 ^ 32 ∧
      t.core.time = s.core.time)

/-- A complete pair on TM_APPLY of an open page (R323): OFS 1 adds TM_SET to OFFSET as a signed step, and OFS 2 sets OFFSET so that the reading equals
TM_SET. -/
def Obligations.TimeStepsThroughApply : Prop :=
  ∀ (s : State) (mst : Fin 4096) (v : Word), s.opens 8 = true →
    let set_ := s.begin.get .time 0 fTM_SET_LO_SET * 2 ^ 32 + s.begin.get .time 0 fTM_SET_HI_SET * 2 ^ 64 + s.begin.get .time 0 fTM_SET_FRAC_SET
    (fTM_APPLY_RATE_EN.ext v = 0 → Answers (.timeStepAdd mst v) s fun t =>
      t.core.time = { s.core.time with offset := s.core.time.offset + ofTwos 96 set_ }) ∧
    (fTM_APPLY_RATE_EN.ext v = 0 → Answers (.timeSetAbsolute mst v) s fun t =>
      t.begin.reading = set_ ∧ t.core.time = { s.core.time with offset := t.core.time.offset })

/-- The reads that latch (R321, R203, Tables 5.12, 10.8, 11.4 and 18.5): a read of the low word of FREE and of the four byte and sample
counters latches the upper words of the same tick; a read of RC_LOG0 takes the oldest entry away and latches its second word. -/
def Obligations.ReadsLatchUpperWords : Prop :=
  ∀ (s : State) (pe : Fin 68) (pd : Fin 20) (px : Fin 4) (pr : Fin 3),
    let latched := fun (t : State) (lo hi : Nat) => t.core.host.rdata = [s.begin.readReg lo] ∧ t.core.host.latched.lookup hi = some (s.begin.reg hi)
    (s.reads 8 = true → s.core.time.free < 2 ^ 64 → Answers .tmFreeRead s fun t => t.core.host.rdata = [s.begin.readReg 0x804C] ∧
      t.begin.get .time 0 fTM_FREE_HI_FREE_HI = s.begin.free / 2 ^ 32 ∧ t.core.time = s.core.time) ∧
    (∀ e es, s.reads 0x1C = true → s.core.rcLog = e :: es → Answers .rcLog0Read s fun t => t.core.rcLog = es ∧
      t.begin.get .marver0 0 fRC_LOG1_PICTURE = fRC_LOG1_PICTURE.ext e.2) ∧
    (s.reads (fieldAddr .enc pe.val fENC_TBYTES_LO_BYTES_LO 0 / 4096) = true → Answers (.encTbytesRead pe) s fun t =>
      latched t (fieldAddr .enc pe.val fENC_TBYTES_LO_BYTES_LO 0) (fieldAddr .enc pe.val fENC_TBYTES_HI_BYTES_HI 0)) ∧
    (s.reads (fieldAddr .dec pd.val fDEC_SMP_LO_SAMPLES_LO 0 / 4096) = true → Answers (.decSmpRead pd) s fun t =>
      latched t (fieldAddr .dec pd.val fDEC_SMP_LO_SAMPLES_LO 0) (fieldAddr .dec pd.val fDEC_SMP_HI_SAMPLES_HI 0)) ∧
    (s.reads (fieldAddr .proxy px.val fPX_BYTES_LO_BYTES_LO 0 / 4096) = true → Answers (.pxBytesRead px) s fun t =>
      latched t (fieldAddr .proxy px.val fPX_BYTES_LO_BYTES_LO 0) (fieldAddr .proxy px.val fPX_BYTES_HI_BYTES_HI 0)) ∧
    (s.reads (fieldAddr .peer pr.val fPR_TX_LO_BYTES_LO 0 / 4096) = true → Answers (.prTxRead pr) s fun t =>
      latched t (fieldAddr .peer pr.val fPR_TX_LO_BYTES_LO 0) (fieldAddr .peer pr.val fPR_TX_HI_BYTES_HI 0))

/-- The reference, the pins and the triggers (R324, R326, R327, R333): a lost reference stops the time base and raises its fault source, a returning one starts it;
a stamped edge enters the stamp FIFO with the reading, the oldest entry leaving a full one; TIME_PPS_OUT rises at a whole second; a trigger that falls due inside LEAD is queued as
a frame to its head, and its schedule moves on. -/
def Obligations.ReferenceStampsAndTriggers : Prop :=
  ∀ (s : State) (src : Fin 9) (rising : Bool) (h : Fin 1024), s.calm = true →
    (s.knows 1806 = true → s.core.time.refPresent = true → Answers .refclkLoss s fun t =>
      t.core.time = { s.core.time with refPresent := false } ∧ (t.begin.frec 1806).state = true) ∧
    (Answers .refclkReturn s fun t => t.core.time = { s.core.time with refPresent := true } ∧ t.begin.get .time 0 fTM_STAT_VALID = 1 ∧
      (t.begin.frec 1806).level = false) ∧
    ((s.begin.get .time 0 fTM_STAMP_EN_SRC).testBit src.val = true → Answers (.pinStamp src rising) s fun t =>
      t.core.time.stampSeq = (s.core.time.stampSeq + 1) % 65536 ∧
      t.core.time.stamps = (if 256 ≤ s.core.time.stamps.length then s.core.time.stamps.drop 1 else s.core.time.stamps) ++
        [[BitVec.ofNat 32 (src.val * 2 ^ 24 + (if rising then 2 ^ 23 else 0) + s.core.time.stampSeq % 65536),
          BitVec.ofNat 32 (s.begin.reading / 2 ^ 32), BitVec.ofNat 32 (s.begin.reading / 2 ^ 64), BitVec.ofNat 32 s.begin.reading]]) ∧
    (s.begin.get .time 0 fTM_PPS_OUT_EN = 1 → s.core.time.refPresent = true → s.begin.now % 1000000000 = 0 → Answers .ppsOut s fun t =>
      t.core.time = { s.core.time with pps := some (s.core.time.free, max 1 (s.begin.get .time 0 fTM_PPS_WIDTH_US)) }) ∧
    (∀ g, s.core.time.trigs.lookup h.val = some g → (g.count = 0 ∨ g.k + 1 < g.count) → s.begin.now < g.tFirst + g.k * 1000000000 * g.den / g.num →
      g.tFirst + g.k * 1000000000 * g.den / g.num ≤ s.begin.now + min 50000 (max 800 (s.begin.get .time 0 fTM_TRIG_CFG_LEAD_US)) * 1000 →
      Answers (.triggerDue h) s fun t =>
        (t.begin.head h.val).queue = (s.begin.head h.val).queue ++
          [⟨3, beBytes 8 (g.tFirst + g.k * 1000000000 * g.den / g.num) ++ beBytes 2 g.mask ++ beBytes 3 (picAdd g.picFirst g.k), none⟩] ∧
        t.core.time.trigs.lookup h.val = some { g with k := g.k + 1 } ∧ (t.begin.evt 112).level = true)

/-- The Ethernet ports (R328 to R331): an accepted PTP frame enters the receive FIFO with its stamp, where the FIFO has room
(its depth is a free value, log entry 26), a filtered one leaves it as it is; the first queued frame goes
out, an event message leaving its transmit stamp; a master's Sync interval queues a Sync; a slave that hears no Announce becomes master unless it may only follow; a link that goes down
empties the port's frames. -/
def Obligations.NetworkPortsFollowFrames : Prop :=
  ∀ (s : State) (n : Fin 2) (f : List Byte), s.calm = true →
    let x := s.begin.net n.val
    (∀ p, s.begin.netUp n.val = true → s.begin.ptpPart n.val f = some p → peerDelayMsg (fieldBe p 0 1 % 16) = false →
      Answers (.ethFrameReceive n f) s fun t =>
        if x.rx.length < Config.ptpFifoDepth then (t.begin.net n.val).rx = x.rx ++ [(p, s.begin.rxStamp n.val)] ∧ (t.begin.evt (110 + n.val)).level = true
        else t.core = s.core ∧ t.begin.get .net n.val fNET_RX_DROP_OVERRUN = min (s.begin.get .net n.val fNET_RX_DROP_OVERRUN + 1) (2 ^ 16 - 1)) ∧
    (s.begin.netUp n.val = true → s.begin.ptpPart n.val f = none → Answers (.ethFrameReceive n f) s fun t =>
      t.core = s.core ∧ t.begin.get .net n.val fNET_RX_DROP_FILTER = min (s.begin.get .net n.val fNET_RX_DROP_FILTER + 1) (2 ^ 16 - 1)) ∧
    (∀ typ g rest, s.begin.netUp n.val = true → x.tx = (typ, g) :: rest → Answers (.ptpFrameTransmit n) s fun t =>
      (t.begin.net n.val).tx = rest ∧ (t.begin.net n.val).lastFrame = g ∧
      (t.begin.net n.val).txStamps = if typ ≤ 1 then x.txStamps ++ [(typ, s.begin.txStamp n.val)] else x.txStamps) ∧
    (s.begin.netUp n.val = true → s.begin.gafRuns 0 = true → x.state = .master → Answers (.ptpMessageDue n 0) s fun t =>
      (t.begin.net n.val).tx = x.tx ++ [(0, Config.ptpFrame n.val 0 s.begin.free)]) ∧
    (x.state = .slave → Answers (.announceReceiptTimeout n) s fun t =>
      (t.begin.net n.val).state = match x.role with
        | .disabled => .disabled
        | .slaveOnly => .listening
        | _ => .master) ∧
    (s.begin.netUp n.val = true → Answers (.netLinkChange n false) s fun t =>
      (t.begin.net n.val).tx = [] ∧ (t.begin.net n.val).state = (if x.role = .disabled then .disabled else .faulty) ∧
      (t.begin.evt (110 + n.val)).level = true)

/-! ## The head links (chapter 04) -/

/-- The frame that stands first in a head's queue goes out (R71, R72): it leaves the queue, its octets carry the head's TAG and its payload, and TAG advances by one.
A TRAIN frame is timed for its ECHO; a TIME frame goes out when no frame of a higher rank waits. A frame not acknowledged in 200 µs that was sent again fewer than three times is sent again. -/
def Obligations.BackChannelFramesGoOut : Prop :=
  ∀ (s : State) (h : Fin 1024) (tag : BitVec 8), s.calm = true →
    let x := s.begin.head h.val
    let sends := fun (cmd : Instr) (typ : Nat) => ∀ f, s.begin.frameDue h.val typ = some f → Answers cmd s fun t =>
      (t.begin.head h.val).queue = x.queue.erase f ∧ (t.begin.head h.val).tag = (x.tag + 1) % 256 ∧
      (t.begin.head h.val).lastFrame = frameOctets typ x.tag (s.begin.framePayload h.val f)
    sends (.replayFrame h) 1 ∧ sends (.laneMapFrame h) 2 ∧ sends (.triggerFrame h) 3 ∧ sends (.hostCmdFrame h) 5 ∧ sends (.challengeFrame h) 6 ∧
    sends (.admitFrame h) 7 ∧ sends (.trainFrame h) 8 ∧ sends (.ackFrame h) 9 ∧
    (∀ f, s.begin.frameDue h.val 8 = some f → Answers (.trainFrame h) s fun t => (t.begin.head h.val).trainAt = some s.core.time.free) ∧
    (∀ dl, x.delay = some dl → s.begin.hdState h.val ∈ [1, 2, 3, 4] → x.queue.all (fun f => decide (5 ≤ frameRank f.typ)) = true →
      Answers (.timeFrame h) s fun t =>
        (t.begin.head h.val).lastFrame = frameOctets 4 x.tag (beBytes 8 (s.begin.now + dl)) ∧ (t.begin.head h.val).queue = x.queue) ∧
    (∀ u, x.unacked.find? (fun u => u.tag = tag.toNat) = some u → u.resends < 3 → Answers (.backchannelResendTimeout h tag) s fun t =>
      (t.begin.head h.val).lastFrame = frameOctets u.frame.typ u.tag u.frame.payload ∧
      (t.begin.head h.val).unacked = x.unacked.map fun v => if v.tag = tag.toNat then { v with resends := v.resends + 1 } else v)

/-- The lanes (R65, R66, R67, R79, R81): a lane that gains block lock reads locked, and its fault level ends; one that loses it forgets what it learned; an ALIGN block is learned,
and a lane that shows a run of its own forms a head, which is sent TRAIN; a head whose lanes have all lost lock for 1 ms loses its run and its frames; a wake pattern tells the bank's controller. -/
def Obligations.LanesLockAlignAndFail : Prop :=
  ∀ (s : State) (n : Fin 1024) (logical carry spares : BitVec 8) (count : BitVec 16) (bad : Nat), s.calm = true →
    let x := s.begin.head n.val
    let seen : Lane := ⟨logical.toNat, carry.toNat, spares.toNat, count.toNat, s.core.time.free, if 16 < bad then (s.begin.lane n.val).bad + 1 else 0, true⟩
    (s.begin.laneBit fGT_LANE_ON_ON n.val = true → s.core.fault.heldDown.contains (63 + n.val / 32) = false → Answers (.blockLockGained n) s fun t =>
      (t.begin.frec (366 + n.val)).level = false ∧ t.core.lanes = s.core.lanes ∧
      (s.begin.domState (0x69 + n.val / 32) = 0 → t.begin.laneBit fGT_LOCK_STAT_LOCKED n.val = true)) ∧
    (s.begin.laneBit fGT_LOCK_STAT_LOCKED n.val = true → s.begin.headOfLane n.val = none → Answers (.blockLockLost n) s fun t =>
      t.begin.lane n.val = Lane.rest ∧ t.core.heads = s.core.heads) ∧
    (s.begin.laneBit fGT_LOCK_STAT_LOCKED n.val = true → s.begin.headOfLane n.val = none → Answers (.align n logical carry spares count bad) s fun t =>
      t.begin.lane n.val = seen) ∧
    (s.begin.laneBit fGT_LOCK_STAT_LOCKED n.val = true → s.begin.headOfLane n.val = none → logical = 0#8 → carry = 1#8 → spares = 0#8 →
      Answers (.align n logical carry spares count bad) s fun t =>
        (t.begin.head n.val).run = [n.val] ∧ (t.begin.head n.val).queue = [⟨8, [1#8], none⟩]) ∧
    (x.run ≠ [] → s.begin.hdState n.val ≠ 5 → x.run.all (fun k => !s.begin.laneBit fGT_LOCK_STAT_LOCKED k) = true → Answers (.linkLost n) s fun t =>
      t.begin.head n.val = { x with
        run := [], expSeq := none, gap := false, fails := 0, mapOut := false, replayOut := false, delay := none, trainAt := none, queue := [], unacked := [] }) ∧
    (Answers (.wakePattern n) s fun t => (t.begin.evt (16 + n.val / 32)).level = true ∧ t.core.heads = s.core.heads)

/-- GT_QREL and GT_LANE_ON of an open Gather page (Table 4.9 case 5, R65): the quarantined head slots named are released with an empty queue and may be heard again; the
lanes named are on, and the heads stay as they are where no lane was locked. -/
def Obligations.GatherReleasesAndEnables : Prop :=
  ∀ (s : State) (mst : Fin 4096) (bank : Fin 32) (v : Word), s.opens (0x80 + bank.val) = true →
    (∀ i, i < 32 → v.getLsbD i = true → s.begin.hdState (bank.val * 32 + i) = 5 → Answers (.gtQrel mst bank v) s fun t =>
      (t.begin.head (bank.val * 32 + i)).queue = [] ∧ (t.begin.head (bank.val * 32 + i)).helloAt = none ∧ t.core.lanes = s.core.lanes) ∧
    (s.begin.get .gather bank.val fGT_LOCK_STAT_LOCKED = 0 → Answers (.gtLaneOn mst bank v) s fun t =>
      t.begin.get .gather bank.val fGT_LANE_ON_ON = v.toNat ∧ t.core = s.core)

/-- The packets of declaration and admission (R73 to R76, R72, Table 4.5): HELLO is taken with its declaration; a RESPONSE with the right tag of R76 is answered with ACK and ADMIT of
code 0, one with a wrong tag with ADMIT of cause 2, and none in 10 ms with ADMIT of cause 3; an ACK takes the frame it names from the list; an ECHO gives the one-way delay. -/
def Obligations.HeadsDeclareAndAreAdmitted : Prop :=
  ∀ (s : State) (h : Fin 1024) (p : List Byte), s.calm = true →
    let x := s.begin.head h.val
    let k := pktHdr p
    let inOrder := pktCrcOk p = true ∧ x.expSeq = some k.seq
    (pktCrcOk p = true → s.begin.hdState h.val = 1 → x.delay.isSome = true → x.run ≠ [] → k.flags % 64 = 0 → k.resv = 0 → k.line = 0 → k.off = 0 → k.depth = 0 →
      28 ≤ k.count → (∀ t, x.helloAt = some t → t + 10000000 ≤ s.core.time.free) → Answers (.hello h p) s fun t =>
        (t.begin.head h.val).decl = some (parseHello (pktPayload p)) ∧ (t.begin.head h.val).hello = p.take 16 ++ pktPayload p ∧
        (t.begin.head h.val).helloAt = some s.core.time.free) ∧
    (inOrder → k.plain 32 = true → s.begin.hdState h.val = 3 →
      pktPayload p = authTag (s.core.stageKey.getD []) ((x.decl.map (·.serial)).getD 0) x.nonce x.hello → Answers (.response h p) s fun t =>
        (t.begin.head h.val).queue = x.queue.filter (fun f => f.typ ≠ 1) ++ [⟨9, beBytes 2 k.seq, none⟩, ⟨7, leBytes 1 0 ++ beBytes 2 h.val, none⟩]) ∧
    (inOrder → k.plain 32 = true → s.begin.hdState h.val = 3 →
      pktPayload p ≠ authTag (s.core.stageKey.getD []) ((x.decl.map (·.serial)).getD 0) x.nonce x.hello → Answers (.response h p) s fun t =>
        (t.begin.head h.val).queue = x.queue.filter (fun f => f.typ = 9) ++ [⟨7, leBytes 1 2 ++ beBytes 2 h.val, none⟩]) ∧
    (s.begin.hdState h.val = 3 → Answers (.responseTimeout h) s fun t =>
      (t.begin.head h.val).queue = x.queue.filter (fun f => f.typ = 9) ++ [⟨7, leBytes 1 3 ++ beBytes 2 h.val, none⟩]) ∧
    (inOrder → k.plain 2 = true → s.begin.hdState h.val = 4 → Answers (.ack h p) s fun t =>
      (t.begin.head h.val).unacked = x.unacked.filter fun u => u.tag ≠ fieldBe (pktPayload p) 0 1) ∧
    (∀ a, x.trainAt = some a → s.begin.hdState h.val = 1 → pktCrcOk p = true → k.plain 3 = true → Answers (.echo h p) s fun t =>
      t.begin.head h.val = { x with delay := some ((s.core.time.free - a - fieldBe (pktPayload p) 1 2) / 2), trainAt := none })

/-- The packets of an admitted head (R64, R68, R77, R80, R87, R98, R155, R175): PSTART begins the region's picture with its stamp; a SAMPLE packet in order takes its credit and puts its samples into
their line; META and MOTION packets in order queue their metadata for the stream. A millisecond's end clears the discards, and a tick fills the police credits up to 64 steps. -/
def Obligations.PacketsOfAdmittedHeads : Prop :=
  ∀ (s : State) (h : Fin 1024) (region : Fin 16) (picture : BitVec 24) (p : List Byte) (n : Nat) (x : RecStream) (g : RegionDecl), s.calm = true →
    let d := s.begin
    let hd := d.head h.val
    let k := pktHdr p
    let inOrder := pktCrcOk p = true ∧ hd.expSeq = some k.seq ∧ d.hdState h.val = 4 ∧ k.replayed = false
    let feeds := d.regionOf h.val k.region = some g ∧ d.streamOf h.val k.region = some (n, x) ∧ d.rec? n = some x ∧ (d.slot n).state = .running ∧
      d.pictureOk h.val k.region k.pic = true
    (d.hdState h.val = 4 → ((hd.decl.map (·.regions)).getD []).any (fun g => g.region = region.val) = true → hd.regionPic region.val = none →
      Answers (.pstart h region picture) s fun t =>
        (t.begin.head h.val).regionPic region.val = some ⟨region.val, picture.toNat, d.now, d.free⟩) ∧
    (∀ rp q, inOrder → feeds → k.typ = 0 → k.flags % 64 = 0 → k.resv = 0 → k.depth = g.d → k.line < g.h → k.off + k.count ≤ g.w → k.count ≠ 0 → k.count ≤ 2048 →
      (256 ≤ k.count ∨ k.off + k.count = g.w) → k.count * g.d ≤ hd.credS → hd.regionPic k.region = some rp → rp.pic = k.pic →
      x.firstPic.isSome = true → x.pic? k.pic = some q → (∀ z, x.firstOpen = some z → d.rowMoment x z.1 (z.1.row z.2) = none) →
      (q.row (k.line / x.decl.geo.hT)).closed = 0 → (q.row (k.line / x.decl.geo.hT)).lost = false → (q.line k.line).done = false →
      ((q.line k.line).spans.any fun e => decide (k.off < e.1 + e.2.length ∧ e.1 < k.off + k.count)) = false → q.idx * x.decl.h + k.line < x.decl.ringLines →
      LineBuf.values { q.line k.line with spans := (q.line k.line).spans ++ [(k.off, unpackBits g.d k.count (bitsOf (pktPayload p)))] } x.decl.w = none →
      Answers (.sample h p) s fun t =>
        (t.begin.head h.val).credS = hd.credS - k.count * g.d ∧
        ∃ y q', t.begin.rec? n = some y ∧ y.pic? k.pic = some q' ∧
          (q'.line k.line).spans = (q.line k.line).spans ++ [(k.off, unpackBits g.d k.count (bitsOf (pktPayload p)))]) ∧
    (inOrder → feeds → k.typ = 1 → k.plain k.count = true → k.count ≠ 0 → k.count ≤ 4096 → 8 * k.count * 50000 ≤ hd.credM → x.eosDone = false →
      Answers (.metaPacket h p) s fun t => ∃ y, t.begin.rec? n = some y ∧
        y.metaQ = x.metaQ ++ [⟨1, (x.pics.filter fun q => !q.trailer).getLast?.map (·.pic), d.now, pktPayload p, none⟩]) ∧
    (inOrder → feeds → k.typ = 2 → k.plain 16 = true → rising s.core.recs = true → motionOk (pktPayload p) = true → fieldBe (pktPayload p) 0 1 = k.region → 8 * 16 * 50000 ≤ hd.credM →
      x.eosDone = false → (∀ rp, hd.regionPic k.region = some rp → picAhead (fieldBe (pktPayload p) 2 3) rp.pic = 1) → Answers (.motion h p) s fun t =>
        ∃ y, t.begin.rec? n = some y ∧
          y.motion = x.motion ++ [⟨fieldBe (pktPayload p) 2 3, fieldBe (pktPayload p) 5 1, ofTwos 16 (fieldBe (pktPayload p) 6 2), ofTwos 16 (fieldBe (pktPayload p) 8 2)⟩]) ∧
    (Answers .hostileIntervalEnd s fun t => ∀ i, (t.begin.head i).discards = 0) ∧
    ((s.core.heads.map (·.1)).Nodup → d.hdState h.val = 4 → s.core.heads.lookup h.val = some hd → Answers .policeCreditTick s fun t =>
      let st := sampleStep ((hd.decl.map (·.rate)).getD 0)
      let ms := ((hd.decl.map (·.metaRate)).getD 0) * 51
      t.begin.head h.val = { hd with credS := min (hd.credS + st) (64 * st), credM := min (hd.credM + ms) (64 * ms) })

/-! ## Ingest and coding (chapters 05 to 09) -/

/-- The first open row of a stream whose moment has come closes (R99, R100): complete, or absent with its cause; where no later row is due, nothing else of the stream changes. A picture that is overdue is
declared missing (R102): it joins the stream with an estimated T0 one period after the last, every row absent with cause 3. -/
def Obligations.RowsCloseAndPicturesMiss : Prop :=
  ∀ (s : State) (n : Fin 1024) (x : RecStream), s.calm = true → s.begin.rec? n.val = some x →
    let d := s.begin
    let shut := fun (cause : Nat) (w : RowSt) =>
      if cause = 0 then { w with closed := 1, closedAt := d.free }
      else { w with closed := 2, cause := cause, closedAt := d.free, tiles := [], waiting := false }
    (∀ q r c, x.firstOpen = some (q, r) → d.rowMoment x q (q.row r) = some c →
      let y := x.modPic q.pic fun q => q.modRow r (shut c)
      (∀ z, y.firstOpen = some z → ((z.1.row z.2).doneAt = none ∨ (z.1.row z.2).lost = true) ∧ (∀ t, (z.1.row z.2).holdEnd = some t → d.free < t) ∧
        d.free < z.1.t0Free + x.decl.period + 70000) →
      (Answers (.holdExpiry n) s fun t => t.begin.rec? n.val = some y ∧ t.core.heads = s.core.heads) ∧
      (Answers (.pictureDeadline n) s fun t => t.begin.rec? n.val = some y ∧ t.core.heads = s.core.heads)) ∧
    (∀ rp, (d.head x.par.head).regionPic x.par.region = some rp → (d.slot n.val).state = .running → (d.slot n.val).closePend = none →
      d.pastStop (d.slot n.val) = false → Answers (.missingPicture n) s fun t => ∃ y q, t.begin.rec? n.val = some y ∧ y.pics = x.pics ++ [q] ∧
        q.pic = picAdd rp.pic 1 ∧ q.t0 = rp.t0 + x.decl.period ∧ q.est = true ∧ q.missing = true ∧
        ∀ w ∈ q.rows, w.closed = 2 ∧ w.cause = 3)

/-- Coding a row (R54, R97, R167, R195, R198): its grant is the larger of X_r and the smaller of A_r + C_r and the room; the first tile that is ready goes to the pipeline that R54 names; a checkpoint counts its
strip at every tile that is being coded; a tile that passes its bound check is coded and frees its pipeline; an emitted unit counts once, by its row's kind. -/
def Obligations.RowsAreGrantedCodedAndEmitted : Prop :=
  ∀ (s : State) (n : Fin 1024) (x : RecStream), s.calm = true → s.begin.rec? n.val = some x →
    let d := s.begin
    let room := fun (q : PicSt) (r : Nat) => (((8 * x.bs : Int) - x.f) / 8) - x.granted - x.reserved q r
    (∀ q r, x.toGrant = some (q, r) → x.pic? q.pic = some q → (x.decl.geo.xRow r : Int) ≤ room q r → Answers (.rowGrant n) s fun t => ∃ y q', t.begin.rec? n.val = some y ∧
      y.pic? q.pic = some q' ∧ (q'.row r).grant = some y.lastGrant ∧ (q'.row r).bound = x.eOf x.rung ∧
      y.lastGrant = (max (x.decl.geo.xRow r : Int) (min (x.allot q r + x.carryAt q r) (room q r))).toNat) ∧
    (∀ (cl : Fin 16) (p : Nat) (k : ReadyTile) (ks : List ReadyTile), d.readyTiles cl.val = k :: ks → d.pipeFor cl.val k = some p → (d.rec? k.slot).isSome = true →
      Answers (.tileDispatch cl) s fun t => (t.begin.enc p).job = some (k.slot, k.pic, k.row, k.col)) ∧
    (∀ q r k, (x.pics.find? fun q => decide ((q.row r).closed ≠ 2) && !(q.row r).tiles.isEmpty && ((q.row r).tiles.all fun t => decide (t.stage ≠ 0)) &&
        !(q.row r).coded) = some q → k ≠ 0 → k ≤ x.decl.geo.strips r → (q.row r).linesIn (x.decl.geo.stripLines r k) = true →
      ((q.row r).tiles.all fun t => decide (t.stage = 2 ∨ t.strips + 1 = k)) = true → (q.row r).attempt ≠ 1 → Answers (.stripCheckpoint n r k) s fun t =>
        t.begin.rec? n.val = some (x.modPic q.pic fun q => q.modRow r fun w =>
          { w with tiles := w.tiles.map fun t => if t.stage = 1 then { t with strips := k } else t })) ∧
    (∀ (p : Fin 68) q r c, (d.enc p.val).job = some (n.val, q.pic, r, c) → x.pic? q.pic = some q → (q.row r).closed ≠ 2 → (q.row r).lost = false →
      (q.row r).doneAt.isSome = true → (encodeBounded (d.tileParams n.val x q r c) (q.tileSample x.decl.geo r c)).boundOk = true →
      (q.row r).tiles[c]?.isSome = true → Answers (.tileCommit p true) s fun t => (t.begin.enc p.val).job = none ∧
        ∃ y q', t.begin.rec? n.val = some y ∧ y.pic? q.pic = some q' ∧ ((q'.row r).tiles[c]?.map (·.stage)) = some 2) ∧
    (∀ q r, x.nextRow = some (q, r) → (q.row r).unitReady = true → q.hdr = true →
      ((d.digestRow n.val q.pic r).emitUnit n.val 3 (if q.supply then 1 else 0) q.pic (rowBody q r)).2 = true →
      s.calmFor (fun d => (d.digestRow n.val q.pic r).rowEmit n.val) = true → Answers (.tileRowEmit n) s fun t => ∃ y, t.begin.rec? n.val = some y ∧
        y.rowsAbs = x.rowsAbs + (if (q.row r).closed = 2 then 1 else 0) ∧
        y.rowsExh = x.rowsExh + (if (q.row r).closed ≠ 2 ∧ (q.row r).exhCause ≠ 0 then 1 else 0) ∧
        y.rowsStr = x.rowsStr + (if (q.row r).closed ≠ 2 ∧ (q.row r).exhCause = 0 ∧ x.par.eT < (q.row r).bound then 1 else 0))

/-- The 1 µs slots (R189, R199): every live record stream drains by D_s where no row waits for a grant; each quadrant's restart credit grows by 4,000 samples for each working pipeline, less its load, up to its limit. -/
def Obligations.MarverCountsItsSlots : Prop :=
  ∀ (s : State) (q : Fin 4), s.calm = true →
    (rising s.core.recs = true →
      (s.core.recs.all fun p => p.2.pics.all fun q => q.rows.all fun w => !(w.waiting && decide (w.closed ≠ 2))) = true →
      Answers .mrmDrainTick s fun t => ∀ n x, s.begin.rec? n = some x → (s.begin.slot n).state.live = true →
        t.begin.rec? n = some { x with f := x.f - x.ds }) ∧
    (Answers .restartCreditTick s fun t => t.core = s.core ∧
      t.begin.get .marver0 0 fRC_CREDIT_SAMPLES q.val =
        min (s.begin.get .marver0 0 fRC_CREDIT_SAMPLES q.val + 4000 * s.begin.encWorking q.val - cdiv (s.begin.quadLoad q.val) 1000000) (2 ^ 24 - 1))

/-- Orders and machine checks (R231 to R234): an order is latched once at its pipeline; a commit point takes the orders latched at a decode pipeline, and at an encode pipeline where
order 0 is not among them; a machine check counts its fault and takes the
tile in flight from the pipeline. -/
def Obligations.OrdersAndMachineChecks : Prop :=
  ∀ (s : State) (p : Fin 68) (pd : Fin 20) (o : Fin 5) (gap : BitVec 12) (ua : BitVec 13) (gr : BitVec 8), s.calm = true →
    (Answers (.pipelineOrder false p o) s fun t => (t.begin.enc p.val).orders =
      if (s.begin.enc p.val).orders.contains o.val then (s.begin.enc p.val).orders else (s.begin.enc p.val).orders ++ [o.val]) ∧
    (p.val < 20 → Answers (.pipelineOrder true p o) s fun t => (t.begin.decp p.val).orders =
      if (s.begin.decp p.val).orders.contains o.val then (s.begin.decp p.val).orders else (s.begin.decp p.val).orders ++ [o.val]) ∧
    (p.val < 20 → Answers (.commitPoint true p gap) s fun t => t.begin.decp p.val = { s.begin.decp p.val with orders := [] }) ∧
    ((s.begin.enc p.val).orders.contains 0 = false → Answers (.commitPoint false p gap) s fun t =>
      t.begin.enc p.val = { s.begin.enc p.val with orders := [] }) ∧
    (s.knows (1454 + 3 * p.val) = true → s.begin.enabled (0xA0 + p.val) = true → Answers (.machineCheck false p ua gr) s fun t =>
      (t.begin.enc p.val).job = none ∧ (t.begin.frec (1454 + 3 * p.val)).total = min ((s.begin.frec (1454 + 3 * p.val)).total + 1) (2 ^ 32 - 1)) ∧
    (s.knows (1658 + 3 * pd.val) = true → s.begin.enabled (0xF0 + pd.val) = true → (s.begin.decp pd.val).job = none →
      Answers (.machineCheck true (pd.castLE (by decide)) ua gr) s fun t =>
        (t.begin.frec (1658 + 3 * pd.val)).total = min ((s.begin.frec (1658 + 3 * pd.val)).total + 1) (2 ^ 32 - 1) ∧ t.core.decp = s.core.decp)

/-! ## Queues, DMA and chunks (chapter 13) -/

/-- Rings and leases (R249, R252, R254): a lease is granted to the asker or refused; one held for 100 µs is broken, its ring freed and QLEASE counted; TAIL and HEAD advance while the ring has room and entries;
a doorbell is a TAIL advance of its descriptor ring by the host; a pair on QU_RCFG enables the selected ring from its base registers. -/
def Obligations.RingsAdvanceUnderLeases : Prop :=
  ∀ (s : State) (n : Fin 16384) (tag v : BitVec 16) (mst : Fin 4096) (i : Fin 4096) (w : Word), s.calm = true →
    let r := s.begin.ring n.val
    (Answers (.leaseRequest n tag) s fun t => t.begin.ring n.val =
      if r.leased = true ∧ r.leaseOwner = 0xFFFF then
        { r with leaseOwner := tag.toNat, leaseAt := s.begin.free, abandoned := r.abandoned.filter (· ≠ tag.toNat) } else r) ∧
    (s.knows 1804 = true → r.leaseOwner ≠ 0xFFFF → r.leaseAt + 100000 ≤ s.begin.free → Answers (.leaseExpiry n) s fun t =>
      (t.begin.ring n.val).leaseOwner = 0xFFFF ∧ r.leaseOwner ∈ (t.begin.ring n.val).abandoned ∧
      (t.begin.frec 1804).total = min ((s.begin.frec 1804).total + 1) (2 ^ 32 - 1)) ∧
    (r.en = true → (r.leaseOwner = 0xFFFF ∨ s.begin.free < r.leaseAt + 100000) → (r.leased = true → r.leaseOwner = tag.toNat) →
      (v.toNat + 65536 - r.head) % 65536 ≤ 2 ^ r.sizeLog2 → Answers (.ringTailAdvance n tag v) s fun t =>
        (t.begin.ring n.val).tail = v.toNat ∧ (t.begin.ring n.val).head = r.head ∧ (r.leased = true → (t.begin.ring n.val).leaseOwner = 0xFFFF)) ∧
    (r.en = true → (v.toNat + 65536 - r.head) % 65536 ≤ r.occ → Answers (.ringHeadAdvance n v) s fun t =>
      t.begin.ring n.val = { r with head := v.toNat, lastHead := s.begin.free }) ∧
    (s.opens (0x21 + i.val / 512) = true → let q := s.begin.ring (8192 + i.val)
      q.en = true → q.leased = false → q.leaseOwner = 0xFFFF → (w.toNat % 65536 + 65536 - q.head) % 65536 ≤ 2 ^ q.sizeLog2 →
      Answers (.quDb mst i w) s fun t => (t.begin.ring (8192 + i.val)).tail = w.toNat % 65536) ∧
    (s.opens 0x20 = true → s.begin.ringConfigOk w = true → fQU_RCFG_EN.ext w = 1 → Answers (.quRcfg mst w) s fun t =>
      let q := t.begin.ring (s.begin.get .queue0 0 fQU_RSEL_RING)
      q.en = true ∧ q.hostMem = true ∧ q.owner = 0x1000 ∧ q.sizeLog2 = max 4 (fQU_RCFG_SIZE_LOG2.ext w) ∧
      q.base = s.begin.get .queue0 0 fQU_RBASE_LO_ADDR_LO * 256 + s.begin.get .queue0 0 fQU_RBASE_HI_ADDR_HI * 2 ^ 32)

/-- DMA and circular channels (R253, R255): a descriptor of OP 4 stores what the engine read at its device address and completes with DONE, STATUS 0 and DONE_BYTES; a request line starts the channels on it, or is
held; a burst that completes advances PTR and, from a peripheral, stands in the channel's buffer; a pair that enables a channel records its owner. -/
def Obligations.DescriptorsAndChannelsMove : Prop :=
  ∀ (s : State) (r : Fin 4096) (desc : List Word) (data : List Byte) (line : Fin 256) (ch : Fin 64) (mst : Fin 4096) (v : Word), s.calm = true →
    let d := s.begin
    let q := d.ring (8192 + r.val)
    let dev := (desc.getD 4 0).toNat + (desc.getD 5 0).toNat * 2 ^ 32
    let a := q.entryAddr (8192 + r.val) q.head
    let c := d.chan ch.val
    let on := fun (k : Nat) => line.val ≤ 10 ∧ d.get .queueCh (k / 32) fCH_CFG_EN (k % 32) = 1 ∧ d.get .queueCh (k / 32) fCH_CFG_LINE (k % 32) = line.val
    let p := d.get .queueCh (ch.val / 32) fCH_PTR_PTR (ch.val % 32)
    (q.en = true → q.hostMem = true → q.occ ≠ 0 → d.domState 0xC3 ≠ 2 → desc.length = 8 → (desc.getD 0 0).toNat / 256 % 256 = 4 →
      data.length = (desc.getD 1 0).toNat → Answers (.dmaDescriptorDone r desc 0 data) s fun t =>
        (∀ k, k < data.length → t.begin.dramByte (dev + k) = data.getD k 0) ∧
        (∀ b, b < dev ∨ dev + data.length ≤ b → t.begin.dramByte b = d.dramByte b) ∧
        t.begin.hostByte (a + 3) = 0x80#8 ∧ (∀ k, k < 4 → t.begin.hostByte (a + 24 + k) = (leBytes 4 data.length).getD k 0) ∧
        (∀ b, ¬ (a ≤ b ∧ b < a + 4) → ¬ (a + 24 ≤ b ∧ b < a + 28) → t.begin.hostByte b = d.hostByte b) ∧
        (t.begin.ring (8192 + r.val)).head = (q.head + 1) % 65536) ∧
    ((∀ k, k < 64 → on k → (d.chan k).held = false) → Answers (.dmaRequestLine line) s fun t => t.regs = s.regs ∧
      (on ch.val → t.begin.chan ch.val = if c.running then { c with held := true } else { c with running := true }) ∧
      (¬ on ch.val → t.begin.chan ch.val = c)) ∧
    (c.running = true → d.get .queueCh (ch.val / 32) fCH_CFG_DIR (ch.val % 32) = 1 → Answers (.dmaBurstDone ch data) s fun t =>
      t.begin.chan ch.val = { running := c.held, held := false } ∧ t.dram = s.dram ∧
      t.begin.get .queueCh (ch.val / 32) fCH_PTR_PTR (ch.val % 32) = (p + d.chanBurst ch.val) % d.chanSize ch.val) ∧
    (c.running = true → d.get .queueCh (ch.val / 32) fCH_CFG_DIR (ch.val % 32) = 0 → 2 ≤ d.get .queueCh (ch.val / 32) fCH_CFG_LINE (ch.val % 32) →
      data.length = d.chanBurst ch.val → Answers (.dmaBurstDone ch data) s fun t =>
        t.begin.chan ch.val = { running := c.held, held := false } ∧
        (∀ k, k < data.length → t.begin.dramByte (d.chanBase ch.val + p + k) = data.getD k 0) ∧
        (∀ b, b < d.chanBase ch.val + p ∨ d.chanBase ch.val + p + data.length ≤ b → t.begin.dramByte b = d.dramByte b)) ∧
    (s.opens (0x29 + ch.val / 32) = true → fCH_CFG_EN.ext v = 1 → Answers (.chCfgWrite mst ch v) s fun t =>
      t.begin.get .queueCh (ch.val / 32) fCH_CFG_EN (ch.val % 32) = 1 ∧
      t.begin.get .queueCh (ch.val / 32) fCH_CFG_LINE (ch.val % 32) = fCH_CFG_LINE.ext v ∧
      t.begin.get .queueCh (ch.val / 32) fCH_OWNER_OWNER (ch.val % 32) = 0x1000 + mst.val)

/-- The calendar wheel, the schedulers and Cullet (R257 to R263): a paced ring whose slot is reached takes up D_s and becomes active; the scheduler of an output visits its next active ring and releases its piece; every ring's
depth and delay is recorded; a tag below its quota gets a free large chunk; a chunk whose last hold goes is freed and signalled. -/
def Obligations.WheelReleasesAndCulletCounts : Prop :=
  ∀ (s : State) (n : Nat) (r : Ring) (x : RecStream) (o : Fin 12) (tag : BitVec 16) (cls : Fin 8) (h : Word), s.calm = true →
    let d := s.begin
    let c := s.core.cullet
    (rising s.core.rings = true → s.core.rings.lookup n = some r → d.rec? (n - 12288) = some x → r.inCal = true → r.slot = d.nowUs % 4096 → r.carryUs = 0 →
      x.nextPiece ≠ 0 → x.ds ≠ 0 → x.dsAt / 1000 ≠ d.nowUs → Answers .calendarSlot s fun t =>
        (t.begin.ring n).active = true ∧ (t.begin.ring n).inCal = false ∧ (t.begin.ring n).parked = false ∧ (t.begin.ring n).dsUsed = x.ds) ∧
    ((((s.core.rings.filter fun p => decide (12288 ≤ p.1 ∧ p.1 < 13824) && decide (p.2.output = o.val) && d.ringActive p.1 p.2).map (·.1)).find?
        fun n => decide ((s.core.drr.lookup o.val).getD 0 < n)) = some n → d.rec? (n - 12288) = some x → 12288 ≤ n →
      x.nextPiece ≠ 0 → (x.nextPiece : Int) ≤ (d.ring n).deficit + ((d.ring n).quantum * 4096 : Nat) → d.allowance x x.nextPiece = true →
      Answers (.pieceRelease o) s fun t => t.core.drr.lookup o.val = some n ∧
        ∃ y, t.begin.rec? (n - 12288) = some y ∧ roundUp (x.relAddr + x.nextPiece) pieceBytes ≤ y.relAddr) ∧
    (rising s.core.rings = true → s.core.rings.lookup n = some r → Answers .ringSample s fun t => (t.begin.ring n).hist =
      (((if r.occ = 0 then 0 else min 65535 ((d.free - max r.lastHead r.nonEmptyAt) / 1000)), r.occ) :: r.hist).take 32) ∧
    (∀ i, i < d.largeCount → (c.chunks.any fun p => p.1 = largeHandle i) = false → c.holds.length < 65536 → c.held tag.toNat < c.quota tag.toNat →
      Answers (.chunkAllocate tag cls true) s fun t => ∃ k, k < d.largeCount ∧ (c.chunks.any fun p => p.1 = largeHandle k) = false ∧
        t.core.cullet = { c with chunks := tset c.chunks (largeHandle k) ⟨tag.toNat, true, cls.val⟩, holds := c.holds ++ [(largeHandle k, tag.toNat)] }) ∧
    (c.holds.contains (h.toNat, tag.toNat) = true → ((c.holds.erase (h.toNat, tag.toNat)).any fun p => p.1 = h.toNat) = false →
      Answers (.chunkRelease h tag) s fun t => (t.begin.evt 114).level = true ∧
        t.core.cullet = { c with holds := c.holds.erase (h.toNat, tag.toNat), chunks := c.chunks.filter fun p => p.1 ≠ h.toNat })

/-! ## Controllers and events (chapter 12) -/

/-- Controllers and event sources (R237, R241 to R244, R355): a scan boundary advances the heartbeat and takes the first pending source, whose count and level fall; a halt, by the firmware or by a heartbeat that stood still for 10 ms,
of a controller that serves no stream, the admission holder included, stops the controller and counts its source; a source asserts and releases, outside lines through their filter; a pair on EVT_SRCn sets it, and a retarget leaves the view where it was until the next boundary; FABRIC counts. -/
def Obligations.ControllersScanAndSourcesPend : Prop :=
  ∀ (s : State) (c : Fin 8) (n : Fin 256) (b : Fin 183) (mst : Fin 4096) (v : Word), s.calm = true →
    let d := s.begin
    let src := 1734 + 2 * c.val
    let halts := fun (t : State) => t.begin.get .gaffer c.val fGF_STAT_RUNNING = 0 ∧ t.begin.get .gaffer c.val fGF_STAT_HALTED = 1 ∧
      (t.begin.gaf c.val).busy = false ∧ (t.begin.frec src).total = min ((d.frec src).total + 1) (2 ^ 32 - 1)
    let mayHalt := d.gafRuns c.val = true ∧ (∃ k, k < 8 ∧ k ≠ c.val ∧ d.gafRuns k = true) ∧ d.holder = (List.range 8).find? d.gafRuns ∧
      (d.holder = some c.val → s.core.host.fwdQueue = [] ∧ s.core.host.modeReq = none) ∧
      (d.liveSlots.all fun p => decide (p.2.ctl ≠ c.val)) = true ∧ (d.frec src).state = true ∧ (d.frec src).railsEq = false ∧ s.core.fault.windows = []
    (d.gafRuns c.val = true → d.domState (0x89 + c.val) = 0 → (s.core.evts.all fun p => decide (p.2.oldTarget ≠ some c.val)) = true →
      s.calmFor (fun d => d.scanBoundary c.val) = true → Answers (.scanBoundary c) s fun t => ∃ e : Dev, e.core.evts = d.core.evts ∧
        e.get .gaffer c.val fGF_HEARTBEAT_SCANS = (d.get .gaffer c.val fGF_HEARTBEAT_SCANS + 1) % 2 ^ 32 ∧ (e.gaf c.val).lastScan = d.free ∧
        match e.firstSource c.val with
        | none => t = s.commit (e.serveAll c.val) ∧ (e.gaf c.val).busy = false
        | some k => ∃ x : Dev, t = s.commit ((x.handle k).serveAll c.val) ∧ (x.gaf c.val).busy = true ∧ (k < 256 → x.get .event 0 fEVT_SRC_COUNT k = 0 ∧
          ((evtExternal k || keepsLevel k) = false → (x.evt k).level = false ∧ x.get .event 0 fEVT_SRC_PEND k = 0))) ∧
    (mayHalt → Answers (.gafferHalt c) s halts) ∧
    (mayHalt → d.domState (0x89 + c.val) = 0 → (d.gaf c.val).busy = true → (d.gaf c.val).lastScan + 10000000 ≤ d.free →
      Answers (.gafferHeartbeatTimeout c) s halts) ∧
    (n.val < 136 → evtExternal n.val = false → (Answers (.eventAssert n true) s fun t => (t.begin.evt n.val).level = true) ∧
      Answers (.eventAssert n false) s fun t => (t.begin.evt n.val).level = false ∧ t.begin.get .event 0 fEVT_SRC_PEND n.val = 0) ∧
    (evtExternal n.val = true → d.domState 0xC0 = 0 → (Answers (.externalFilterPass n true) s fun t => (t.begin.evt n.val).level = true) ∧
      Answers (.externalFilterPass n false) s fun t => (t.begin.evt n.val).level = false ∧ t.begin.get .event 0 fEVT_SRC_PEND n.val = 0) ∧
    (s.opens 0xB = true → n.val ≠ 119 → ¬ (n.val < 16 ∨ (120 ≤ n.val ∧ n.val < 128)) →
      (fEVT_SRC_TARGET.ext v = d.evtView n.val → Answers (.evtSrcWrite mst n v) s fun t => t.begin.get .event 0 fEVT_SRC_TARGET n.val = fEVT_SRC_TARGET.ext v ∧
        t.begin.get .event 0 fEVT_SRC_ENABLE n.val = fEVT_SRC_ENABLE.ext v ∧ (t.begin.evt n.val).oldTarget = none) ∧
      (fEVT_SRC_TARGET.ext v ≠ d.evtView n.val → d.gafRuns (d.evtView n.val) = true → d.domState (0x89 + d.evtView n.val) = 0 → d.evtView n.val < 8 →
        Answers (.evtSrcWrite mst n v) s fun t => t.begin.get .event 0 fEVT_SRC_TARGET n.val = fEVT_SRC_TARGET.ext v ∧
          (t.begin.evt n.val).oldTarget = some (d.evtView n.val))) ∧
    (s.knows (1808 + b.val) = true → Answers (.fabricHandshakeTimeout b) s fun t =>
      (t.begin.frec (1808 + b.val)).total = min ((d.frec (1808 + b.val)).total + 1) (2 ^ 32 - 1))

/-! ## Magazine ports (chapter 14) -/

/-- Magazine ports (R269, R270, R272, R273, R278, R281, R191): presence, the steps of Table 14.3 up to the admin commands and their refusals with a
CAUSE, a link that goes down, SMART polls and completion timeouts; R_m is published each millisecond; a short port closes its streams in order. -/
def Obligations.MagazinesComeGoAndPace : Prop :=
  ∀ (s : State) (m sp wd : Fin 8) (mqes : BitVec 16) (mps : BitVec 4), s.calm = true → s.core.lehr.entering = [] →
    let d := s.begin
    let x := d.mag m.val
    let st := d.get .mag m.val fMAG_STAT_STATE
    let bare := x.ios = [] ∧ x.admin = [] ∧ x.waiters = [] ∧ x.swapCmd = none
    let told := fun (t : State) (n : Nat) => (t.begin.evt n).level = true
    let refused := fun (t : State) (cause : Nat) => t.begin.get .mag m.val fMAG_STAT_STATE = 5 ∧ t.begin.get .mag m.val fMAG_STAT_CAUSE = cause ∧
      (t.begin.mag m.val).vol = none ∧ told t (88 + m.val)
    let seen := fun (t : State) => t.begin.get .mag m.val fMAG_STAT_PRESENT = 1 ∧ told t (96 + m.val)
    (d.get .mag m.val fMAG_STAT_PRESENT = 0 →
      (d.get .mag m.val fMAG_CFG_AUTO_MOUNT = 0 → Answers (.magPresenceChange m true) s fun t => seen t ∧ (t.begin.mag m.val).presentAt = some d.free) ∧
      (d.get .mag m.val fMAG_CFG_AUTO_MOUNT = 1 → s.core.exchange = none → bare → Answers (.magPresenceChange m true) s fun t => seen t ∧
        t.begin.get .mag m.val fMAG_STAT_STATE = 1 ∧ (t.begin.mag m.val).pwren = true ∧ (t.begin.mag m.val).perstN = false)) ∧
    (d.get .mag m.val fMAG_STAT_PRESENT = 1 → st = 0 ∨ st = 6 → Answers (.magPresenceChange m false) s fun t =>
      t.begin.get .mag m.val fMAG_STAT_PRESENT = 0 ∧ told t (96 + m.val)) ∧
    (∀ at_, x.presentAt = some at_ → at_ + 100000000 ≤ d.free →
      (st = 1 → Answers (.magPerstRelease m) s fun t => (t.begin.mag m.val).perstN = true ∧ t.begin.get .mag m.val fMAG_STAT_STATE = 2) ∧
      (st = 2 → bare → Answers (.magLinkTimeout m) s fun t => refused t 1)) ∧
    (st = 2 → Answers (.magLinkUp m sp wd) s fun t => t.begin.get .mag m.val fMAG_STAT_STATE = 3 ∧ t.begin.get .mag m.val fMAG_STAT_SPEED = sp.val ∧
      t.begin.get .mag m.val fMAG_STAT_WIDTH = wd.val) ∧
    (st = 3 → d.get .mag m.val fMAG_STAT_QPAIRS = 0 → x.admin = [] →
      (Answers (.magReady m mqes mps) s fun t => (t.begin.mag m.val).mqes = mqes.toNat ∧ (t.begin.mag m.val).mpsmin = mps.toNat ∧
        (t.begin.mag m.val).admin.map (·.purpose) = [1, 2, 3, 4, 10, 6, 5]) ∧
      (bare → Answers (.magReadyTimeout m) s fun t => refused t 2)) ∧
    (st ≠ 0 → st ≠ 6 → bare → x.retrying = false → s.core.exchange = none → s.core.recs = [] → s.core.decs = [] →
      Answers (.magLinkDown m) s fun t => t.begin.get .mag m.val fMAG_STAT_STATE = 6 ∧ t.begin.get .mag m.val fMAG_STAT_QPAIRS = 0 ∧
        (t.begin.mag m.val).pwren = false ∧ (t.begin.mag m.val).vol = none ∧ told t (88 + m.val)) ∧
    (Answers (.pcieCompletionTimeout m) s fun t => told t (88 + m.val)) ∧
    (Answers .smartPoll s fun t => (t.begin.mag m.val).admin = x.admin ++ if st = 4 then [⟨2, 2, 9, none, 0, 512⟩, ⟨10, 4, 10, none, 0, 0⟩] else []) ∧
    (s.core.recs = [] → s.core.decs = [] → s.core.hosted = [] → s.core.served = [] → Answers .pacePublish s fun t =>
      let r := t.begin.get .marver1 0 fRC_PACE_MBPS m.val
      (st ≠ 4 → r = 0) ∧ (st = 4 → x.stopped = false → d.role m.val ≠ 0 → r = 0) ∧
        (st = 4 → x.stopped = false → d.role m.val = 0 → x.measured = none → x.blocked = 0 → r = d.baseOf m.val % 2 ^ fRC_PACE_MBPS.width)) ∧
    (∀ at_ k ks, x.shortAt = some at_ → d.get .marver1 0 fRC_PORT_SHORT m.val = 1 → x.stopped = false → d.get .marver0 0 fRC_CFG2_SHORT_MS ≠ 0 →
      at_ + d.get .marver0 0 fRC_CFG2_SHORT_MS * 1000000 ≤ d.free →
      d.closeOrder ((d.portLive m.val).filter fun i => decide ((d.slot i).state ≠ .draining)) = k :: ks → d.portFits m.val = false →
      (d.slot k).state = .running → (d.slot k).closePend = none → s.calmFor (fun d => d.portShortOver m.val) = true →
      Answers (.portShortTimeout m) s fun t => t = s.commit (Dev.closeShort m.val ks (d.setSlot k { d.slot k with closePend := some 3 })))

/-- Completions and timeouts of NVMe (R273, R276, R277, R280, R282, R284, R294): an admin command's data reaches its mailbox command; writes and
flushes that complete are taken up, a write that fails is issued once more, a read of a mount hands its data to the recovery, one that fails is counted; DSM writes the empty layout; waits that run out act. -/
def Obligations.NvmeCompletionsAreTakenUp : Prop :=
  ∀ (s : State) (m : Fin 8) (pair : Fin 257) (cid : Fin 1024) (status : BitVec 15) (dw0 : Word) (data : List Byte), s.calm = true → s.core.lehr.entering = [] →
    let d := s.begin
    let x := d.mag m.val
    let src := 1780 + 2 * m.val + 1
    let errs := d.get .mag m.val fMAG_ERR_CNT_CMD_ERR
    (∀ a rest mb k, x.admin = a :: rest → a.cmd = some (mb, MbxCmd.id k) → k ∈ (d.mbx mb).cmds →
      (a.purpose ≠ 11 → Answers (.nvmeAdminCompletion m 0 dw0 data) s fun t => (t.begin.mag m.val).admin = rest ∧ t.done mb k 0 0 0 ∧
        ∀ i, i < (data.take a.len).length → t.begin.hostByte (a.host + i) = (data.take a.len).getD i 0) ∧
      (status ≠ 0 → Answers (.nvmeAdminCompletion m status dw0 data) s fun t => (t.begin.mag m.val).admin = rest ∧ t.done mb k 10 0 0 ∧
        t.begin.get .mag m.val fMAG_ERR_CNT_CMD_ERR = min (errs + 1) (2 ^ fMAG_ERR_CNT_CMD_ERR.width - 1) ∧ (t.begin.evt (88 + m.val)).level = true)) ∧
    (∀ n q y, d.pieceOf m.val pair.val cid.val = some (n, q) → d.rec? n = some y →
      (s.calmFor (fun d => d.writeDone m.val pair.val cid.val 0) = true → Answers (.nvmeWriteCompletion m pair cid 0) s fun t => ∃ (e : Dev) (z : RecStream),
        t = s.commit ((e.advance n).issuePort m.val) ∧ e.rec? n = some z ∧ ∀ r ∈ z.pieces, r.addr = q.addr → r.done = true) ∧
      (∀ c, status ≠ 0 → q.retried = false → d.freeCid m.val pair.val = some c →
        Answers (.nvmeWriteCompletion m pair cid status) s fun t => ∃ z, t.begin.rec? n = some z ∧
          z.pieces = y.pieces.map fun r => if r.addr = q.addr then { r with retried := true, cid := c, issuedAt := d.free } else r)) ∧
    (∀ c a h hd, x.ios.find? (fun c => decide (c.pair = pair.val ∧ c.cid = cid.val)) = some c → c.kind = .read a h hd → status ≠ 0 → d.dec? a = none →
      Answers (.nvmeReadCompletion m pair cid status data) s fun t => c ∉ (t.begin.mag m.val).ios ∧ (t.begin.evt (88 + m.val)).level = true ∧
        t.begin.get .mag m.val fMAG_ERR_CNT_CMD_ERR = min (errs + 1) (2 ^ fMAG_ERR_CNT_CMD_ERR.width - 1)) ∧
    (∀ c lba n, x.ios.find? (fun c => decide (c.pair = pair.val ∧ c.cid = cid.val)) = some c → c.kind = .mount lba n → s.calmFor (fun d => d.nvmeRead m.val pair.val cid.val 0 data) = true →
      Answers (.nvmeReadCompletion m pair cid 0 data) s fun t => ∃ e : Dev, t = s.commit (e.recRead m.val data) ∧ c ∉ (e.mag m.val).ios ∧
        e.get .mag m.val fMAG_RD_CNT_READS = min (d.get .mag m.val fMAG_RD_CNT_READS + 1) (2 ^ fMAG_RD_CNT_READS.width - 1)) ∧
    (∀ c, x.ios.find? (fun c => c.kind = .wml .flush) = some c → s.calmFor (fun d => d.flushDone m.val 0) = true →
      Answers (.nvmeFlushCompletion m 0) s fun t => ∃ e : Dev, t = s.commit (e.wmlDone m.val .flush) ∧ c ∉ (e.mag m.val).ios) ∧
    (∀ c, x.ios.find? (fun c => c.kind = .dsm) = some c → s.calmFor (fun d => d.dsmDone m.val 0) = true →
      Answers (.datasetManagementCompletion m 0) s fun t => ∃ e : Dev, t = s.commit (e.pumpVol m.val) ∧
        (e.mag m.val).vol = some (Vol.init (Config.volumeId Config.deviceSerial d.now) x.nsze d.now) ∧ (e.mag m.val).init = false) ∧
    (∀ at_ e, d.oldestWrite m.val = some at_ → at_ + d.wrTimeout m.val ≤ d.free → x.stopped = false → x.waiters = [] → s.core.exchange = some e → e.from_ ≠ m.val →
      e.target ≠ some m.val → d.portLive m.val ≠ [] → d.get .mag m.val fMAG_STAT_STATE = 4 → s.knows src = true → Answers (.writeTimeout m) s fun t =>
        (t.begin.mag m.val).stopped = true ∧ (t.begin.frec src).total = min ((d.frec src).total + 1) (2 ^ 32 - 1)) ∧
    (∀ v, x.vol = some v → v.waiting ≠ [] → v.waitAt + 50000000 ≤ d.free → s.calmFor (fun d => d.journalWait m.val) = true →
      Answers (.journalWaitExpiry m) s fun t => ∃ e : Dev, t = s.commit (e.pumpVol m.val) ∧ (e.mag m.val).vol = some (v.commitJournal (d.confOf m.val))) ∧
    (∀ e, s.core.exchange = some e → e.target = none → e.offers = false → (d.mag e.from_).retrying = false → e.since + d.xchgWait e.from_ ≤ d.free →
      s.calmFor (fun d => d.exchangeWaitOver) = true → Answers .exchangeWaitTimeout s fun t => t = s.commit ((d.noTarget e).nextExchange)) ∧
    (∀ (n : Fin 1024) y at_, d.rec? n.val = some y → y.par.port = m.val → y.drainAt = some at_ → (d.slot n.val).state = .draining → x.retrying = true →
      at_ + d.xchgWait m.val ≤ d.free → s.calmFor (fun d => d.drainMissed n.val) = true →
      Answers (.drainConfirmTimeout n) s fun t => ∃ e : Dev, e = (d.portLive m.val).foldl (fun d k => d.endStream k .faulted 4) d ∧
        t = s.commit ((((match e.core.exchange with
          | some w => if w.from_ = m.val then e.exchangeOver w 3 else e
          | none => e).dropPort m.val).takeEnd).nextExchange))

/-- The magazine commands of a mailbox (R285, R287): each finishes at once where the port does not allow it or nothing is left to do, and otherwise waits in its
mailbox for the mount, the seal, the exchange, the flush or the admin command that it began. -/
def Obligations.MagazineCommandsActOnTheirPort : Prop :=
  ∀ (s : State) (mb : Fin 16) (c : MbxCmd), s.calm = true →
    let d := s.begin
    let p := argF c.words 2 2 0
    let q := argF c.words 2 6 4
    let st := d.get .mag p fMAG_STAT_STATE
    let present := d.get .mag p fMAG_STAT_PRESENT
    let asks := fun (t : State) (kind : Nat) => t.waits mb.val c ∧ (t.begin.mag p).waiters = (d.mag p).waiters ++ [(kind, mb.val, c.id)]
    let sends := fun (t : State) (op arg len : Nat) => t.waits mb.val c ∧ ∃ a, (t.begin.mag p).admin = (d.mag p).admin ++ [a] ∧ a.opcode = op ∧ a.arg = arg ∧
      a.cmd = some (mb.val, c.id) ∧ a.host = arg64 c.words 3 ∧ a.len = len
    (d.readyCmd mb.val 0x60 = some c →
      (present = 0 → Answers (.magMount mb) s fun t => t.done mb.val c 5 0 0) ∧
      (present = 1 → st = 4 → argF c.words 2 8 8 = 0 → Answers (.magMount mb) s fun t => t.done mb.val c 0 (d.mountResult p) 0) ∧
      (present = 1 → st = 1 ∨ st = 2 ∨ st = 3 → Answers (.magMount mb) s fun t => asks t 1 ∧ (t.begin.mag p).init = decide (argF c.words 2 8 8 = 1))) ∧
    (d.readyCmd mb.val 0x61 = some c →
      (st = 7 → Answers (.magUnmount mb) s fun t => t.done mb.val c 0 0 0) ∧
      (st ≠ 7 → st ≠ 4 → Answers (.magUnmount mb) s fun t => t.done mb.val c 5 0 0) ∧
      (st = 4 → d.portBusy p = true → Answers (.magUnmount mb) s fun t => t.done mb.val c 4 0 0) ∧
      (st = 4 → d.portBusy p = false → s.calmFor (fun d => d.withCmd mb.val 0x61 fun d c => d.cmdMagUnmount mb.val c) = true → Answers (.magUnmount mb) s fun t =>
        ∃ e : Dev, t = s.commit (e.sealVol p) ∧ asks (s.commit e) 2)) ∧
    (d.readyCmd mb.val 0x62 = some c →
      (st ≠ 4 ∨ p = q ∨ d.exchanging = true → Answers (.magSwap mb) s fun t => t.done mb.val c 5 0 0) ∧
      (st = 4 → d.get .mag q fMAG_STAT_STATE = 4 → d.role q = 1 → p ≠ q → d.exchanging = false → d.mounted q = true →
        s.calmFor (fun d => d.withCmd mb.val 0x62 fun d c => d.cmdMagSwap mb.val c) = true → Answers (.magSwap mb) s fun t =>
          ∃ e : Dev, t = s.commit (((d.portLive p).foldl (fun d k => d.swapStream k) (e.markSwap (d.portLive p))).swapDone) ∧
            e.core.exchange = some ⟨p, d.portLive p, some q, 3, d.free, false⟩ ∧ (e.mag p).swapTo = some q ∧ (e.mag p).swapCmd = some (mb.val, c.id))) ∧
    (d.readyCmd mb.val 0x63 = some c →
      (st ≠ 4 → Answers (.magFlush mb) s fun t => t.done mb.val c 5 0 0) ∧
      (st = 4 → s.core.recs = [] → (d.mag p).waiters = [] → Answers (.magFlush mb) s fun t => t.done mb.val c 0 0 0) ∧
      (st = 4 → s.calmFor (fun d => d.withCmd mb.val 0x63 fun d c => d.cmdMagFlush mb.val c) = true → Answers (.magFlush mb) s fun t =>
        ∃ e : Dev, t = s.commit ((e.flushPort p).flushCheck p) ∧ asks (s.commit e) 3)) ∧
    (d.readyCmd mb.val 0x64 = some c → argF c.words 2 15 8 = 1 ∨ argF c.words 2 15 8 = 2 →
      (d.adminUp p = true → Answers (.magLog mb) s fun t => sends t 2 (argF c.words 2 15 8) (argF c.words 5 31 0)) ∧
      (d.adminUp p = false → Answers (.magLog mb) s fun t => t.done mb.val c 5 0 0)) ∧
    (d.readyCmd mb.val 0x66 = some c →
      (d.adminUp p = true → Answers (.magIdent mb) s fun t => sends t 6 (argF c.words 2 9 8) 4096) ∧
      (d.adminUp p = false → Answers (.magIdent mb) s fun t => t.done mb.val c 5 0 0))

/-! ## The DDR5 memory (chapter 16) -/

/-- Memory channels (R311, R313, R314, R316, R317): reads that the code corrects, or cannot, are counted by channel, with the burst poisoned; a channel is retired by a pair on MC_RETIRE while its
lines are copied, or is lost with all of its lines; refresh, DQS tracking and training are counted. -/
def Obligations.MemoryChannelsCountAndRetire : Prop :=
  ∀ (s : State) (c : Fin 10) (a : Nat) (mst : Fin 4096) (user : Nat) (v : Word) (rfm nb beyond ok : Bool) (ms : BitVec 8), s.calm = true →
    let d := s.begin
    let ch := a / 256 % 10
    let ce := d.get .mem c.val fMEM_CE_CNT_CE
    let w0 := (d.core.mem.ceWin.lookup c.val).getD (d.free, 0)
    let w := if w0.1 + 1000000000 ≤ d.free then (d.free, 1) else (w0.1, w0.2 + 1)
    let lim := d.get .mem c.val fMEM_CE_LIM_PER_S
    let st := d.get .mem c.val fMEM_STAT_STATE
    let ret := d.get .memctl 0 fMC_STAT_RET_STATE
    let noInter := (d.liveSlots.all fun p => decide (p.2.resv.inter = 0 ∧ p.2.resv.interDec = 0)) = true
    (lim = 0 ∨ w.2 ≠ lim + 1 → Answers (.memCorrectedRead c) s fun t => t.begin.get .mem c.val fMEM_CE_CNT_CE = min (ce + 1) (2 ^ 32 - 1) ∧
      t.core.mem.ceWin.lookup c.val = some w) ∧
    (lim ≠ 0 → w.2 = lim + 1 → s.knows (1750 + 3 * c.val) = true → Answers (.memCorrectedRead c) s fun t => t.begin.get .mem c.val fMEM_CE_CNT_CE = min (ce + 1) (2 ^ 32 - 1) ∧
      (t.begin.frec (1750 + 3 * c.val)).total = min ((d.frec (1750 + 3 * c.val)).total + 1) (2 ^ 32 - 1)) ∧
    (a < d.mapped → mst.val / 256 = 0 → d.core.mem.ueWin.lookup ch = none → 1 ≤ d.get .memctl 0 fMC_CFG2_DEAD_UE → s.knows (1751 + 3 * ch) = true →
      Answers (.memUncorrectableRead a mst user) s fun t => t.core.mem.poisoned (a / 64) = true ∧
        (t.begin.frec (1751 + 3 * ch)).total = min ((d.frec (1751 + 3 * ch)).total + 1) (2 ^ 32 - 1)) ∧
    (a < d.mapped → d.get .memctl 0 fMC_CFG_SCRUB_H ≠ 0 →
      (Answers (.patrolScrub a 0) s fun t => t.core.mem.scrub = (a / 256 + 1) % (d.mapped / 256)) ∧
      (d.core.mem.ueWin.lookup ch = none → 1 ≤ d.get .memctl 0 fMC_CFG2_DEAD_UE → Answers (.patrolScrub a 2) s fun t => t.core.mem.scrub = (a / 256 + 1) % (d.mapped / 256) ∧
        t.core.mem.poisoned (a / 64) = true ∧ t.begin.get .mem ch fMEM_UE_CNT_SCRUB = min (d.get .mem ch fMEM_UE_CNT_SCRUB + 1) (2 ^ 16 - 1))) ∧
    (s.opens 0x4A = true → fMC_RETIRE_REQ.ext v = 1 →
      (ret = 0 → fMC_RETIRE_CH.ext v = c.val → st = 2 → noInter → Answers (.mcRetire mst v) s fun t => t.begin.get .memctl 0 fMC_STAT_RET_STATE = 1 ∧
        t.begin.get .memctl 0 fMC_STAT_RET_CH = c.val ∧ t.begin.get .mem c.val fMEM_STAT_STATE = 3) ∧
      (ret ≠ 0 → Answers (.mcRetire mst v) s fun t => t.begin.get .memctl 0 fMC_STAT_REFUSED = min (d.get .memctl 0 fMC_STAT_REFUSED + 1) 63)) ∧
    (ret = 1 → d.get .memctl 0 fMC_STAT_RET_CH = c.val → Answers .retirementCopyDone s fun t => t.begin.get .memctl 0 fMC_STAT_RET_STATE = 2 ∧
      t.begin.get .memctl 0 fMC_MIG_LINES = 0 ∧ t.begin.get .mem c.val fMEM_STAT_STATE = 4) ∧
    (ret = 0 → st = 2 → noInter → d.safeHold = true → s.knows (1752 + 3 * c.val) = true → Answers (.channelLost c) s fun t => c.val ∈ t.core.mem.lost ∧
      t.begin.get .memctl 0 fMC_STAT_RET_STATE = 2 ∧ t.begin.get .memctl 0 fMC_STAT_RET_CH = c.val ∧ t.begin.get .mem c.val fMEM_STAT_STATE = 4 ∧
      (t.begin.frec (1752 + 3 * c.val)).total = min ((d.frec (1752 + 3 * c.val)).total + 1) (2 ^ 32 - 1)) ∧
    (Answers (.refreshDue c rfm nb) s fun t => (rfm = true → t.begin.get .mem c.val fMEM_NREF_CNT_RFM = min (d.get .mem c.val fMEM_NREF_CNT_RFM + 1) (2 ^ 16 - 1)) ∧
      (nb = true → t.core.mem.nref.lookup c.val = some (((d.core.mem.nref.lookup c.val).getD 0 + if d.get .memctl 0 fMC_CFG_NREF_2 = 1 then 4 else 2) % 1024))) ∧
    (Answers (.dqsTrack c true beyond) s fun t => t.begin.get .mem c.val fMEM_TRAIN_RETRAINS = min (d.get .mem c.val fMEM_TRAIN_RETRAINS + 1) (2 ^ 16 - 1)) ∧
    (st = 1 → d.core.boot.phase ≠ .training → Answers (.channelTrainingDone c true ms) s fun t => t.begin.get .mem c.val fMEM_STAT_STATE = 2 ∧
      t.begin.get .mem c.val fMEM_TRAIN_MS = ms.toNat) ∧
    (∀ k : Fin 10, st = 1 → d.core.boot.phase = .training → k ≠ c → d.get .mem k.val fMEM_STAT_STATE = 1 → Answers (.channelTrainingDone c ok ms) s fun t =>
      t.begin.get .mem c.val fMEM_STAT_STATE = (if ok then 2 else 5) ∧ t.begin.get .mem c.val fMEM_TRAIN_MS = ms.toNat)

/-! ## Decoding and proxies (chapters 10 and 11) -/

/-- Decode and proxy streams (R207, R208, R222, R224, R227): a finished tile is held as reconstructed, with its counts, or as damaged; a complete picture leaves the stream's hand for its outputs, and
a paced one is released at its time; a proxy takes a source picture in hand, codes it slice by slice, reports, and its packets leave by its port. -/
def Obligations.DecodedPicturesAndProxyPacketsGoOut : Prop :=
  ∀ (s : State) (slot : Fin 256) (pipe : Fin 20) (x : DecStream) (p : DecPic) (r c : Nat) (y : ProxyStream), s.calm = true →
    let d := s.begin
    let n := 1024 + slot.val
    let k := 1280 + slot.val
    let q := if (p.rows.any fun w => !w.tiles.isEmpty) then p.pipe else d.lowDec
    (d.dec? n = some x → x.cur = some p → (d.decp pipe.val).job = some (n, p.hdr.pic, r, c) → s.calmFor (fun d => d.decTileDone pipe.val) = true →
      Answers (.decodeTileDone pipe) s fun t => ∃ e : Dev, t = s.commit (e.decSettle n).decDeal ∧ (e.decp pipe.val).job = none ∧
        match x.tile p r c with
        | .error (cause, det) => e.dec? n = some (x.modTile r c fun t => { t with stage := 3, cause := cause, detail := det })
        | .ok (out, pus) => (e.dec? n).map (fun z => z.cur.map (·.rows)) = some ((x.modTile r c fun t => { t with stage := 2, out := out, pus := pus }).cur.map (·.rows)) ∧
            e.get .dec pipe.val fDEC_TILE_CNT_TILES = min (d.get .dec pipe.val fDEC_TILE_CNT_TILES + 1) (2 ^ 32 - 1)) ∧
    (d.dec? n = some x → x.cur = some p → (d.slot n).state.live = true → x.dmg = none → p.trailer ≠ [] → p.tilesDone = true → x.hdr.coding ≠ 1 → x.par.verify = false → x.par.pace = true →
      (x.outs.any fun o => !o.released) = true → picAhead p.hdr.pic x.par.first < 2 ^ 23 → q < 20 → d.core.lehr.entering = [] → s.calmFor (fun d => d.decPictureDone n) = true →
      Answers (.decodePictureComplete slot) s fun t => ∃ (e : Dev) (z : DecStream), t = s.commit (e.decRun n) ∧ e.dec? n = some z ∧ z.cur = none ∧ z.refSet = [] ∧ z.done = x.done + 1 ∧
        z.lastPic = p.hdr.pic ∧ z.outs.map (·.pic) = x.outs.map (·.pic) ++ [p.hdr.pic] ∧ e.get .dec q fDEC_PIC_CNT_PICTURES = min (d.get .dec q fDEC_PIC_CNT_PICTURES + 1) (2 ^ 32 - 1)) ∧
    (∀ o : DecOut, d.dec? n = some x → (x.outs.find? fun o => !o.released) = some o → x.par.pace = true → (d.slot n).state.live = true → x.releaseAt o.pic ≤ d.now →
      s.calmFor (fun d => d.pacedRelease n) = true → Answers (.pacedRelease slot) s fun t => ∃ e : Dev, t = s.commit ((e.decSweep n).decRun n) ∧
        e.dec? n = some { x with lastRel := o.pic, outs := x.outs.map fun p => if p.pic = o.pic then { p with released := true, relAt := d.free } else p }) ∧
    (∀ v : ProxyPic, d.proxy? k = some y → y.cur = some v → (d.slot k).state.live = true → v.slices + 1 < y.par.slices → Answers (.proxySliceComplete slot) s fun t => ∃ z, t.begin.proxy? k = some z ∧
      z.cur = some { v with slices := v.slices + 1 } ∧ z.nPic = y.nPic) ∧
    (∀ v f, d.proxy? k = some y → y.cur = none → (d.slot k).state = .running → d.nextSrcPic k y = some (v, f) → v.live = true → y.nSrc % y.par.picDiv = 0 → Answers (.proxyPictureStart slot) s fun t =>
      ∃ z w, t.begin.proxy? k = some z ∧ z.cur = some w ∧ w.num = y.nPic ∧ w.src = v.pic ∧ w.slices = 0 ∧ z.nPic = y.nPic + 1 ∧ z.nSrc = y.nSrc + 1 ∧ z.srcLast = some v.pic) ∧
    (d.proxy? k = some y → (d.slot k).state = .running → d.get .proxy y.engine fPX_CFG_RTCP_MS ≠ 0 → y.par.net < 2 → d.netUp y.par.net = true → Answers (.rtcpSenderReport slot) s fun t =>
      t.begin.proxy? k = some { y with ipId := (y.ipId + 1) % 65536 } ∧ t.begin.get .net y.par.net fNET_TX_FRAMES_FRAMES = min (d.get .net y.par.net fNET_TX_FRAMES_FRAMES + 1) (2 ^ 32 - 1)) ∧
    (∀ v rest, d.proxy? k = some y → y.queue = v :: rest → v.last = none → y.par.net < 2 → y.engine < 4 → d.netUp y.par.net = true → Answers (.proxyPacketLeavesPort slot) s fun t =>
      t.begin.proxy? k = some { y with queue := rest, bytes := y.bytes + v.bytes.length } ∧ (t.begin.net y.par.net).lastFrame = v.bytes ∧
      t.begin.get .net y.par.net fNET_TX_FRAMES_FRAMES = min (d.get .net y.par.net fNET_TX_FRAMES_FRAMES + 1) (2 ^ 32 - 1) ∧
      t.begin.get .proxy y.engine fPX_PKT_CNT_PACKETS = min (d.get .proxy y.engine fPX_PKT_CNT_PACKETS + 1) (2 ^ 32 - 1))

/-! ## The gang: links, flits and time (chapter 18) -/

/-- Peer links (R342, R343, R344, R349): an IDENT brings a link up, or finds it miswired; a flit in order is taken, another is asked for again; a NAK is counted and the eighth for one sequence loses the
link; a lost link retrains; HEARTBEAT and the root's TIME go out on every link that is up, and TIME from the root corrects the clock. -/
def Obligations.PeerLinksCarryFlitsAndTime : Prop :=
  ∀ (s : State) (p : Fin 3) (member sizeM1 port : Fin 4) (serial : BitVec 64) (pol : BitVec 8) (delay : BitVec 16) (flit : List Byte) (seq : BitVec 12) (ns : BitVec 64) (frac : Word),
    s.calm = true → s.begin.core.lehr.entering = [] →
    let d := s.begin
    let x := d.peer p.val
    let sz := d.core.lehr.gangSzM1
    let st := d.get .peer p.val fPR_STAT_STATE
    let right := sizeM1.val = sz ∧ member.val = d.partner p.val ∧ member.val ≤ sz ∧ port.val = 2 - p.val
    let n := if x.nakSeq = some seq.toNat then x.naks + 1 else 1
    (sz ≠ 0 → d.get .peer p.val fPR_CFG_EN ≠ 0 → d.enabled (0x38 + p.val) = true → st ≠ 2 → d.core.fault.heldDown.contains (29 + p.val) = false →
      (right → s.calmFor (fun d => d.peerIdent p.val member.val sizeM1.val port.val serial.toNat pol.toNat delay.toNat) = true →
        Answers (.peerIdent p member sizeM1 port serial pol delay) s fun t => ∃ e : Dev, t = s.commit (e.refreshRoot.peerPump p.val) ∧ e.get .peer p.val fPR_STAT_STATE = 2 ∧
          e.get .peer p.val fPR_STAT_PARTNER = member.val ∧ (e.peer p.val).serial = serial.toNat ∧ (e.peer p.val).txSeq = 0 ∧ (e.peer p.val).rxSeq = 0 ∧ (e.peer p.val).kept = []) ∧
      (¬ right → Answers (.peerIdent p member sizeM1 port serial pol delay) s fun t => t.begin.get .peer p.val fPR_STAT_STATE = 4 ∧ t.begin.get .peer p.val fPR_STAT_PARTNER = member.val)) ∧
    (d.peerUp p.val = true → flit.length = 256 →
      (crc32c (flit.take 252) = fieldLe flit 252 4 → fieldLe flit 2 2 % 4096 = x.rxSeq → s.calmFor (fun d => d.peerFlit p.val flit) = true → Answers (.peerDataFlit p flit) s fun t =>
        ∃ e : Dev, (e.peer p.val).rxSeq = (x.rxSeq + 1) % 4096 ∧ (e.peer p.val).gap = false ∧
          (e.peer p.val).kept = x.kept.filter (fun k => decide (2048 ≤ (fieldLe flit 4 2 % 4096 + 4096 - k.seq) % 4096)) ∧
          t = s.commit ((if fieldLe flit 0 1 = 1 then (e.peerPayload p.val (fieldLe flit 1 1 % 4) ((flit.drop 8).take 244)).peerSay p.val 3 [fieldLe flit 1 1 % 4, 1] else e).peerPump p.val)) ∧
      (crc32c (flit.take 252) ≠ fieldLe flit 252 4 ∨ fieldLe flit 2 2 % 4096 ≠ x.rxSeq → x.gap = false → Answers (.peerDataFlit p flit) s fun t =>
        (t.begin.peer p.val).gap = true ∧ (t.begin.peer p.val).rxSeq = x.rxSeq ∧ (t.begin.peer p.val).sent.getLast? = some (leBytes 8 2 ++ leBytes 8 x.rxSeq) ∧
          t.begin.get .peer p.val fPR_ERR_CNT_NAKS = min (d.get .peer p.val fPR_ERR_CNT_NAKS + 1) (2 ^ 16 - 1))) ∧
    (d.peerUp p.val = true →
      (n < 8 → Answers (.peerNak p seq) s fun t => (t.begin.peer p.val).nakSeq = some seq.toNat ∧ (t.begin.peer p.val).naks = n ∧ (t.begin.peer p.val).kept = x.kept) ∧
      (8 ≤ n → d.core.exchange = none → (d.core.decs.filter fun e => decide (e.2.par.source = 1 ∧ e.2.par.srcId = p.val)) = [] → Answers (.peerNak p seq) s fun t =>
        ∃ e : Dev, t = s.commit (e.settle 64) ∧ e.get .peer p.val fPR_STAT_STATE = 3 ∧ (e.peer p.val).kept = [] ∧ (e.peer p.val).naks = 0 ∧
          e.get .peer p.val fPR_ERR_CNT_LOSSES = min (d.get .peer p.val fPR_ERR_CNT_LOSSES + 1) (2 ^ 16 - 1))) ∧
    (st = 2 → d.core.exchange = none → (d.core.decs.filter fun e => decide (e.2.par.source = 1 ∧ e.2.par.srcId = p.val)) = [] → Answers (.peerLinkLost p) s fun t =>
      ∃ e : Dev, t = s.commit (e.settle 64) ∧ e.get .peer p.val fPR_STAT_STATE = 3 ∧ e.get .peer p.val fPR_STAT_LOCKED = 0 ∧ (e.peer p.val).kept = [] ∧
        e.get .peer p.val fPR_ERR_CNT_LOSSES = min (d.get .peer p.val fPR_ERR_CNT_LOSSES + 1) (2 ^ 16 - 1) ∧ ∀ v ∈ e.core.served, v.peer ≠ p.val) ∧
    (Answers .heartbeat s fun t => d.peerUp p.val = true → (t.begin.peer p.val).sent.getLast? = some (leBytes 8 1)) ∧
    (d.isRoot = true → sz ≠ 0 → Answers .peerTimeSend s fun t => d.peerUp p.val = true → (t.begin.peer p.val).sent.getLast? = some (leBytes 8 4 ++ (leBytes 8 d.now ++ leBytes 8 (d.reading % 2 ^ 32)))) ∧
    (d.peerUp p.val = true → d.get .peer p.val fPR_STAT_PARTNER = d.get .peer 0 fPR_GANG_ROOT → d.isRoot = false → d.gafRuns 0 = true →
      s.calmFor (fun d => d.gangTime p.val ns.toNat frac.toNat) = true →
      let ofs : Int := ((d.reading : Int) - ((ns.toNat * 2 ^ 32 + frac.toNat + x.delay * 2 ^ 32 / 10 : Nat) : Int)) / 2 ^ 32
      Answers (.peerTime p ns frac) s fun t => ∃ e : Dev, t = s.commit (e.servo ofs) ∧ e.core = d.core ∧
        e.get .peer p.val fPR_TIME_OFS_NS = toTwos 32 (max (-(2 ^ 31 - 1)) (min (2 ^ 31 - 1) ofs)) % 2 ^ 32)

/-! ## The gang: sharing magazines and serving reads (chapter 18) -/

/-- Partners (R346, R347, R348, R350): a magazine is offered, taken or released; its streams are hosted here; a CONFIRM marks the pieces that a partner holds; a READ_REQ is served or refused; a partner
that fails is marked. -/
def Obligations.PartnersShareMagazinesAndServeReads : Prop :=
  ∀ (s : State) (p : Fin 3) (m : Fin 8) (k sum mbps endAddr : Nat) (port : Fin 8) (takeId : BitVec 16) (tStart srcVol : BitVec 64) (st : Nat × Nat × Nat × Nat × Nat) (streams : List (Nat × Nat × Nat × Nat × Nat))
    (slot : Fin 1024) (first : BitVec 24) (t0 : Nat) (ex : Exchange) (x : RecStream) (v : VolStream) (vol : Vol), s.calm = true →
    let d := s.begin
    let y := d.peer p.val
    (d.peerUp p.val = true → d.get .peer p.val fPR_CFG_OFFER_EN ≠ 0 → d.peerRx p.val + sum ≤ peerLimit →
      ((List.range 8).find? fun m => d.mounted m && d.role m = 1 && !((List.range 3).any fun q => ((d.peer q).offered.map (·.1)) = some m) && decide (sum ≤ d.get .mag m fMAG_PACE_MBPS) &&
        (d.core.exchange.all fun e => e.target ≠ some m)) = some m.val →
      Answers (.offerReq p k sum) s fun t => (t.begin.peer p.val).offered = some (m.val, d.free, sum) ∧ (t.begin.peer p.val).sent.getLast? = some (leBytes 8 6 ++ leBytes 8 m.val)) ∧
    (d.core.exchange = some ex → ex.offers = true → d.free ≤ ex.since + 200000 → d.peerUp p.val = true → d.peerTx p.val + (ex.slots.filterMap d.rec?).foldl (fun a x => a + x.dsNow) 0 ≤ peerLimit →
      s.calmFor (fun d => d.offerCame p.val) = true → Answers (.offer p port) s fun t => ∃ e : Dev, t = s.commit ((e.takeTarget { ex with offers := false } (8 + p.val)).peerPump p.val) ∧
        (e.peer p.val).pace = (ex.slots.filterMap d.rec?).foldl (fun a x => a + x.dsNow) 0 ∧ (e.peer p.val).sent.getLast? = some ((7 :: ex.slots).flatMap fun n => leBytes 8 n)) ∧
    (d.core.exchange = some ex → ex.offers = true → ex.since + 200000 ≤ d.free → ex.cause ≠ 4 → Answers .offerTimeout s fun t => t.core.exchange = some { ex with since := d.free, offers := false }) ∧
    (y.offered = some (m.val, t0, sum) → d.free < t0 + 1000000 → d.mounted m.val = true → d.peerUp p.val = true →
      (s.calmFor (fun d => d.offerTaken p.val takeId.toNat tStart.toNat srcVol.toNat streams) = true → Answers (.accept p takeId tStart srcVol streams) s fun t => ∃ e : Dev, t = s.commit (e.commitVol m.val) ∧
        (e.peer p.val).offered = none ∧ (e.peer p.val).hostPace = y.hostPace + sum ∧ e.get .mag m.val fMAG_CFG_ROLE = 0) ∧
      ((d.mag m.val).vol = some vol → s.calmFor (fun d => d.offerTaken p.val takeId.toNat tStart.toNat srcVol.toNat [st]) = true → Answers (.accept p takeId tStart srcVol [st]) s fun t =>
        ∃ e : Dev, t = s.commit (e.commitVol m.val) ∧ ∃ h ∈ e.core.hosted, h.peer = p.val ∧ h.slot = st.1 ∧ h.port = m.val ∧ h.addr = st.2.2.2.2)) ∧
    (y.offered = some (m.val, t0, sum) → t0 + 1000000 ≤ d.free → Answers (.offerReleaseTimeout p) s fun t => t.begin.peer p.val = { y with offered := none }) ∧
    (d.rec? slot.val = some x → x.par.port = 8 + p.val → d.get .peer p.val fPR_STAT_STATE ≠ 5 → s.calmFor (fun d => d.partnerConfirms p.val slot.val endAddr) = true → Answers (.confirm p slot endAddr) s fun t =>
      ∃ e : Dev, t = s.commit (((e.advance slot.val).exchangeCheck).peerPump p.val) ∧
        e.rec? slot.val = some { x with pieces := x.pieces.map fun (q : PieceSt) => if q.port = 8 + p.val ∧ q.issued ∧ q.addr + q.len ≤ endAddr then { q with done := true } else q }) ∧
    (d.peerUp p.val = true → d.rec? slot.val = none →
      (d.mountedPorts = [] → Answers (.readReq p takeId slot first mbps) s fun t => (t.begin.peer p.val).sent.getLast? = some (leBytes 8 10 ++ (leBytes 8 slot.val ++ leBytes 8 0x12))) ∧
      ((d.mountedPorts.find? fun m => (d.findStored m takeId.toNat slot.val).isSome) = some m.val → d.findStored m.val takeId.toNat slot.val = some v → d.peerTx p.val + mbps ≤ peerLimit →
        d.readFits m.val 1536 mbps = true → s.calmFor (fun d => d.readAsked p.val takeId.toNat slot.val first.toNat mbps) = true → Answers (.readReq p takeId slot first mbps) s fun t =>
        ∃ (e : Dev) (w : Served), t = s.commit (e.serveNext w) ∧ w ∈ e.core.served ∧ w.peer = p.val ∧ w.recStream = slot.val ∧ w.takeId = takeId.toNat ∧ w.port = m.val ∧ w.snum = v.snum ∧ w.rate = mbps ∧
          (e.peer p.val).sent.getLast? = some (leBytes 8 11 ++ leBytes 8 slot.val))) ∧
    (d.partner p.val ≤ d.core.lehr.gangSzM1 → d.get .peer p.val fPR_STAT_STATE ≠ 5 → d.core.recs = [] → d.core.decs = [] → d.core.hosted = [] → d.core.rings = [] → d.core.cullet.chunks = [] → d.core.exchange = none →
      d.memberFailed (d.partner p.val) = false → Answers (.partnerFailed p) s fun t => t.begin.get .peer p.val fPR_STAT_STATE = 5 ∧ t.begin.memberFailed (d.partner p.val) = true ∧ (t.begin.peer p.val).failedPin = true)

/-! ## The fault collector (chapter 19) -/

/-- The collector (R357, R359, R364, R365, R366): an event is counted and, at the threshold of its class, puts its source into fault state; a path fault marks its source; a quarantine window closes; a clear
ends fault state where no cause holds; a restore is accepted, or refused and counted. -/
def Obligations.FaultsAreTakenClearedAndRestored : Prop :=
  ∀ (s : State) (src : Fin 2053) (k mst : Fin 4096) (acc : Fin 16) (det : BitVec 16) (addr : Nat) (v : Word) (i : SrcInfo) (b : Nat) (w : QuarWin), s.calm = true →
    let d := s.begin
    let r := d.frec src.val
    (s.knows src.val = true → Answers (.faultSourceEvent src mst acc det addr) s fun t => (t.begin.frec src.val).state = true ∧ (t.begin.frec src.val).total = min (r.total + 1) (2 ^ 32 - 1)) ∧
    (srcInfo src.val = some i → s.core.fault.windows = [] → r.state = false → r.railsEq = false → d.fcN i.cls = 1 → d.fcSevere i.cls = 0 → ¬ (1734 ≤ src.val ∧ src.val < 1750) →
      Answers (.faultSourceEvent src mst acc det addr) s fun t => (t.begin.frec src.val).state = true ∧ (t.begin.frec src.val).path = r.path ∧ (t.begin.frec src.val).total = min (r.total + 1) (2 ^ 32 - 1)) ∧
    (srcInfo src.val = some i → s.core.fault.windows = [] → r.state = true → ¬ (1734 ≤ src.val ∧ src.val < 1750) → Answers (.pathFault src) s fun t =>
      (t.begin.frec src.val).state = true ∧ (t.begin.frec src.val).path = true ∧ (t.begin.frec src.val).railsEq = true ∧ (t.begin.frec src.val).total = min (r.total + 1) (2 ^ 32 - 1)) ∧
    (d.core.fault.windows.find? (·.resetDone) = some w → (∀ p ∈ d.core.fault.recs, (d.windowBlocks w).contains (srcBlock p.1) = false) → Answers .quarantineClose s fun t =>
      t.core.fault.windows = d.core.fault.windows.erase w ∧ t.core.fault.recs = d.core.fault.recs) ∧
    (s.opens 4 = true →
      (srcInfo k.val = some i → (d.frec k.val).level = false → (d.frec k.val).railsEq = false → Answers (.fcClr mst k) s fun t =>
        t.begin.frec k.val = { FaultRec.rest with total := (d.frec k.val).total, winStart := (d.frec k.val).winStart }) ∧
      ((∀ p ∈ d.core.fault.recs, p.2.level = false ∧ p.2.railsEq = false) → srcInfo src.val = some i → Answers (.fcClrAll mst) s fun t =>
        (t.begin.frec src.val).state = false ∧ (t.begin.frec src.val).total = r.total)) ∧
    (s.opens 7 = true → v.getLsbD 31 = true →
      (restoreElem (bitsNat v 10 8) (bitsNat v 7 0) = some b → d.elemFaulty b = false →
        (b < 183 → Answers (.fcRestore mst v) s fun t => ∃ e : Dev, t = s.commit (((e.askReset b false).expirePend 7).settle 64) ∧ b ∈ e.core.fault.restoring ∧ e.core.fault.recs = d.core.fault.recs) ∧
        (183 ≤ b → (d.get .fault3 0 fFC_WD_OTHER_QUAD).testBit (b - 183) = true → Answers (.fcRestore mst v) s fun t => b ∈ t.core.fault.restoring)) ∧
      (restoreElem (bitsNat v 10 8) (bitsNat v 7 0) = none → Answers (.fcRestore mst v) s fun t =>
        t.begin.get .fault3 0 fFC_RESTORE_CNT_REFUSED = min (d.get .fault3 0 fFC_RESTORE_CNT_REFUSED + 1) (2 ^ 16 - 1)))

/-! ## Power domains (chapter 20) -/

/-- Power domains (R373 to R377): a write of LP_DOMn that asks for retention or off begins the entry of an idle domain, or is refused and counted; the idle timer asks for retention; an entry ends in its
state; a wake begins an exit; a domain returns; a group enters together, or is refused whole; the Lehr timer is armed, and fires. `S` is the block with the written fields in place. -/
def Obligations.PowerDomainsSleepAndWake : Prop :=
  ∀ (s : State) (mst : Fin 4096) (dom : Fin 202) (req : Fin 4) (idle : BitVec 16) (src : Fin 9) (v : Word) (code : Nat) (m : DomMove), s.calm = true →
    let d := s.begin
    let n := dom.val
    (s.opens 1 = true → 1 ≤ n → req.val = 1 ∨ req.val = 2 →
      let S := ((d.set .lehrPower 0 fLP_DOM_REQ req.val n).set .lehrPower 0 fLP_DOM_IDLE_US idle.toNat n).set .lehrPower 0 fLP_DOM_TWAKE (d.get .lehrPower 0 fLP_DOM_TWAKE n) n
      S.domState n = 0 → S.enteringOf n = none →
      (S.judgeEntry n req.val = none → S.domIdle n = true → Answers (.powerRequest mst dom req idle) s fun t =>
        t = s.commit (S.beginEntry n req.val) ∧ t.core.lehr.entering = s.core.lehr.entering ++ [⟨n, req.val, false, d.free, none⟩]) ∧
      (S.judgeEntry n req.val = some code → Answers (.powerRequest mst dom req idle) s fun t =>
        t = s.commit (S.refuseEntry n code) ∧ t.begin.get .lehrPower 0 fLP_REF_REFUSER n = code % 2 ^ 16)) ∧
    (n ≠ 0 → n ≠ 0xC9 → d.domState n = 0 → d.enteringOf n = none → d.get .lehrPower 0 fLP_DOM_REQ n = 0 → d.get .lehrPower 0 fLP_DOM_IDLE_US n ≠ 0 →
      (d.judgeEntry n 1 = none → d.domIdle n = true → Answers (.idleTimerExpiry dom) s fun t =>
        t = s.commit (d.beginEntry n 1) ∧ t.core.lehr.entering = s.core.lehr.entering ++ [⟨n, 1, false, d.free, none⟩]) ∧
      (d.judgeEntry n 1 = some code → Answers (.idleTimerExpiry dom) s fun t => t.begin.get .lehrPower 0 fLP_REF_REFUSER n = code % 2 ^ 16)) ∧
    (1 ≤ n → d.enteringOf n = some m → m.toState = 1 → m.wake = none → s.core.lehr.groupMembers = [] → Answers (.domainEntryDone dom) s fun t =>
      t.begin.get .lehrPower 0 fLP_DOM_STATE n = 1 ∧ t.begin.enteringOf n = none) ∧
    (src.val = 2 ∨ src.val = 4 ∨ src.val = 8 → d.domState n ≠ 0 → d.enteringOf n = none → (d.core.lehr.exiting.any fun x => x.dom = n) = false → Answers (.domainWake dom src) s fun t =>
      ∃ e : Dev, t = s.commit (e.assertEvt 118) ∧ e.core.lehr.exiting = s.core.lehr.exiting ++ [⟨n, 0, decide (d.domState n = 2), d.free, none⟩] ∧
        e.get .lehrPower 0 fLP_LAST_WAKE_SOURCE = src.val ∧ e.get .lehrPower 0 fLP_LAST_WAKE_DOMAIN = n ∧ e.get .lehrPower 0 fLP_WAKE_CNT_WAKES = min (d.get .lehrPower 0 fLP_WAKE_CNT_WAKES + 1) (2 ^ 16 - 1)) ∧
    (1 ≤ n → d.core.lehr.exiting.find? (fun x => x.dom = n) = some m → m.fromOff = false → domPage n = none → Answers (.domainExitDone dom) s fun t =>
      t.begin.get .lehrPower 0 fLP_DOM_STATE n = 0 ∧ t.core.lehr.exiting = s.core.lehr.exiting.filter (fun x => x.dom ≠ n)) ∧
    (s.opens 1 = true → v.getLsbD 31 = true → s.core.lehr.groupMembers = [] →
      let S := d.store .lehrPower 0x40 0x1040 v
      let ms := groupOf (bitsNat v 17 16) (bitsNat v 3 0)
      let on := ms.filter fun k => S.domState k = 0
      ms ≠ [] →
      (ms.find? S.memberRefuses = none → on ≠ [] → (∀ k ∈ on, S.enteringOf k = none) → Answers (.lpClreq mst v) s fun t =>
        t.core.lehr.groupMembers = on ∧ t.core.lehr.entering = s.core.lehr.entering ++ on.map (fun k => ⟨k, 1, false, d.free, none⟩) ∧ t.begin.get .lehrPower 0 fLP_CLSTAT_RESULT = 3) ∧
      (ms.find? S.memberRefuses = some code → Answers (.lpClreq mst v) s fun t =>
        t.core.lehr.entering = s.core.lehr.entering ∧ t.begin.get .lehrPower 0 fLP_CLSTAT_RESULT = 2 ∧ t.begin.get .lehrPower 0 fLP_CLSTAT_REFUSER = code % 2 ^ 16)) ∧
    (s.opens 1 = true → Answers (.lpTimerArm mst v) s fun t => t.core.lehr.timer = (if v.getLsbD 31 then some (bitsNat v 30 0) else none)) ∧
    (s.core.lehr.timer.isSome = true → Answers .lpTimerExpiry s fun t =>
      ∃ e : Dev, t = s.commit ((e.assertEvt 118).wakeBy 0 6) ∧ e.core.lehr.timer = none ∧ e.get .lehrPower 0 fLP_TIMER_EN = 0 ∧ e.get .lehrPower 0 fLP_CLSTAT_RESULT = d.get .lehrPower 0 fLP_CLSTAT_RESULT)

/-! ## Supplies (chapter 20) -/

/-- Supplies (R378, R380, R381): a dip freezes configuration writes, marks the pictures in hand, counts and raises its source and event 117, and the second within 10 ms enters SAFE_HOLD; a recovery records the
dip's length; the freeze lifts; the sequencer drives the next enables as rails rise, drops them when one does not, and tries again, three times. -/
def Obligations.SuppliesDipAndSequence : Prop :=
  ∀ (s : State) (rail : Fin 8) (mv : BitVec 16) (t0 : Nat), s.calm = true →
    let d := s.begin
    let r := rail.val
    let q := s.core.lehr.seq
    (10 * mv.toNat < railWarn r → railReset r ≤ 10 * mv.toNat → (s.core.lehr.dips.any fun p => p.1 = r) = false →
      let again := s.core.lehr.lastDip.any fun t => d.free - t ≤ 10000000
      again = false ∨ (d.base ≠ 0 ∧ s.core.lehr.entering = []) → Answers (.dip rail mv) s fun t => ∃ e : Dev,
        let x := (e.raiseLevel (2043 + r) 0xC00).assertEvt 117
        t = s.commit ((if again then ((x.bump .lehrSupply 0 fLS_DIP_CNT_ESCALATIONS).statBit .lehrSupply 0 1).enterHold 2 else x).settle 64) ∧
        e.get .lehrSupply 0 fLS_LAST_DIP_FROZEN = 1 ∧ e.get .lehrSupply 0 fLS_RAIL_WARN r = 1 ∧ e.get .lehrSupply 0 fLS_RAIL_MV r = mv.toNat ∧ e.get .lehrSupply 0 fLS_LAST_DIP_RAIL = r ∧
        e.get .lehrSupply 0 fLS_DIP_CNT_DIPS = min (d.get .lehrSupply 0 fLS_DIP_CNT_DIPS + 1) (2 ^ 16 - 1) ∧
        e.core.lehr.dips = s.core.lehr.dips ++ [(r, d.free)] ∧ e.core.lehr.lastDip = some d.free ∧
        e.core.recs = s.core.recs.map fun p => (p.1, { p.2 with pics := p.2.pics.map fun z => { z with supply := true } })) ∧
    (s.core.lehr.dips.find? (fun p => p.1 = r) = some (r, t0) → railWarn r ≤ 10 * mv.toNat → Answers (.dipRecovery rail mv) s fun t =>
      t.begin.get .lehrSupply 0 fLS_RAIL_WARN r = 0 ∧ t.begin.get .lehrSupply 0 fLS_RAIL_MV r = mv.toNat ∧ t.begin.get .lehrSupply 0 fLS_LAST_DIP_US = min 65535 ((d.free - t0) / 1000) ∧
      t.core.lehr.dips = s.core.lehr.dips.filter (fun p => p.1 ≠ r) ∧ (t.begin.frec (2043 + r)).level = false) ∧
    (s.core.lehr.dips = [] → d.frozen = true → Answers .freezeLift s fun t => t.begin.frozen = false) ∧
    (s.core.boot.phase = .sequencing → q.driven r = true →
      (q.lehrFail = false →
        let q' := ({ q with good := if q.good.contains r then q.good else q.good ++ [r] } : Sequencer).advance
        (¬ (q'.en2 = true ∧ 6 ∈ q'.good) → Answers (.seqRailGood rail) s fun t => t.core.lehr.seq = q' ∧ t.core.boot = s.core.boot) ∧
        (q'.en2 = true → 6 ∈ q'.good → s.core.lehr.pinLow = false → Answers (.seqRailGood rail) s fun t =>
          t.core.lehr.seq = q' ∧ t.core.boot = ⟨.image, [], [], false, 0⟩ ∧ t.begin.get .lehrSupply 0 fLS_RST_CAUSE_BOOTS = min (d.get .lehrSupply 0 fLS_RST_CAUSE_BOOTS + 1) (2 ^ 16 - 1))) ∧
      (r ≠ 2 → r ≠ 7 → r ∉ q.good → Answers (.seqRailTimeout rail) s fun t =>
        t.core.lehr.seq = { q with en0 := false, en1 := false, en2 := false, good := q.good.filter (fun k => decide (k = 2 ∨ k = 7)), waiting := true, fails := q.fails + 1 })) ∧
    (s.core.boot.phase = .sequencing → q.waiting = true →
      (q.fails < 3 → Answers .seqRetry s fun t => t.core.lehr.seq = ({ q with waiting := false } : Sequencer).advance) ∧
      (3 ≤ q.fails → Answers .seqRetry s fun t => t.core.lehr.seq.lehrFail = true ∧ t.core.boot.phase = .railFail))

/-! ## Resets and boot (chapter 20) -/

/-- Resets of the device (R379, R382, R383, R389): every register takes its reset value in the fields of the classes that the reset clears (Table 20.8a), DRAM is not kept, the flash is, LS_RST_CAUSE names the reset,
and boot begins where the reset leaves it: at the sequencer, at the pin's release, or at once for a host reset, which leaves the host port's link state. -/
def Obligations.ResetsClearByClass : Prop :=
  ∀ (s : State) (mst : Fin 4096) (v : Word) (rail : Fin 8) (gid sz : Fin 4) (a b : Nat),
    let d := s.begin
    let some_ : List Cls := [.cfg, .ctl, .sts, .cnt, .lck]
    (rail.val ≠ 2 → s.core.boot.phase ≠ .railFail → rail.val ∈ s.core.lehr.seq.good → Answers (.supplyReset rail) s fun t =>
      (a ≠ 0x2070 → t.begin.reg a = (d.clearReg some_ a).reg a) ∧ t.begin.dramByte b = memDefault b ∧ t.core.flash = s.core.flash ∧ t.begin.get .lehrSupply 0 fLS_RST_CAUSE_LAST = 2 ∧
      t.core.boot.phase = .sequencing ∧ t.core.lehr.seq.waiting = true ∧ t.core.slots = [] ∧ t.core.fault.recs = []) ∧
    (Answers (.powerOnReset gid sz) s fun t =>
      (a ≠ 0x2070 → t.begin.reg a = (d.clearReg (some_ ++ [.ao]) a).reg a) ∧ t.begin.dramByte b = memDefault b ∧ t.core.flash = s.core.flash ∧ t.begin.get .lehrSupply 0 fLS_RST_CAUSE_LAST = 1 ∧
      t.core.boot.phase = .sequencing ∧ t.core.lehr.gangId = gid.val ∧ t.core.lehr.gangSzM1 = sz.val ∧ t.core.jtag = Jtag.rest) ∧
    (s.core.boot.phase ≠ .sequencing → s.core.boot.phase ≠ .railFail → Answers .pinReset s fun t =>
      (a ≠ 0x2070 → t.begin.reg a = (d.clearReg some_ a).reg a) ∧ t.begin.dramByte b = memDefault b ∧ t.core.flash = s.core.flash ∧ t.begin.get .lehrSupply 0 fLS_RST_CAUSE_LAST = 3 ∧
      t.core.boot.phase = .inReset ∧ t.core.lehr.pinLow = true ∧ t.core.time.refPresent = s.core.time.refPresent) ∧
    (s.calm = true → s.core.boot.phase = .inReset → Answers .pinResetRelease s fun t =>
      t.core.boot.phase = .image ∧ t.core.lehr.pinLow = false ∧ t.begin.get .lehrSupply 0 fLS_RST_CAUSE_BOOTS = min (d.get .lehrSupply 0 fLS_RST_CAUSE_BOOTS + 1) (2 ^ 16 - 1)) ∧
    (s.opens 2 = true → Answers (.hostReset mst v) s fun t =>
      (a ∉ [0x2070, 0x206C, 0xC040] → t.begin.reg a = (d.clearReg some_ a).reg a) ∧ t.begin.dramByte b = memDefault b ∧ t.core.flash = s.core.flash ∧ t.begin.get .lehrSupply 0 fLS_RST_CAUSE_LAST = 4 ∧
      t.core.boot = ⟨.image, [], [], true, 0⟩ ∧ t.begin.reg 0xC040 = d.reg 0xC040)

/-- With no valid slot (R390) the block stays in BOOT with CF_BOOT.SLOT 2: the always-on domain, the host port and the spine are on and every other domain is
off; only the pages of DEVICE, LEHR (two), CONFIG and HOSTPORT answer BAR0. -/
def Obligations.NoValidSlotStaysInBoot : Prop :=
  ∀ (s : State) (n a : Nat), s.calm = true → s.core.boot.phase = .image → s.begin.domState 0xC4 = 0 →
    headerVerdict (s.begin.flashBytes 0 4096) ≠ 0 → headerVerdict (s.begin.flashBytes 0x2000000 4096) ≠ 0 →
    Answers .bootImageLoaded s fun t =>
      t.core.boot.phase = .noSlot ∧ t.begin.base = s.begin.base ∧ t.begin.get .config 0 fCF_BOOT_SLOT = 2 ∧
      (n = 0 ∨ n = 0xC4 ∨ n = 0xC9 → t.begin.domState n = 0) ∧ (1 ≤ n → n ≤ 0xC8 → n ≠ 0xC4 → t.begin.domState n = 2) ∧
      t.begin.barLive = true ∧ (a / 4096 ∈ [0, 1, 2, 3, 0xC] → (t.begin.bootGate && !bootPage (a / 4096)) = false) ∧
      (a / 4096 ∉ [0, 1, 2, 3, 0xC] → t.begin.readReg a = 0)

/-- The configuration image (R386, R387): with slot A's header alone valid its body is checked (its CRC, and its
signature, a free value: log entry 36), and where the body is valid its sections are loaded and its records begin; the wait in front of the records ends, and with the last
record every channel begins to train. -/
def Obligations.ImageIsLoadedAndRecordsEnd : Prop :=
  ∀ (s : State) (r : CfgRec) (c : Fin 10), s.calm = true →
    let d := s.begin
    let ha := d.flashBytes 0 4096
    let hb := d.flashBytes 0x2000000 4096
    let body := d.flashBytes 0x1000 (fieldLe ha 16 4)
    (s.core.boot.phase = .image → headerVerdict ha = 0 → headerVerdict hb ≠ 0 → Answers .bootImageLoaded s fun t =>
      (bodyVerdict ha body ≠ 0 → t.core.boot.phase = .noSlot ∧ t.core.boot.recs = []) ∧
      (bodyVerdict ha body = 0 → ∃ e : Dev,
        t = s.commit ((Dev.runRecs e.core.boot.recs e).settle 64) ∧ e.core.boot.phase = .records ∧ e.core.stageKey = sectionBytes ha body 4 ∧
        e.core.boot.recs = (match sectionBytes ha body 1 with
          | some x => parseRecs (x.length / 16) x
          | none => []) ∧ e.core.flash = s.core.flash)) ∧
    (s.core.boot.phase = .records → s.core.boot.recs = [r] → Answers .configRecordWaitEnd s fun t =>
      t.core.boot.phase = .training ∧ t.core.boot.recs = [] ∧ t.begin.get .mem c.val fMEM_STAT_STATE = 1 ∧
      (r.op = 2 → d.recHolds r = false → t.begin.get .config 0 fCF_RECS_REJECTED = min (d.get .config 0 fCF_RECS_REJECTED + 1) (2 ^ 16 - 1)) ∧
      (r.op ≠ 2 → t.begin.get .config 0 fCF_RECS_APPLIED = min (d.get .config 0 fCF_RECS_APPLIED + 1) (2 ^ 16 - 1)))

/-! ## The flash and board tests (chapters 20 and 21) -/

/-- The configuration flash (R391) and board tests (R408): a read, a program and an erase start on the page addressed; a program or an erase of the running slot is refused with code 1; each completes by what it does to
CF_BUF or to the flash and to no other byte; a test starts in TEST mode on a unit that exists and is not off, and ends with its result. -/
def Obligations.FlashAndBoardTests : Prop :=
  ∀ (s : State) (mst : Fin 4096) (idx : Fin 32) (loop : Fin 4) (page a n : Nat) (errors : Nat) (failed : Word) (b : BoardTest), s.calm = true →
    let d := s.begin
    let at_ := d.get .config 0 fCF_FADDR_PAGE
    let slot := d.get .config 0 fCF_BOOT_SLOT
    let started := fun (op : Nat) (t : State) => t.core.flashCmd = some (op, at_) ∧ t.begin.get .config 0 fCF_FSTAT_BUSY = 1 ∧ t.begin.get .config 0 fCF_FSTAT_ERR = 0 ∧ t.core.flash = s.core.flash
    let refused := fun (t : State) => t.core.flashCmd = none ∧ t.begin.get .config 0 fCF_FSTAT_ERR = 1 ∧ t.begin.get .config 0 fCF_FSTAT_ERR_CODE = 1 ∧ t.core.flash = s.core.flash
    let byte := fun (f : List Host.Cell) (k : Nat) => Sparse.get flashDefault f k
    let unit := fun (k : Nat) => idx.val < testUnits k ∧ d.domState (pageDom (testPage k idx.val)) ≠ 2 ∧
      s.calmFor (fun d => d.busPair mst.val 0x80 (BitVec.ofNat 32 (2 ^ 31 + k * 2 ^ 24 + idx.val * 2 ^ 16 + loop.val * 2 ^ 8))) = true
    let runs := fun (k : Nat) (t : State) => t.core.test = some ⟨k, idx.val, if loop.val = 1 then 1 else 0⟩
    (s.opens 3 = true → s.core.flashCmd = none →
      (d.keyPage at_ = false → Answers (.flashReadPage mst) s (started 1)) ∧
      (¬ (slot < 2 ∧ at_ / 0x20000 = slot) → Answers (.flashProgram mst) s (started 2) ∧ Answers (.flashErase mst) s (started 3)) ∧
      (slot < 2 ∧ at_ / 0x20000 = slot → Answers (.flashProgram mst) s refused ∧ Answers (.flashErase mst) s refused)) ∧
    (s.core.flashCmd = some (1, page) → n < 64 → Answers (.flashCommandDone false) s fun t =>
      t.core.flashCmd = none ∧ t.begin.reg (0x3400 + 4 * n) = BitVec.ofNat 32 (ofLe (d.flashBytes (page * 256 + 4 * n) 4)) ∧ t.core.flash = s.core.flash) ∧
    (s.core.flashCmd = some (2, page) → Answers (.flashCommandDone false) s fun t => t.core.flashCmd = none ∧
      byte t.core.flash a = if page * 256 ≤ a ∧ a < page * 256 + 256 then programmed (byte s.core.flash a) (d.flashBuffer.getD (a - page * 256) 0) else byte s.core.flash a) ∧
    (s.core.flashCmd = some (3, page) → Answers (.flashCommandDone false) s fun t => t.core.flashCmd = none ∧
      byte t.core.flash a = if a / 65536 = page * 256 / 65536 then 0xFF else byte s.core.flash a) ∧
    (s.opens 0 = true → d.modeShown = 11 → s.core.test = none →
      (unit 0 → Answers (.testGatherBank mst idx loop) s (runs 0)) ∧ (unit 1 → Answers (.testMagPort mst idx loop) s (runs 1)) ∧ (unit 2 → Answers (.testPeerPort mst idx loop) s (runs 2)) ∧
      (unit 3 → Answers (.testNetPort mst idx loop) s (runs 3)) ∧ (unit 4 → Answers (.testDdr5Channel mst idx loop) s (runs 4))) ∧
    (s.core.test = some b → b.kind ≠ 4 → Answers (.testDone errors failed) s fun t =>
      t.core.test = none ∧ t.begin.get .device 0 fDEV_TEST_STAT_BUSY = 0 ∧ t.begin.get .device 0 fDEV_TEST_STAT_DONE = 1 ∧ t.begin.get .device 0 fDEV_TEST_STAT_PASS = (if errors = 0 ∧ failed = 0 then 1 else 0) ∧
      t.begin.get .device 0 fDEV_TEST_STAT_ERRORS = min errors 0xFFFF ∧ t.begin.get .device 0 fDEV_TEST_MASK_FAILED = failed.toNat)

/-! ## Block resets that end, and votes (chapters 02 and 20) -/

/-- A block reset ends (R27): RESET_BUSY and RESET_REQ read 0, PG_STAT bit 21 is set and the block's quarantine window may close, and then what the block does after its reset follows. Copies of PG_CTL that disagree (R29): the
majority stands in the register, VOTE_CORR counts and the block's VOTE source is raised. The collector's own work on raised events comes last (`settle`). -/
def Obligations.BlockResetEndsAndVoteCorrects : Prop :=
  ∀ (s : State) (page : Fin 512) (p : PageInfo) (c0 c1 c2 : Word), pageInfo page.val = some p →
    let d := s.begin
    let b := blockIdx page.val
    (d.resetting b = true → d.heldByQuad b = false → s.core.fault.restoring = [] → Answers (.resetDone page) s fun t => ∃ e : Dev,
      t = s.commit ((e.afterReset b).settle 64) ∧ e.hget p.first fPG_PWR_STAT_RESET_BUSY = 0 ∧ e.hget p.first fPG_CTL_RESET_REQ = 0 ∧ (e.reg (p.first * 4096 + 0x00C)).getLsbD 21 = true ∧
      e.core.fault.windows = s.core.fault.windows.map (fun w => if w.quadrant.isNone ∧ w.block = b then { w with resetDone := true } else w) ∧ e.core.fault.recs = s.core.fault.recs) ∧
    (¬ (c0 = c1 ∧ c1 = c2) → d.domState (pageDom page.val) ≠ 2 → Answers (.vote page c0 c1 c2) s fun t => ∃ e : Dev,
      t = s.commit ((e.raise (2 * b)).settle 64) ∧ e.reg (hdrAddr page.val 0x008) = regVal (hdrAddr page.val 0x008) (majority c0 c1 c2) ∧
      e.hget page.val fPG_EVT_VOTE_CORR = min (d.hget page.val fPG_EVT_VOTE_CORR + 1) (2 ^ 8 - 1) ∧ e.core = s.core)
end

