-- ==== Sys2Proof/Laws/Sparse.lean ====
section
/-! SUPPORT. Sparse tables: a read after a write, writes elsewhere, and the canonical form that every operation keeps. -/
namespace Sys2Proof.Machine

variable {α : Type}

theorem Sparse.get_ins_same (d : Nat → α) (k : Nat) (v : α) (m : List (Nat × α)) : Sparse.get d (Sparse.ins k v m) k = v := by
  induction m with
  | nil => simp [Sparse.ins, Sparse.get]
  | cons p m ih =>
    simp only [Sparse.ins]
    split
    · simp [Sparse.get]
    · split
      · simp [Sparse.get]
      · rename_i h1 h2
        simp [Sparse.get, Ne.symm h2, ih]

theorem Sparse.get_ins_other (d : Nat → α) {k j : Nat} (h : j ≠ k) (v : α) (m : List (Nat × α)) :
    Sparse.get d (Sparse.ins k v m) j = Sparse.get d m j := by
  induction m with
  | nil => simp [Sparse.ins, Sparse.get, Ne.symm h]
  | cons p m ih =>
    simp only [Sparse.ins]
    split
    · simp [Sparse.get, Ne.symm h]
    · split
      · rename_i h1 h2
        subst h2
        simp [Sparse.get, Ne.symm h]
      · simp [Sparse.get, ih]

theorem Sparse.get_del_same (d : Nat → α) (k : Nat) (m : List (Nat × α)) : Sparse.get d (Sparse.del k m) k = d k := by
  induction m with
  | nil => simp [Sparse.del, Sparse.get]
  | cons p m ih =>
    simp only [Sparse.del]
    split
    · exact ih
    · rename_i h
      simp [Sparse.get, h, ih]

theorem Sparse.get_del_other (d : Nat → α) {k j : Nat} (h : j ≠ k) (m : List (Nat × α)) :
    Sparse.get d (Sparse.del k m) j = Sparse.get d m j := by
  induction m with
  | nil => simp [Sparse.del, Sparse.get]
  | cons p m ih =>
    simp only [Sparse.del]
    split
    · rename_i hk
      simp [Sparse.get, ih, hk, Ne.symm h]
    · simp [Sparse.get, ih]

/-- A read after a write to the same key gives the value written. -/
theorem Sparse.get_set_same [DecidableEq α] (d : Nat → α) (m : List (Nat × α)) (k : Nat) (v : α) :
    Sparse.get d (Sparse.set d m k v) k = v := by
  unfold Sparse.set
  split
  · rename_i h; rw [Sparse.get_del_same, h]
  · exact Sparse.get_ins_same d k v m

/-- A write leaves every other key alone. -/
theorem Sparse.get_set_other [DecidableEq α] (d : Nat → α) (m : List (Nat × α)) {k j : Nat} (h : j ≠ k) (v : α) :
    Sparse.get d (Sparse.set d m k v) j = Sparse.get d m j := by
  unfold Sparse.set
  split
  · exact Sparse.get_del_other d h m
  · exact Sparse.get_ins_other d h v m

theorem Sparse.wfFrom_mono [DecidableEq α] (d : Nat → α) {i j : Nat} (h : i ≤ j) {m : List (Nat × α)} (w : Sparse.wfFrom d j m = true) :
    Sparse.wfFrom d i m = true := by
  cases m with
  | nil => rfl
  | cons p m =>
    simp only [Sparse.wfFrom, Bool.and_eq_true, decide_eq_true_eq] at w ⊢
    exact ⟨⟨by omega, w.1.2⟩, w.2⟩

theorem Sparse.wfFrom_del [DecidableEq α] (d : Nat → α) (k : Nat) (m : List (Nat × α)) :
    ∀ i, Sparse.wfFrom d i m = true → Sparse.wfFrom d i (Sparse.del k m) = true := by
  induction m with
  | nil => intro i _; rfl
  | cons p m ih =>
    intro i w
    simp only [Sparse.wfFrom, Bool.and_eq_true, decide_eq_true_eq] at w
    simp only [Sparse.del]
    split
    · exact ih i (Sparse.wfFrom_mono d (by omega) w.2)
    · simp only [Sparse.wfFrom, Bool.and_eq_true, decide_eq_true_eq]
      exact ⟨w.1, ih _ w.2⟩

theorem Sparse.wfFrom_ins [DecidableEq α] (d : Nat → α) (k : Nat) (v : α) (hv : v ≠ d k) (m : List (Nat × α)) :
    ∀ i, i ≤ k → Sparse.wfFrom d i m = true → Sparse.wfFrom d i (Sparse.ins k v m) = true := by
  induction m with
  | nil => intro i hi _; simp [Sparse.ins, Sparse.wfFrom, hi, hv]
  | cons p m ih =>
    intro i hi w
    simp only [Sparse.wfFrom, Bool.and_eq_true, decide_eq_true_eq] at w
    simp only [Sparse.ins]
    split
    · simp only [Sparse.wfFrom, Bool.and_eq_true, decide_eq_true_eq]
      exact ⟨⟨hi, hv⟩, ⟨by omega, w.1.2⟩, w.2⟩
    · split
      · rename_i _ h2
        subst h2
        simp only [Sparse.wfFrom, Bool.and_eq_true, decide_eq_true_eq]
        exact ⟨⟨hi, hv⟩, w.2⟩
      · simp only [Sparse.wfFrom, Bool.and_eq_true, decide_eq_true_eq]
        exact ⟨w.1, ih _ (by omega) w.2⟩

/-- A write keeps the canonical form. -/
theorem Sparse.wf_set [DecidableEq α] (d : Nat → α) {m : List (Nat × α)} (w : Sparse.wf d m = true) (k : Nat) (v : α) :
    Sparse.wf d (Sparse.set d m k v) = true := by
  unfold Sparse.set
  split
  · exact Sparse.wfFrom_del d k m 0 w
  · rename_i h; exact Sparse.wfFrom_ins d k v h m 0 (Nat.zero_le _) w

theorem Sparse.wf_foldl_set [DecidableEq α] (d : Nat → α) (f : Nat → α → α) (l : List (Nat × α)) :
    ∀ m, Sparse.wf d m = true → Sparse.wf d (l.foldl (fun m kv => Sparse.set d m kv.1 (f kv.1 kv.2)) m) = true := by
  induction l with
  | nil => intro m w; exact w
  | cons p l ih => intro m w; exact ih _ (Sparse.wf_set d w _ _)

/-- Applying a log keeps the canonical form. -/
theorem Sparse.wf_apply [DecidableEq α] (d : Nat → α) {m : List (Nat × α)} (w : Sparse.wf d m = true) (log : List (Nat × α)) :
    Sparse.wf d (Sparse.apply d m log) = true :=
  Sparse.wf_foldl_set d (fun _ v => v) log.reverse m w

theorem Sparse.get_fold [DecidableEq α] (d : Nat → α) (f : Nat → α → α) (m : List (Nat × α)) (log : List (Nat × α)) (k : Nat) :
    Sparse.get d (log.reverse.foldl (fun m kv => Sparse.set d m kv.1 (f kv.1 kv.2)) m) k =
      match log.lookup k with
      | some v => f k v
      | none => Sparse.get d m k := by
  induction log with
  | nil => rfl
  | cons p log ih =>
    obtain ⟨a, v⟩ := p
    simp only [List.reverse_cons, List.foldl_append, List.foldl_cons, List.foldl_nil, List.lookup_cons]
    by_cases h : k = a
    · subst h; simp [Sparse.get_set_same]
    · rw [Sparse.get_set_other d _ h, ih]
      simp [show (k == a) = false by simpa using h]

/-- What a key reads after a log is applied: the newest write of it, else what it read before. -/
theorem Sparse.get_apply [DecidableEq α] (d : Nat → α) (m : List (Nat × α)) (log : List (Nat × α)) (k : Nat) :
    Sparse.get d (Sparse.apply d m log) k = (Overlay.mk m log).get d k :=
  Sparse.get_fold d (fun _ v => v) m log k

@[simp] theorem Overlay.put_base (o : Overlay α) (k : Nat) (v : α) : (o.put k v).base = o.base := rfl
@[simp] theorem Overlay.start_base (m : List (Nat × α)) : (Overlay.start m).base = m := rfl

@[simp] theorem Overlay.get_put_same (d : Nat → α) (o : Overlay α) (k : Nat) (v : α) : (o.put k v).get d k = v := by
  simp [Overlay.get, Overlay.put]

theorem Overlay.get_put_other (d : Nat → α) (o : Overlay α) {k j : Nat} (h : j ≠ k) (v : α) : (o.put k v).get d j = o.get d j := by
  simp [Overlay.get, Overlay.put, List.lookup_cons, show (j == k) = false by simpa using h]

/-- A table of entries reads what was last written to it. -/
@[simp] theorem tget_tset_same (d : α) (m : List (Nat × α)) (k : Nat) (v : α) : tget d (tset m k v) k = v :=
  Sparse.get_ins_same _ k v m

theorem tget_tset_other (d : α) (m : List (Nat × α)) {k j : Nat} (h : j ≠ k) (v : α) : tget d (tset m k v) j = tget d m j :=
  Sparse.get_ins_other _ h v m

/-- What a lookup finds after an entry is written. -/
@[simp] theorem lookup_tset_same (m : List (Nat × α)) (k : Nat) (v : α) : (tset m k v).lookup k = some v := by
  unfold tset
  induction m with
  | nil => simp [Sparse.ins]
  | cons p m ih =>
    simp only [Sparse.ins]
    split
    · simp
    · split
      · simp
      · rename_i h1 h2
        have e : (k == p.1) = false := by simpa using h2
        show (match k == p.1 with | true => some p.2 | false => (Sparse.ins k v m).lookup k) = some v
        rw [e]; exact ih

theorem lookup_tset_other (m : List (Nat × α)) {k j : Nat} (h : j ≠ k) (v : α) : (tset m k v).lookup j = m.lookup j := by
  have hjk : (j == k) = false := by simpa using h
  unfold tset
  induction m with
  | nil => simp [Sparse.ins, List.lookup, hjk]
  | cons p m ih =>
    obtain ⟨a, w⟩ := p
    simp only [Sparse.ins]
    split
    · simp only [List.lookup, hjk]
    · split
      · rename_i h1 h2
        subst h2
        simp only [List.lookup, hjk]
      · simp only [List.lookup, ih]

end Sys2Proof.Machine
end

