-- ==== Sys2Proof/Laws/State.lean ====
section
/-! SUPPORT. What each shared update of the state changes and what it leaves: one lemma for each field and update. -/
namespace Sys2Proof.Machine

/-! ## Updates of registers and memories -/

@[simp] theorem Dev.setReg_core (d : Dev) (a : Nat) (v : Word) : (d.setReg a v).core = d.core := rfl
@[simp] theorem Dev.setReg_dram (d : Dev) (a : Nat) (v : Word) : (d.setReg a v).dram = d.dram := rfl
@[simp] theorem Dev.setReg_hostMem (d : Dev) (a : Nat) (v : Word) : (d.setReg a v).hostMem = d.hostMem := rfl
@[simp] theorem Dev.set_core (d : Dev) (k : PageKind) (i : Nat) (r : FieldRow) (v n : Nat) : (d.set k i r v n).core = d.core := rfl
@[simp] theorem Dev.set_dram (d : Dev) (k : PageKind) (i : Nat) (r : FieldRow) (v n : Nat) : (d.set k i r v n).dram = d.dram := rfl
@[simp] theorem Dev.set_hostMem (d : Dev) (k : PageKind) (i : Nat) (r : FieldRow) (v n : Nat) : (d.set k i r v n).hostMem = d.hostMem := rfl
@[simp] theorem Dev.bump_core (d : Dev) (k : PageKind) (i : Nat) (r : FieldRow) (b n : Nat) : (d.bump k i r b n).core = d.core := rfl
@[simp] theorem Dev.bump_dram (d : Dev) (k : PageKind) (i : Nat) (r : FieldRow) (b n : Nat) : (d.bump k i r b n).dram = d.dram := rfl
@[simp] theorem Dev.bump_hostMem (d : Dev) (k : PageKind) (i : Nat) (r : FieldRow) (b n : Nat) : (d.bump k i r b n).hostMem = d.hostMem := rfl
@[simp] theorem Dev.lower_core (d : Dev) (k : PageKind) (i : Nat) (r : FieldRow) (b n : Nat) : (d.lower k i r b n).core = d.core := rfl
@[simp] theorem Dev.lower_dram (d : Dev) (k : PageKind) (i : Nat) (r : FieldRow) (b n : Nat) : (d.lower k i r b n).dram = d.dram := rfl
@[simp] theorem Dev.lower_hostMem (d : Dev) (k : PageKind) (i : Nat) (r : FieldRow) (b n : Nat) : (d.lower k i r b n).hostMem = d.hostMem := rfl
@[simp] theorem Dev.wrap_core (d : Dev) (k : PageKind) (i : Nat) (r : FieldRow) (b n : Nat) : (d.wrap k i r b n).core = d.core := rfl
@[simp] theorem Dev.wrap_dram (d : Dev) (k : PageKind) (i : Nat) (r : FieldRow) (b n : Nat) : (d.wrap k i r b n).dram = d.dram := rfl
@[simp] theorem Dev.wrap_hostMem (d : Dev) (k : PageKind) (i : Nat) (r : FieldRow) (b n : Nat) : (d.wrap k i r b n).hostMem = d.hostMem := rfl
@[simp] theorem Dev.raiseMax_core (d : Dev) (k : PageKind) (i : Nat) (r : FieldRow) (v n : Nat) : (d.raiseMax k i r v n).core = d.core := rfl
@[simp] theorem Dev.raiseMax_dram (d : Dev) (k : PageKind) (i : Nat) (r : FieldRow) (v n : Nat) : (d.raiseMax k i r v n).dram = d.dram := rfl
@[simp] theorem Dev.raiseMax_hostMem (d : Dev) (k : PageKind) (i : Nat) (r : FieldRow) (v n : Nat) : (d.raiseMax k i r v n).hostMem = d.hostMem := rfl
@[simp] theorem Dev.bump64_core (d : Dev) (k : PageKind) (i : Nat) (lo hi : FieldRow) (b : Nat) : (d.bump64 k i lo hi b).core = d.core := rfl
@[simp] theorem Dev.bump64_dram (d : Dev) (k : PageKind) (i : Nat) (lo hi : FieldRow) (b : Nat) : (d.bump64 k i lo hi b).dram = d.dram := rfl
@[simp] theorem Dev.bump64_hostMem (d : Dev) (k : PageKind) (i : Nat) (lo hi : FieldRow) (b : Nat) : (d.bump64 k i lo hi b).hostMem = d.hostMem := rfl
@[simp] theorem Dev.hset_core (d : Dev) (p : Nat) (r : FieldRow) (v : Nat) : (d.hset p r v).core = d.core := rfl
@[simp] theorem Dev.hset_dram (d : Dev) (p : Nat) (r : FieldRow) (v : Nat) : (d.hset p r v).dram = d.dram := rfl
@[simp] theorem Dev.hset_hostMem (d : Dev) (p : Nat) (r : FieldRow) (v : Nat) : (d.hset p r v).hostMem = d.hostMem := rfl
@[simp] theorem Dev.hbump_core (d : Dev) (p : Nat) (r : FieldRow) : (d.hbump p r).core = d.core := rfl
@[simp] theorem Dev.hbump_dram (d : Dev) (p : Nat) (r : FieldRow) : (d.hbump p r).dram = d.dram := rfl
@[simp] theorem Dev.hbump_hostMem (d : Dev) (p : Nat) (r : FieldRow) : (d.hbump p r).hostMem = d.hostMem := rfl
@[simp] theorem Dev.stat_core (d : Dev) (p b : Nat) : (d.stat p b).core = d.core := rfl
@[simp] theorem Dev.stat_dram (d : Dev) (p b : Nat) : (d.stat p b).dram = d.dram := rfl
@[simp] theorem Dev.stat_hostMem (d : Dev) (p b : Nat) : (d.stat p b).hostMem = d.hostMem := rfl
@[simp] theorem Dev.statBit_core (d : Dev) (k : PageKind) (i b : Nat) : (d.statBit k i b).core = d.core := rfl
@[simp] theorem Dev.statBit_dram (d : Dev) (k : PageKind) (i b : Nat) : (d.statBit k i b).dram = d.dram := rfl
@[simp] theorem Dev.statBit_hostMem (d : Dev) (k : PageKind) (i b : Nat) : (d.statBit k i b).hostMem = d.hostMem := rfl
@[simp] theorem Dev.drop_core (d : Dev) : d.drop.core = d.core := rfl
@[simp] theorem Dev.drop_dram (d : Dev) : d.drop.dram = d.dram := rfl
@[simp] theorem Dev.drop_hostMem (d : Dev) : d.drop.hostMem = d.hostMem := rfl
@[simp] theorem Dev.setDram_core (d : Dev) (a : Nat) (b : Byte) : (d.setDram a b).core = d.core := rfl
@[simp] theorem Dev.setDram_regs (d : Dev) (a : Nat) (b : Byte) : (d.setDram a b).regs = d.regs := rfl
@[simp] theorem Dev.setDram_hostMem (d : Dev) (a : Nat) (b : Byte) : (d.setDram a b).hostMem = d.hostMem := rfl
@[simp] theorem Dev.putDram_core (bs : List Byte) : ∀ (d : Dev) (a : Nat), (d.putDram a bs).core = d.core := by
  induction bs with
  | nil => intro d a; rfl
  | cons b bs ih => intro d a; simp only [Dev.putDram, ih, Dev.setDram_core]
@[simp] theorem Dev.putDram_regs (bs : List Byte) : ∀ (d : Dev) (a : Nat), (d.putDram a bs).regs = d.regs := by
  induction bs with
  | nil => intro d a; rfl
  | cons b bs ih => intro d a; simp only [Dev.putDram, ih, Dev.setDram_regs]
@[simp] theorem Dev.putDram_hostMem (bs : List Byte) : ∀ (d : Dev) (a : Nat), (d.putDram a bs).hostMem = d.hostMem := by
  induction bs with
  | nil => intro d a; rfl
  | cons b bs ih => intro d a; simp only [Dev.putDram, ih, Dev.setDram_hostMem]
@[simp] theorem Dev.writeHost_core (bs : List Byte) : ∀ (d : Dev) (a : Nat), (d.writeHost a bs).core = d.core := by
  induction bs with
  | nil => intro d a; rfl
  | cons b bs ih => intro d a; simp only [Dev.writeHost, ih]
@[simp] theorem Dev.writeHost_regs (bs : List Byte) : ∀ (d : Dev) (a : Nat), (d.writeHost a bs).regs = d.regs := by
  induction bs with
  | nil => intro d a; rfl
  | cons b bs ih => intro d a; simp only [Dev.writeHost, ih]
@[simp] theorem Dev.writeHost_dram (bs : List Byte) : ∀ (d : Dev) (a : Nat), (d.writeHost a bs).dram = d.dram := by
  induction bs with
  | nil => intro d a; rfl
  | cons b bs ih => intro d a; simp only [Dev.writeHost, ih]
@[simp] theorem Dev.writeDram_regs (d : Dev) (a : Nat) (bs : List Byte) : (d.writeDram a bs).regs = d.regs := by
  simp [Dev.writeDram]
@[simp] theorem Dev.writeDram_hostMem (d : Dev) (a : Nat) (bs : List Byte) : (d.writeDram a bs).hostMem = d.hostMem := by
  simp [Dev.writeDram]

/-! ## Updates of the core -/

@[simp] theorem Dev.setSlot_regs (d : Dev) (n : Nat) (x : Slot) : (d.setSlot n x).regs = d.regs := rfl
@[simp] theorem Dev.setSlot_dram (d : Dev) (n : Nat) (x : Slot) : (d.setSlot n x).dram = d.dram := rfl
@[simp] theorem Dev.setSlot_hostMem (d : Dev) (n : Nat) (x : Slot) : (d.setSlot n x).hostMem = d.hostMem := rfl
@[simp] theorem Dev.setSlot_core_host (d : Dev) (n : Nat) (x : Slot) : (d.setSlot n x).core.host = d.core.host := rfl
@[simp] theorem Dev.setSlot_core_take (d : Dev) (n : Nat) (x : Slot) : (d.setSlot n x).core.take = d.core.take := rfl
@[simp] theorem Dev.setSlot_core_armCount (d : Dev) (n : Nat) (x : Slot) : (d.setSlot n x).core.armCount = d.core.armCount := rfl
@[simp] theorem Dev.setSlot_core_lehr (d : Dev) (n : Nat) (x : Slot) : (d.setSlot n x).core.lehr = d.core.lehr := rfl
@[simp] theorem Dev.setSlot_core_boot (d : Dev) (n : Nat) (x : Slot) : (d.setSlot n x).core.boot = d.core.boot := rfl
@[simp] theorem Dev.setSlot_core_fault (d : Dev) (n : Nat) (x : Slot) : (d.setSlot n x).core.fault = d.core.fault := rfl
@[simp] theorem Dev.setSlot_core_evts (d : Dev) (n : Nat) (x : Slot) : (d.setSlot n x).core.evts = d.core.evts := rfl
@[simp] theorem Dev.setSlot_core_gafs (d : Dev) (n : Nat) (x : Slot) : (d.setSlot n x).core.gafs = d.core.gafs := rfl
@[simp] theorem Dev.setSlot_core_test (d : Dev) (n : Nat) (x : Slot) : (d.setSlot n x).core.test = d.core.test := rfl
@[simp] theorem Dev.setSlot_core_jtag (d : Dev) (n : Nat) (x : Slot) : (d.setSlot n x).core.jtag = d.core.jtag := rfl
@[simp] theorem Dev.setSlot_core_flash (d : Dev) (n : Nat) (x : Slot) : (d.setSlot n x).core.flash = d.core.flash := rfl
@[simp] theorem Dev.setSlot_core_flashCmd (d : Dev) (n : Nat) (x : Slot) : (d.setSlot n x).core.flashCmd = d.core.flashCmd := rfl
@[simp] theorem Dev.setSlot_core_time (d : Dev) (n : Nat) (x : Slot) : (d.setSlot n x).core.time = d.core.time := rfl
@[simp] theorem Dev.setSlot_core_lanes (d : Dev) (n : Nat) (x : Slot) : (d.setSlot n x).core.lanes = d.core.lanes := rfl
@[simp] theorem Dev.setSlot_core_heads (d : Dev) (n : Nat) (x : Slot) : (d.setSlot n x).core.heads = d.core.heads := rfl
@[simp] theorem Dev.setSlot_core_allow (d : Dev) (n : Nat) (x : Slot) : (d.setSlot n x).core.allow = d.core.allow := rfl
@[simp] theorem Dev.setSlot_core_stageKey (d : Dev) (n : Nat) (x : Slot) : (d.setSlot n x).core.stageKey = d.core.stageKey := rfl
@[simp] theorem Dev.setSlot_core_recs (d : Dev) (n : Nat) (x : Slot) : (d.setSlot n x).core.recs = d.core.recs := rfl
@[simp] theorem Dev.setSlot_core_tctx (d : Dev) (n : Nat) (x : Slot) : (d.setSlot n x).core.tctx = d.core.tctx := rfl
@[simp] theorem Dev.setSlot_core_encs (d : Dev) (n : Nat) (x : Slot) : (d.setSlot n x).core.encs = d.core.encs := rfl
@[simp] theorem Dev.setSlot_core_decp (d : Dev) (n : Nat) (x : Slot) : (d.setSlot n x).core.decp = d.core.decp := rfl
@[simp] theorem Dev.setSlot_core_rcLog (d : Dev) (n : Nat) (x : Slot) : (d.setSlot n x).core.rcLog = d.core.rcLog := rfl
@[simp] theorem Dev.setSlot_core_rings (d : Dev) (n : Nat) (x : Slot) : (d.setSlot n x).core.rings = d.core.rings := rfl
@[simp] theorem Dev.setSlot_core_chans (d : Dev) (n : Nat) (x : Slot) : (d.setSlot n x).core.chans = d.core.chans := rfl
@[simp] theorem Dev.setSlot_core_drr (d : Dev) (n : Nat) (x : Slot) : (d.setSlot n x).core.drr = d.core.drr := rfl
@[simp] theorem Dev.setSlot_core_cullet (d : Dev) (n : Nat) (x : Slot) : (d.setSlot n x).core.cullet = d.core.cullet := rfl
@[simp] theorem Dev.setSlot_core_mags (d : Dev) (n : Nat) (x : Slot) : (d.setSlot n x).core.mags = d.core.mags := rfl
@[simp] theorem Dev.setSlot_core_exchange (d : Dev) (n : Nat) (x : Slot) : (d.setSlot n x).core.exchange = d.core.exchange := rfl
@[simp] theorem Dev.setSlot_core_decs (d : Dev) (n : Nat) (x : Slot) : (d.setSlot n x).core.decs = d.core.decs := rfl
@[simp] theorem Dev.setSlot_core_proxies (d : Dev) (n : Nat) (x : Slot) : (d.setSlot n x).core.proxies = d.core.proxies := rfl
@[simp] theorem Dev.setSlot_core_mem (d : Dev) (n : Nat) (x : Slot) : (d.setSlot n x).core.mem = d.core.mem := rfl
@[simp] theorem Dev.setSlot_core_nets (d : Dev) (n : Nat) (x : Slot) : (d.setSlot n x).core.nets = d.core.nets := rfl
@[simp] theorem Dev.setSlot_core_peers (d : Dev) (n : Nat) (x : Slot) : (d.setSlot n x).core.peers = d.core.peers := rfl
@[simp] theorem Dev.setSlot_core_hosted (d : Dev) (n : Nat) (x : Slot) : (d.setSlot n x).core.hosted = d.core.hosted := rfl
@[simp] theorem Dev.setSlot_core_served (d : Dev) (n : Nat) (x : Slot) : (d.setSlot n x).core.served = d.core.served := rfl
@[simp] theorem Dev.setEvt_regs (d : Dev) (n : Nat) (x : EvtSrc) : (d.setEvt n x).regs = d.regs := rfl
@[simp] theorem Dev.setEvt_dram (d : Dev) (n : Nat) (x : EvtSrc) : (d.setEvt n x).dram = d.dram := rfl
@[simp] theorem Dev.setEvt_hostMem (d : Dev) (n : Nat) (x : EvtSrc) : (d.setEvt n x).hostMem = d.hostMem := rfl
@[simp] theorem Dev.setEvt_core_host (d : Dev) (n : Nat) (x : EvtSrc) : (d.setEvt n x).core.host = d.core.host := rfl
@[simp] theorem Dev.setEvt_core_slots (d : Dev) (n : Nat) (x : EvtSrc) : (d.setEvt n x).core.slots = d.core.slots := rfl
@[simp] theorem Dev.setEvt_core_take (d : Dev) (n : Nat) (x : EvtSrc) : (d.setEvt n x).core.take = d.core.take := rfl
@[simp] theorem Dev.setEvt_core_armCount (d : Dev) (n : Nat) (x : EvtSrc) : (d.setEvt n x).core.armCount = d.core.armCount := rfl
@[simp] theorem Dev.setEvt_core_lehr (d : Dev) (n : Nat) (x : EvtSrc) : (d.setEvt n x).core.lehr = d.core.lehr := rfl
@[simp] theorem Dev.setEvt_core_boot (d : Dev) (n : Nat) (x : EvtSrc) : (d.setEvt n x).core.boot = d.core.boot := rfl
@[simp] theorem Dev.setEvt_core_fault (d : Dev) (n : Nat) (x : EvtSrc) : (d.setEvt n x).core.fault = d.core.fault := rfl
@[simp] theorem Dev.setEvt_core_gafs (d : Dev) (n : Nat) (x : EvtSrc) : (d.setEvt n x).core.gafs = d.core.gafs := rfl
@[simp] theorem Dev.setEvt_core_test (d : Dev) (n : Nat) (x : EvtSrc) : (d.setEvt n x).core.test = d.core.test := rfl
@[simp] theorem Dev.setEvt_core_jtag (d : Dev) (n : Nat) (x : EvtSrc) : (d.setEvt n x).core.jtag = d.core.jtag := rfl
@[simp] theorem Dev.setEvt_core_flash (d : Dev) (n : Nat) (x : EvtSrc) : (d.setEvt n x).core.flash = d.core.flash := rfl
@[simp] theorem Dev.setEvt_core_flashCmd (d : Dev) (n : Nat) (x : EvtSrc) : (d.setEvt n x).core.flashCmd = d.core.flashCmd := rfl
@[simp] theorem Dev.setEvt_core_time (d : Dev) (n : Nat) (x : EvtSrc) : (d.setEvt n x).core.time = d.core.time := rfl
@[simp] theorem Dev.setEvt_core_lanes (d : Dev) (n : Nat) (x : EvtSrc) : (d.setEvt n x).core.lanes = d.core.lanes := rfl
@[simp] theorem Dev.setEvt_core_heads (d : Dev) (n : Nat) (x : EvtSrc) : (d.setEvt n x).core.heads = d.core.heads := rfl
@[simp] theorem Dev.setEvt_core_allow (d : Dev) (n : Nat) (x : EvtSrc) : (d.setEvt n x).core.allow = d.core.allow := rfl
@[simp] theorem Dev.setEvt_core_stageKey (d : Dev) (n : Nat) (x : EvtSrc) : (d.setEvt n x).core.stageKey = d.core.stageKey := rfl
@[simp] theorem Dev.setEvt_core_recs (d : Dev) (n : Nat) (x : EvtSrc) : (d.setEvt n x).core.recs = d.core.recs := rfl
@[simp] theorem Dev.setEvt_core_tctx (d : Dev) (n : Nat) (x : EvtSrc) : (d.setEvt n x).core.tctx = d.core.tctx := rfl
@[simp] theorem Dev.setEvt_core_encs (d : Dev) (n : Nat) (x : EvtSrc) : (d.setEvt n x).core.encs = d.core.encs := rfl
@[simp] theorem Dev.setEvt_core_decp (d : Dev) (n : Nat) (x : EvtSrc) : (d.setEvt n x).core.decp = d.core.decp := rfl
@[simp] theorem Dev.setEvt_core_rcLog (d : Dev) (n : Nat) (x : EvtSrc) : (d.setEvt n x).core.rcLog = d.core.rcLog := rfl
@[simp] theorem Dev.setEvt_core_rings (d : Dev) (n : Nat) (x : EvtSrc) : (d.setEvt n x).core.rings = d.core.rings := rfl
@[simp] theorem Dev.setEvt_core_chans (d : Dev) (n : Nat) (x : EvtSrc) : (d.setEvt n x).core.chans = d.core.chans := rfl
@[simp] theorem Dev.setEvt_core_drr (d : Dev) (n : Nat) (x : EvtSrc) : (d.setEvt n x).core.drr = d.core.drr := rfl
@[simp] theorem Dev.setEvt_core_cullet (d : Dev) (n : Nat) (x : EvtSrc) : (d.setEvt n x).core.cullet = d.core.cullet := rfl
@[simp] theorem Dev.setEvt_core_mags (d : Dev) (n : Nat) (x : EvtSrc) : (d.setEvt n x).core.mags = d.core.mags := rfl
@[simp] theorem Dev.setEvt_core_exchange (d : Dev) (n : Nat) (x : EvtSrc) : (d.setEvt n x).core.exchange = d.core.exchange := rfl
@[simp] theorem Dev.setEvt_core_decs (d : Dev) (n : Nat) (x : EvtSrc) : (d.setEvt n x).core.decs = d.core.decs := rfl
@[simp] theorem Dev.setEvt_core_proxies (d : Dev) (n : Nat) (x : EvtSrc) : (d.setEvt n x).core.proxies = d.core.proxies := rfl
@[simp] theorem Dev.setEvt_core_mem (d : Dev) (n : Nat) (x : EvtSrc) : (d.setEvt n x).core.mem = d.core.mem := rfl
@[simp] theorem Dev.setEvt_core_nets (d : Dev) (n : Nat) (x : EvtSrc) : (d.setEvt n x).core.nets = d.core.nets := rfl
@[simp] theorem Dev.setEvt_core_peers (d : Dev) (n : Nat) (x : EvtSrc) : (d.setEvt n x).core.peers = d.core.peers := rfl
@[simp] theorem Dev.setEvt_core_hosted (d : Dev) (n : Nat) (x : EvtSrc) : (d.setEvt n x).core.hosted = d.core.hosted := rfl
@[simp] theorem Dev.setEvt_core_served (d : Dev) (n : Nat) (x : EvtSrc) : (d.setEvt n x).core.served = d.core.served := rfl
@[simp] theorem Dev.setGaf_regs (d : Dev) (n : Nat) (x : Gaffer) : (d.setGaf n x).regs = d.regs := rfl
@[simp] theorem Dev.setGaf_dram (d : Dev) (n : Nat) (x : Gaffer) : (d.setGaf n x).dram = d.dram := rfl
@[simp] theorem Dev.setGaf_hostMem (d : Dev) (n : Nat) (x : Gaffer) : (d.setGaf n x).hostMem = d.hostMem := rfl
@[simp] theorem Dev.setGaf_core_host (d : Dev) (n : Nat) (x : Gaffer) : (d.setGaf n x).core.host = d.core.host := rfl
@[simp] theorem Dev.setGaf_core_slots (d : Dev) (n : Nat) (x : Gaffer) : (d.setGaf n x).core.slots = d.core.slots := rfl
@[simp] theorem Dev.setGaf_core_take (d : Dev) (n : Nat) (x : Gaffer) : (d.setGaf n x).core.take = d.core.take := rfl
@[simp] theorem Dev.setGaf_core_armCount (d : Dev) (n : Nat) (x : Gaffer) : (d.setGaf n x).core.armCount = d.core.armCount := rfl
@[simp] theorem Dev.setGaf_core_lehr (d : Dev) (n : Nat) (x : Gaffer) : (d.setGaf n x).core.lehr = d.core.lehr := rfl
@[simp] theorem Dev.setGaf_core_boot (d : Dev) (n : Nat) (x : Gaffer) : (d.setGaf n x).core.boot = d.core.boot := rfl
@[simp] theorem Dev.setGaf_core_fault (d : Dev) (n : Nat) (x : Gaffer) : (d.setGaf n x).core.fault = d.core.fault := rfl
@[simp] theorem Dev.setGaf_core_evts (d : Dev) (n : Nat) (x : Gaffer) : (d.setGaf n x).core.evts = d.core.evts := rfl
@[simp] theorem Dev.setGaf_core_test (d : Dev) (n : Nat) (x : Gaffer) : (d.setGaf n x).core.test = d.core.test := rfl
@[simp] theorem Dev.setGaf_core_jtag (d : Dev) (n : Nat) (x : Gaffer) : (d.setGaf n x).core.jtag = d.core.jtag := rfl
@[simp] theorem Dev.setGaf_core_flash (d : Dev) (n : Nat) (x : Gaffer) : (d.setGaf n x).core.flash = d.core.flash := rfl
@[simp] theorem Dev.setGaf_core_flashCmd (d : Dev) (n : Nat) (x : Gaffer) : (d.setGaf n x).core.flashCmd = d.core.flashCmd := rfl
@[simp] theorem Dev.setGaf_core_time (d : Dev) (n : Nat) (x : Gaffer) : (d.setGaf n x).core.time = d.core.time := rfl
@[simp] theorem Dev.setGaf_core_lanes (d : Dev) (n : Nat) (x : Gaffer) : (d.setGaf n x).core.lanes = d.core.lanes := rfl
@[simp] theorem Dev.setGaf_core_heads (d : Dev) (n : Nat) (x : Gaffer) : (d.setGaf n x).core.heads = d.core.heads := rfl
@[simp] theorem Dev.setGaf_core_allow (d : Dev) (n : Nat) (x : Gaffer) : (d.setGaf n x).core.allow = d.core.allow := rfl
@[simp] theorem Dev.setGaf_core_stageKey (d : Dev) (n : Nat) (x : Gaffer) : (d.setGaf n x).core.stageKey = d.core.stageKey := rfl
@[simp] theorem Dev.setGaf_core_recs (d : Dev) (n : Nat) (x : Gaffer) : (d.setGaf n x).core.recs = d.core.recs := rfl
@[simp] theorem Dev.setGaf_core_tctx (d : Dev) (n : Nat) (x : Gaffer) : (d.setGaf n x).core.tctx = d.core.tctx := rfl
@[simp] theorem Dev.setGaf_core_encs (d : Dev) (n : Nat) (x : Gaffer) : (d.setGaf n x).core.encs = d.core.encs := rfl
@[simp] theorem Dev.setGaf_core_decp (d : Dev) (n : Nat) (x : Gaffer) : (d.setGaf n x).core.decp = d.core.decp := rfl
@[simp] theorem Dev.setGaf_core_rcLog (d : Dev) (n : Nat) (x : Gaffer) : (d.setGaf n x).core.rcLog = d.core.rcLog := rfl
@[simp] theorem Dev.setGaf_core_rings (d : Dev) (n : Nat) (x : Gaffer) : (d.setGaf n x).core.rings = d.core.rings := rfl
@[simp] theorem Dev.setGaf_core_chans (d : Dev) (n : Nat) (x : Gaffer) : (d.setGaf n x).core.chans = d.core.chans := rfl
@[simp] theorem Dev.setGaf_core_drr (d : Dev) (n : Nat) (x : Gaffer) : (d.setGaf n x).core.drr = d.core.drr := rfl
@[simp] theorem Dev.setGaf_core_cullet (d : Dev) (n : Nat) (x : Gaffer) : (d.setGaf n x).core.cullet = d.core.cullet := rfl
@[simp] theorem Dev.setGaf_core_mags (d : Dev) (n : Nat) (x : Gaffer) : (d.setGaf n x).core.mags = d.core.mags := rfl
@[simp] theorem Dev.setGaf_core_exchange (d : Dev) (n : Nat) (x : Gaffer) : (d.setGaf n x).core.exchange = d.core.exchange := rfl
@[simp] theorem Dev.setGaf_core_decs (d : Dev) (n : Nat) (x : Gaffer) : (d.setGaf n x).core.decs = d.core.decs := rfl
@[simp] theorem Dev.setGaf_core_proxies (d : Dev) (n : Nat) (x : Gaffer) : (d.setGaf n x).core.proxies = d.core.proxies := rfl
@[simp] theorem Dev.setGaf_core_mem (d : Dev) (n : Nat) (x : Gaffer) : (d.setGaf n x).core.mem = d.core.mem := rfl
@[simp] theorem Dev.setGaf_core_nets (d : Dev) (n : Nat) (x : Gaffer) : (d.setGaf n x).core.nets = d.core.nets := rfl
@[simp] theorem Dev.setGaf_core_peers (d : Dev) (n : Nat) (x : Gaffer) : (d.setGaf n x).core.peers = d.core.peers := rfl
@[simp] theorem Dev.setGaf_core_hosted (d : Dev) (n : Nat) (x : Gaffer) : (d.setGaf n x).core.hosted = d.core.hosted := rfl
@[simp] theorem Dev.setGaf_core_served (d : Dev) (n : Nat) (x : Gaffer) : (d.setGaf n x).core.served = d.core.served := rfl
@[simp] theorem Dev.setLane_regs (d : Dev) (n : Nat) (x : Lane) : (d.setLane n x).regs = d.regs := rfl
@[simp] theorem Dev.setLane_dram (d : Dev) (n : Nat) (x : Lane) : (d.setLane n x).dram = d.dram := rfl
@[simp] theorem Dev.setLane_hostMem (d : Dev) (n : Nat) (x : Lane) : (d.setLane n x).hostMem = d.hostMem := rfl
@[simp] theorem Dev.setLane_core_host (d : Dev) (n : Nat) (x : Lane) : (d.setLane n x).core.host = d.core.host := rfl
@[simp] theorem Dev.setLane_core_slots (d : Dev) (n : Nat) (x : Lane) : (d.setLane n x).core.slots = d.core.slots := rfl
@[simp] theorem Dev.setLane_core_take (d : Dev) (n : Nat) (x : Lane) : (d.setLane n x).core.take = d.core.take := rfl
@[simp] theorem Dev.setLane_core_armCount (d : Dev) (n : Nat) (x : Lane) : (d.setLane n x).core.armCount = d.core.armCount := rfl
@[simp] theorem Dev.setLane_core_lehr (d : Dev) (n : Nat) (x : Lane) : (d.setLane n x).core.lehr = d.core.lehr := rfl
@[simp] theorem Dev.setLane_core_boot (d : Dev) (n : Nat) (x : Lane) : (d.setLane n x).core.boot = d.core.boot := rfl
@[simp] theorem Dev.setLane_core_fault (d : Dev) (n : Nat) (x : Lane) : (d.setLane n x).core.fault = d.core.fault := rfl
@[simp] theorem Dev.setLane_core_evts (d : Dev) (n : Nat) (x : Lane) : (d.setLane n x).core.evts = d.core.evts := rfl
@[simp] theorem Dev.setLane_core_gafs (d : Dev) (n : Nat) (x : Lane) : (d.setLane n x).core.gafs = d.core.gafs := rfl
@[simp] theorem Dev.setLane_core_test (d : Dev) (n : Nat) (x : Lane) : (d.setLane n x).core.test = d.core.test := rfl
@[simp] theorem Dev.setLane_core_jtag (d : Dev) (n : Nat) (x : Lane) : (d.setLane n x).core.jtag = d.core.jtag := rfl
@[simp] theorem Dev.setLane_core_flash (d : Dev) (n : Nat) (x : Lane) : (d.setLane n x).core.flash = d.core.flash := rfl
@[simp] theorem Dev.setLane_core_flashCmd (d : Dev) (n : Nat) (x : Lane) : (d.setLane n x).core.flashCmd = d.core.flashCmd := rfl
@[simp] theorem Dev.setLane_core_time (d : Dev) (n : Nat) (x : Lane) : (d.setLane n x).core.time = d.core.time := rfl
@[simp] theorem Dev.setLane_core_heads (d : Dev) (n : Nat) (x : Lane) : (d.setLane n x).core.heads = d.core.heads := rfl
@[simp] theorem Dev.setLane_core_allow (d : Dev) (n : Nat) (x : Lane) : (d.setLane n x).core.allow = d.core.allow := rfl
@[simp] theorem Dev.setLane_core_stageKey (d : Dev) (n : Nat) (x : Lane) : (d.setLane n x).core.stageKey = d.core.stageKey := rfl
@[simp] theorem Dev.setLane_core_recs (d : Dev) (n : Nat) (x : Lane) : (d.setLane n x).core.recs = d.core.recs := rfl
@[simp] theorem Dev.setLane_core_tctx (d : Dev) (n : Nat) (x : Lane) : (d.setLane n x).core.tctx = d.core.tctx := rfl
@[simp] theorem Dev.setLane_core_encs (d : Dev) (n : Nat) (x : Lane) : (d.setLane n x).core.encs = d.core.encs := rfl
@[simp] theorem Dev.setLane_core_decp (d : Dev) (n : Nat) (x : Lane) : (d.setLane n x).core.decp = d.core.decp := rfl
@[simp] theorem Dev.setLane_core_rcLog (d : Dev) (n : Nat) (x : Lane) : (d.setLane n x).core.rcLog = d.core.rcLog := rfl
@[simp] theorem Dev.setLane_core_rings (d : Dev) (n : Nat) (x : Lane) : (d.setLane n x).core.rings = d.core.rings := rfl
@[simp] theorem Dev.setLane_core_chans (d : Dev) (n : Nat) (x : Lane) : (d.setLane n x).core.chans = d.core.chans := rfl
@[simp] theorem Dev.setLane_core_drr (d : Dev) (n : Nat) (x : Lane) : (d.setLane n x).core.drr = d.core.drr := rfl
@[simp] theorem Dev.setLane_core_cullet (d : Dev) (n : Nat) (x : Lane) : (d.setLane n x).core.cullet = d.core.cullet := rfl
@[simp] theorem Dev.setLane_core_mags (d : Dev) (n : Nat) (x : Lane) : (d.setLane n x).core.mags = d.core.mags := rfl
@[simp] theorem Dev.setLane_core_exchange (d : Dev) (n : Nat) (x : Lane) : (d.setLane n x).core.exchange = d.core.exchange := rfl
@[simp] theorem Dev.setLane_core_decs (d : Dev) (n : Nat) (x : Lane) : (d.setLane n x).core.decs = d.core.decs := rfl
@[simp] theorem Dev.setLane_core_proxies (d : Dev) (n : Nat) (x : Lane) : (d.setLane n x).core.proxies = d.core.proxies := rfl
@[simp] theorem Dev.setLane_core_mem (d : Dev) (n : Nat) (x : Lane) : (d.setLane n x).core.mem = d.core.mem := rfl
@[simp] theorem Dev.setLane_core_nets (d : Dev) (n : Nat) (x : Lane) : (d.setLane n x).core.nets = d.core.nets := rfl
@[simp] theorem Dev.setLane_core_peers (d : Dev) (n : Nat) (x : Lane) : (d.setLane n x).core.peers = d.core.peers := rfl
@[simp] theorem Dev.setLane_core_hosted (d : Dev) (n : Nat) (x : Lane) : (d.setLane n x).core.hosted = d.core.hosted := rfl
@[simp] theorem Dev.setLane_core_served (d : Dev) (n : Nat) (x : Lane) : (d.setLane n x).core.served = d.core.served := rfl
@[simp] theorem Dev.setHead_regs (d : Dev) (n : Nat) (x : Head) : (d.setHead n x).regs = d.regs := rfl
@[simp] theorem Dev.setHead_dram (d : Dev) (n : Nat) (x : Head) : (d.setHead n x).dram = d.dram := rfl
@[simp] theorem Dev.setHead_hostMem (d : Dev) (n : Nat) (x : Head) : (d.setHead n x).hostMem = d.hostMem := rfl
@[simp] theorem Dev.setHead_core_host (d : Dev) (n : Nat) (x : Head) : (d.setHead n x).core.host = d.core.host := rfl
@[simp] theorem Dev.setHead_core_slots (d : Dev) (n : Nat) (x : Head) : (d.setHead n x).core.slots = d.core.slots := rfl
@[simp] theorem Dev.setHead_core_take (d : Dev) (n : Nat) (x : Head) : (d.setHead n x).core.take = d.core.take := rfl
@[simp] theorem Dev.setHead_core_armCount (d : Dev) (n : Nat) (x : Head) : (d.setHead n x).core.armCount = d.core.armCount := rfl
@[simp] theorem Dev.setHead_core_lehr (d : Dev) (n : Nat) (x : Head) : (d.setHead n x).core.lehr = d.core.lehr := rfl
@[simp] theorem Dev.setHead_core_boot (d : Dev) (n : Nat) (x : Head) : (d.setHead n x).core.boot = d.core.boot := rfl
@[simp] theorem Dev.setHead_core_fault (d : Dev) (n : Nat) (x : Head) : (d.setHead n x).core.fault = d.core.fault := rfl
@[simp] theorem Dev.setHead_core_evts (d : Dev) (n : Nat) (x : Head) : (d.setHead n x).core.evts = d.core.evts := rfl
@[simp] theorem Dev.setHead_core_gafs (d : Dev) (n : Nat) (x : Head) : (d.setHead n x).core.gafs = d.core.gafs := rfl
@[simp] theorem Dev.setHead_core_test (d : Dev) (n : Nat) (x : Head) : (d.setHead n x).core.test = d.core.test := rfl
@[simp] theorem Dev.setHead_core_jtag (d : Dev) (n : Nat) (x : Head) : (d.setHead n x).core.jtag = d.core.jtag := rfl
@[simp] theorem Dev.setHead_core_flash (d : Dev) (n : Nat) (x : Head) : (d.setHead n x).core.flash = d.core.flash := rfl
@[simp] theorem Dev.setHead_core_flashCmd (d : Dev) (n : Nat) (x : Head) : (d.setHead n x).core.flashCmd = d.core.flashCmd := rfl
@[simp] theorem Dev.setHead_core_time (d : Dev) (n : Nat) (x : Head) : (d.setHead n x).core.time = d.core.time := rfl
@[simp] theorem Dev.setHead_core_lanes (d : Dev) (n : Nat) (x : Head) : (d.setHead n x).core.lanes = d.core.lanes := rfl
@[simp] theorem Dev.setHead_core_allow (d : Dev) (n : Nat) (x : Head) : (d.setHead n x).core.allow = d.core.allow := rfl
@[simp] theorem Dev.setHead_core_stageKey (d : Dev) (n : Nat) (x : Head) : (d.setHead n x).core.stageKey = d.core.stageKey := rfl
@[simp] theorem Dev.setHead_core_recs (d : Dev) (n : Nat) (x : Head) : (d.setHead n x).core.recs = d.core.recs := rfl
@[simp] theorem Dev.setHead_core_tctx (d : Dev) (n : Nat) (x : Head) : (d.setHead n x).core.tctx = d.core.tctx := rfl
@[simp] theorem Dev.setHead_core_encs (d : Dev) (n : Nat) (x : Head) : (d.setHead n x).core.encs = d.core.encs := rfl
@[simp] theorem Dev.setHead_core_decp (d : Dev) (n : Nat) (x : Head) : (d.setHead n x).core.decp = d.core.decp := rfl
@[simp] theorem Dev.setHead_core_rcLog (d : Dev) (n : Nat) (x : Head) : (d.setHead n x).core.rcLog = d.core.rcLog := rfl
@[simp] theorem Dev.setHead_core_rings (d : Dev) (n : Nat) (x : Head) : (d.setHead n x).core.rings = d.core.rings := rfl
@[simp] theorem Dev.setHead_core_chans (d : Dev) (n : Nat) (x : Head) : (d.setHead n x).core.chans = d.core.chans := rfl
@[simp] theorem Dev.setHead_core_drr (d : Dev) (n : Nat) (x : Head) : (d.setHead n x).core.drr = d.core.drr := rfl
@[simp] theorem Dev.setHead_core_cullet (d : Dev) (n : Nat) (x : Head) : (d.setHead n x).core.cullet = d.core.cullet := rfl
@[simp] theorem Dev.setHead_core_mags (d : Dev) (n : Nat) (x : Head) : (d.setHead n x).core.mags = d.core.mags := rfl
@[simp] theorem Dev.setHead_core_exchange (d : Dev) (n : Nat) (x : Head) : (d.setHead n x).core.exchange = d.core.exchange := rfl
@[simp] theorem Dev.setHead_core_decs (d : Dev) (n : Nat) (x : Head) : (d.setHead n x).core.decs = d.core.decs := rfl
@[simp] theorem Dev.setHead_core_proxies (d : Dev) (n : Nat) (x : Head) : (d.setHead n x).core.proxies = d.core.proxies := rfl
@[simp] theorem Dev.setHead_core_mem (d : Dev) (n : Nat) (x : Head) : (d.setHead n x).core.mem = d.core.mem := rfl
@[simp] theorem Dev.setHead_core_nets (d : Dev) (n : Nat) (x : Head) : (d.setHead n x).core.nets = d.core.nets := rfl
@[simp] theorem Dev.setHead_core_peers (d : Dev) (n : Nat) (x : Head) : (d.setHead n x).core.peers = d.core.peers := rfl
@[simp] theorem Dev.setHead_core_hosted (d : Dev) (n : Nat) (x : Head) : (d.setHead n x).core.hosted = d.core.hosted := rfl
@[simp] theorem Dev.setHead_core_served (d : Dev) (n : Nat) (x : Head) : (d.setHead n x).core.served = d.core.served := rfl
@[simp] theorem Dev.setEnc_regs (d : Dev) (n : Nat) (x : Pipe) : (d.setEnc n x).regs = d.regs := rfl
@[simp] theorem Dev.setEnc_dram (d : Dev) (n : Nat) (x : Pipe) : (d.setEnc n x).dram = d.dram := rfl
@[simp] theorem Dev.setEnc_hostMem (d : Dev) (n : Nat) (x : Pipe) : (d.setEnc n x).hostMem = d.hostMem := rfl
@[simp] theorem Dev.setEnc_core_host (d : Dev) (n : Nat) (x : Pipe) : (d.setEnc n x).core.host = d.core.host := rfl
@[simp] theorem Dev.setEnc_core_slots (d : Dev) (n : Nat) (x : Pipe) : (d.setEnc n x).core.slots = d.core.slots := rfl
@[simp] theorem Dev.setEnc_core_take (d : Dev) (n : Nat) (x : Pipe) : (d.setEnc n x).core.take = d.core.take := rfl
@[simp] theorem Dev.setEnc_core_armCount (d : Dev) (n : Nat) (x : Pipe) : (d.setEnc n x).core.armCount = d.core.armCount := rfl
@[simp] theorem Dev.setEnc_core_lehr (d : Dev) (n : Nat) (x : Pipe) : (d.setEnc n x).core.lehr = d.core.lehr := rfl
@[simp] theorem Dev.setEnc_core_boot (d : Dev) (n : Nat) (x : Pipe) : (d.setEnc n x).core.boot = d.core.boot := rfl
@[simp] theorem Dev.setEnc_core_fault (d : Dev) (n : Nat) (x : Pipe) : (d.setEnc n x).core.fault = d.core.fault := rfl
@[simp] theorem Dev.setEnc_core_evts (d : Dev) (n : Nat) (x : Pipe) : (d.setEnc n x).core.evts = d.core.evts := rfl
@[simp] theorem Dev.setEnc_core_gafs (d : Dev) (n : Nat) (x : Pipe) : (d.setEnc n x).core.gafs = d.core.gafs := rfl
@[simp] theorem Dev.setEnc_core_test (d : Dev) (n : Nat) (x : Pipe) : (d.setEnc n x).core.test = d.core.test := rfl
@[simp] theorem Dev.setEnc_core_jtag (d : Dev) (n : Nat) (x : Pipe) : (d.setEnc n x).core.jtag = d.core.jtag := rfl
@[simp] theorem Dev.setEnc_core_flash (d : Dev) (n : Nat) (x : Pipe) : (d.setEnc n x).core.flash = d.core.flash := rfl
@[simp] theorem Dev.setEnc_core_flashCmd (d : Dev) (n : Nat) (x : Pipe) : (d.setEnc n x).core.flashCmd = d.core.flashCmd := rfl
@[simp] theorem Dev.setEnc_core_time (d : Dev) (n : Nat) (x : Pipe) : (d.setEnc n x).core.time = d.core.time := rfl
@[simp] theorem Dev.setEnc_core_lanes (d : Dev) (n : Nat) (x : Pipe) : (d.setEnc n x).core.lanes = d.core.lanes := rfl
@[simp] theorem Dev.setEnc_core_heads (d : Dev) (n : Nat) (x : Pipe) : (d.setEnc n x).core.heads = d.core.heads := rfl
@[simp] theorem Dev.setEnc_core_allow (d : Dev) (n : Nat) (x : Pipe) : (d.setEnc n x).core.allow = d.core.allow := rfl
@[simp] theorem Dev.setEnc_core_stageKey (d : Dev) (n : Nat) (x : Pipe) : (d.setEnc n x).core.stageKey = d.core.stageKey := rfl
@[simp] theorem Dev.setEnc_core_recs (d : Dev) (n : Nat) (x : Pipe) : (d.setEnc n x).core.recs = d.core.recs := rfl
@[simp] theorem Dev.setEnc_core_tctx (d : Dev) (n : Nat) (x : Pipe) : (d.setEnc n x).core.tctx = d.core.tctx := rfl
@[simp] theorem Dev.setEnc_core_decp (d : Dev) (n : Nat) (x : Pipe) : (d.setEnc n x).core.decp = d.core.decp := rfl
@[simp] theorem Dev.setEnc_core_rcLog (d : Dev) (n : Nat) (x : Pipe) : (d.setEnc n x).core.rcLog = d.core.rcLog := rfl
@[simp] theorem Dev.setEnc_core_rings (d : Dev) (n : Nat) (x : Pipe) : (d.setEnc n x).core.rings = d.core.rings := rfl
@[simp] theorem Dev.setEnc_core_chans (d : Dev) (n : Nat) (x : Pipe) : (d.setEnc n x).core.chans = d.core.chans := rfl
@[simp] theorem Dev.setEnc_core_drr (d : Dev) (n : Nat) (x : Pipe) : (d.setEnc n x).core.drr = d.core.drr := rfl
@[simp] theorem Dev.setEnc_core_cullet (d : Dev) (n : Nat) (x : Pipe) : (d.setEnc n x).core.cullet = d.core.cullet := rfl
@[simp] theorem Dev.setEnc_core_mags (d : Dev) (n : Nat) (x : Pipe) : (d.setEnc n x).core.mags = d.core.mags := rfl
@[simp] theorem Dev.setEnc_core_exchange (d : Dev) (n : Nat) (x : Pipe) : (d.setEnc n x).core.exchange = d.core.exchange := rfl
@[simp] theorem Dev.setEnc_core_decs (d : Dev) (n : Nat) (x : Pipe) : (d.setEnc n x).core.decs = d.core.decs := rfl
@[simp] theorem Dev.setEnc_core_proxies (d : Dev) (n : Nat) (x : Pipe) : (d.setEnc n x).core.proxies = d.core.proxies := rfl
@[simp] theorem Dev.setEnc_core_mem (d : Dev) (n : Nat) (x : Pipe) : (d.setEnc n x).core.mem = d.core.mem := rfl
@[simp] theorem Dev.setEnc_core_nets (d : Dev) (n : Nat) (x : Pipe) : (d.setEnc n x).core.nets = d.core.nets := rfl
@[simp] theorem Dev.setEnc_core_peers (d : Dev) (n : Nat) (x : Pipe) : (d.setEnc n x).core.peers = d.core.peers := rfl
@[simp] theorem Dev.setEnc_core_hosted (d : Dev) (n : Nat) (x : Pipe) : (d.setEnc n x).core.hosted = d.core.hosted := rfl
@[simp] theorem Dev.setEnc_core_served (d : Dev) (n : Nat) (x : Pipe) : (d.setEnc n x).core.served = d.core.served := rfl
@[simp] theorem Dev.setDecp_regs (d : Dev) (n : Nat) (x : Pipe) : (d.setDecp n x).regs = d.regs := rfl
@[simp] theorem Dev.setDecp_dram (d : Dev) (n : Nat) (x : Pipe) : (d.setDecp n x).dram = d.dram := rfl
@[simp] theorem Dev.setDecp_hostMem (d : Dev) (n : Nat) (x : Pipe) : (d.setDecp n x).hostMem = d.hostMem := rfl
@[simp] theorem Dev.setDecp_core_host (d : Dev) (n : Nat) (x : Pipe) : (d.setDecp n x).core.host = d.core.host := rfl
@[simp] theorem Dev.setDecp_core_slots (d : Dev) (n : Nat) (x : Pipe) : (d.setDecp n x).core.slots = d.core.slots := rfl
@[simp] theorem Dev.setDecp_core_take (d : Dev) (n : Nat) (x : Pipe) : (d.setDecp n x).core.take = d.core.take := rfl
@[simp] theorem Dev.setDecp_core_armCount (d : Dev) (n : Nat) (x : Pipe) : (d.setDecp n x).core.armCount = d.core.armCount := rfl
@[simp] theorem Dev.setDecp_core_lehr (d : Dev) (n : Nat) (x : Pipe) : (d.setDecp n x).core.lehr = d.core.lehr := rfl
@[simp] theorem Dev.setDecp_core_boot (d : Dev) (n : Nat) (x : Pipe) : (d.setDecp n x).core.boot = d.core.boot := rfl
@[simp] theorem Dev.setDecp_core_fault (d : Dev) (n : Nat) (x : Pipe) : (d.setDecp n x).core.fault = d.core.fault := rfl
@[simp] theorem Dev.setDecp_core_evts (d : Dev) (n : Nat) (x : Pipe) : (d.setDecp n x).core.evts = d.core.evts := rfl
@[simp] theorem Dev.setDecp_core_gafs (d : Dev) (n : Nat) (x : Pipe) : (d.setDecp n x).core.gafs = d.core.gafs := rfl
@[simp] theorem Dev.setDecp_core_test (d : Dev) (n : Nat) (x : Pipe) : (d.setDecp n x).core.test = d.core.test := rfl
@[simp] theorem Dev.setDecp_core_jtag (d : Dev) (n : Nat) (x : Pipe) : (d.setDecp n x).core.jtag = d.core.jtag := rfl
@[simp] theorem Dev.setDecp_core_flash (d : Dev) (n : Nat) (x : Pipe) : (d.setDecp n x).core.flash = d.core.flash := rfl
@[simp] theorem Dev.setDecp_core_flashCmd (d : Dev) (n : Nat) (x : Pipe) : (d.setDecp n x).core.flashCmd = d.core.flashCmd := rfl
@[simp] theorem Dev.setDecp_core_time (d : Dev) (n : Nat) (x : Pipe) : (d.setDecp n x).core.time = d.core.time := rfl
@[simp] theorem Dev.setDecp_core_lanes (d : Dev) (n : Nat) (x : Pipe) : (d.setDecp n x).core.lanes = d.core.lanes := rfl
@[simp] theorem Dev.setDecp_core_heads (d : Dev) (n : Nat) (x : Pipe) : (d.setDecp n x).core.heads = d.core.heads := rfl
@[simp] theorem Dev.setDecp_core_allow (d : Dev) (n : Nat) (x : Pipe) : (d.setDecp n x).core.allow = d.core.allow := rfl
@[simp] theorem Dev.setDecp_core_stageKey (d : Dev) (n : Nat) (x : Pipe) : (d.setDecp n x).core.stageKey = d.core.stageKey := rfl
@[simp] theorem Dev.setDecp_core_recs (d : Dev) (n : Nat) (x : Pipe) : (d.setDecp n x).core.recs = d.core.recs := rfl
@[simp] theorem Dev.setDecp_core_tctx (d : Dev) (n : Nat) (x : Pipe) : (d.setDecp n x).core.tctx = d.core.tctx := rfl
@[simp] theorem Dev.setDecp_core_encs (d : Dev) (n : Nat) (x : Pipe) : (d.setDecp n x).core.encs = d.core.encs := rfl
@[simp] theorem Dev.setDecp_core_rcLog (d : Dev) (n : Nat) (x : Pipe) : (d.setDecp n x).core.rcLog = d.core.rcLog := rfl
@[simp] theorem Dev.setDecp_core_rings (d : Dev) (n : Nat) (x : Pipe) : (d.setDecp n x).core.rings = d.core.rings := rfl
@[simp] theorem Dev.setDecp_core_chans (d : Dev) (n : Nat) (x : Pipe) : (d.setDecp n x).core.chans = d.core.chans := rfl
@[simp] theorem Dev.setDecp_core_drr (d : Dev) (n : Nat) (x : Pipe) : (d.setDecp n x).core.drr = d.core.drr := rfl
@[simp] theorem Dev.setDecp_core_cullet (d : Dev) (n : Nat) (x : Pipe) : (d.setDecp n x).core.cullet = d.core.cullet := rfl
@[simp] theorem Dev.setDecp_core_mags (d : Dev) (n : Nat) (x : Pipe) : (d.setDecp n x).core.mags = d.core.mags := rfl
@[simp] theorem Dev.setDecp_core_exchange (d : Dev) (n : Nat) (x : Pipe) : (d.setDecp n x).core.exchange = d.core.exchange := rfl
@[simp] theorem Dev.setDecp_core_decs (d : Dev) (n : Nat) (x : Pipe) : (d.setDecp n x).core.decs = d.core.decs := rfl
@[simp] theorem Dev.setDecp_core_proxies (d : Dev) (n : Nat) (x : Pipe) : (d.setDecp n x).core.proxies = d.core.proxies := rfl
@[simp] theorem Dev.setDecp_core_mem (d : Dev) (n : Nat) (x : Pipe) : (d.setDecp n x).core.mem = d.core.mem := rfl
@[simp] theorem Dev.setDecp_core_nets (d : Dev) (n : Nat) (x : Pipe) : (d.setDecp n x).core.nets = d.core.nets := rfl
@[simp] theorem Dev.setDecp_core_peers (d : Dev) (n : Nat) (x : Pipe) : (d.setDecp n x).core.peers = d.core.peers := rfl
@[simp] theorem Dev.setDecp_core_hosted (d : Dev) (n : Nat) (x : Pipe) : (d.setDecp n x).core.hosted = d.core.hosted := rfl
@[simp] theorem Dev.setDecp_core_served (d : Dev) (n : Nat) (x : Pipe) : (d.setDecp n x).core.served = d.core.served := rfl
@[simp] theorem Dev.setRing_regs (d : Dev) (n : Nat) (x : Ring) : (d.setRing n x).regs = d.regs := rfl
@[simp] theorem Dev.setRing_dram (d : Dev) (n : Nat) (x : Ring) : (d.setRing n x).dram = d.dram := rfl
@[simp] theorem Dev.setRing_hostMem (d : Dev) (n : Nat) (x : Ring) : (d.setRing n x).hostMem = d.hostMem := rfl
@[simp] theorem Dev.setRing_core_host (d : Dev) (n : Nat) (x : Ring) : (d.setRing n x).core.host = d.core.host := rfl
@[simp] theorem Dev.setRing_core_slots (d : Dev) (n : Nat) (x : Ring) : (d.setRing n x).core.slots = d.core.slots := rfl
@[simp] theorem Dev.setRing_core_take (d : Dev) (n : Nat) (x : Ring) : (d.setRing n x).core.take = d.core.take := rfl
@[simp] theorem Dev.setRing_core_armCount (d : Dev) (n : Nat) (x : Ring) : (d.setRing n x).core.armCount = d.core.armCount := rfl
@[simp] theorem Dev.setRing_core_lehr (d : Dev) (n : Nat) (x : Ring) : (d.setRing n x).core.lehr = d.core.lehr := rfl
@[simp] theorem Dev.setRing_core_boot (d : Dev) (n : Nat) (x : Ring) : (d.setRing n x).core.boot = d.core.boot := rfl
@[simp] theorem Dev.setRing_core_fault (d : Dev) (n : Nat) (x : Ring) : (d.setRing n x).core.fault = d.core.fault := rfl
@[simp] theorem Dev.setRing_core_evts (d : Dev) (n : Nat) (x : Ring) : (d.setRing n x).core.evts = d.core.evts := rfl
@[simp] theorem Dev.setRing_core_gafs (d : Dev) (n : Nat) (x : Ring) : (d.setRing n x).core.gafs = d.core.gafs := rfl
@[simp] theorem Dev.setRing_core_test (d : Dev) (n : Nat) (x : Ring) : (d.setRing n x).core.test = d.core.test := rfl
@[simp] theorem Dev.setRing_core_jtag (d : Dev) (n : Nat) (x : Ring) : (d.setRing n x).core.jtag = d.core.jtag := rfl
@[simp] theorem Dev.setRing_core_flash (d : Dev) (n : Nat) (x : Ring) : (d.setRing n x).core.flash = d.core.flash := rfl
@[simp] theorem Dev.setRing_core_flashCmd (d : Dev) (n : Nat) (x : Ring) : (d.setRing n x).core.flashCmd = d.core.flashCmd := rfl
@[simp] theorem Dev.setRing_core_time (d : Dev) (n : Nat) (x : Ring) : (d.setRing n x).core.time = d.core.time := rfl
@[simp] theorem Dev.setRing_core_lanes (d : Dev) (n : Nat) (x : Ring) : (d.setRing n x).core.lanes = d.core.lanes := rfl
@[simp] theorem Dev.setRing_core_heads (d : Dev) (n : Nat) (x : Ring) : (d.setRing n x).core.heads = d.core.heads := rfl
@[simp] theorem Dev.setRing_core_allow (d : Dev) (n : Nat) (x : Ring) : (d.setRing n x).core.allow = d.core.allow := rfl
@[simp] theorem Dev.setRing_core_stageKey (d : Dev) (n : Nat) (x : Ring) : (d.setRing n x).core.stageKey = d.core.stageKey := rfl
@[simp] theorem Dev.setRing_core_recs (d : Dev) (n : Nat) (x : Ring) : (d.setRing n x).core.recs = d.core.recs := rfl
@[simp] theorem Dev.setRing_core_tctx (d : Dev) (n : Nat) (x : Ring) : (d.setRing n x).core.tctx = d.core.tctx := rfl
@[simp] theorem Dev.setRing_core_encs (d : Dev) (n : Nat) (x : Ring) : (d.setRing n x).core.encs = d.core.encs := rfl
@[simp] theorem Dev.setRing_core_decp (d : Dev) (n : Nat) (x : Ring) : (d.setRing n x).core.decp = d.core.decp := rfl
@[simp] theorem Dev.setRing_core_rcLog (d : Dev) (n : Nat) (x : Ring) : (d.setRing n x).core.rcLog = d.core.rcLog := rfl
@[simp] theorem Dev.setRing_core_chans (d : Dev) (n : Nat) (x : Ring) : (d.setRing n x).core.chans = d.core.chans := rfl
@[simp] theorem Dev.setRing_core_drr (d : Dev) (n : Nat) (x : Ring) : (d.setRing n x).core.drr = d.core.drr := rfl
@[simp] theorem Dev.setRing_core_cullet (d : Dev) (n : Nat) (x : Ring) : (d.setRing n x).core.cullet = d.core.cullet := rfl
@[simp] theorem Dev.setRing_core_mags (d : Dev) (n : Nat) (x : Ring) : (d.setRing n x).core.mags = d.core.mags := rfl
@[simp] theorem Dev.setRing_core_exchange (d : Dev) (n : Nat) (x : Ring) : (d.setRing n x).core.exchange = d.core.exchange := rfl
@[simp] theorem Dev.setRing_core_decs (d : Dev) (n : Nat) (x : Ring) : (d.setRing n x).core.decs = d.core.decs := rfl
@[simp] theorem Dev.setRing_core_proxies (d : Dev) (n : Nat) (x : Ring) : (d.setRing n x).core.proxies = d.core.proxies := rfl
@[simp] theorem Dev.setRing_core_mem (d : Dev) (n : Nat) (x : Ring) : (d.setRing n x).core.mem = d.core.mem := rfl
@[simp] theorem Dev.setRing_core_nets (d : Dev) (n : Nat) (x : Ring) : (d.setRing n x).core.nets = d.core.nets := rfl
@[simp] theorem Dev.setRing_core_peers (d : Dev) (n : Nat) (x : Ring) : (d.setRing n x).core.peers = d.core.peers := rfl
@[simp] theorem Dev.setRing_core_hosted (d : Dev) (n : Nat) (x : Ring) : (d.setRing n x).core.hosted = d.core.hosted := rfl
@[simp] theorem Dev.setRing_core_served (d : Dev) (n : Nat) (x : Ring) : (d.setRing n x).core.served = d.core.served := rfl
@[simp] theorem Dev.setChan_regs (d : Dev) (n : Nat) (x : Chan) : (d.setChan n x).regs = d.regs := rfl
@[simp] theorem Dev.setChan_dram (d : Dev) (n : Nat) (x : Chan) : (d.setChan n x).dram = d.dram := rfl
@[simp] theorem Dev.setChan_hostMem (d : Dev) (n : Nat) (x : Chan) : (d.setChan n x).hostMem = d.hostMem := rfl
@[simp] theorem Dev.setChan_core_host (d : Dev) (n : Nat) (x : Chan) : (d.setChan n x).core.host = d.core.host := rfl
@[simp] theorem Dev.setChan_core_slots (d : Dev) (n : Nat) (x : Chan) : (d.setChan n x).core.slots = d.core.slots := rfl
@[simp] theorem Dev.setChan_core_take (d : Dev) (n : Nat) (x : Chan) : (d.setChan n x).core.take = d.core.take := rfl
@[simp] theorem Dev.setChan_core_armCount (d : Dev) (n : Nat) (x : Chan) : (d.setChan n x).core.armCount = d.core.armCount := rfl
@[simp] theorem Dev.setChan_core_lehr (d : Dev) (n : Nat) (x : Chan) : (d.setChan n x).core.lehr = d.core.lehr := rfl
@[simp] theorem Dev.setChan_core_boot (d : Dev) (n : Nat) (x : Chan) : (d.setChan n x).core.boot = d.core.boot := rfl
@[simp] theorem Dev.setChan_core_fault (d : Dev) (n : Nat) (x : Chan) : (d.setChan n x).core.fault = d.core.fault := rfl
@[simp] theorem Dev.setChan_core_evts (d : Dev) (n : Nat) (x : Chan) : (d.setChan n x).core.evts = d.core.evts := rfl
@[simp] theorem Dev.setChan_core_gafs (d : Dev) (n : Nat) (x : Chan) : (d.setChan n x).core.gafs = d.core.gafs := rfl
@[simp] theorem Dev.setChan_core_test (d : Dev) (n : Nat) (x : Chan) : (d.setChan n x).core.test = d.core.test := rfl
@[simp] theorem Dev.setChan_core_jtag (d : Dev) (n : Nat) (x : Chan) : (d.setChan n x).core.jtag = d.core.jtag := rfl
@[simp] theorem Dev.setChan_core_flash (d : Dev) (n : Nat) (x : Chan) : (d.setChan n x).core.flash = d.core.flash := rfl
@[simp] theorem Dev.setChan_core_flashCmd (d : Dev) (n : Nat) (x : Chan) : (d.setChan n x).core.flashCmd = d.core.flashCmd := rfl
@[simp] theorem Dev.setChan_core_time (d : Dev) (n : Nat) (x : Chan) : (d.setChan n x).core.time = d.core.time := rfl
@[simp] theorem Dev.setChan_core_lanes (d : Dev) (n : Nat) (x : Chan) : (d.setChan n x).core.lanes = d.core.lanes := rfl
@[simp] theorem Dev.setChan_core_heads (d : Dev) (n : Nat) (x : Chan) : (d.setChan n x).core.heads = d.core.heads := rfl
@[simp] theorem Dev.setChan_core_allow (d : Dev) (n : Nat) (x : Chan) : (d.setChan n x).core.allow = d.core.allow := rfl
@[simp] theorem Dev.setChan_core_stageKey (d : Dev) (n : Nat) (x : Chan) : (d.setChan n x).core.stageKey = d.core.stageKey := rfl
@[simp] theorem Dev.setChan_core_recs (d : Dev) (n : Nat) (x : Chan) : (d.setChan n x).core.recs = d.core.recs := rfl
@[simp] theorem Dev.setChan_core_tctx (d : Dev) (n : Nat) (x : Chan) : (d.setChan n x).core.tctx = d.core.tctx := rfl
@[simp] theorem Dev.setChan_core_encs (d : Dev) (n : Nat) (x : Chan) : (d.setChan n x).core.encs = d.core.encs := rfl
@[simp] theorem Dev.setChan_core_decp (d : Dev) (n : Nat) (x : Chan) : (d.setChan n x).core.decp = d.core.decp := rfl
@[simp] theorem Dev.setChan_core_rcLog (d : Dev) (n : Nat) (x : Chan) : (d.setChan n x).core.rcLog = d.core.rcLog := rfl
@[simp] theorem Dev.setChan_core_rings (d : Dev) (n : Nat) (x : Chan) : (d.setChan n x).core.rings = d.core.rings := rfl
@[simp] theorem Dev.setChan_core_drr (d : Dev) (n : Nat) (x : Chan) : (d.setChan n x).core.drr = d.core.drr := rfl
@[simp] theorem Dev.setChan_core_cullet (d : Dev) (n : Nat) (x : Chan) : (d.setChan n x).core.cullet = d.core.cullet := rfl
@[simp] theorem Dev.setChan_core_mags (d : Dev) (n : Nat) (x : Chan) : (d.setChan n x).core.mags = d.core.mags := rfl
@[simp] theorem Dev.setChan_core_exchange (d : Dev) (n : Nat) (x : Chan) : (d.setChan n x).core.exchange = d.core.exchange := rfl
@[simp] theorem Dev.setChan_core_decs (d : Dev) (n : Nat) (x : Chan) : (d.setChan n x).core.decs = d.core.decs := rfl
@[simp] theorem Dev.setChan_core_proxies (d : Dev) (n : Nat) (x : Chan) : (d.setChan n x).core.proxies = d.core.proxies := rfl
@[simp] theorem Dev.setChan_core_mem (d : Dev) (n : Nat) (x : Chan) : (d.setChan n x).core.mem = d.core.mem := rfl
@[simp] theorem Dev.setChan_core_nets (d : Dev) (n : Nat) (x : Chan) : (d.setChan n x).core.nets = d.core.nets := rfl
@[simp] theorem Dev.setChan_core_peers (d : Dev) (n : Nat) (x : Chan) : (d.setChan n x).core.peers = d.core.peers := rfl
@[simp] theorem Dev.setChan_core_hosted (d : Dev) (n : Nat) (x : Chan) : (d.setChan n x).core.hosted = d.core.hosted := rfl
@[simp] theorem Dev.setChan_core_served (d : Dev) (n : Nat) (x : Chan) : (d.setChan n x).core.served = d.core.served := rfl
@[simp] theorem Dev.setMag_regs (d : Dev) (n : Nat) (x : MagPort) : (d.setMag n x).regs = d.regs := rfl
@[simp] theorem Dev.setMag_dram (d : Dev) (n : Nat) (x : MagPort) : (d.setMag n x).dram = d.dram := rfl
@[simp] theorem Dev.setMag_hostMem (d : Dev) (n : Nat) (x : MagPort) : (d.setMag n x).hostMem = d.hostMem := rfl
@[simp] theorem Dev.setMag_core_host (d : Dev) (n : Nat) (x : MagPort) : (d.setMag n x).core.host = d.core.host := rfl
@[simp] theorem Dev.setMag_core_slots (d : Dev) (n : Nat) (x : MagPort) : (d.setMag n x).core.slots = d.core.slots := rfl
@[simp] theorem Dev.setMag_core_take (d : Dev) (n : Nat) (x : MagPort) : (d.setMag n x).core.take = d.core.take := rfl
@[simp] theorem Dev.setMag_core_armCount (d : Dev) (n : Nat) (x : MagPort) : (d.setMag n x).core.armCount = d.core.armCount := rfl
@[simp] theorem Dev.setMag_core_lehr (d : Dev) (n : Nat) (x : MagPort) : (d.setMag n x).core.lehr = d.core.lehr := rfl
@[simp] theorem Dev.setMag_core_boot (d : Dev) (n : Nat) (x : MagPort) : (d.setMag n x).core.boot = d.core.boot := rfl
@[simp] theorem Dev.setMag_core_fault (d : Dev) (n : Nat) (x : MagPort) : (d.setMag n x).core.fault = d.core.fault := rfl
@[simp] theorem Dev.setMag_core_evts (d : Dev) (n : Nat) (x : MagPort) : (d.setMag n x).core.evts = d.core.evts := rfl
@[simp] theorem Dev.setMag_core_gafs (d : Dev) (n : Nat) (x : MagPort) : (d.setMag n x).core.gafs = d.core.gafs := rfl
@[simp] theorem Dev.setMag_core_test (d : Dev) (n : Nat) (x : MagPort) : (d.setMag n x).core.test = d.core.test := rfl
@[simp] theorem Dev.setMag_core_jtag (d : Dev) (n : Nat) (x : MagPort) : (d.setMag n x).core.jtag = d.core.jtag := rfl
@[simp] theorem Dev.setMag_core_flash (d : Dev) (n : Nat) (x : MagPort) : (d.setMag n x).core.flash = d.core.flash := rfl
@[simp] theorem Dev.setMag_core_flashCmd (d : Dev) (n : Nat) (x : MagPort) : (d.setMag n x).core.flashCmd = d.core.flashCmd := rfl
@[simp] theorem Dev.setMag_core_time (d : Dev) (n : Nat) (x : MagPort) : (d.setMag n x).core.time = d.core.time := rfl
@[simp] theorem Dev.setMag_core_lanes (d : Dev) (n : Nat) (x : MagPort) : (d.setMag n x).core.lanes = d.core.lanes := rfl
@[simp] theorem Dev.setMag_core_heads (d : Dev) (n : Nat) (x : MagPort) : (d.setMag n x).core.heads = d.core.heads := rfl
@[simp] theorem Dev.setMag_core_allow (d : Dev) (n : Nat) (x : MagPort) : (d.setMag n x).core.allow = d.core.allow := rfl
@[simp] theorem Dev.setMag_core_stageKey (d : Dev) (n : Nat) (x : MagPort) : (d.setMag n x).core.stageKey = d.core.stageKey := rfl
@[simp] theorem Dev.setMag_core_recs (d : Dev) (n : Nat) (x : MagPort) : (d.setMag n x).core.recs = d.core.recs := rfl
@[simp] theorem Dev.setMag_core_tctx (d : Dev) (n : Nat) (x : MagPort) : (d.setMag n x).core.tctx = d.core.tctx := rfl
@[simp] theorem Dev.setMag_core_encs (d : Dev) (n : Nat) (x : MagPort) : (d.setMag n x).core.encs = d.core.encs := rfl
@[simp] theorem Dev.setMag_core_decp (d : Dev) (n : Nat) (x : MagPort) : (d.setMag n x).core.decp = d.core.decp := rfl
@[simp] theorem Dev.setMag_core_rcLog (d : Dev) (n : Nat) (x : MagPort) : (d.setMag n x).core.rcLog = d.core.rcLog := rfl
@[simp] theorem Dev.setMag_core_rings (d : Dev) (n : Nat) (x : MagPort) : (d.setMag n x).core.rings = d.core.rings := rfl
@[simp] theorem Dev.setMag_core_chans (d : Dev) (n : Nat) (x : MagPort) : (d.setMag n x).core.chans = d.core.chans := rfl
@[simp] theorem Dev.setMag_core_drr (d : Dev) (n : Nat) (x : MagPort) : (d.setMag n x).core.drr = d.core.drr := rfl
@[simp] theorem Dev.setMag_core_cullet (d : Dev) (n : Nat) (x : MagPort) : (d.setMag n x).core.cullet = d.core.cullet := rfl
@[simp] theorem Dev.setMag_core_exchange (d : Dev) (n : Nat) (x : MagPort) : (d.setMag n x).core.exchange = d.core.exchange := rfl
@[simp] theorem Dev.setMag_core_decs (d : Dev) (n : Nat) (x : MagPort) : (d.setMag n x).core.decs = d.core.decs := rfl
@[simp] theorem Dev.setMag_core_proxies (d : Dev) (n : Nat) (x : MagPort) : (d.setMag n x).core.proxies = d.core.proxies := rfl
@[simp] theorem Dev.setMag_core_mem (d : Dev) (n : Nat) (x : MagPort) : (d.setMag n x).core.mem = d.core.mem := rfl
@[simp] theorem Dev.setMag_core_nets (d : Dev) (n : Nat) (x : MagPort) : (d.setMag n x).core.nets = d.core.nets := rfl
@[simp] theorem Dev.setMag_core_peers (d : Dev) (n : Nat) (x : MagPort) : (d.setMag n x).core.peers = d.core.peers := rfl
@[simp] theorem Dev.setMag_core_hosted (d : Dev) (n : Nat) (x : MagPort) : (d.setMag n x).core.hosted = d.core.hosted := rfl
@[simp] theorem Dev.setMag_core_served (d : Dev) (n : Nat) (x : MagPort) : (d.setMag n x).core.served = d.core.served := rfl
@[simp] theorem Dev.setNet_regs (d : Dev) (n : Nat) (x : NetPort) : (d.setNet n x).regs = d.regs := rfl
@[simp] theorem Dev.setNet_dram (d : Dev) (n : Nat) (x : NetPort) : (d.setNet n x).dram = d.dram := rfl
@[simp] theorem Dev.setNet_hostMem (d : Dev) (n : Nat) (x : NetPort) : (d.setNet n x).hostMem = d.hostMem := rfl
@[simp] theorem Dev.setNet_core_host (d : Dev) (n : Nat) (x : NetPort) : (d.setNet n x).core.host = d.core.host := rfl
@[simp] theorem Dev.setNet_core_slots (d : Dev) (n : Nat) (x : NetPort) : (d.setNet n x).core.slots = d.core.slots := rfl
@[simp] theorem Dev.setNet_core_take (d : Dev) (n : Nat) (x : NetPort) : (d.setNet n x).core.take = d.core.take := rfl
@[simp] theorem Dev.setNet_core_armCount (d : Dev) (n : Nat) (x : NetPort) : (d.setNet n x).core.armCount = d.core.armCount := rfl
@[simp] theorem Dev.setNet_core_lehr (d : Dev) (n : Nat) (x : NetPort) : (d.setNet n x).core.lehr = d.core.lehr := rfl
@[simp] theorem Dev.setNet_core_boot (d : Dev) (n : Nat) (x : NetPort) : (d.setNet n x).core.boot = d.core.boot := rfl
@[simp] theorem Dev.setNet_core_fault (d : Dev) (n : Nat) (x : NetPort) : (d.setNet n x).core.fault = d.core.fault := rfl
@[simp] theorem Dev.setNet_core_evts (d : Dev) (n : Nat) (x : NetPort) : (d.setNet n x).core.evts = d.core.evts := rfl
@[simp] theorem Dev.setNet_core_gafs (d : Dev) (n : Nat) (x : NetPort) : (d.setNet n x).core.gafs = d.core.gafs := rfl
@[simp] theorem Dev.setNet_core_test (d : Dev) (n : Nat) (x : NetPort) : (d.setNet n x).core.test = d.core.test := rfl
@[simp] theorem Dev.setNet_core_jtag (d : Dev) (n : Nat) (x : NetPort) : (d.setNet n x).core.jtag = d.core.jtag := rfl
@[simp] theorem Dev.setNet_core_flash (d : Dev) (n : Nat) (x : NetPort) : (d.setNet n x).core.flash = d.core.flash := rfl
@[simp] theorem Dev.setNet_core_flashCmd (d : Dev) (n : Nat) (x : NetPort) : (d.setNet n x).core.flashCmd = d.core.flashCmd := rfl
@[simp] theorem Dev.setNet_core_time (d : Dev) (n : Nat) (x : NetPort) : (d.setNet n x).core.time = d.core.time := rfl
@[simp] theorem Dev.setNet_core_lanes (d : Dev) (n : Nat) (x : NetPort) : (d.setNet n x).core.lanes = d.core.lanes := rfl
@[simp] theorem Dev.setNet_core_heads (d : Dev) (n : Nat) (x : NetPort) : (d.setNet n x).core.heads = d.core.heads := rfl
@[simp] theorem Dev.setNet_core_allow (d : Dev) (n : Nat) (x : NetPort) : (d.setNet n x).core.allow = d.core.allow := rfl
@[simp] theorem Dev.setNet_core_stageKey (d : Dev) (n : Nat) (x : NetPort) : (d.setNet n x).core.stageKey = d.core.stageKey := rfl
@[simp] theorem Dev.setNet_core_recs (d : Dev) (n : Nat) (x : NetPort) : (d.setNet n x).core.recs = d.core.recs := rfl
@[simp] theorem Dev.setNet_core_tctx (d : Dev) (n : Nat) (x : NetPort) : (d.setNet n x).core.tctx = d.core.tctx := rfl
@[simp] theorem Dev.setNet_core_encs (d : Dev) (n : Nat) (x : NetPort) : (d.setNet n x).core.encs = d.core.encs := rfl
@[simp] theorem Dev.setNet_core_decp (d : Dev) (n : Nat) (x : NetPort) : (d.setNet n x).core.decp = d.core.decp := rfl
@[simp] theorem Dev.setNet_core_rcLog (d : Dev) (n : Nat) (x : NetPort) : (d.setNet n x).core.rcLog = d.core.rcLog := rfl
@[simp] theorem Dev.setNet_core_rings (d : Dev) (n : Nat) (x : NetPort) : (d.setNet n x).core.rings = d.core.rings := rfl
@[simp] theorem Dev.setNet_core_chans (d : Dev) (n : Nat) (x : NetPort) : (d.setNet n x).core.chans = d.core.chans := rfl
@[simp] theorem Dev.setNet_core_drr (d : Dev) (n : Nat) (x : NetPort) : (d.setNet n x).core.drr = d.core.drr := rfl
@[simp] theorem Dev.setNet_core_cullet (d : Dev) (n : Nat) (x : NetPort) : (d.setNet n x).core.cullet = d.core.cullet := rfl
@[simp] theorem Dev.setNet_core_mags (d : Dev) (n : Nat) (x : NetPort) : (d.setNet n x).core.mags = d.core.mags := rfl
@[simp] theorem Dev.setNet_core_exchange (d : Dev) (n : Nat) (x : NetPort) : (d.setNet n x).core.exchange = d.core.exchange := rfl
@[simp] theorem Dev.setNet_core_decs (d : Dev) (n : Nat) (x : NetPort) : (d.setNet n x).core.decs = d.core.decs := rfl
@[simp] theorem Dev.setNet_core_proxies (d : Dev) (n : Nat) (x : NetPort) : (d.setNet n x).core.proxies = d.core.proxies := rfl
@[simp] theorem Dev.setNet_core_mem (d : Dev) (n : Nat) (x : NetPort) : (d.setNet n x).core.mem = d.core.mem := rfl
@[simp] theorem Dev.setNet_core_peers (d : Dev) (n : Nat) (x : NetPort) : (d.setNet n x).core.peers = d.core.peers := rfl
@[simp] theorem Dev.setNet_core_hosted (d : Dev) (n : Nat) (x : NetPort) : (d.setNet n x).core.hosted = d.core.hosted := rfl
@[simp] theorem Dev.setNet_core_served (d : Dev) (n : Nat) (x : NetPort) : (d.setNet n x).core.served = d.core.served := rfl
@[simp] theorem Dev.setPeer_regs (d : Dev) (n : Nat) (x : PeerPort) : (d.setPeer n x).regs = d.regs := rfl
@[simp] theorem Dev.setPeer_dram (d : Dev) (n : Nat) (x : PeerPort) : (d.setPeer n x).dram = d.dram := rfl
@[simp] theorem Dev.setPeer_hostMem (d : Dev) (n : Nat) (x : PeerPort) : (d.setPeer n x).hostMem = d.hostMem := rfl
@[simp] theorem Dev.setPeer_core_host (d : Dev) (n : Nat) (x : PeerPort) : (d.setPeer n x).core.host = d.core.host := rfl
@[simp] theorem Dev.setPeer_core_slots (d : Dev) (n : Nat) (x : PeerPort) : (d.setPeer n x).core.slots = d.core.slots := rfl
@[simp] theorem Dev.setPeer_core_take (d : Dev) (n : Nat) (x : PeerPort) : (d.setPeer n x).core.take = d.core.take := rfl
@[simp] theorem Dev.setPeer_core_armCount (d : Dev) (n : Nat) (x : PeerPort) : (d.setPeer n x).core.armCount = d.core.armCount := rfl
@[simp] theorem Dev.setPeer_core_lehr (d : Dev) (n : Nat) (x : PeerPort) : (d.setPeer n x).core.lehr = d.core.lehr := rfl
@[simp] theorem Dev.setPeer_core_boot (d : Dev) (n : Nat) (x : PeerPort) : (d.setPeer n x).core.boot = d.core.boot := rfl
@[simp] theorem Dev.setPeer_core_fault (d : Dev) (n : Nat) (x : PeerPort) : (d.setPeer n x).core.fault = d.core.fault := rfl
@[simp] theorem Dev.setPeer_core_evts (d : Dev) (n : Nat) (x : PeerPort) : (d.setPeer n x).core.evts = d.core.evts := rfl
@[simp] theorem Dev.setPeer_core_gafs (d : Dev) (n : Nat) (x : PeerPort) : (d.setPeer n x).core.gafs = d.core.gafs := rfl
@[simp] theorem Dev.setPeer_core_test (d : Dev) (n : Nat) (x : PeerPort) : (d.setPeer n x).core.test = d.core.test := rfl
@[simp] theorem Dev.setPeer_core_jtag (d : Dev) (n : Nat) (x : PeerPort) : (d.setPeer n x).core.jtag = d.core.jtag := rfl
@[simp] theorem Dev.setPeer_core_flash (d : Dev) (n : Nat) (x : PeerPort) : (d.setPeer n x).core.flash = d.core.flash := rfl
@[simp] theorem Dev.setPeer_core_flashCmd (d : Dev) (n : Nat) (x : PeerPort) : (d.setPeer n x).core.flashCmd = d.core.flashCmd := rfl
@[simp] theorem Dev.setPeer_core_time (d : Dev) (n : Nat) (x : PeerPort) : (d.setPeer n x).core.time = d.core.time := rfl
@[simp] theorem Dev.setPeer_core_lanes (d : Dev) (n : Nat) (x : PeerPort) : (d.setPeer n x).core.lanes = d.core.lanes := rfl
@[simp] theorem Dev.setPeer_core_heads (d : Dev) (n : Nat) (x : PeerPort) : (d.setPeer n x).core.heads = d.core.heads := rfl
@[simp] theorem Dev.setPeer_core_allow (d : Dev) (n : Nat) (x : PeerPort) : (d.setPeer n x).core.allow = d.core.allow := rfl
@[simp] theorem Dev.setPeer_core_stageKey (d : Dev) (n : Nat) (x : PeerPort) : (d.setPeer n x).core.stageKey = d.core.stageKey := rfl
@[simp] theorem Dev.setPeer_core_recs (d : Dev) (n : Nat) (x : PeerPort) : (d.setPeer n x).core.recs = d.core.recs := rfl
@[simp] theorem Dev.setPeer_core_tctx (d : Dev) (n : Nat) (x : PeerPort) : (d.setPeer n x).core.tctx = d.core.tctx := rfl
@[simp] theorem Dev.setPeer_core_encs (d : Dev) (n : Nat) (x : PeerPort) : (d.setPeer n x).core.encs = d.core.encs := rfl
@[simp] theorem Dev.setPeer_core_decp (d : Dev) (n : Nat) (x : PeerPort) : (d.setPeer n x).core.decp = d.core.decp := rfl
@[simp] theorem Dev.setPeer_core_rcLog (d : Dev) (n : Nat) (x : PeerPort) : (d.setPeer n x).core.rcLog = d.core.rcLog := rfl
@[simp] theorem Dev.setPeer_core_rings (d : Dev) (n : Nat) (x : PeerPort) : (d.setPeer n x).core.rings = d.core.rings := rfl
@[simp] theorem Dev.setPeer_core_chans (d : Dev) (n : Nat) (x : PeerPort) : (d.setPeer n x).core.chans = d.core.chans := rfl
@[simp] theorem Dev.setPeer_core_drr (d : Dev) (n : Nat) (x : PeerPort) : (d.setPeer n x).core.drr = d.core.drr := rfl
@[simp] theorem Dev.setPeer_core_cullet (d : Dev) (n : Nat) (x : PeerPort) : (d.setPeer n x).core.cullet = d.core.cullet := rfl
@[simp] theorem Dev.setPeer_core_mags (d : Dev) (n : Nat) (x : PeerPort) : (d.setPeer n x).core.mags = d.core.mags := rfl
@[simp] theorem Dev.setPeer_core_exchange (d : Dev) (n : Nat) (x : PeerPort) : (d.setPeer n x).core.exchange = d.core.exchange := rfl
@[simp] theorem Dev.setPeer_core_decs (d : Dev) (n : Nat) (x : PeerPort) : (d.setPeer n x).core.decs = d.core.decs := rfl
@[simp] theorem Dev.setPeer_core_proxies (d : Dev) (n : Nat) (x : PeerPort) : (d.setPeer n x).core.proxies = d.core.proxies := rfl
@[simp] theorem Dev.setPeer_core_mem (d : Dev) (n : Nat) (x : PeerPort) : (d.setPeer n x).core.mem = d.core.mem := rfl
@[simp] theorem Dev.setPeer_core_nets (d : Dev) (n : Nat) (x : PeerPort) : (d.setPeer n x).core.nets = d.core.nets := rfl
@[simp] theorem Dev.setPeer_core_hosted (d : Dev) (n : Nat) (x : PeerPort) : (d.setPeer n x).core.hosted = d.core.hosted := rfl
@[simp] theorem Dev.setPeer_core_served (d : Dev) (n : Nat) (x : PeerPort) : (d.setPeer n x).core.served = d.core.served := rfl
@[simp] theorem Dev.setRec_regs (d : Dev) (n : Nat) (x : RecStream) : (d.setRec n x).regs = d.regs := rfl
@[simp] theorem Dev.setRec_dram (d : Dev) (n : Nat) (x : RecStream) : (d.setRec n x).dram = d.dram := rfl
@[simp] theorem Dev.setRec_hostMem (d : Dev) (n : Nat) (x : RecStream) : (d.setRec n x).hostMem = d.hostMem := rfl
@[simp] theorem Dev.setRec_core_host (d : Dev) (n : Nat) (x : RecStream) : (d.setRec n x).core.host = d.core.host := rfl
@[simp] theorem Dev.setRec_core_slots (d : Dev) (n : Nat) (x : RecStream) : (d.setRec n x).core.slots = d.core.slots := rfl
@[simp] theorem Dev.setRec_core_take (d : Dev) (n : Nat) (x : RecStream) : (d.setRec n x).core.take = d.core.take := rfl
@[simp] theorem Dev.setRec_core_armCount (d : Dev) (n : Nat) (x : RecStream) : (d.setRec n x).core.armCount = d.core.armCount := rfl
@[simp] theorem Dev.setRec_core_lehr (d : Dev) (n : Nat) (x : RecStream) : (d.setRec n x).core.lehr = d.core.lehr := rfl
@[simp] theorem Dev.setRec_core_boot (d : Dev) (n : Nat) (x : RecStream) : (d.setRec n x).core.boot = d.core.boot := rfl
@[simp] theorem Dev.setRec_core_fault (d : Dev) (n : Nat) (x : RecStream) : (d.setRec n x).core.fault = d.core.fault := rfl
@[simp] theorem Dev.setRec_core_evts (d : Dev) (n : Nat) (x : RecStream) : (d.setRec n x).core.evts = d.core.evts := rfl
@[simp] theorem Dev.setRec_core_gafs (d : Dev) (n : Nat) (x : RecStream) : (d.setRec n x).core.gafs = d.core.gafs := rfl
@[simp] theorem Dev.setRec_core_test (d : Dev) (n : Nat) (x : RecStream) : (d.setRec n x).core.test = d.core.test := rfl
@[simp] theorem Dev.setRec_core_jtag (d : Dev) (n : Nat) (x : RecStream) : (d.setRec n x).core.jtag = d.core.jtag := rfl
@[simp] theorem Dev.setRec_core_flash (d : Dev) (n : Nat) (x : RecStream) : (d.setRec n x).core.flash = d.core.flash := rfl
@[simp] theorem Dev.setRec_core_flashCmd (d : Dev) (n : Nat) (x : RecStream) : (d.setRec n x).core.flashCmd = d.core.flashCmd := rfl
@[simp] theorem Dev.setRec_core_time (d : Dev) (n : Nat) (x : RecStream) : (d.setRec n x).core.time = d.core.time := rfl
@[simp] theorem Dev.setRec_core_lanes (d : Dev) (n : Nat) (x : RecStream) : (d.setRec n x).core.lanes = d.core.lanes := rfl
@[simp] theorem Dev.setRec_core_heads (d : Dev) (n : Nat) (x : RecStream) : (d.setRec n x).core.heads = d.core.heads := rfl
@[simp] theorem Dev.setRec_core_allow (d : Dev) (n : Nat) (x : RecStream) : (d.setRec n x).core.allow = d.core.allow := rfl
@[simp] theorem Dev.setRec_core_stageKey (d : Dev) (n : Nat) (x : RecStream) : (d.setRec n x).core.stageKey = d.core.stageKey := rfl
@[simp] theorem Dev.setRec_core_tctx (d : Dev) (n : Nat) (x : RecStream) : (d.setRec n x).core.tctx = d.core.tctx := rfl
@[simp] theorem Dev.setRec_core_encs (d : Dev) (n : Nat) (x : RecStream) : (d.setRec n x).core.encs = d.core.encs := rfl
@[simp] theorem Dev.setRec_core_decp (d : Dev) (n : Nat) (x : RecStream) : (d.setRec n x).core.decp = d.core.decp := rfl
@[simp] theorem Dev.setRec_core_rcLog (d : Dev) (n : Nat) (x : RecStream) : (d.setRec n x).core.rcLog = d.core.rcLog := rfl
@[simp] theorem Dev.setRec_core_rings (d : Dev) (n : Nat) (x : RecStream) : (d.setRec n x).core.rings = d.core.rings := rfl
@[simp] theorem Dev.setRec_core_chans (d : Dev) (n : Nat) (x : RecStream) : (d.setRec n x).core.chans = d.core.chans := rfl
@[simp] theorem Dev.setRec_core_drr (d : Dev) (n : Nat) (x : RecStream) : (d.setRec n x).core.drr = d.core.drr := rfl
@[simp] theorem Dev.setRec_core_cullet (d : Dev) (n : Nat) (x : RecStream) : (d.setRec n x).core.cullet = d.core.cullet := rfl
@[simp] theorem Dev.setRec_core_mags (d : Dev) (n : Nat) (x : RecStream) : (d.setRec n x).core.mags = d.core.mags := rfl
@[simp] theorem Dev.setRec_core_exchange (d : Dev) (n : Nat) (x : RecStream) : (d.setRec n x).core.exchange = d.core.exchange := rfl
@[simp] theorem Dev.setRec_core_decs (d : Dev) (n : Nat) (x : RecStream) : (d.setRec n x).core.decs = d.core.decs := rfl
@[simp] theorem Dev.setRec_core_proxies (d : Dev) (n : Nat) (x : RecStream) : (d.setRec n x).core.proxies = d.core.proxies := rfl
@[simp] theorem Dev.setRec_core_mem (d : Dev) (n : Nat) (x : RecStream) : (d.setRec n x).core.mem = d.core.mem := rfl
@[simp] theorem Dev.setRec_core_nets (d : Dev) (n : Nat) (x : RecStream) : (d.setRec n x).core.nets = d.core.nets := rfl
@[simp] theorem Dev.setRec_core_peers (d : Dev) (n : Nat) (x : RecStream) : (d.setRec n x).core.peers = d.core.peers := rfl
@[simp] theorem Dev.setRec_core_hosted (d : Dev) (n : Nat) (x : RecStream) : (d.setRec n x).core.hosted = d.core.hosted := rfl
@[simp] theorem Dev.setRec_core_served (d : Dev) (n : Nat) (x : RecStream) : (d.setRec n x).core.served = d.core.served := rfl
@[simp] theorem Dev.setDec_regs (d : Dev) (n : Nat) (x : DecStream) : (d.setDec n x).regs = d.regs := rfl
@[simp] theorem Dev.setDec_dram (d : Dev) (n : Nat) (x : DecStream) : (d.setDec n x).dram = d.dram := rfl
@[simp] theorem Dev.setDec_hostMem (d : Dev) (n : Nat) (x : DecStream) : (d.setDec n x).hostMem = d.hostMem := rfl
@[simp] theorem Dev.setDec_core_host (d : Dev) (n : Nat) (x : DecStream) : (d.setDec n x).core.host = d.core.host := rfl
@[simp] theorem Dev.setDec_core_slots (d : Dev) (n : Nat) (x : DecStream) : (d.setDec n x).core.slots = d.core.slots := rfl
@[simp] theorem Dev.setDec_core_take (d : Dev) (n : Nat) (x : DecStream) : (d.setDec n x).core.take = d.core.take := rfl
@[simp] theorem Dev.setDec_core_armCount (d : Dev) (n : Nat) (x : DecStream) : (d.setDec n x).core.armCount = d.core.armCount := rfl
@[simp] theorem Dev.setDec_core_lehr (d : Dev) (n : Nat) (x : DecStream) : (d.setDec n x).core.lehr = d.core.lehr := rfl
@[simp] theorem Dev.setDec_core_boot (d : Dev) (n : Nat) (x : DecStream) : (d.setDec n x).core.boot = d.core.boot := rfl
@[simp] theorem Dev.setDec_core_fault (d : Dev) (n : Nat) (x : DecStream) : (d.setDec n x).core.fault = d.core.fault := rfl
@[simp] theorem Dev.setDec_core_evts (d : Dev) (n : Nat) (x : DecStream) : (d.setDec n x).core.evts = d.core.evts := rfl
@[simp] theorem Dev.setDec_core_gafs (d : Dev) (n : Nat) (x : DecStream) : (d.setDec n x).core.gafs = d.core.gafs := rfl
@[simp] theorem Dev.setDec_core_test (d : Dev) (n : Nat) (x : DecStream) : (d.setDec n x).core.test = d.core.test := rfl
@[simp] theorem Dev.setDec_core_jtag (d : Dev) (n : Nat) (x : DecStream) : (d.setDec n x).core.jtag = d.core.jtag := rfl
@[simp] theorem Dev.setDec_core_flash (d : Dev) (n : Nat) (x : DecStream) : (d.setDec n x).core.flash = d.core.flash := rfl
@[simp] theorem Dev.setDec_core_flashCmd (d : Dev) (n : Nat) (x : DecStream) : (d.setDec n x).core.flashCmd = d.core.flashCmd := rfl
@[simp] theorem Dev.setDec_core_time (d : Dev) (n : Nat) (x : DecStream) : (d.setDec n x).core.time = d.core.time := rfl
@[simp] theorem Dev.setDec_core_lanes (d : Dev) (n : Nat) (x : DecStream) : (d.setDec n x).core.lanes = d.core.lanes := rfl
@[simp] theorem Dev.setDec_core_heads (d : Dev) (n : Nat) (x : DecStream) : (d.setDec n x).core.heads = d.core.heads := rfl
@[simp] theorem Dev.setDec_core_allow (d : Dev) (n : Nat) (x : DecStream) : (d.setDec n x).core.allow = d.core.allow := rfl
@[simp] theorem Dev.setDec_core_stageKey (d : Dev) (n : Nat) (x : DecStream) : (d.setDec n x).core.stageKey = d.core.stageKey := rfl
@[simp] theorem Dev.setDec_core_recs (d : Dev) (n : Nat) (x : DecStream) : (d.setDec n x).core.recs = d.core.recs := rfl
@[simp] theorem Dev.setDec_core_tctx (d : Dev) (n : Nat) (x : DecStream) : (d.setDec n x).core.tctx = d.core.tctx := rfl
@[simp] theorem Dev.setDec_core_encs (d : Dev) (n : Nat) (x : DecStream) : (d.setDec n x).core.encs = d.core.encs := rfl
@[simp] theorem Dev.setDec_core_decp (d : Dev) (n : Nat) (x : DecStream) : (d.setDec n x).core.decp = d.core.decp := rfl
@[simp] theorem Dev.setDec_core_rcLog (d : Dev) (n : Nat) (x : DecStream) : (d.setDec n x).core.rcLog = d.core.rcLog := rfl
@[simp] theorem Dev.setDec_core_rings (d : Dev) (n : Nat) (x : DecStream) : (d.setDec n x).core.rings = d.core.rings := rfl
@[simp] theorem Dev.setDec_core_chans (d : Dev) (n : Nat) (x : DecStream) : (d.setDec n x).core.chans = d.core.chans := rfl
@[simp] theorem Dev.setDec_core_drr (d : Dev) (n : Nat) (x : DecStream) : (d.setDec n x).core.drr = d.core.drr := rfl
@[simp] theorem Dev.setDec_core_cullet (d : Dev) (n : Nat) (x : DecStream) : (d.setDec n x).core.cullet = d.core.cullet := rfl
@[simp] theorem Dev.setDec_core_mags (d : Dev) (n : Nat) (x : DecStream) : (d.setDec n x).core.mags = d.core.mags := rfl
@[simp] theorem Dev.setDec_core_exchange (d : Dev) (n : Nat) (x : DecStream) : (d.setDec n x).core.exchange = d.core.exchange := rfl
@[simp] theorem Dev.setDec_core_proxies (d : Dev) (n : Nat) (x : DecStream) : (d.setDec n x).core.proxies = d.core.proxies := rfl
@[simp] theorem Dev.setDec_core_mem (d : Dev) (n : Nat) (x : DecStream) : (d.setDec n x).core.mem = d.core.mem := rfl
@[simp] theorem Dev.setDec_core_nets (d : Dev) (n : Nat) (x : DecStream) : (d.setDec n x).core.nets = d.core.nets := rfl
@[simp] theorem Dev.setDec_core_peers (d : Dev) (n : Nat) (x : DecStream) : (d.setDec n x).core.peers = d.core.peers := rfl
@[simp] theorem Dev.setDec_core_hosted (d : Dev) (n : Nat) (x : DecStream) : (d.setDec n x).core.hosted = d.core.hosted := rfl
@[simp] theorem Dev.setDec_core_served (d : Dev) (n : Nat) (x : DecStream) : (d.setDec n x).core.served = d.core.served := rfl
@[simp] theorem Dev.setProxy_regs (d : Dev) (n : Nat) (x : ProxyStream) : (d.setProxy n x).regs = d.regs := rfl
@[simp] theorem Dev.setProxy_dram (d : Dev) (n : Nat) (x : ProxyStream) : (d.setProxy n x).dram = d.dram := rfl
@[simp] theorem Dev.setProxy_hostMem (d : Dev) (n : Nat) (x : ProxyStream) : (d.setProxy n x).hostMem = d.hostMem := rfl
@[simp] theorem Dev.setProxy_core_host (d : Dev) (n : Nat) (x : ProxyStream) : (d.setProxy n x).core.host = d.core.host := rfl
@[simp] theorem Dev.setProxy_core_slots (d : Dev) (n : Nat) (x : ProxyStream) : (d.setProxy n x).core.slots = d.core.slots := rfl
@[simp] theorem Dev.setProxy_core_take (d : Dev) (n : Nat) (x : ProxyStream) : (d.setProxy n x).core.take = d.core.take := rfl
@[simp] theorem Dev.setProxy_core_armCount (d : Dev) (n : Nat) (x : ProxyStream) : (d.setProxy n x).core.armCount = d.core.armCount := rfl
@[simp] theorem Dev.setProxy_core_lehr (d : Dev) (n : Nat) (x : ProxyStream) : (d.setProxy n x).core.lehr = d.core.lehr := rfl
@[simp] theorem Dev.setProxy_core_boot (d : Dev) (n : Nat) (x : ProxyStream) : (d.setProxy n x).core.boot = d.core.boot := rfl
@[simp] theorem Dev.setProxy_core_fault (d : Dev) (n : Nat) (x : ProxyStream) : (d.setProxy n x).core.fault = d.core.fault := rfl
@[simp] theorem Dev.setProxy_core_evts (d : Dev) (n : Nat) (x : ProxyStream) : (d.setProxy n x).core.evts = d.core.evts := rfl
@[simp] theorem Dev.setProxy_core_gafs (d : Dev) (n : Nat) (x : ProxyStream) : (d.setProxy n x).core.gafs = d.core.gafs := rfl
@[simp] theorem Dev.setProxy_core_test (d : Dev) (n : Nat) (x : ProxyStream) : (d.setProxy n x).core.test = d.core.test := rfl
@[simp] theorem Dev.setProxy_core_jtag (d : Dev) (n : Nat) (x : ProxyStream) : (d.setProxy n x).core.jtag = d.core.jtag := rfl
@[simp] theorem Dev.setProxy_core_flash (d : Dev) (n : Nat) (x : ProxyStream) : (d.setProxy n x).core.flash = d.core.flash := rfl
@[simp] theorem Dev.setProxy_core_flashCmd (d : Dev) (n : Nat) (x : ProxyStream) : (d.setProxy n x).core.flashCmd = d.core.flashCmd := rfl
@[simp] theorem Dev.setProxy_core_time (d : Dev) (n : Nat) (x : ProxyStream) : (d.setProxy n x).core.time = d.core.time := rfl
@[simp] theorem Dev.setProxy_core_lanes (d : Dev) (n : Nat) (x : ProxyStream) : (d.setProxy n x).core.lanes = d.core.lanes := rfl
@[simp] theorem Dev.setProxy_core_heads (d : Dev) (n : Nat) (x : ProxyStream) : (d.setProxy n x).core.heads = d.core.heads := rfl
@[simp] theorem Dev.setProxy_core_allow (d : Dev) (n : Nat) (x : ProxyStream) : (d.setProxy n x).core.allow = d.core.allow := rfl
@[simp] theorem Dev.setProxy_core_stageKey (d : Dev) (n : Nat) (x : ProxyStream) : (d.setProxy n x).core.stageKey = d.core.stageKey := rfl
@[simp] theorem Dev.setProxy_core_recs (d : Dev) (n : Nat) (x : ProxyStream) : (d.setProxy n x).core.recs = d.core.recs := rfl
@[simp] theorem Dev.setProxy_core_tctx (d : Dev) (n : Nat) (x : ProxyStream) : (d.setProxy n x).core.tctx = d.core.tctx := rfl
@[simp] theorem Dev.setProxy_core_encs (d : Dev) (n : Nat) (x : ProxyStream) : (d.setProxy n x).core.encs = d.core.encs := rfl
@[simp] theorem Dev.setProxy_core_decp (d : Dev) (n : Nat) (x : ProxyStream) : (d.setProxy n x).core.decp = d.core.decp := rfl
@[simp] theorem Dev.setProxy_core_rcLog (d : Dev) (n : Nat) (x : ProxyStream) : (d.setProxy n x).core.rcLog = d.core.rcLog := rfl
@[simp] theorem Dev.setProxy_core_rings (d : Dev) (n : Nat) (x : ProxyStream) : (d.setProxy n x).core.rings = d.core.rings := rfl
@[simp] theorem Dev.setProxy_core_chans (d : Dev) (n : Nat) (x : ProxyStream) : (d.setProxy n x).core.chans = d.core.chans := rfl
@[simp] theorem Dev.setProxy_core_drr (d : Dev) (n : Nat) (x : ProxyStream) : (d.setProxy n x).core.drr = d.core.drr := rfl
@[simp] theorem Dev.setProxy_core_cullet (d : Dev) (n : Nat) (x : ProxyStream) : (d.setProxy n x).core.cullet = d.core.cullet := rfl
@[simp] theorem Dev.setProxy_core_mags (d : Dev) (n : Nat) (x : ProxyStream) : (d.setProxy n x).core.mags = d.core.mags := rfl
@[simp] theorem Dev.setProxy_core_exchange (d : Dev) (n : Nat) (x : ProxyStream) : (d.setProxy n x).core.exchange = d.core.exchange := rfl
@[simp] theorem Dev.setProxy_core_decs (d : Dev) (n : Nat) (x : ProxyStream) : (d.setProxy n x).core.decs = d.core.decs := rfl
@[simp] theorem Dev.setProxy_core_mem (d : Dev) (n : Nat) (x : ProxyStream) : (d.setProxy n x).core.mem = d.core.mem := rfl
@[simp] theorem Dev.setProxy_core_nets (d : Dev) (n : Nat) (x : ProxyStream) : (d.setProxy n x).core.nets = d.core.nets := rfl
@[simp] theorem Dev.setProxy_core_peers (d : Dev) (n : Nat) (x : ProxyStream) : (d.setProxy n x).core.peers = d.core.peers := rfl
@[simp] theorem Dev.setProxy_core_hosted (d : Dev) (n : Nat) (x : ProxyStream) : (d.setProxy n x).core.hosted = d.core.hosted := rfl
@[simp] theorem Dev.setProxy_core_served (d : Dev) (n : Nat) (x : ProxyStream) : (d.setProxy n x).core.served = d.core.served := rfl
@[simp] theorem Dev.setMbx_regs (d : Dev) (n : Nat) (x : Mailbox) : (d.setMbx n x).regs = d.regs := rfl
@[simp] theorem Dev.setMbx_dram (d : Dev) (n : Nat) (x : Mailbox) : (d.setMbx n x).dram = d.dram := rfl
@[simp] theorem Dev.setMbx_hostMem (d : Dev) (n : Nat) (x : Mailbox) : (d.setMbx n x).hostMem = d.hostMem := rfl
@[simp] theorem Dev.setMbx_core_slots (d : Dev) (n : Nat) (x : Mailbox) : (d.setMbx n x).core.slots = d.core.slots := rfl
@[simp] theorem Dev.setMbx_core_take (d : Dev) (n : Nat) (x : Mailbox) : (d.setMbx n x).core.take = d.core.take := rfl
@[simp] theorem Dev.setMbx_core_armCount (d : Dev) (n : Nat) (x : Mailbox) : (d.setMbx n x).core.armCount = d.core.armCount := rfl
@[simp] theorem Dev.setMbx_core_lehr (d : Dev) (n : Nat) (x : Mailbox) : (d.setMbx n x).core.lehr = d.core.lehr := rfl
@[simp] theorem Dev.setMbx_core_boot (d : Dev) (n : Nat) (x : Mailbox) : (d.setMbx n x).core.boot = d.core.boot := rfl
@[simp] theorem Dev.setMbx_core_fault (d : Dev) (n : Nat) (x : Mailbox) : (d.setMbx n x).core.fault = d.core.fault := rfl
@[simp] theorem Dev.setMbx_core_evts (d : Dev) (n : Nat) (x : Mailbox) : (d.setMbx n x).core.evts = d.core.evts := rfl
@[simp] theorem Dev.setMbx_core_gafs (d : Dev) (n : Nat) (x : Mailbox) : (d.setMbx n x).core.gafs = d.core.gafs := rfl
@[simp] theorem Dev.setMbx_core_test (d : Dev) (n : Nat) (x : Mailbox) : (d.setMbx n x).core.test = d.core.test := rfl
@[simp] theorem Dev.setMbx_core_jtag (d : Dev) (n : Nat) (x : Mailbox) : (d.setMbx n x).core.jtag = d.core.jtag := rfl
@[simp] theorem Dev.setMbx_core_flash (d : Dev) (n : Nat) (x : Mailbox) : (d.setMbx n x).core.flash = d.core.flash := rfl
@[simp] theorem Dev.setMbx_core_flashCmd (d : Dev) (n : Nat) (x : Mailbox) : (d.setMbx n x).core.flashCmd = d.core.flashCmd := rfl
@[simp] theorem Dev.setMbx_core_time (d : Dev) (n : Nat) (x : Mailbox) : (d.setMbx n x).core.time = d.core.time := rfl
@[simp] theorem Dev.setMbx_core_lanes (d : Dev) (n : Nat) (x : Mailbox) : (d.setMbx n x).core.lanes = d.core.lanes := rfl
@[simp] theorem Dev.setMbx_core_heads (d : Dev) (n : Nat) (x : Mailbox) : (d.setMbx n x).core.heads = d.core.heads := rfl
@[simp] theorem Dev.setMbx_core_allow (d : Dev) (n : Nat) (x : Mailbox) : (d.setMbx n x).core.allow = d.core.allow := rfl
@[simp] theorem Dev.setMbx_core_stageKey (d : Dev) (n : Nat) (x : Mailbox) : (d.setMbx n x).core.stageKey = d.core.stageKey := rfl
@[simp] theorem Dev.setMbx_core_recs (d : Dev) (n : Nat) (x : Mailbox) : (d.setMbx n x).core.recs = d.core.recs := rfl
@[simp] theorem Dev.setMbx_core_tctx (d : Dev) (n : Nat) (x : Mailbox) : (d.setMbx n x).core.tctx = d.core.tctx := rfl
@[simp] theorem Dev.setMbx_core_encs (d : Dev) (n : Nat) (x : Mailbox) : (d.setMbx n x).core.encs = d.core.encs := rfl
@[simp] theorem Dev.setMbx_core_decp (d : Dev) (n : Nat) (x : Mailbox) : (d.setMbx n x).core.decp = d.core.decp := rfl
@[simp] theorem Dev.setMbx_core_rcLog (d : Dev) (n : Nat) (x : Mailbox) : (d.setMbx n x).core.rcLog = d.core.rcLog := rfl
@[simp] theorem Dev.setMbx_core_rings (d : Dev) (n : Nat) (x : Mailbox) : (d.setMbx n x).core.rings = d.core.rings := rfl
@[simp] theorem Dev.setMbx_core_chans (d : Dev) (n : Nat) (x : Mailbox) : (d.setMbx n x).core.chans = d.core.chans := rfl
@[simp] theorem Dev.setMbx_core_drr (d : Dev) (n : Nat) (x : Mailbox) : (d.setMbx n x).core.drr = d.core.drr := rfl
@[simp] theorem Dev.setMbx_core_cullet (d : Dev) (n : Nat) (x : Mailbox) : (d.setMbx n x).core.cullet = d.core.cullet := rfl
@[simp] theorem Dev.setMbx_core_mags (d : Dev) (n : Nat) (x : Mailbox) : (d.setMbx n x).core.mags = d.core.mags := rfl
@[simp] theorem Dev.setMbx_core_exchange (d : Dev) (n : Nat) (x : Mailbox) : (d.setMbx n x).core.exchange = d.core.exchange := rfl
@[simp] theorem Dev.setMbx_core_decs (d : Dev) (n : Nat) (x : Mailbox) : (d.setMbx n x).core.decs = d.core.decs := rfl
@[simp] theorem Dev.setMbx_core_proxies (d : Dev) (n : Nat) (x : Mailbox) : (d.setMbx n x).core.proxies = d.core.proxies := rfl
@[simp] theorem Dev.setMbx_core_mem (d : Dev) (n : Nat) (x : Mailbox) : (d.setMbx n x).core.mem = d.core.mem := rfl
@[simp] theorem Dev.setMbx_core_nets (d : Dev) (n : Nat) (x : Mailbox) : (d.setMbx n x).core.nets = d.core.nets := rfl
@[simp] theorem Dev.setMbx_core_peers (d : Dev) (n : Nat) (x : Mailbox) : (d.setMbx n x).core.peers = d.core.peers := rfl
@[simp] theorem Dev.setMbx_core_hosted (d : Dev) (n : Nat) (x : Mailbox) : (d.setMbx n x).core.hosted = d.core.hosted := rfl
@[simp] theorem Dev.setMbx_core_served (d : Dev) (n : Nat) (x : Mailbox) : (d.setMbx n x).core.served = d.core.served := rfl
@[simp] theorem Dev.setFrec_regs (d : Dev) (n : Nat) (x : FaultRec) : (d.setFrec n x).regs = d.regs := rfl
@[simp] theorem Dev.setFrec_dram (d : Dev) (n : Nat) (x : FaultRec) : (d.setFrec n x).dram = d.dram := rfl
@[simp] theorem Dev.setFrec_hostMem (d : Dev) (n : Nat) (x : FaultRec) : (d.setFrec n x).hostMem = d.hostMem := rfl
@[simp] theorem Dev.setFrec_core_host (d : Dev) (n : Nat) (x : FaultRec) : (d.setFrec n x).core.host = d.core.host := rfl
@[simp] theorem Dev.setFrec_core_slots (d : Dev) (n : Nat) (x : FaultRec) : (d.setFrec n x).core.slots = d.core.slots := rfl
@[simp] theorem Dev.setFrec_core_take (d : Dev) (n : Nat) (x : FaultRec) : (d.setFrec n x).core.take = d.core.take := rfl
@[simp] theorem Dev.setFrec_core_armCount (d : Dev) (n : Nat) (x : FaultRec) : (d.setFrec n x).core.armCount = d.core.armCount := rfl
@[simp] theorem Dev.setFrec_core_lehr (d : Dev) (n : Nat) (x : FaultRec) : (d.setFrec n x).core.lehr = d.core.lehr := rfl
@[simp] theorem Dev.setFrec_core_boot (d : Dev) (n : Nat) (x : FaultRec) : (d.setFrec n x).core.boot = d.core.boot := rfl
@[simp] theorem Dev.setFrec_core_evts (d : Dev) (n : Nat) (x : FaultRec) : (d.setFrec n x).core.evts = d.core.evts := rfl
@[simp] theorem Dev.setFrec_core_gafs (d : Dev) (n : Nat) (x : FaultRec) : (d.setFrec n x).core.gafs = d.core.gafs := rfl
@[simp] theorem Dev.setFrec_core_test (d : Dev) (n : Nat) (x : FaultRec) : (d.setFrec n x).core.test = d.core.test := rfl
@[simp] theorem Dev.setFrec_core_jtag (d : Dev) (n : Nat) (x : FaultRec) : (d.setFrec n x).core.jtag = d.core.jtag := rfl
@[simp] theorem Dev.setFrec_core_flash (d : Dev) (n : Nat) (x : FaultRec) : (d.setFrec n x).core.flash = d.core.flash := rfl
@[simp] theorem Dev.setFrec_core_flashCmd (d : Dev) (n : Nat) (x : FaultRec) : (d.setFrec n x).core.flashCmd = d.core.flashCmd := rfl
@[simp] theorem Dev.setFrec_core_time (d : Dev) (n : Nat) (x : FaultRec) : (d.setFrec n x).core.time = d.core.time := rfl
@[simp] theorem Dev.setFrec_core_lanes (d : Dev) (n : Nat) (x : FaultRec) : (d.setFrec n x).core.lanes = d.core.lanes := rfl
@[simp] theorem Dev.setFrec_core_heads (d : Dev) (n : Nat) (x : FaultRec) : (d.setFrec n x).core.heads = d.core.heads := rfl
@[simp] theorem Dev.setFrec_core_allow (d : Dev) (n : Nat) (x : FaultRec) : (d.setFrec n x).core.allow = d.core.allow := rfl
@[simp] theorem Dev.setFrec_core_stageKey (d : Dev) (n : Nat) (x : FaultRec) : (d.setFrec n x).core.stageKey = d.core.stageKey := rfl
@[simp] theorem Dev.setFrec_core_recs (d : Dev) (n : Nat) (x : FaultRec) : (d.setFrec n x).core.recs = d.core.recs := rfl
@[simp] theorem Dev.setFrec_core_tctx (d : Dev) (n : Nat) (x : FaultRec) : (d.setFrec n x).core.tctx = d.core.tctx := rfl
@[simp] theorem Dev.setFrec_core_encs (d : Dev) (n : Nat) (x : FaultRec) : (d.setFrec n x).core.encs = d.core.encs := rfl
@[simp] theorem Dev.setFrec_core_decp (d : Dev) (n : Nat) (x : FaultRec) : (d.setFrec n x).core.decp = d.core.decp := rfl
@[simp] theorem Dev.setFrec_core_rcLog (d : Dev) (n : Nat) (x : FaultRec) : (d.setFrec n x).core.rcLog = d.core.rcLog := rfl
@[simp] theorem Dev.setFrec_core_rings (d : Dev) (n : Nat) (x : FaultRec) : (d.setFrec n x).core.rings = d.core.rings := rfl
@[simp] theorem Dev.setFrec_core_chans (d : Dev) (n : Nat) (x : FaultRec) : (d.setFrec n x).core.chans = d.core.chans := rfl
@[simp] theorem Dev.setFrec_core_drr (d : Dev) (n : Nat) (x : FaultRec) : (d.setFrec n x).core.drr = d.core.drr := rfl
@[simp] theorem Dev.setFrec_core_cullet (d : Dev) (n : Nat) (x : FaultRec) : (d.setFrec n x).core.cullet = d.core.cullet := rfl
@[simp] theorem Dev.setFrec_core_mags (d : Dev) (n : Nat) (x : FaultRec) : (d.setFrec n x).core.mags = d.core.mags := rfl
@[simp] theorem Dev.setFrec_core_exchange (d : Dev) (n : Nat) (x : FaultRec) : (d.setFrec n x).core.exchange = d.core.exchange := rfl
@[simp] theorem Dev.setFrec_core_decs (d : Dev) (n : Nat) (x : FaultRec) : (d.setFrec n x).core.decs = d.core.decs := rfl
@[simp] theorem Dev.setFrec_core_proxies (d : Dev) (n : Nat) (x : FaultRec) : (d.setFrec n x).core.proxies = d.core.proxies := rfl
@[simp] theorem Dev.setFrec_core_mem (d : Dev) (n : Nat) (x : FaultRec) : (d.setFrec n x).core.mem = d.core.mem := rfl
@[simp] theorem Dev.setFrec_core_nets (d : Dev) (n : Nat) (x : FaultRec) : (d.setFrec n x).core.nets = d.core.nets := rfl
@[simp] theorem Dev.setFrec_core_peers (d : Dev) (n : Nat) (x : FaultRec) : (d.setFrec n x).core.peers = d.core.peers := rfl
@[simp] theorem Dev.setFrec_core_hosted (d : Dev) (n : Nat) (x : FaultRec) : (d.setFrec n x).core.hosted = d.core.hosted := rfl
@[simp] theorem Dev.setFrec_core_served (d : Dev) (n : Nat) (x : FaultRec) : (d.setFrec n x).core.served = d.core.served := rfl
@[simp] theorem Dev.setCullet_regs (d : Dev) (x : Cullet) : (d.setCullet x).regs = d.regs := rfl
@[simp] theorem Dev.setCullet_dram (d : Dev) (x : Cullet) : (d.setCullet x).dram = d.dram := rfl
@[simp] theorem Dev.setCullet_hostMem (d : Dev) (x : Cullet) : (d.setCullet x).hostMem = d.hostMem := rfl
@[simp] theorem Dev.setCullet_core_host (d : Dev) (x : Cullet) : (d.setCullet x).core.host = d.core.host := rfl
@[simp] theorem Dev.setCullet_core_slots (d : Dev) (x : Cullet) : (d.setCullet x).core.slots = d.core.slots := rfl
@[simp] theorem Dev.setCullet_core_take (d : Dev) (x : Cullet) : (d.setCullet x).core.take = d.core.take := rfl
@[simp] theorem Dev.setCullet_core_armCount (d : Dev) (x : Cullet) : (d.setCullet x).core.armCount = d.core.armCount := rfl
@[simp] theorem Dev.setCullet_core_lehr (d : Dev) (x : Cullet) : (d.setCullet x).core.lehr = d.core.lehr := rfl
@[simp] theorem Dev.setCullet_core_boot (d : Dev) (x : Cullet) : (d.setCullet x).core.boot = d.core.boot := rfl
@[simp] theorem Dev.setCullet_core_fault (d : Dev) (x : Cullet) : (d.setCullet x).core.fault = d.core.fault := rfl
@[simp] theorem Dev.setCullet_core_evts (d : Dev) (x : Cullet) : (d.setCullet x).core.evts = d.core.evts := rfl
@[simp] theorem Dev.setCullet_core_gafs (d : Dev) (x : Cullet) : (d.setCullet x).core.gafs = d.core.gafs := rfl
@[simp] theorem Dev.setCullet_core_test (d : Dev) (x : Cullet) : (d.setCullet x).core.test = d.core.test := rfl
@[simp] theorem Dev.setCullet_core_jtag (d : Dev) (x : Cullet) : (d.setCullet x).core.jtag = d.core.jtag := rfl
@[simp] theorem Dev.setCullet_core_flash (d : Dev) (x : Cullet) : (d.setCullet x).core.flash = d.core.flash := rfl
@[simp] theorem Dev.setCullet_core_flashCmd (d : Dev) (x : Cullet) : (d.setCullet x).core.flashCmd = d.core.flashCmd := rfl
@[simp] theorem Dev.setCullet_core_time (d : Dev) (x : Cullet) : (d.setCullet x).core.time = d.core.time := rfl
@[simp] theorem Dev.setCullet_core_lanes (d : Dev) (x : Cullet) : (d.setCullet x).core.lanes = d.core.lanes := rfl
@[simp] theorem Dev.setCullet_core_heads (d : Dev) (x : Cullet) : (d.setCullet x).core.heads = d.core.heads := rfl
@[simp] theorem Dev.setCullet_core_allow (d : Dev) (x : Cullet) : (d.setCullet x).core.allow = d.core.allow := rfl
@[simp] theorem Dev.setCullet_core_stageKey (d : Dev) (x : Cullet) : (d.setCullet x).core.stageKey = d.core.stageKey := rfl
@[simp] theorem Dev.setCullet_core_recs (d : Dev) (x : Cullet) : (d.setCullet x).core.recs = d.core.recs := rfl
@[simp] theorem Dev.setCullet_core_tctx (d : Dev) (x : Cullet) : (d.setCullet x).core.tctx = d.core.tctx := rfl
@[simp] theorem Dev.setCullet_core_encs (d : Dev) (x : Cullet) : (d.setCullet x).core.encs = d.core.encs := rfl
@[simp] theorem Dev.setCullet_core_decp (d : Dev) (x : Cullet) : (d.setCullet x).core.decp = d.core.decp := rfl
@[simp] theorem Dev.setCullet_core_rcLog (d : Dev) (x : Cullet) : (d.setCullet x).core.rcLog = d.core.rcLog := rfl
@[simp] theorem Dev.setCullet_core_rings (d : Dev) (x : Cullet) : (d.setCullet x).core.rings = d.core.rings := rfl
@[simp] theorem Dev.setCullet_core_chans (d : Dev) (x : Cullet) : (d.setCullet x).core.chans = d.core.chans := rfl
@[simp] theorem Dev.setCullet_core_drr (d : Dev) (x : Cullet) : (d.setCullet x).core.drr = d.core.drr := rfl
@[simp] theorem Dev.setCullet_core_mags (d : Dev) (x : Cullet) : (d.setCullet x).core.mags = d.core.mags := rfl
@[simp] theorem Dev.setCullet_core_exchange (d : Dev) (x : Cullet) : (d.setCullet x).core.exchange = d.core.exchange := rfl
@[simp] theorem Dev.setCullet_core_decs (d : Dev) (x : Cullet) : (d.setCullet x).core.decs = d.core.decs := rfl
@[simp] theorem Dev.setCullet_core_proxies (d : Dev) (x : Cullet) : (d.setCullet x).core.proxies = d.core.proxies := rfl
@[simp] theorem Dev.setCullet_core_mem (d : Dev) (x : Cullet) : (d.setCullet x).core.mem = d.core.mem := rfl
@[simp] theorem Dev.setCullet_core_nets (d : Dev) (x : Cullet) : (d.setCullet x).core.nets = d.core.nets := rfl
@[simp] theorem Dev.setCullet_core_peers (d : Dev) (x : Cullet) : (d.setCullet x).core.peers = d.core.peers := rfl
@[simp] theorem Dev.setCullet_core_hosted (d : Dev) (x : Cullet) : (d.setCullet x).core.hosted = d.core.hosted := rfl
@[simp] theorem Dev.setCullet_core_served (d : Dev) (x : Cullet) : (d.setCullet x).core.served = d.core.served := rfl
@[simp] theorem Dev.modMem_regs (d : Dev) (f : MemSt → MemSt) : (d.modMem f).regs = d.regs := rfl
@[simp] theorem Dev.modMem_dram (d : Dev) (f : MemSt → MemSt) : (d.modMem f).dram = d.dram := rfl
@[simp] theorem Dev.modMem_hostMem (d : Dev) (f : MemSt → MemSt) : (d.modMem f).hostMem = d.hostMem := rfl
@[simp] theorem Dev.modMem_core_host (d : Dev) (f : MemSt → MemSt) : (d.modMem f).core.host = d.core.host := rfl
@[simp] theorem Dev.modMem_core_slots (d : Dev) (f : MemSt → MemSt) : (d.modMem f).core.slots = d.core.slots := rfl
@[simp] theorem Dev.modMem_core_take (d : Dev) (f : MemSt → MemSt) : (d.modMem f).core.take = d.core.take := rfl
@[simp] theorem Dev.modMem_core_armCount (d : Dev) (f : MemSt → MemSt) : (d.modMem f).core.armCount = d.core.armCount := rfl
@[simp] theorem Dev.modMem_core_lehr (d : Dev) (f : MemSt → MemSt) : (d.modMem f).core.lehr = d.core.lehr := rfl
@[simp] theorem Dev.modMem_core_boot (d : Dev) (f : MemSt → MemSt) : (d.modMem f).core.boot = d.core.boot := rfl
@[simp] theorem Dev.modMem_core_fault (d : Dev) (f : MemSt → MemSt) : (d.modMem f).core.fault = d.core.fault := rfl
@[simp] theorem Dev.modMem_core_evts (d : Dev) (f : MemSt → MemSt) : (d.modMem f).core.evts = d.core.evts := rfl
@[simp] theorem Dev.modMem_core_gafs (d : Dev) (f : MemSt → MemSt) : (d.modMem f).core.gafs = d.core.gafs := rfl
@[simp] theorem Dev.modMem_core_test (d : Dev) (f : MemSt → MemSt) : (d.modMem f).core.test = d.core.test := rfl
@[simp] theorem Dev.modMem_core_jtag (d : Dev) (f : MemSt → MemSt) : (d.modMem f).core.jtag = d.core.jtag := rfl
@[simp] theorem Dev.modMem_core_flash (d : Dev) (f : MemSt → MemSt) : (d.modMem f).core.flash = d.core.flash := rfl
@[simp] theorem Dev.modMem_core_flashCmd (d : Dev) (f : MemSt → MemSt) : (d.modMem f).core.flashCmd = d.core.flashCmd := rfl
@[simp] theorem Dev.modMem_core_time (d : Dev) (f : MemSt → MemSt) : (d.modMem f).core.time = d.core.time := rfl
@[simp] theorem Dev.modMem_core_lanes (d : Dev) (f : MemSt → MemSt) : (d.modMem f).core.lanes = d.core.lanes := rfl
@[simp] theorem Dev.modMem_core_heads (d : Dev) (f : MemSt → MemSt) : (d.modMem f).core.heads = d.core.heads := rfl
@[simp] theorem Dev.modMem_core_allow (d : Dev) (f : MemSt → MemSt) : (d.modMem f).core.allow = d.core.allow := rfl
@[simp] theorem Dev.modMem_core_stageKey (d : Dev) (f : MemSt → MemSt) : (d.modMem f).core.stageKey = d.core.stageKey := rfl
@[simp] theorem Dev.modMem_core_recs (d : Dev) (f : MemSt → MemSt) : (d.modMem f).core.recs = d.core.recs := rfl
@[simp] theorem Dev.modMem_core_tctx (d : Dev) (f : MemSt → MemSt) : (d.modMem f).core.tctx = d.core.tctx := rfl
@[simp] theorem Dev.modMem_core_encs (d : Dev) (f : MemSt → MemSt) : (d.modMem f).core.encs = d.core.encs := rfl
@[simp] theorem Dev.modMem_core_decp (d : Dev) (f : MemSt → MemSt) : (d.modMem f).core.decp = d.core.decp := rfl
@[simp] theorem Dev.modMem_core_rcLog (d : Dev) (f : MemSt → MemSt) : (d.modMem f).core.rcLog = d.core.rcLog := rfl
@[simp] theorem Dev.modMem_core_rings (d : Dev) (f : MemSt → MemSt) : (d.modMem f).core.rings = d.core.rings := rfl
@[simp] theorem Dev.modMem_core_chans (d : Dev) (f : MemSt → MemSt) : (d.modMem f).core.chans = d.core.chans := rfl
@[simp] theorem Dev.modMem_core_drr (d : Dev) (f : MemSt → MemSt) : (d.modMem f).core.drr = d.core.drr := rfl
@[simp] theorem Dev.modMem_core_cullet (d : Dev) (f : MemSt → MemSt) : (d.modMem f).core.cullet = d.core.cullet := rfl
@[simp] theorem Dev.modMem_core_mags (d : Dev) (f : MemSt → MemSt) : (d.modMem f).core.mags = d.core.mags := rfl
@[simp] theorem Dev.modMem_core_exchange (d : Dev) (f : MemSt → MemSt) : (d.modMem f).core.exchange = d.core.exchange := rfl
@[simp] theorem Dev.modMem_core_decs (d : Dev) (f : MemSt → MemSt) : (d.modMem f).core.decs = d.core.decs := rfl
@[simp] theorem Dev.modMem_core_proxies (d : Dev) (f : MemSt → MemSt) : (d.modMem f).core.proxies = d.core.proxies := rfl
@[simp] theorem Dev.modMem_core_nets (d : Dev) (f : MemSt → MemSt) : (d.modMem f).core.nets = d.core.nets := rfl
@[simp] theorem Dev.modMem_core_peers (d : Dev) (f : MemSt → MemSt) : (d.modMem f).core.peers = d.core.peers := rfl
@[simp] theorem Dev.modMem_core_hosted (d : Dev) (f : MemSt → MemSt) : (d.modMem f).core.hosted = d.core.hosted := rfl
@[simp] theorem Dev.modMem_core_served (d : Dev) (f : MemSt → MemSt) : (d.modMem f).core.served = d.core.served := rfl
@[simp] theorem Dev.modHost_regs (d : Dev) (f : HostPort → HostPort) : (d.modHost f).regs = d.regs := rfl
@[simp] theorem Dev.modHost_dram (d : Dev) (f : HostPort → HostPort) : (d.modHost f).dram = d.dram := rfl
@[simp] theorem Dev.modHost_hostMem (d : Dev) (f : HostPort → HostPort) : (d.modHost f).hostMem = d.hostMem := rfl
@[simp] theorem Dev.modHost_core_slots (d : Dev) (f : HostPort → HostPort) : (d.modHost f).core.slots = d.core.slots := rfl
@[simp] theorem Dev.modHost_core_take (d : Dev) (f : HostPort → HostPort) : (d.modHost f).core.take = d.core.take := rfl
@[simp] theorem Dev.modHost_core_armCount (d : Dev) (f : HostPort → HostPort) : (d.modHost f).core.armCount = d.core.armCount := rfl
@[simp] theorem Dev.modHost_core_lehr (d : Dev) (f : HostPort → HostPort) : (d.modHost f).core.lehr = d.core.lehr := rfl
@[simp] theorem Dev.modHost_core_boot (d : Dev) (f : HostPort → HostPort) : (d.modHost f).core.boot = d.core.boot := rfl
@[simp] theorem Dev.modHost_core_fault (d : Dev) (f : HostPort → HostPort) : (d.modHost f).core.fault = d.core.fault := rfl
@[simp] theorem Dev.modHost_core_evts (d : Dev) (f : HostPort → HostPort) : (d.modHost f).core.evts = d.core.evts := rfl
@[simp] theorem Dev.modHost_core_gafs (d : Dev) (f : HostPort → HostPort) : (d.modHost f).core.gafs = d.core.gafs := rfl
@[simp] theorem Dev.modHost_core_test (d : Dev) (f : HostPort → HostPort) : (d.modHost f).core.test = d.core.test := rfl
@[simp] theorem Dev.modHost_core_jtag (d : Dev) (f : HostPort → HostPort) : (d.modHost f).core.jtag = d.core.jtag := rfl
@[simp] theorem Dev.modHost_core_flash (d : Dev) (f : HostPort → HostPort) : (d.modHost f).core.flash = d.core.flash := rfl
@[simp] theorem Dev.modHost_core_flashCmd (d : Dev) (f : HostPort → HostPort) : (d.modHost f).core.flashCmd = d.core.flashCmd := rfl
@[simp] theorem Dev.modHost_core_time (d : Dev) (f : HostPort → HostPort) : (d.modHost f).core.time = d.core.time := rfl
@[simp] theorem Dev.modHost_core_lanes (d : Dev) (f : HostPort → HostPort) : (d.modHost f).core.lanes = d.core.lanes := rfl
@[simp] theorem Dev.modHost_core_heads (d : Dev) (f : HostPort → HostPort) : (d.modHost f).core.heads = d.core.heads := rfl
@[simp] theorem Dev.modHost_core_allow (d : Dev) (f : HostPort → HostPort) : (d.modHost f).core.allow = d.core.allow := rfl
@[simp] theorem Dev.modHost_core_stageKey (d : Dev) (f : HostPort → HostPort) : (d.modHost f).core.stageKey = d.core.stageKey := rfl
@[simp] theorem Dev.modHost_core_recs (d : Dev) (f : HostPort → HostPort) : (d.modHost f).core.recs = d.core.recs := rfl
@[simp] theorem Dev.modHost_core_tctx (d : Dev) (f : HostPort → HostPort) : (d.modHost f).core.tctx = d.core.tctx := rfl
@[simp] theorem Dev.modHost_core_encs (d : Dev) (f : HostPort → HostPort) : (d.modHost f).core.encs = d.core.encs := rfl
@[simp] theorem Dev.modHost_core_decp (d : Dev) (f : HostPort → HostPort) : (d.modHost f).core.decp = d.core.decp := rfl
@[simp] theorem Dev.modHost_core_rcLog (d : Dev) (f : HostPort → HostPort) : (d.modHost f).core.rcLog = d.core.rcLog := rfl
@[simp] theorem Dev.modHost_core_rings (d : Dev) (f : HostPort → HostPort) : (d.modHost f).core.rings = d.core.rings := rfl
@[simp] theorem Dev.modHost_core_chans (d : Dev) (f : HostPort → HostPort) : (d.modHost f).core.chans = d.core.chans := rfl
@[simp] theorem Dev.modHost_core_drr (d : Dev) (f : HostPort → HostPort) : (d.modHost f).core.drr = d.core.drr := rfl
@[simp] theorem Dev.modHost_core_cullet (d : Dev) (f : HostPort → HostPort) : (d.modHost f).core.cullet = d.core.cullet := rfl
@[simp] theorem Dev.modHost_core_mags (d : Dev) (f : HostPort → HostPort) : (d.modHost f).core.mags = d.core.mags := rfl
@[simp] theorem Dev.modHost_core_exchange (d : Dev) (f : HostPort → HostPort) : (d.modHost f).core.exchange = d.core.exchange := rfl
@[simp] theorem Dev.modHost_core_decs (d : Dev) (f : HostPort → HostPort) : (d.modHost f).core.decs = d.core.decs := rfl
@[simp] theorem Dev.modHost_core_proxies (d : Dev) (f : HostPort → HostPort) : (d.modHost f).core.proxies = d.core.proxies := rfl
@[simp] theorem Dev.modHost_core_mem (d : Dev) (f : HostPort → HostPort) : (d.modHost f).core.mem = d.core.mem := rfl
@[simp] theorem Dev.modHost_core_nets (d : Dev) (f : HostPort → HostPort) : (d.modHost f).core.nets = d.core.nets := rfl
@[simp] theorem Dev.modHost_core_peers (d : Dev) (f : HostPort → HostPort) : (d.modHost f).core.peers = d.core.peers := rfl
@[simp] theorem Dev.modHost_core_hosted (d : Dev) (f : HostPort → HostPort) : (d.modHost f).core.hosted = d.core.hosted := rfl
@[simp] theorem Dev.modHost_core_served (d : Dev) (f : HostPort → HostPort) : (d.modHost f).core.served = d.core.served := rfl
@[simp] theorem Dev.modLehr_regs (d : Dev) (f : Lehr → Lehr) : (d.modLehr f).regs = d.regs := rfl
@[simp] theorem Dev.modLehr_dram (d : Dev) (f : Lehr → Lehr) : (d.modLehr f).dram = d.dram := rfl
@[simp] theorem Dev.modLehr_hostMem (d : Dev) (f : Lehr → Lehr) : (d.modLehr f).hostMem = d.hostMem := rfl
@[simp] theorem Dev.modLehr_core_host (d : Dev) (f : Lehr → Lehr) : (d.modLehr f).core.host = d.core.host := rfl
@[simp] theorem Dev.modLehr_core_slots (d : Dev) (f : Lehr → Lehr) : (d.modLehr f).core.slots = d.core.slots := rfl
@[simp] theorem Dev.modLehr_core_take (d : Dev) (f : Lehr → Lehr) : (d.modLehr f).core.take = d.core.take := rfl
@[simp] theorem Dev.modLehr_core_armCount (d : Dev) (f : Lehr → Lehr) : (d.modLehr f).core.armCount = d.core.armCount := rfl
@[simp] theorem Dev.modLehr_core_boot (d : Dev) (f : Lehr → Lehr) : (d.modLehr f).core.boot = d.core.boot := rfl
@[simp] theorem Dev.modLehr_core_fault (d : Dev) (f : Lehr → Lehr) : (d.modLehr f).core.fault = d.core.fault := rfl
@[simp] theorem Dev.modLehr_core_evts (d : Dev) (f : Lehr → Lehr) : (d.modLehr f).core.evts = d.core.evts := rfl
@[simp] theorem Dev.modLehr_core_gafs (d : Dev) (f : Lehr → Lehr) : (d.modLehr f).core.gafs = d.core.gafs := rfl
@[simp] theorem Dev.modLehr_core_test (d : Dev) (f : Lehr → Lehr) : (d.modLehr f).core.test = d.core.test := rfl
@[simp] theorem Dev.modLehr_core_jtag (d : Dev) (f : Lehr → Lehr) : (d.modLehr f).core.jtag = d.core.jtag := rfl
@[simp] theorem Dev.modLehr_core_flash (d : Dev) (f : Lehr → Lehr) : (d.modLehr f).core.flash = d.core.flash := rfl
@[simp] theorem Dev.modLehr_core_flashCmd (d : Dev) (f : Lehr → Lehr) : (d.modLehr f).core.flashCmd = d.core.flashCmd := rfl
@[simp] theorem Dev.modLehr_core_time (d : Dev) (f : Lehr → Lehr) : (d.modLehr f).core.time = d.core.time := rfl
@[simp] theorem Dev.modLehr_core_lanes (d : Dev) (f : Lehr → Lehr) : (d.modLehr f).core.lanes = d.core.lanes := rfl
@[simp] theorem Dev.modLehr_core_heads (d : Dev) (f : Lehr → Lehr) : (d.modLehr f).core.heads = d.core.heads := rfl
@[simp] theorem Dev.modLehr_core_allow (d : Dev) (f : Lehr → Lehr) : (d.modLehr f).core.allow = d.core.allow := rfl
@[simp] theorem Dev.modLehr_core_stageKey (d : Dev) (f : Lehr → Lehr) : (d.modLehr f).core.stageKey = d.core.stageKey := rfl
@[simp] theorem Dev.modLehr_core_recs (d : Dev) (f : Lehr → Lehr) : (d.modLehr f).core.recs = d.core.recs := rfl
@[simp] theorem Dev.modLehr_core_tctx (d : Dev) (f : Lehr → Lehr) : (d.modLehr f).core.tctx = d.core.tctx := rfl
@[simp] theorem Dev.modLehr_core_encs (d : Dev) (f : Lehr → Lehr) : (d.modLehr f).core.encs = d.core.encs := rfl
@[simp] theorem Dev.modLehr_core_decp (d : Dev) (f : Lehr → Lehr) : (d.modLehr f).core.decp = d.core.decp := rfl
@[simp] theorem Dev.modLehr_core_rcLog (d : Dev) (f : Lehr → Lehr) : (d.modLehr f).core.rcLog = d.core.rcLog := rfl
@[simp] theorem Dev.modLehr_core_rings (d : Dev) (f : Lehr → Lehr) : (d.modLehr f).core.rings = d.core.rings := rfl
@[simp] theorem Dev.modLehr_core_chans (d : Dev) (f : Lehr → Lehr) : (d.modLehr f).core.chans = d.core.chans := rfl
@[simp] theorem Dev.modLehr_core_drr (d : Dev) (f : Lehr → Lehr) : (d.modLehr f).core.drr = d.core.drr := rfl
@[simp] theorem Dev.modLehr_core_cullet (d : Dev) (f : Lehr → Lehr) : (d.modLehr f).core.cullet = d.core.cullet := rfl
@[simp] theorem Dev.modLehr_core_mags (d : Dev) (f : Lehr → Lehr) : (d.modLehr f).core.mags = d.core.mags := rfl
@[simp] theorem Dev.modLehr_core_exchange (d : Dev) (f : Lehr → Lehr) : (d.modLehr f).core.exchange = d.core.exchange := rfl
@[simp] theorem Dev.modLehr_core_decs (d : Dev) (f : Lehr → Lehr) : (d.modLehr f).core.decs = d.core.decs := rfl
@[simp] theorem Dev.modLehr_core_proxies (d : Dev) (f : Lehr → Lehr) : (d.modLehr f).core.proxies = d.core.proxies := rfl
@[simp] theorem Dev.modLehr_core_mem (d : Dev) (f : Lehr → Lehr) : (d.modLehr f).core.mem = d.core.mem := rfl
@[simp] theorem Dev.modLehr_core_nets (d : Dev) (f : Lehr → Lehr) : (d.modLehr f).core.nets = d.core.nets := rfl
@[simp] theorem Dev.modLehr_core_peers (d : Dev) (f : Lehr → Lehr) : (d.modLehr f).core.peers = d.core.peers := rfl
@[simp] theorem Dev.modLehr_core_hosted (d : Dev) (f : Lehr → Lehr) : (d.modLehr f).core.hosted = d.core.hosted := rfl
@[simp] theorem Dev.modLehr_core_served (d : Dev) (f : Lehr → Lehr) : (d.modLehr f).core.served = d.core.served := rfl
@[simp] theorem Dev.modFault_regs (d : Dev) (f : FaultSt → FaultSt) : (d.modFault f).regs = d.regs := rfl
@[simp] theorem Dev.modFault_dram (d : Dev) (f : FaultSt → FaultSt) : (d.modFault f).dram = d.dram := rfl
@[simp] theorem Dev.modFault_hostMem (d : Dev) (f : FaultSt → FaultSt) : (d.modFault f).hostMem = d.hostMem := rfl
@[simp] theorem Dev.modFault_core_host (d : Dev) (f : FaultSt → FaultSt) : (d.modFault f).core.host = d.core.host := rfl
@[simp] theorem Dev.modFault_core_slots (d : Dev) (f : FaultSt → FaultSt) : (d.modFault f).core.slots = d.core.slots := rfl
@[simp] theorem Dev.modFault_core_take (d : Dev) (f : FaultSt → FaultSt) : (d.modFault f).core.take = d.core.take := rfl
@[simp] theorem Dev.modFault_core_armCount (d : Dev) (f : FaultSt → FaultSt) : (d.modFault f).core.armCount = d.core.armCount := rfl
@[simp] theorem Dev.modFault_core_lehr (d : Dev) (f : FaultSt → FaultSt) : (d.modFault f).core.lehr = d.core.lehr := rfl
@[simp] theorem Dev.modFault_core_boot (d : Dev) (f : FaultSt → FaultSt) : (d.modFault f).core.boot = d.core.boot := rfl
@[simp] theorem Dev.modFault_core_evts (d : Dev) (f : FaultSt → FaultSt) : (d.modFault f).core.evts = d.core.evts := rfl
@[simp] theorem Dev.modFault_core_gafs (d : Dev) (f : FaultSt → FaultSt) : (d.modFault f).core.gafs = d.core.gafs := rfl
@[simp] theorem Dev.modFault_core_test (d : Dev) (f : FaultSt → FaultSt) : (d.modFault f).core.test = d.core.test := rfl
@[simp] theorem Dev.modFault_core_jtag (d : Dev) (f : FaultSt → FaultSt) : (d.modFault f).core.jtag = d.core.jtag := rfl
@[simp] theorem Dev.modFault_core_flash (d : Dev) (f : FaultSt → FaultSt) : (d.modFault f).core.flash = d.core.flash := rfl
@[simp] theorem Dev.modFault_core_flashCmd (d : Dev) (f : FaultSt → FaultSt) : (d.modFault f).core.flashCmd = d.core.flashCmd := rfl
@[simp] theorem Dev.modFault_core_time (d : Dev) (f : FaultSt → FaultSt) : (d.modFault f).core.time = d.core.time := rfl
@[simp] theorem Dev.modFault_core_lanes (d : Dev) (f : FaultSt → FaultSt) : (d.modFault f).core.lanes = d.core.lanes := rfl
@[simp] theorem Dev.modFault_core_heads (d : Dev) (f : FaultSt → FaultSt) : (d.modFault f).core.heads = d.core.heads := rfl
@[simp] theorem Dev.modFault_core_allow (d : Dev) (f : FaultSt → FaultSt) : (d.modFault f).core.allow = d.core.allow := rfl
@[simp] theorem Dev.modFault_core_stageKey (d : Dev) (f : FaultSt → FaultSt) : (d.modFault f).core.stageKey = d.core.stageKey := rfl
@[simp] theorem Dev.modFault_core_recs (d : Dev) (f : FaultSt → FaultSt) : (d.modFault f).core.recs = d.core.recs := rfl
@[simp] theorem Dev.modFault_core_tctx (d : Dev) (f : FaultSt → FaultSt) : (d.modFault f).core.tctx = d.core.tctx := rfl
@[simp] theorem Dev.modFault_core_encs (d : Dev) (f : FaultSt → FaultSt) : (d.modFault f).core.encs = d.core.encs := rfl
@[simp] theorem Dev.modFault_core_decp (d : Dev) (f : FaultSt → FaultSt) : (d.modFault f).core.decp = d.core.decp := rfl
@[simp] theorem Dev.modFault_core_rcLog (d : Dev) (f : FaultSt → FaultSt) : (d.modFault f).core.rcLog = d.core.rcLog := rfl
@[simp] theorem Dev.modFault_core_rings (d : Dev) (f : FaultSt → FaultSt) : (d.modFault f).core.rings = d.core.rings := rfl
@[simp] theorem Dev.modFault_core_chans (d : Dev) (f : FaultSt → FaultSt) : (d.modFault f).core.chans = d.core.chans := rfl
@[simp] theorem Dev.modFault_core_drr (d : Dev) (f : FaultSt → FaultSt) : (d.modFault f).core.drr = d.core.drr := rfl
@[simp] theorem Dev.modFault_core_cullet (d : Dev) (f : FaultSt → FaultSt) : (d.modFault f).core.cullet = d.core.cullet := rfl
@[simp] theorem Dev.modFault_core_mags (d : Dev) (f : FaultSt → FaultSt) : (d.modFault f).core.mags = d.core.mags := rfl
@[simp] theorem Dev.modFault_core_exchange (d : Dev) (f : FaultSt → FaultSt) : (d.modFault f).core.exchange = d.core.exchange := rfl
@[simp] theorem Dev.modFault_core_decs (d : Dev) (f : FaultSt → FaultSt) : (d.modFault f).core.decs = d.core.decs := rfl
@[simp] theorem Dev.modFault_core_proxies (d : Dev) (f : FaultSt → FaultSt) : (d.modFault f).core.proxies = d.core.proxies := rfl
@[simp] theorem Dev.modFault_core_mem (d : Dev) (f : FaultSt → FaultSt) : (d.modFault f).core.mem = d.core.mem := rfl
@[simp] theorem Dev.modFault_core_nets (d : Dev) (f : FaultSt → FaultSt) : (d.modFault f).core.nets = d.core.nets := rfl
@[simp] theorem Dev.modFault_core_peers (d : Dev) (f : FaultSt → FaultSt) : (d.modFault f).core.peers = d.core.peers := rfl
@[simp] theorem Dev.modFault_core_hosted (d : Dev) (f : FaultSt → FaultSt) : (d.modFault f).core.hosted = d.core.hosted := rfl
@[simp] theorem Dev.modFault_core_served (d : Dev) (f : FaultSt → FaultSt) : (d.modFault f).core.served = d.core.served := rfl
@[simp] theorem Dev.modTime_regs (d : Dev) (f : TimeSt → TimeSt) : (d.modTime f).regs = d.regs := rfl
@[simp] theorem Dev.modTime_dram (d : Dev) (f : TimeSt → TimeSt) : (d.modTime f).dram = d.dram := rfl
@[simp] theorem Dev.modTime_hostMem (d : Dev) (f : TimeSt → TimeSt) : (d.modTime f).hostMem = d.hostMem := rfl
@[simp] theorem Dev.modTime_core_host (d : Dev) (f : TimeSt → TimeSt) : (d.modTime f).core.host = d.core.host := rfl
@[simp] theorem Dev.modTime_core_slots (d : Dev) (f : TimeSt → TimeSt) : (d.modTime f).core.slots = d.core.slots := rfl
@[simp] theorem Dev.modTime_core_take (d : Dev) (f : TimeSt → TimeSt) : (d.modTime f).core.take = d.core.take := rfl
@[simp] theorem Dev.modTime_core_armCount (d : Dev) (f : TimeSt → TimeSt) : (d.modTime f).core.armCount = d.core.armCount := rfl
@[simp] theorem Dev.modTime_core_lehr (d : Dev) (f : TimeSt → TimeSt) : (d.modTime f).core.lehr = d.core.lehr := rfl
@[simp] theorem Dev.modTime_core_boot (d : Dev) (f : TimeSt → TimeSt) : (d.modTime f).core.boot = d.core.boot := rfl
@[simp] theorem Dev.modTime_core_fault (d : Dev) (f : TimeSt → TimeSt) : (d.modTime f).core.fault = d.core.fault := rfl
@[simp] theorem Dev.modTime_core_evts (d : Dev) (f : TimeSt → TimeSt) : (d.modTime f).core.evts = d.core.evts := rfl
@[simp] theorem Dev.modTime_core_gafs (d : Dev) (f : TimeSt → TimeSt) : (d.modTime f).core.gafs = d.core.gafs := rfl
@[simp] theorem Dev.modTime_core_test (d : Dev) (f : TimeSt → TimeSt) : (d.modTime f).core.test = d.core.test := rfl
@[simp] theorem Dev.modTime_core_jtag (d : Dev) (f : TimeSt → TimeSt) : (d.modTime f).core.jtag = d.core.jtag := rfl
@[simp] theorem Dev.modTime_core_flash (d : Dev) (f : TimeSt → TimeSt) : (d.modTime f).core.flash = d.core.flash := rfl
@[simp] theorem Dev.modTime_core_flashCmd (d : Dev) (f : TimeSt → TimeSt) : (d.modTime f).core.flashCmd = d.core.flashCmd := rfl
@[simp] theorem Dev.modTime_core_lanes (d : Dev) (f : TimeSt → TimeSt) : (d.modTime f).core.lanes = d.core.lanes := rfl
@[simp] theorem Dev.modTime_core_heads (d : Dev) (f : TimeSt → TimeSt) : (d.modTime f).core.heads = d.core.heads := rfl
@[simp] theorem Dev.modTime_core_allow (d : Dev) (f : TimeSt → TimeSt) : (d.modTime f).core.allow = d.core.allow := rfl
@[simp] theorem Dev.modTime_core_stageKey (d : Dev) (f : TimeSt → TimeSt) : (d.modTime f).core.stageKey = d.core.stageKey := rfl
@[simp] theorem Dev.modTime_core_recs (d : Dev) (f : TimeSt → TimeSt) : (d.modTime f).core.recs = d.core.recs := rfl
@[simp] theorem Dev.modTime_core_tctx (d : Dev) (f : TimeSt → TimeSt) : (d.modTime f).core.tctx = d.core.tctx := rfl
@[simp] theorem Dev.modTime_core_encs (d : Dev) (f : TimeSt → TimeSt) : (d.modTime f).core.encs = d.core.encs := rfl
@[simp] theorem Dev.modTime_core_decp (d : Dev) (f : TimeSt → TimeSt) : (d.modTime f).core.decp = d.core.decp := rfl
@[simp] theorem Dev.modTime_core_rcLog (d : Dev) (f : TimeSt → TimeSt) : (d.modTime f).core.rcLog = d.core.rcLog := rfl
@[simp] theorem Dev.modTime_core_rings (d : Dev) (f : TimeSt → TimeSt) : (d.modTime f).core.rings = d.core.rings := rfl
@[simp] theorem Dev.modTime_core_chans (d : Dev) (f : TimeSt → TimeSt) : (d.modTime f).core.chans = d.core.chans := rfl
@[simp] theorem Dev.modTime_core_drr (d : Dev) (f : TimeSt → TimeSt) : (d.modTime f).core.drr = d.core.drr := rfl
@[simp] theorem Dev.modTime_core_cullet (d : Dev) (f : TimeSt → TimeSt) : (d.modTime f).core.cullet = d.core.cullet := rfl
@[simp] theorem Dev.modTime_core_mags (d : Dev) (f : TimeSt → TimeSt) : (d.modTime f).core.mags = d.core.mags := rfl
@[simp] theorem Dev.modTime_core_exchange (d : Dev) (f : TimeSt → TimeSt) : (d.modTime f).core.exchange = d.core.exchange := rfl
@[simp] theorem Dev.modTime_core_decs (d : Dev) (f : TimeSt → TimeSt) : (d.modTime f).core.decs = d.core.decs := rfl
@[simp] theorem Dev.modTime_core_proxies (d : Dev) (f : TimeSt → TimeSt) : (d.modTime f).core.proxies = d.core.proxies := rfl
@[simp] theorem Dev.modTime_core_mem (d : Dev) (f : TimeSt → TimeSt) : (d.modTime f).core.mem = d.core.mem := rfl
@[simp] theorem Dev.modTime_core_nets (d : Dev) (f : TimeSt → TimeSt) : (d.modTime f).core.nets = d.core.nets := rfl
@[simp] theorem Dev.modTime_core_peers (d : Dev) (f : TimeSt → TimeSt) : (d.modTime f).core.peers = d.core.peers := rfl
@[simp] theorem Dev.modTime_core_hosted (d : Dev) (f : TimeSt → TimeSt) : (d.modTime f).core.hosted = d.core.hosted := rfl
@[simp] theorem Dev.modTime_core_served (d : Dev) (f : TimeSt → TimeSt) : (d.modTime f).core.served = d.core.served := rfl
@[simp] theorem Dev.raise_regs (d : Dev) (src mst acc : Nat) (de ad : Option Nat) : (d.raise src mst acc de ad).regs = d.regs := rfl
@[simp] theorem Dev.raise_dram (d : Dev) (src mst acc : Nat) (de ad : Option Nat) : (d.raise src mst acc de ad).dram = d.dram := rfl
@[simp] theorem Dev.raise_hostMem (d : Dev) (src mst acc : Nat) (de ad : Option Nat) : (d.raise src mst acc de ad).hostMem = d.hostMem := rfl
@[simp] theorem Dev.raise_core_host (d : Dev) (src mst acc : Nat) (de ad : Option Nat) : (d.raise src mst acc de ad).core.host = d.core.host := rfl
@[simp] theorem Dev.raise_core_slots (d : Dev) (src mst acc : Nat) (de ad : Option Nat) : (d.raise src mst acc de ad).core.slots = d.core.slots := rfl
@[simp] theorem Dev.raise_core_take (d : Dev) (src mst acc : Nat) (de ad : Option Nat) : (d.raise src mst acc de ad).core.take = d.core.take := rfl
@[simp] theorem Dev.raise_core_armCount (d : Dev) (src mst acc : Nat) (de ad : Option Nat) : (d.raise src mst acc de ad).core.armCount = d.core.armCount := rfl
@[simp] theorem Dev.raise_core_lehr (d : Dev) (src mst acc : Nat) (de ad : Option Nat) : (d.raise src mst acc de ad).core.lehr = d.core.lehr := rfl
@[simp] theorem Dev.raise_core_boot (d : Dev) (src mst acc : Nat) (de ad : Option Nat) : (d.raise src mst acc de ad).core.boot = d.core.boot := rfl
@[simp] theorem Dev.raise_core_evts (d : Dev) (src mst acc : Nat) (de ad : Option Nat) : (d.raise src mst acc de ad).core.evts = d.core.evts := rfl
@[simp] theorem Dev.raise_core_gafs (d : Dev) (src mst acc : Nat) (de ad : Option Nat) : (d.raise src mst acc de ad).core.gafs = d.core.gafs := rfl
@[simp] theorem Dev.raise_core_test (d : Dev) (src mst acc : Nat) (de ad : Option Nat) : (d.raise src mst acc de ad).core.test = d.core.test := rfl
@[simp] theorem Dev.raise_core_jtag (d : Dev) (src mst acc : Nat) (de ad : Option Nat) : (d.raise src mst acc de ad).core.jtag = d.core.jtag := rfl
@[simp] theorem Dev.raise_core_flash (d : Dev) (src mst acc : Nat) (de ad : Option Nat) : (d.raise src mst acc de ad).core.flash = d.core.flash := rfl
@[simp] theorem Dev.raise_core_flashCmd (d : Dev) (src mst acc : Nat) (de ad : Option Nat) : (d.raise src mst acc de ad).core.flashCmd = d.core.flashCmd := rfl
@[simp] theorem Dev.raise_core_time (d : Dev) (src mst acc : Nat) (de ad : Option Nat) : (d.raise src mst acc de ad).core.time = d.core.time := rfl
@[simp] theorem Dev.raise_core_lanes (d : Dev) (src mst acc : Nat) (de ad : Option Nat) : (d.raise src mst acc de ad).core.lanes = d.core.lanes := rfl
@[simp] theorem Dev.raise_core_heads (d : Dev) (src mst acc : Nat) (de ad : Option Nat) : (d.raise src mst acc de ad).core.heads = d.core.heads := rfl
@[simp] theorem Dev.raise_core_allow (d : Dev) (src mst acc : Nat) (de ad : Option Nat) : (d.raise src mst acc de ad).core.allow = d.core.allow := rfl
@[simp] theorem Dev.raise_core_stageKey (d : Dev) (src mst acc : Nat) (de ad : Option Nat) : (d.raise src mst acc de ad).core.stageKey = d.core.stageKey := rfl
@[simp] theorem Dev.raise_core_recs (d : Dev) (src mst acc : Nat) (de ad : Option Nat) : (d.raise src mst acc de ad).core.recs = d.core.recs := rfl
@[simp] theorem Dev.raise_core_tctx (d : Dev) (src mst acc : Nat) (de ad : Option Nat) : (d.raise src mst acc de ad).core.tctx = d.core.tctx := rfl
@[simp] theorem Dev.raise_core_encs (d : Dev) (src mst acc : Nat) (de ad : Option Nat) : (d.raise src mst acc de ad).core.encs = d.core.encs := rfl
@[simp] theorem Dev.raise_core_decp (d : Dev) (src mst acc : Nat) (de ad : Option Nat) : (d.raise src mst acc de ad).core.decp = d.core.decp := rfl
@[simp] theorem Dev.raise_core_rcLog (d : Dev) (src mst acc : Nat) (de ad : Option Nat) : (d.raise src mst acc de ad).core.rcLog = d.core.rcLog := rfl
@[simp] theorem Dev.raise_core_rings (d : Dev) (src mst acc : Nat) (de ad : Option Nat) : (d.raise src mst acc de ad).core.rings = d.core.rings := rfl
@[simp] theorem Dev.raise_core_chans (d : Dev) (src mst acc : Nat) (de ad : Option Nat) : (d.raise src mst acc de ad).core.chans = d.core.chans := rfl
@[simp] theorem Dev.raise_core_drr (d : Dev) (src mst acc : Nat) (de ad : Option Nat) : (d.raise src mst acc de ad).core.drr = d.core.drr := rfl
@[simp] theorem Dev.raise_core_cullet (d : Dev) (src mst acc : Nat) (de ad : Option Nat) : (d.raise src mst acc de ad).core.cullet = d.core.cullet := rfl
@[simp] theorem Dev.raise_core_mags (d : Dev) (src mst acc : Nat) (de ad : Option Nat) : (d.raise src mst acc de ad).core.mags = d.core.mags := rfl
@[simp] theorem Dev.raise_core_exchange (d : Dev) (src mst acc : Nat) (de ad : Option Nat) : (d.raise src mst acc de ad).core.exchange = d.core.exchange := rfl
@[simp] theorem Dev.raise_core_decs (d : Dev) (src mst acc : Nat) (de ad : Option Nat) : (d.raise src mst acc de ad).core.decs = d.core.decs := rfl
@[simp] theorem Dev.raise_core_proxies (d : Dev) (src mst acc : Nat) (de ad : Option Nat) : (d.raise src mst acc de ad).core.proxies = d.core.proxies := rfl
@[simp] theorem Dev.raise_core_mem (d : Dev) (src mst acc : Nat) (de ad : Option Nat) : (d.raise src mst acc de ad).core.mem = d.core.mem := rfl
@[simp] theorem Dev.raise_core_nets (d : Dev) (src mst acc : Nat) (de ad : Option Nat) : (d.raise src mst acc de ad).core.nets = d.core.nets := rfl
@[simp] theorem Dev.raise_core_peers (d : Dev) (src mst acc : Nat) (de ad : Option Nat) : (d.raise src mst acc de ad).core.peers = d.core.peers := rfl
@[simp] theorem Dev.raise_core_hosted (d : Dev) (src mst acc : Nat) (de ad : Option Nat) : (d.raise src mst acc de ad).core.hosted = d.core.hosted := rfl
@[simp] theorem Dev.raise_core_served (d : Dev) (src mst acc : Nat) (de ad : Option Nat) : (d.raise src mst acc de ad).core.served = d.core.served := rfl
@[simp] theorem Dev.raisePath_regs (d : Dev) (src : Nat) : (d.raisePath src).regs = d.regs := rfl
@[simp] theorem Dev.raisePath_dram (d : Dev) (src : Nat) : (d.raisePath src).dram = d.dram := rfl
@[simp] theorem Dev.raisePath_hostMem (d : Dev) (src : Nat) : (d.raisePath src).hostMem = d.hostMem := rfl
@[simp] theorem Dev.raisePath_core_host (d : Dev) (src : Nat) : (d.raisePath src).core.host = d.core.host := rfl
@[simp] theorem Dev.raisePath_core_slots (d : Dev) (src : Nat) : (d.raisePath src).core.slots = d.core.slots := rfl
@[simp] theorem Dev.raisePath_core_take (d : Dev) (src : Nat) : (d.raisePath src).core.take = d.core.take := rfl
@[simp] theorem Dev.raisePath_core_armCount (d : Dev) (src : Nat) : (d.raisePath src).core.armCount = d.core.armCount := rfl
@[simp] theorem Dev.raisePath_core_lehr (d : Dev) (src : Nat) : (d.raisePath src).core.lehr = d.core.lehr := rfl
@[simp] theorem Dev.raisePath_core_boot (d : Dev) (src : Nat) : (d.raisePath src).core.boot = d.core.boot := rfl
@[simp] theorem Dev.raisePath_core_evts (d : Dev) (src : Nat) : (d.raisePath src).core.evts = d.core.evts := rfl
@[simp] theorem Dev.raisePath_core_gafs (d : Dev) (src : Nat) : (d.raisePath src).core.gafs = d.core.gafs := rfl
@[simp] theorem Dev.raisePath_core_test (d : Dev) (src : Nat) : (d.raisePath src).core.test = d.core.test := rfl
@[simp] theorem Dev.raisePath_core_jtag (d : Dev) (src : Nat) : (d.raisePath src).core.jtag = d.core.jtag := rfl
@[simp] theorem Dev.raisePath_core_flash (d : Dev) (src : Nat) : (d.raisePath src).core.flash = d.core.flash := rfl
@[simp] theorem Dev.raisePath_core_flashCmd (d : Dev) (src : Nat) : (d.raisePath src).core.flashCmd = d.core.flashCmd := rfl
@[simp] theorem Dev.raisePath_core_time (d : Dev) (src : Nat) : (d.raisePath src).core.time = d.core.time := rfl
@[simp] theorem Dev.raisePath_core_lanes (d : Dev) (src : Nat) : (d.raisePath src).core.lanes = d.core.lanes := rfl
@[simp] theorem Dev.raisePath_core_heads (d : Dev) (src : Nat) : (d.raisePath src).core.heads = d.core.heads := rfl
@[simp] theorem Dev.raisePath_core_allow (d : Dev) (src : Nat) : (d.raisePath src).core.allow = d.core.allow := rfl
@[simp] theorem Dev.raisePath_core_stageKey (d : Dev) (src : Nat) : (d.raisePath src).core.stageKey = d.core.stageKey := rfl
@[simp] theorem Dev.raisePath_core_recs (d : Dev) (src : Nat) : (d.raisePath src).core.recs = d.core.recs := rfl
@[simp] theorem Dev.raisePath_core_tctx (d : Dev) (src : Nat) : (d.raisePath src).core.tctx = d.core.tctx := rfl
@[simp] theorem Dev.raisePath_core_encs (d : Dev) (src : Nat) : (d.raisePath src).core.encs = d.core.encs := rfl
@[simp] theorem Dev.raisePath_core_decp (d : Dev) (src : Nat) : (d.raisePath src).core.decp = d.core.decp := rfl
@[simp] theorem Dev.raisePath_core_rcLog (d : Dev) (src : Nat) : (d.raisePath src).core.rcLog = d.core.rcLog := rfl
@[simp] theorem Dev.raisePath_core_rings (d : Dev) (src : Nat) : (d.raisePath src).core.rings = d.core.rings := rfl
@[simp] theorem Dev.raisePath_core_chans (d : Dev) (src : Nat) : (d.raisePath src).core.chans = d.core.chans := rfl
@[simp] theorem Dev.raisePath_core_drr (d : Dev) (src : Nat) : (d.raisePath src).core.drr = d.core.drr := rfl
@[simp] theorem Dev.raisePath_core_cullet (d : Dev) (src : Nat) : (d.raisePath src).core.cullet = d.core.cullet := rfl
@[simp] theorem Dev.raisePath_core_mags (d : Dev) (src : Nat) : (d.raisePath src).core.mags = d.core.mags := rfl
@[simp] theorem Dev.raisePath_core_exchange (d : Dev) (src : Nat) : (d.raisePath src).core.exchange = d.core.exchange := rfl
@[simp] theorem Dev.raisePath_core_decs (d : Dev) (src : Nat) : (d.raisePath src).core.decs = d.core.decs := rfl
@[simp] theorem Dev.raisePath_core_proxies (d : Dev) (src : Nat) : (d.raisePath src).core.proxies = d.core.proxies := rfl
@[simp] theorem Dev.raisePath_core_mem (d : Dev) (src : Nat) : (d.raisePath src).core.mem = d.core.mem := rfl
@[simp] theorem Dev.raisePath_core_nets (d : Dev) (src : Nat) : (d.raisePath src).core.nets = d.core.nets := rfl
@[simp] theorem Dev.raisePath_core_peers (d : Dev) (src : Nat) : (d.raisePath src).core.peers = d.core.peers := rfl
@[simp] theorem Dev.raisePath_core_hosted (d : Dev) (src : Nat) : (d.raisePath src).core.hosted = d.core.hosted := rfl
@[simp] theorem Dev.raisePath_core_served (d : Dev) (src : Nat) : (d.raisePath src).core.served = d.core.served := rfl
@[simp] theorem Dev.raiseLevel_regs (d : Dev) (src mst : Nat) (de : Option Nat) : (d.raiseLevel src mst de).regs = d.regs := rfl
@[simp] theorem Dev.raiseLevel_dram (d : Dev) (src mst : Nat) (de : Option Nat) : (d.raiseLevel src mst de).dram = d.dram := rfl
@[simp] theorem Dev.raiseLevel_hostMem (d : Dev) (src mst : Nat) (de : Option Nat) : (d.raiseLevel src mst de).hostMem = d.hostMem := rfl
@[simp] theorem Dev.raiseLevel_core_host (d : Dev) (src mst : Nat) (de : Option Nat) : (d.raiseLevel src mst de).core.host = d.core.host := rfl
@[simp] theorem Dev.raiseLevel_core_slots (d : Dev) (src mst : Nat) (de : Option Nat) : (d.raiseLevel src mst de).core.slots = d.core.slots := rfl
@[simp] theorem Dev.raiseLevel_core_take (d : Dev) (src mst : Nat) (de : Option Nat) : (d.raiseLevel src mst de).core.take = d.core.take := rfl
@[simp] theorem Dev.raiseLevel_core_armCount (d : Dev) (src mst : Nat) (de : Option Nat) : (d.raiseLevel src mst de).core.armCount = d.core.armCount := rfl
@[simp] theorem Dev.raiseLevel_core_lehr (d : Dev) (src mst : Nat) (de : Option Nat) : (d.raiseLevel src mst de).core.lehr = d.core.lehr := rfl
@[simp] theorem Dev.raiseLevel_core_boot (d : Dev) (src mst : Nat) (de : Option Nat) : (d.raiseLevel src mst de).core.boot = d.core.boot := rfl
@[simp] theorem Dev.raiseLevel_core_evts (d : Dev) (src mst : Nat) (de : Option Nat) : (d.raiseLevel src mst de).core.evts = d.core.evts := rfl
@[simp] theorem Dev.raiseLevel_core_gafs (d : Dev) (src mst : Nat) (de : Option Nat) : (d.raiseLevel src mst de).core.gafs = d.core.gafs := rfl
@[simp] theorem Dev.raiseLevel_core_test (d : Dev) (src mst : Nat) (de : Option Nat) : (d.raiseLevel src mst de).core.test = d.core.test := rfl
@[simp] theorem Dev.raiseLevel_core_jtag (d : Dev) (src mst : Nat) (de : Option Nat) : (d.raiseLevel src mst de).core.jtag = d.core.jtag := rfl
@[simp] theorem Dev.raiseLevel_core_flash (d : Dev) (src mst : Nat) (de : Option Nat) : (d.raiseLevel src mst de).core.flash = d.core.flash := rfl
@[simp] theorem Dev.raiseLevel_core_flashCmd (d : Dev) (src mst : Nat) (de : Option Nat) : (d.raiseLevel src mst de).core.flashCmd = d.core.flashCmd := rfl
@[simp] theorem Dev.raiseLevel_core_time (d : Dev) (src mst : Nat) (de : Option Nat) : (d.raiseLevel src mst de).core.time = d.core.time := rfl
@[simp] theorem Dev.raiseLevel_core_lanes (d : Dev) (src mst : Nat) (de : Option Nat) : (d.raiseLevel src mst de).core.lanes = d.core.lanes := rfl
@[simp] theorem Dev.raiseLevel_core_heads (d : Dev) (src mst : Nat) (de : Option Nat) : (d.raiseLevel src mst de).core.heads = d.core.heads := rfl
@[simp] theorem Dev.raiseLevel_core_allow (d : Dev) (src mst : Nat) (de : Option Nat) : (d.raiseLevel src mst de).core.allow = d.core.allow := rfl
@[simp] theorem Dev.raiseLevel_core_stageKey (d : Dev) (src mst : Nat) (de : Option Nat) : (d.raiseLevel src mst de).core.stageKey = d.core.stageKey := rfl
@[simp] theorem Dev.raiseLevel_core_recs (d : Dev) (src mst : Nat) (de : Option Nat) : (d.raiseLevel src mst de).core.recs = d.core.recs := rfl
@[simp] theorem Dev.raiseLevel_core_tctx (d : Dev) (src mst : Nat) (de : Option Nat) : (d.raiseLevel src mst de).core.tctx = d.core.tctx := rfl
@[simp] theorem Dev.raiseLevel_core_encs (d : Dev) (src mst : Nat) (de : Option Nat) : (d.raiseLevel src mst de).core.encs = d.core.encs := rfl
@[simp] theorem Dev.raiseLevel_core_decp (d : Dev) (src mst : Nat) (de : Option Nat) : (d.raiseLevel src mst de).core.decp = d.core.decp := rfl
@[simp] theorem Dev.raiseLevel_core_rcLog (d : Dev) (src mst : Nat) (de : Option Nat) : (d.raiseLevel src mst de).core.rcLog = d.core.rcLog := rfl
@[simp] theorem Dev.raiseLevel_core_rings (d : Dev) (src mst : Nat) (de : Option Nat) : (d.raiseLevel src mst de).core.rings = d.core.rings := rfl
@[simp] theorem Dev.raiseLevel_core_chans (d : Dev) (src mst : Nat) (de : Option Nat) : (d.raiseLevel src mst de).core.chans = d.core.chans := rfl
@[simp] theorem Dev.raiseLevel_core_drr (d : Dev) (src mst : Nat) (de : Option Nat) : (d.raiseLevel src mst de).core.drr = d.core.drr := rfl
@[simp] theorem Dev.raiseLevel_core_cullet (d : Dev) (src mst : Nat) (de : Option Nat) : (d.raiseLevel src mst de).core.cullet = d.core.cullet := rfl
@[simp] theorem Dev.raiseLevel_core_mags (d : Dev) (src mst : Nat) (de : Option Nat) : (d.raiseLevel src mst de).core.mags = d.core.mags := rfl
@[simp] theorem Dev.raiseLevel_core_exchange (d : Dev) (src mst : Nat) (de : Option Nat) : (d.raiseLevel src mst de).core.exchange = d.core.exchange := rfl
@[simp] theorem Dev.raiseLevel_core_decs (d : Dev) (src mst : Nat) (de : Option Nat) : (d.raiseLevel src mst de).core.decs = d.core.decs := rfl
@[simp] theorem Dev.raiseLevel_core_proxies (d : Dev) (src mst : Nat) (de : Option Nat) : (d.raiseLevel src mst de).core.proxies = d.core.proxies := rfl
@[simp] theorem Dev.raiseLevel_core_mem (d : Dev) (src mst : Nat) (de : Option Nat) : (d.raiseLevel src mst de).core.mem = d.core.mem := rfl
@[simp] theorem Dev.raiseLevel_core_nets (d : Dev) (src mst : Nat) (de : Option Nat) : (d.raiseLevel src mst de).core.nets = d.core.nets := rfl
@[simp] theorem Dev.raiseLevel_core_peers (d : Dev) (src mst : Nat) (de : Option Nat) : (d.raiseLevel src mst de).core.peers = d.core.peers := rfl
@[simp] theorem Dev.raiseLevel_core_hosted (d : Dev) (src mst : Nat) (de : Option Nat) : (d.raiseLevel src mst de).core.hosted = d.core.hosted := rfl
@[simp] theorem Dev.raiseLevel_core_served (d : Dev) (src mst : Nat) (de : Option Nat) : (d.raiseLevel src mst de).core.served = d.core.served := rfl
@[simp] theorem Dev.endLevel_regs (d : Dev) (src : Nat) : (d.endLevel src).regs = d.regs := rfl
@[simp] theorem Dev.endLevel_dram (d : Dev) (src : Nat) : (d.endLevel src).dram = d.dram := rfl
@[simp] theorem Dev.endLevel_hostMem (d : Dev) (src : Nat) : (d.endLevel src).hostMem = d.hostMem := rfl
@[simp] theorem Dev.endLevel_core_host (d : Dev) (src : Nat) : (d.endLevel src).core.host = d.core.host := rfl
@[simp] theorem Dev.endLevel_core_slots (d : Dev) (src : Nat) : (d.endLevel src).core.slots = d.core.slots := rfl
@[simp] theorem Dev.endLevel_core_take (d : Dev) (src : Nat) : (d.endLevel src).core.take = d.core.take := rfl
@[simp] theorem Dev.endLevel_core_armCount (d : Dev) (src : Nat) : (d.endLevel src).core.armCount = d.core.armCount := rfl
@[simp] theorem Dev.endLevel_core_lehr (d : Dev) (src : Nat) : (d.endLevel src).core.lehr = d.core.lehr := rfl
@[simp] theorem Dev.endLevel_core_boot (d : Dev) (src : Nat) : (d.endLevel src).core.boot = d.core.boot := rfl
@[simp] theorem Dev.endLevel_core_evts (d : Dev) (src : Nat) : (d.endLevel src).core.evts = d.core.evts := rfl
@[simp] theorem Dev.endLevel_core_gafs (d : Dev) (src : Nat) : (d.endLevel src).core.gafs = d.core.gafs := rfl
@[simp] theorem Dev.endLevel_core_test (d : Dev) (src : Nat) : (d.endLevel src).core.test = d.core.test := rfl
@[simp] theorem Dev.endLevel_core_jtag (d : Dev) (src : Nat) : (d.endLevel src).core.jtag = d.core.jtag := rfl
@[simp] theorem Dev.endLevel_core_flash (d : Dev) (src : Nat) : (d.endLevel src).core.flash = d.core.flash := rfl
@[simp] theorem Dev.endLevel_core_flashCmd (d : Dev) (src : Nat) : (d.endLevel src).core.flashCmd = d.core.flashCmd := rfl
@[simp] theorem Dev.endLevel_core_time (d : Dev) (src : Nat) : (d.endLevel src).core.time = d.core.time := rfl
@[simp] theorem Dev.endLevel_core_lanes (d : Dev) (src : Nat) : (d.endLevel src).core.lanes = d.core.lanes := rfl
@[simp] theorem Dev.endLevel_core_heads (d : Dev) (src : Nat) : (d.endLevel src).core.heads = d.core.heads := rfl
@[simp] theorem Dev.endLevel_core_allow (d : Dev) (src : Nat) : (d.endLevel src).core.allow = d.core.allow := rfl
@[simp] theorem Dev.endLevel_core_stageKey (d : Dev) (src : Nat) : (d.endLevel src).core.stageKey = d.core.stageKey := rfl
@[simp] theorem Dev.endLevel_core_recs (d : Dev) (src : Nat) : (d.endLevel src).core.recs = d.core.recs := rfl
@[simp] theorem Dev.endLevel_core_tctx (d : Dev) (src : Nat) : (d.endLevel src).core.tctx = d.core.tctx := rfl
@[simp] theorem Dev.endLevel_core_encs (d : Dev) (src : Nat) : (d.endLevel src).core.encs = d.core.encs := rfl
@[simp] theorem Dev.endLevel_core_decp (d : Dev) (src : Nat) : (d.endLevel src).core.decp = d.core.decp := rfl
@[simp] theorem Dev.endLevel_core_rcLog (d : Dev) (src : Nat) : (d.endLevel src).core.rcLog = d.core.rcLog := rfl
@[simp] theorem Dev.endLevel_core_rings (d : Dev) (src : Nat) : (d.endLevel src).core.rings = d.core.rings := rfl
@[simp] theorem Dev.endLevel_core_chans (d : Dev) (src : Nat) : (d.endLevel src).core.chans = d.core.chans := rfl
@[simp] theorem Dev.endLevel_core_drr (d : Dev) (src : Nat) : (d.endLevel src).core.drr = d.core.drr := rfl
@[simp] theorem Dev.endLevel_core_cullet (d : Dev) (src : Nat) : (d.endLevel src).core.cullet = d.core.cullet := rfl
@[simp] theorem Dev.endLevel_core_mags (d : Dev) (src : Nat) : (d.endLevel src).core.mags = d.core.mags := rfl
@[simp] theorem Dev.endLevel_core_exchange (d : Dev) (src : Nat) : (d.endLevel src).core.exchange = d.core.exchange := rfl
@[simp] theorem Dev.endLevel_core_decs (d : Dev) (src : Nat) : (d.endLevel src).core.decs = d.core.decs := rfl
@[simp] theorem Dev.endLevel_core_proxies (d : Dev) (src : Nat) : (d.endLevel src).core.proxies = d.core.proxies := rfl
@[simp] theorem Dev.endLevel_core_mem (d : Dev) (src : Nat) : (d.endLevel src).core.mem = d.core.mem := rfl
@[simp] theorem Dev.endLevel_core_nets (d : Dev) (src : Nat) : (d.endLevel src).core.nets = d.core.nets := rfl
@[simp] theorem Dev.endLevel_core_peers (d : Dev) (src : Nat) : (d.endLevel src).core.peers = d.core.peers := rfl
@[simp] theorem Dev.endLevel_core_hosted (d : Dev) (src : Nat) : (d.endLevel src).core.hosted = d.core.hosted := rfl
@[simp] theorem Dev.endLevel_core_served (d : Dev) (src : Nat) : (d.endLevel src).core.served = d.core.served := rfl
@[simp] theorem Dev.finishCmd_regs (d : Dev) (m id st : Nat) (r0 r1 : Word) : (d.finishCmd m id st r0 r1).regs = d.regs := rfl
@[simp] theorem Dev.finishCmd_dram (d : Dev) (m id st : Nat) (r0 r1 : Word) : (d.finishCmd m id st r0 r1).dram = d.dram := rfl
@[simp] theorem Dev.finishCmd_hostMem (d : Dev) (m id st : Nat) (r0 r1 : Word) : (d.finishCmd m id st r0 r1).hostMem = d.hostMem := rfl
@[simp] theorem Dev.finishCmd_core_slots (d : Dev) (m id st : Nat) (r0 r1 : Word) : (d.finishCmd m id st r0 r1).core.slots = d.core.slots := rfl
@[simp] theorem Dev.finishCmd_core_take (d : Dev) (m id st : Nat) (r0 r1 : Word) : (d.finishCmd m id st r0 r1).core.take = d.core.take := rfl
@[simp] theorem Dev.finishCmd_core_armCount (d : Dev) (m id st : Nat) (r0 r1 : Word) : (d.finishCmd m id st r0 r1).core.armCount = d.core.armCount := rfl
@[simp] theorem Dev.finishCmd_core_lehr (d : Dev) (m id st : Nat) (r0 r1 : Word) : (d.finishCmd m id st r0 r1).core.lehr = d.core.lehr := rfl
@[simp] theorem Dev.finishCmd_core_boot (d : Dev) (m id st : Nat) (r0 r1 : Word) : (d.finishCmd m id st r0 r1).core.boot = d.core.boot := rfl
@[simp] theorem Dev.finishCmd_core_fault (d : Dev) (m id st : Nat) (r0 r1 : Word) : (d.finishCmd m id st r0 r1).core.fault = d.core.fault := rfl
@[simp] theorem Dev.finishCmd_core_evts (d : Dev) (m id st : Nat) (r0 r1 : Word) : (d.finishCmd m id st r0 r1).core.evts = d.core.evts := rfl
@[simp] theorem Dev.finishCmd_core_gafs (d : Dev) (m id st : Nat) (r0 r1 : Word) : (d.finishCmd m id st r0 r1).core.gafs = d.core.gafs := rfl
@[simp] theorem Dev.finishCmd_core_test (d : Dev) (m id st : Nat) (r0 r1 : Word) : (d.finishCmd m id st r0 r1).core.test = d.core.test := rfl
@[simp] theorem Dev.finishCmd_core_jtag (d : Dev) (m id st : Nat) (r0 r1 : Word) : (d.finishCmd m id st r0 r1).core.jtag = d.core.jtag := rfl
@[simp] theorem Dev.finishCmd_core_flash (d : Dev) (m id st : Nat) (r0 r1 : Word) : (d.finishCmd m id st r0 r1).core.flash = d.core.flash := rfl
@[simp] theorem Dev.finishCmd_core_flashCmd (d : Dev) (m id st : Nat) (r0 r1 : Word) : (d.finishCmd m id st r0 r1).core.flashCmd = d.core.flashCmd := rfl
@[simp] theorem Dev.finishCmd_core_time (d : Dev) (m id st : Nat) (r0 r1 : Word) : (d.finishCmd m id st r0 r1).core.time = d.core.time := rfl
@[simp] theorem Dev.finishCmd_core_lanes (d : Dev) (m id st : Nat) (r0 r1 : Word) : (d.finishCmd m id st r0 r1).core.lanes = d.core.lanes := rfl
@[simp] theorem Dev.finishCmd_core_heads (d : Dev) (m id st : Nat) (r0 r1 : Word) : (d.finishCmd m id st r0 r1).core.heads = d.core.heads := rfl
@[simp] theorem Dev.finishCmd_core_allow (d : Dev) (m id st : Nat) (r0 r1 : Word) : (d.finishCmd m id st r0 r1).core.allow = d.core.allow := rfl
@[simp] theorem Dev.finishCmd_core_stageKey (d : Dev) (m id st : Nat) (r0 r1 : Word) : (d.finishCmd m id st r0 r1).core.stageKey = d.core.stageKey := rfl
@[simp] theorem Dev.finishCmd_core_recs (d : Dev) (m id st : Nat) (r0 r1 : Word) : (d.finishCmd m id st r0 r1).core.recs = d.core.recs := rfl
@[simp] theorem Dev.finishCmd_core_tctx (d : Dev) (m id st : Nat) (r0 r1 : Word) : (d.finishCmd m id st r0 r1).core.tctx = d.core.tctx := rfl
@[simp] theorem Dev.finishCmd_core_encs (d : Dev) (m id st : Nat) (r0 r1 : Word) : (d.finishCmd m id st r0 r1).core.encs = d.core.encs := rfl
@[simp] theorem Dev.finishCmd_core_decp (d : Dev) (m id st : Nat) (r0 r1 : Word) : (d.finishCmd m id st r0 r1).core.decp = d.core.decp := rfl
@[simp] theorem Dev.finishCmd_core_rcLog (d : Dev) (m id st : Nat) (r0 r1 : Word) : (d.finishCmd m id st r0 r1).core.rcLog = d.core.rcLog := rfl
@[simp] theorem Dev.finishCmd_core_rings (d : Dev) (m id st : Nat) (r0 r1 : Word) : (d.finishCmd m id st r0 r1).core.rings = d.core.rings := rfl
@[simp] theorem Dev.finishCmd_core_chans (d : Dev) (m id st : Nat) (r0 r1 : Word) : (d.finishCmd m id st r0 r1).core.chans = d.core.chans := rfl
@[simp] theorem Dev.finishCmd_core_drr (d : Dev) (m id st : Nat) (r0 r1 : Word) : (d.finishCmd m id st r0 r1).core.drr = d.core.drr := rfl
@[simp] theorem Dev.finishCmd_core_cullet (d : Dev) (m id st : Nat) (r0 r1 : Word) : (d.finishCmd m id st r0 r1).core.cullet = d.core.cullet := rfl
@[simp] theorem Dev.finishCmd_core_mags (d : Dev) (m id st : Nat) (r0 r1 : Word) : (d.finishCmd m id st r0 r1).core.mags = d.core.mags := rfl
@[simp] theorem Dev.finishCmd_core_exchange (d : Dev) (m id st : Nat) (r0 r1 : Word) : (d.finishCmd m id st r0 r1).core.exchange = d.core.exchange := rfl
@[simp] theorem Dev.finishCmd_core_decs (d : Dev) (m id st : Nat) (r0 r1 : Word) : (d.finishCmd m id st r0 r1).core.decs = d.core.decs := rfl
@[simp] theorem Dev.finishCmd_core_proxies (d : Dev) (m id st : Nat) (r0 r1 : Word) : (d.finishCmd m id st r0 r1).core.proxies = d.core.proxies := rfl
@[simp] theorem Dev.finishCmd_core_mem (d : Dev) (m id st : Nat) (r0 r1 : Word) : (d.finishCmd m id st r0 r1).core.mem = d.core.mem := rfl
@[simp] theorem Dev.finishCmd_core_nets (d : Dev) (m id st : Nat) (r0 r1 : Word) : (d.finishCmd m id st r0 r1).core.nets = d.core.nets := rfl
@[simp] theorem Dev.finishCmd_core_peers (d : Dev) (m id st : Nat) (r0 r1 : Word) : (d.finishCmd m id st r0 r1).core.peers = d.core.peers := rfl
@[simp] theorem Dev.finishCmd_core_hosted (d : Dev) (m id st : Nat) (r0 r1 : Word) : (d.finishCmd m id st r0 r1).core.hosted = d.core.hosted := rfl
@[simp] theorem Dev.finishCmd_core_served (d : Dev) (m id st : Nat) (r0 r1 : Word) : (d.finishCmd m id st r0 r1).core.served = d.core.served := rfl
@[simp] theorem Dev.setSlot_slot (d : Dev) (n : Nat) (x : Slot) : (d.setSlot n x).slot n = x := tget_tset_same _ _ _ _
theorem Dev.setSlot_slot_other (d : Dev) {n m : Nat} (h : m ≠ n) (x : Slot) : (d.setSlot n x).slot m = d.slot m := tget_tset_other _ _ h _
@[simp] theorem Dev.setEvt_evt (d : Dev) (n : Nat) (x : EvtSrc) : (d.setEvt n x).evt n = x := tget_tset_same _ _ _ _
theorem Dev.setEvt_evt_other (d : Dev) {n m : Nat} (h : m ≠ n) (x : EvtSrc) : (d.setEvt n x).evt m = d.evt m := tget_tset_other _ _ h _
@[simp] theorem Dev.setGaf_gaf (d : Dev) (n : Nat) (x : Gaffer) : (d.setGaf n x).gaf n = x := tget_tset_same _ _ _ _
theorem Dev.setGaf_gaf_other (d : Dev) {n m : Nat} (h : m ≠ n) (x : Gaffer) : (d.setGaf n x).gaf m = d.gaf m := tget_tset_other _ _ h _
@[simp] theorem Dev.setLane_lane (d : Dev) (n : Nat) (x : Lane) : (d.setLane n x).lane n = x := tget_tset_same _ _ _ _
theorem Dev.setLane_lane_other (d : Dev) {n m : Nat} (h : m ≠ n) (x : Lane) : (d.setLane n x).lane m = d.lane m := tget_tset_other _ _ h _
@[simp] theorem Dev.setHead_head (d : Dev) (n : Nat) (x : Head) : (d.setHead n x).head n = x := tget_tset_same _ _ _ _
theorem Dev.setHead_head_other (d : Dev) {n m : Nat} (h : m ≠ n) (x : Head) : (d.setHead n x).head m = d.head m := tget_tset_other _ _ h _
@[simp] theorem Dev.setEnc_enc (d : Dev) (n : Nat) (x : Pipe) : (d.setEnc n x).enc n = x := tget_tset_same _ _ _ _
theorem Dev.setEnc_enc_other (d : Dev) {n m : Nat} (h : m ≠ n) (x : Pipe) : (d.setEnc n x).enc m = d.enc m := tget_tset_other _ _ h _
@[simp] theorem Dev.setDecp_decp (d : Dev) (n : Nat) (x : Pipe) : (d.setDecp n x).decp n = x := tget_tset_same _ _ _ _
theorem Dev.setDecp_decp_other (d : Dev) {n m : Nat} (h : m ≠ n) (x : Pipe) : (d.setDecp n x).decp m = d.decp m := tget_tset_other _ _ h _
@[simp] theorem Dev.setRing_ring (d : Dev) (n : Nat) (x : Ring) : (d.setRing n x).ring n = x := tget_tset_same _ _ _ _
theorem Dev.setRing_ring_other (d : Dev) {n m : Nat} (h : m ≠ n) (x : Ring) : (d.setRing n x).ring m = d.ring m := tget_tset_other _ _ h _
@[simp] theorem Dev.setChan_chan (d : Dev) (n : Nat) (x : Chan) : (d.setChan n x).chan n = x := tget_tset_same _ _ _ _
theorem Dev.setChan_chan_other (d : Dev) {n m : Nat} (h : m ≠ n) (x : Chan) : (d.setChan n x).chan m = d.chan m := tget_tset_other _ _ h _
@[simp] theorem Dev.setMag_mag (d : Dev) (n : Nat) (x : MagPort) : (d.setMag n x).mag n = x := tget_tset_same _ _ _ _
theorem Dev.setMag_mag_other (d : Dev) {n m : Nat} (h : m ≠ n) (x : MagPort) : (d.setMag n x).mag m = d.mag m := tget_tset_other _ _ h _
@[simp] theorem Dev.setNet_net (d : Dev) (n : Nat) (x : NetPort) : (d.setNet n x).net n = x := tget_tset_same _ _ _ _
theorem Dev.setNet_net_other (d : Dev) {n m : Nat} (h : m ≠ n) (x : NetPort) : (d.setNet n x).net m = d.net m := tget_tset_other _ _ h _
@[simp] theorem Dev.setPeer_peer (d : Dev) (n : Nat) (x : PeerPort) : (d.setPeer n x).peer n = x := tget_tset_same _ _ _ _
theorem Dev.setPeer_peer_other (d : Dev) {n m : Nat} (h : m ≠ n) (x : PeerPort) : (d.setPeer n x).peer m = d.peer m := tget_tset_other _ _ h _
@[simp] theorem Dev.setRec_rec (d : Dev) (n : Nat) (x : RecStream) : (d.setRec n x).rec? n = some x := lookup_tset_same _ _ _
theorem Dev.setRec_rec_other (d : Dev) {n m : Nat} (h : m ≠ n) (x : RecStream) : (d.setRec n x).rec? m = d.rec? m := lookup_tset_other _ h _
@[simp] theorem Dev.setDec_dec (d : Dev) (n : Nat) (x : DecStream) : (d.setDec n x).dec? n = some x := lookup_tset_same _ _ _
theorem Dev.setDec_dec_other (d : Dev) {n m : Nat} (h : m ≠ n) (x : DecStream) : (d.setDec n x).dec? m = d.dec? m := lookup_tset_other _ h _
@[simp] theorem Dev.setProxy_proxy (d : Dev) (n : Nat) (x : ProxyStream) : (d.setProxy n x).proxy? n = some x := lookup_tset_same _ _ _
theorem Dev.setProxy_proxy_other (d : Dev) {n m : Nat} (h : m ≠ n) (x : ProxyStream) : (d.setProxy n x).proxy? m = d.proxy? m := lookup_tset_other _ h _
@[simp] theorem Dev.setMbx_mbx (d : Dev) (n : Nat) (x : Mailbox) : (d.setMbx n x).mbx n = x := tget_tset_same _ _ _ _
theorem Dev.setMbx_mbx_other (d : Dev) {n m : Nat} (h : m ≠ n) (x : Mailbox) : (d.setMbx n x).mbx m = d.mbx m := tget_tset_other _ _ h _
@[simp] theorem Dev.setFrec_frec (d : Dev) (n : Nat) (x : FaultRec) : (d.setFrec n x).frec n = x := tget_tset_same _ _ _ _
theorem Dev.setFrec_frec_other (d : Dev) {n m : Nat} (h : m ≠ n) (x : FaultRec) : (d.setFrec n x).frec m = d.frec m := tget_tset_other _ _ h _
@[simp] theorem Dev.modMem_core_mem (d : Dev) (f : MemSt → MemSt) : (d.modMem f).core.mem = f d.core.mem := rfl
@[simp] theorem Dev.modHost_core_host (d : Dev) (f : HostPort → HostPort) : (d.modHost f).core.host = f d.core.host := rfl
@[simp] theorem Dev.modLehr_core_lehr (d : Dev) (f : Lehr → Lehr) : (d.modLehr f).core.lehr = f d.core.lehr := rfl
@[simp] theorem Dev.modFault_core_fault (d : Dev) (f : FaultSt → FaultSt) : (d.modFault f).core.fault = f d.core.fault := rfl
@[simp] theorem Dev.modTime_core_time (d : Dev) (f : TimeSt → TimeSt) : (d.modTime f).core.time = f d.core.time := rfl
@[simp] theorem Dev.setFrec_raised (d : Dev) (n : Nat) (x : FaultRec) : (d.setFrec n x).core.fault.raised = d.core.fault.raised := rfl
@[simp] theorem Dev.endLevel_raised (d : Dev) (n : Nat) : (d.endLevel n).core.fault.raised = d.core.fault.raised := rfl

/-! ## The state of a command that begins -/

@[simp] theorem State.begin_core (s : State) : s.begin.core = s.core := rfl
@[simp] theorem State.begin_regs (s : State) : s.begin.regs = Overlay.start s.regs := rfl
@[simp] theorem State.begin_dram (s : State) : s.begin.dram = Overlay.start s.dram := rfl
@[simp] theorem State.begin_hostMem (s : State) : s.begin.hostMem = Overlay.start s.hostMem := rfl
@[simp] theorem State.commit_core (s : State) (d : Dev) : (s.commit d).core = d.core := rfl
@[simp] theorem State.commit_pending (s : State) (d : Dev) : (s.commit d).pending = s.pending := rfl

end Sys2Proof.Machine
end

