-- ==== Sys2Proof/Laws/Regs.lean ====
section
/-! SUPPORT. Register words and fields: what a field reads after a write of it or of another field, and that a stored word
keeps its fixed bits. -/
namespace Sys2Proof.Machine

/-- A stored word keeps the bits that may not change (R22), so storing it again changes nothing. -/
@[simp] theorem regVal_regVal (a : Nat) (v : Word) : regVal a (regVal a v) = regVal a v := by
  unfold regVal
  ext i hi
  simp only [BitVec.getElem_or, BitVec.getElem_and, BitVec.getElem_not]
  cases (wrMask a)[i] <;> simp

theorem FieldRow.testBit_ext (r : FieldRow) (w : Word) (i : Nat) :
    (r.ext w).testBit i = (decide (i < r.width) && w.getLsbD (r.lo + i)) := by
  simp [FieldRow.ext, Nat.testBit_mod_two_pow, BitVec.getLsbD, Nat.testBit_shiftRight]

theorem FieldRow.getLsbD_mask (r : FieldRow) (i : Nat) :
    r.mask.getLsbD i = (decide (i < 32) && (decide (r.lo ≤ i) && decide (i - r.lo < r.width))) := by
  simp only [FieldRow.mask, BitVec.getLsbD_ofNat, Nat.testBit_shiftLeft, Nat.testBit_two_pow_sub_one]

theorem FieldRow.getLsbD_ins (r : FieldRow) (w : Word) (v i : Nat) :
    (r.ins w v).getLsbD i =
      (decide (i < 32) && (if r.lo ≤ i ∧ i - r.lo < r.width then v.testBit (i - r.lo) else w.getLsbD i)) := by
  simp only [FieldRow.ins, BitVec.getLsbD_or, BitVec.getLsbD_and, BitVec.getLsbD_not, FieldRow.getLsbD_mask, BitVec.getLsbD_ofNat,
    Nat.testBit_shiftLeft, Nat.testBit_mod_two_pow]
  by_cases h0 : i < 32 <;> by_cases h1 : r.lo ≤ i <;> by_cases h2 : i - r.lo < r.width <;>
    simp [h0, h1, h2]

/-- A field reads what was put into it. -/
theorem FieldRow.ext_ins_same (r : FieldRow) (h : r.lo + r.width ≤ 32) (w : Word) (v : Nat) :
    r.ext (r.ins w v) = v % 2 ^ r.width := by
  apply Nat.eq_of_testBit_eq
  intro i
  rw [FieldRow.testBit_ext, FieldRow.getLsbD_ins, Nat.testBit_mod_two_pow]
  by_cases hi : i < r.width
  · have : r.lo + i < 32 := by omega
    simp [hi, this]
  · simp [hi]

/-- Another field of the word reads what it read before. -/
theorem FieldRow.ext_ins_other (r q : FieldRow) (h : q.lo + q.width ≤ r.lo ∨ r.lo + r.width ≤ q.lo) (w : Word) (v : Nat) :
    q.ext (r.ins w v) = q.ext w := by
  apply Nat.eq_of_testBit_eq
  intro i
  rw [FieldRow.testBit_ext, FieldRow.testBit_ext, FieldRow.getLsbD_ins]
  by_cases hi : i < q.width
  · have hn : ¬ (r.lo ≤ q.lo + i ∧ q.lo + i - r.lo < r.width) := by omega
    by_cases h32 : q.lo + i < 32
    · simp [hi, h32, hn]
    · have : w.getLsbD (q.lo + i) = false := BitVec.getLsbD_of_ge _ _ (by omega)
      simp [hi, h32, this]
  · simp [hi]

/-- A field that may change is stored as it is written. -/
theorem FieldRow.ext_regVal (r : FieldRow) (a : Nat) (h : wrMask a &&& r.mask = r.mask) (h32 : r.lo + r.width ≤ 32) (w : Word) :
    r.ext (regVal a w) = r.ext w := by
  apply Nat.eq_of_testBit_eq
  intro i
  rw [FieldRow.testBit_ext, FieldRow.testBit_ext]
  by_cases hi : i < r.width
  · have hb : (wrMask a).getLsbD (r.lo + i) = true := by
      have := congrArg (fun x => BitVec.getLsbD x (r.lo + i)) h
      simp only [BitVec.getLsbD_and, FieldRow.getLsbD_mask] at this
      have h1 : r.lo + i < 32 := by omega
      simpa [h1, hi] using this
    simp [regVal, hb]
  · simp [hi]

@[simp] theorem Dev.reg_setReg_same (d : Dev) (a : Nat) (v : Word) : (d.setReg a v).reg a = regVal a v := by
  simp [Dev.reg, Dev.setReg]

theorem Dev.reg_setReg_other (d : Dev) {a b : Nat} (h : b ≠ a) (v : Word) : (d.setReg a v).reg b = d.reg b := by
  simp [Dev.reg, Dev.setReg, Overlay.get_put_other _ _ h]

/-- A field that hardware may change lies in the changing bits of its register. -/
def fieldOk (k : PageKind) (i : Nat) (r : FieldRow) (n : Nat) : Bool :=
  decide (wrMask (fieldAddr k i r n) &&& r.mask = r.mask) && decide (r.lo + r.width ≤ 32)

/-- A field reads what it was set to. -/
theorem Dev.get_set_same (d : Dev) (k : PageKind) (i : Nat) (r : FieldRow) (v n : Nat) (h : fieldOk k i r n = true) :
    (d.set k i r v n).get k i r n = v % 2 ^ r.width := by
  simp only [fieldOk, Bool.and_eq_true, decide_eq_true_eq] at h
  simp only [Dev.get, Dev.set, Dev.reg_setReg_same]
  rw [FieldRow.ext_regVal r _ h.1 h.2, FieldRow.ext_ins_same r h.2]

/-- A field of another register reads what it read before. -/
theorem Dev.get_set_reg (d : Dev) (k k' : PageKind) (i i' : Nat) (r r' : FieldRow) (v n n' : Nat)
    (h : fieldAddr k' i' r' n' ≠ fieldAddr k i r n) : (d.set k i r v n).get k' i' r' n' = d.get k' i' r' n' := by
  simp only [Dev.get, Dev.set]
  rw [Dev.reg_setReg_other _ h]

/-- Another field of the same register reads what it read before. -/
theorem Dev.get_set_field (d : Dev) (k k' : PageKind) (i i' : Nat) (r r' : FieldRow) (v n n' : Nat)
    (ha : fieldAddr k' i' r' n' = fieldAddr k i r n) (h : r'.lo + r'.width ≤ r.lo ∨ r.lo + r.width ≤ r'.lo)
    (hw : fieldOk k' i' r' n' = true) : (d.set k i r v n).get k' i' r' n' = d.get k' i' r' n' := by
  simp only [fieldOk, Bool.and_eq_true, decide_eq_true_eq] at hw
  rw [ha] at hw
  simp only [Dev.get, Dev.set, ha, Dev.reg_setReg_same]
  rw [FieldRow.ext_regVal r' _ hw.1 hw.2, FieldRow.ext_ins_other r r' h]

end Sys2Proof.Machine
end

