-- ==== Sys2Proof/Laws/Commit.lean ====
section
/-! SUPPORT. How a command ends: what its writes become in the next state, that the next state keeps the canonical form, and the
commands that bring no fault event. -/
namespace Sys2Proof.Machine

/-- The writes of `d` stand on the tables of `s`, and every register word it wrote is stored as registers are. -/
structure Dev.Over (s : State) (d : Dev) : Prop where
  regs : d.regs.base = s.regs
  words : ∀ a v, d.regs.log.lookup a = some v → regVal a v = v
  dram : d.dram.base = s.dram
  hostMem : d.hostMem.base = s.hostMem

theorem Dev.Over.begin (s : State) : Dev.Over s s.begin := ⟨rfl, by simp [Overlay.start], rfl, rfl⟩

theorem Dev.Over.setReg {s : State} {d : Dev} (h : Dev.Over s d) (a : Nat) (v : Word) : Dev.Over s (d.setReg a v) := by
  refine ⟨h.regs, ?_, h.dram, h.hostMem⟩
  intro b w hb
  simp only [Dev.setReg, Overlay.put, List.lookup_cons] at hb
  split at hb
  · rename_i he
    have : b = a := by simpa using he
    subst this
    cases hb
    exact regVal_regVal _ _
  · exact h.words b w hb

theorem Dev.Over.of_eq {s : State} {d d' : Dev} (h : Dev.Over s d) (hr : d'.regs = d.regs) (hd : d'.dram.base = d.dram.base)
    (hh : d'.hostMem.base = d.hostMem.base) : Dev.Over s d' :=
  ⟨hr ▸ h.regs, by rw [hr]; exact h.words, by rw [hd]; exact h.dram, by rw [hh]; exact h.hostMem⟩

theorem Dev.Over.set {s : State} {d : Dev} (h : Dev.Over s d) (k : PageKind) (i : Nat) (r : FieldRow) (v n : Nat) :
    Dev.Over s (d.set k i r v n) := h.setReg _ _
theorem Dev.Over.hset {s : State} {d : Dev} (h : Dev.Over s d) (p : Nat) (r : FieldRow) (v : Nat) : Dev.Over s (d.hset p r v) :=
  h.setReg _ _
theorem Dev.Over.bump {s : State} {d : Dev} (h : Dev.Over s d) (k : PageKind) (i : Nat) (r : FieldRow) (b n : Nat) :
    Dev.Over s (d.bump k i r b n) := h.setReg _ _
theorem Dev.Over.hbump {s : State} {d : Dev} (h : Dev.Over s d) (p : Nat) (r : FieldRow) : Dev.Over s (d.hbump p r) := h.setReg _ _
theorem Dev.Over.stat {s : State} {d : Dev} (h : Dev.Over s d) (p b : Nat) : Dev.Over s (d.stat p b) := h.setReg _ _

/-- A register of the next state reads as it stood when the command ended. -/
theorem State.commit_reg {s : State} {d : Dev} (h : Dev.Over s d) (a : Nat) : (s.commit d).begin.reg a = d.reg a := by
  have e : (s.commit d).begin.reg a = Sparse.get resetWord (commitRegs s.regs d.regs.log) a := by
    simp [Dev.reg, State.begin, State.commit, Overlay.start, Overlay.get]
  rw [e, commitRegs, Sparse.get_fold resetWord (fun a v => regVal a v)]
  unfold Dev.reg Overlay.get
  rw [h.regs]
  cases hl : d.regs.log.lookup a with
  | none => rfl
  | some v => exact h.words a v hl

/-- A field of the next state reads as it stood when the command ended. -/
theorem State.commit_get {s : State} {d : Dev} (h : Dev.Over s d) (k : PageKind) (i : Nat) (r : FieldRow) (n : Nat) :
    (s.commit d).begin.get k i r n = d.get k i r n := by
  simp only [Dev.get, State.commit_reg h]

/-- A byte of DRAM in the next state. -/
theorem State.commit_dramByte {s : State} {d : Dev} (h : Dev.Over s d) (a : Nat) : (s.commit d).begin.dramByte a = d.dramByte a := by
  have e : (s.commit d).begin.dramByte a = Sparse.get memDefault (Sparse.apply memDefault s.dram d.dram.log) a := by
    simp [Dev.dramByte, State.begin, State.commit, Overlay.start, Overlay.get]
  rw [e, Sparse.get_apply, ← h.dram]
  rfl

/-- A byte of host memory in the next state. -/
theorem State.commit_hostByte {s : State} {d : Dev} (h : Dev.Over s d) (a : Nat) : (s.commit d).begin.hostByte a = d.hostByte a := by
  have e : (s.commit d).begin.hostByte a = Sparse.get memDefault (Sparse.apply memDefault s.hostMem d.hostMem.log) a := by
    simp [Dev.hostByte, State.begin, State.commit, Overlay.start, Overlay.get]
  rw [e, Sparse.get_apply, ← h.hostMem]
  rfl

/-! ## The collector at rest -/

/-- With no event raised the collector changes nothing. -/
theorem Dev.settle_calm (n : Nat) {d : Dev} (h : d.core.fault.raised = []) : d.settle n = d := by
  cases n <;> simp [Dev.settle, h]

/-- A command that raises no event ends with its own writes. -/
theorem State.run_calm {s : State} {f : Dev → Dev} (h : (f s.begin).core.fault.raised = []) :
    s.run f = .next (s.commit (f s.begin)) := by
  simp [State.run, State.conclude, Dev.settle_calm _ h]

/-! ## The canonical form -/

theorem commitRegs_wf {m : List (Nat × Word)} (w : Sparse.wf resetWord m = true) (log : List (Nat × Word)) :
    Sparse.wf resetWord (commitRegs m log) = true :=
  Sparse.wf_foldl_set resetWord regVal log.reverse m w

end Sys2Proof.Machine
end

