-- ==== Sys2Proof/Laws/Shared.lean ====
section
/-! SUPPORT. What the shared operations can do: telling the firmware of an event, waking a domain, asking a channel for a burst,
finishing a mailbox command. -/
namespace Sys2Proof.Machine

/-! ## Signals: event sources, wakes and request lines -/

/-- `d'` differs from `d` at most in registers, event sources, Lehr's moves and circular channels. -/
structure Dev.Signals (d d' : Dev) : Prop where
  core : ∃ e l c, d'.core = { d.core with evts := e, lehr := l, chans := c }
  dram : d'.dram = d.dram
  hostMem : d'.hostMem = d.hostMem

theorem Dev.Signals.refl (d : Dev) : Dev.Signals d d := ⟨⟨_, _, _, rfl⟩, rfl, rfl⟩

theorem Dev.Signals.trans {a b c : Dev} (h : Dev.Signals a b) (g : Dev.Signals b c) : Dev.Signals a c := by
  obtain ⟨e, l, k, h1⟩ := h.core
  obtain ⟨e', l', k', g1⟩ := g.core
  exact ⟨⟨e', l', k', by rw [g1, h1]⟩, g.dram.trans h.dram, g.hostMem.trans h.hostMem⟩

/-- An update of registers alone. -/
theorem Dev.Signals.ofRegs {d d' : Dev} (hc : d'.core = d.core) (hd : d'.dram = d.dram) (hh : d'.hostMem = d.hostMem) :
    Dev.Signals d d' := ⟨⟨_, _, _, hc⟩, hd, hh⟩

theorem Dev.Signals.set (d : Dev) (k : PageKind) (i : Nat) (r : FieldRow) (v n : Nat) : Dev.Signals d (d.set k i r v n) := .ofRegs rfl rfl rfl
theorem Dev.Signals.bump (d : Dev) (k : PageKind) (i : Nat) (r : FieldRow) (b n : Nat) : Dev.Signals d (d.bump k i r b n) := .ofRegs rfl rfl rfl
theorem Dev.Signals.statBit (d : Dev) (k : PageKind) (i b : Nat) : Dev.Signals d (d.statBit k i b) := .ofRegs rfl rfl rfl
theorem Dev.Signals.setEvt (d : Dev) (n : Nat) (e : EvtSrc) : Dev.Signals d (d.setEvt n e) := ⟨⟨_, _, _, rfl⟩, rfl, rfl⟩
theorem Dev.Signals.modLehr (d : Dev) (f : Lehr → Lehr) : Dev.Signals d (d.modLehr f) := ⟨⟨_, _, _, rfl⟩, rfl, rfl⟩
theorem Dev.Signals.setChan (d : Dev) (n : Nat) (c : Chan) : Dev.Signals d (d.setChan n c) := ⟨⟨_, _, _, rfl⟩, rfl, rfl⟩

theorem Dev.Signals.foldl {β : Type} (f : Dev → β → Dev) (hf : ∀ d b, Dev.Signals d (f d b)) (l : List β) :
    ∀ d, Dev.Signals d (l.foldl f d) := by
  induction l with
  | nil => intro d; exact .refl d
  | cons b l ih => intro d; exact (hf d b).trans (ih _)

theorem Dev.Signals.ite {p : Prop} [Decidable p] {d a b : Dev} (ha : Dev.Signals d a) (hb : Dev.Signals d b) :
    Dev.Signals d (if p then a else b) := by split <;> assumption

theorem Dev.refuseEntry_signals (d : Dev) (n c : Nat) : Dev.Signals d (d.refuseEntry n c) := .ofRegs rfl rfl rfl

theorem Dev.abortEntry_signals (d : Dev) (n c : Nat) : Dev.Signals d (d.abortEntry n c) := by
  unfold Dev.abortEntry
  dsimp only
  split
  · refine ((Dev.Signals.modLehr d _).trans (.foldl _ (fun e m => Dev.refuseEntry_signals e m c) _ _)).trans (.ofRegs rfl rfl rfl)
  · exact (Dev.Signals.modLehr d _).trans (Dev.refuseEntry_signals _ _ _)

theorem Dev.wakeOne_signals (d : Dev) (n src : Nat) : Dev.Signals d (d.wakeOne n src) := by
  unfold Dev.wakeOne
  split
  · split
    · exact (Dev.abortEntry_signals d _ _).trans (.bump _ _ _ _ _ _)
    · exact .modLehr d _
  · split
    · exact .refl d
    · exact ⟨⟨_, _, _, rfl⟩, rfl, rfl⟩

theorem Dev.evtCount_signals (d : Dev) (n : Nat) : Dev.Signals d (d.evtCount n) := by
  unfold Dev.evtCount
  refine Dev.Signals.trans (b := if d.get .event 0 fEVT_SRC_COUNT n = 15 then (d.bump .event 0 fEVT_CNT_SATURATED).statBit .event 0 0 else d)
    (.ite (.ofRegs rfl rfl rfl) (.refl d)) ?_
  generalize (if d.get .event 0 fEVT_SRC_COUNT n = 15 then (d.bump .event 0 fEVT_CNT_SATURATED).statBit .event 0 0 else d) = d1
  dsimp only
  split
  · exact .ofRegs rfl rfl rfl
  · exact (Dev.Signals.setEvt d1 n _).trans (.ofRegs rfl rfl rfl)

theorem Dev.evtTargetSleep_signals (d : Dev) (n : Nat) : Dev.Signals d (d.evtTargetSleep n) := by
  unfold Dev.evtTargetSleep
  dsimp only
  split
  · exact .refl d
  · split
    · split
      · exact (Dev.wakeOne_signals d _ _).trans (.ofRegs rfl rfl rfl)
      · exact .refl d
    · split
      · split
        · exact Dev.abortEntry_signals d _ _
        · exact .refl d
      · exact .refl d

/-- An event source asserts. -/
theorem Dev.assertEvt_signals (d : Dev) (n : Nat) : Dev.Signals d (d.assertEvt n) := by
  unfold Dev.assertEvt
  dsimp only
  refine (Dev.Signals.setEvt d n { d.evt n with level := true }).trans ?_
  split
  · split
    · exact (Dev.wakeOne_signals _ _ _).trans (Dev.wakeOne_signals _ _ _)
    · exact .refl _
  · exact (Dev.evtCount_signals _ _).trans (Dev.evtTargetSleep_signals _ _)

/-- An event source releases. -/
theorem Dev.releaseEvt_signals (d : Dev) (n : Nat) : Dev.Signals d (d.releaseEvt n) :=
  (Dev.Signals.setEvt d n _).trans (.set _ _ _ _ _ _)

theorem Dev.wakeDom_signals (d : Dev) (n src : Nat) : Dev.Signals d (d.wakeDom n src) := by
  unfold Dev.wakeDom
  exact .ite (.refl d) ((Dev.wakeOne_signals d _ _).trans (Dev.assertEvt_signals _ _))

/-- A wake source acts. -/
theorem Dev.wakeBy_signals (d : Dev) (n src : Nat) : Dev.Signals d (d.wakeBy n src) :=
  .foldl _ (fun e k => Dev.wakeDom_signals e k src) _ _

/-- A request line asserts. -/
theorem Dev.requestLine_signals (d : Dev) (line : Nat) : Dev.Signals d (d.requestLine line) := by
  unfold Dev.requestLine
  refine .foldl _ (fun e k => ?_) _ _
  dsimp only
  split
  · split
    · exact .setChan _ _ _
    · split
      · exact .setChan _ _ _
      · exact .ofRegs rfl rfl rfl
  · exact .refl e

/-! What a signal leaves alone. -/

section
variable {d d' : Dev} (h : Dev.Signals d d')
include h
theorem Dev.Signals.host : d'.core.host = d.core.host := by obtain ⟨_, _, _, e⟩ := h.core; rw [e]
theorem Dev.Signals.slots : d'.core.slots = d.core.slots := by obtain ⟨_, _, _, e⟩ := h.core; rw [e]
theorem Dev.Signals.fault : d'.core.fault = d.core.fault := by obtain ⟨_, _, _, e⟩ := h.core; rw [e]
theorem Dev.Signals.time : d'.core.time = d.core.time := by obtain ⟨_, _, _, e⟩ := h.core; rw [e]
theorem Dev.Signals.lanes : d'.core.lanes = d.core.lanes := by obtain ⟨_, _, _, e⟩ := h.core; rw [e]
theorem Dev.Signals.heads : d'.core.heads = d.core.heads := by obtain ⟨_, _, _, e⟩ := h.core; rw [e]
theorem Dev.Signals.recs : d'.core.recs = d.core.recs := by obtain ⟨_, _, _, e⟩ := h.core; rw [e]
theorem Dev.Signals.rings : d'.core.rings = d.core.rings := by obtain ⟨_, _, _, e⟩ := h.core; rw [e]
theorem Dev.Signals.cullet : d'.core.cullet = d.core.cullet := by obtain ⟨_, _, _, e⟩ := h.core; rw [e]
theorem Dev.Signals.mags : d'.core.mags = d.core.mags := by obtain ⟨_, _, _, e⟩ := h.core; rw [e]
theorem Dev.Signals.decs : d'.core.decs = d.core.decs := by obtain ⟨_, _, _, e⟩ := h.core; rw [e]
theorem Dev.Signals.proxies : d'.core.proxies = d.core.proxies := by obtain ⟨_, _, _, e⟩ := h.core; rw [e]
theorem Dev.Signals.mem : d'.core.mem = d.core.mem := by obtain ⟨_, _, _, e⟩ := h.core; rw [e]
theorem Dev.Signals.nets : d'.core.nets = d.core.nets := by obtain ⟨_, _, _, e⟩ := h.core; rw [e]
theorem Dev.Signals.peers : d'.core.peers = d.core.peers := by obtain ⟨_, _, _, e⟩ := h.core; rw [e]
theorem Dev.Signals.boot : d'.core.boot = d.core.boot := by obtain ⟨_, _, _, e⟩ := h.core; rw [e]
end

/-! ## Mailbox commands -/

/-- The command is carried out: it waits in its mailbox with its status and RESULT, its words as they were. -/
theorem Dev.finishCmd_done (d : Dev) (m : Nat) (c : MbxCmd) (hc : c ∈ (d.mbx m).cmds) (st : Nat) (r0 r1 : Word) :
    { c with stage := .done st r0 r1 } ∈ ((d.finishCmd m c.id st r0 r1).mbx m).cmds := by
  simp only [Dev.finishCmd, Dev.setMbx_mbx, List.mem_map]
  exact ⟨c, hc, by simp⟩

/-- The command found ready is in its mailbox. -/
theorem Dev.readyCmd_mem {d : Dev} {m op : Nat} {c : MbxCmd} (h : d.readyCmd m op = some c) : c ∈ (d.mbx m).cmds := by
  unfold Dev.readyCmd at h
  split at h
  · rename_i k hk
    split at h
    · cases h; exact List.mem_of_find?_eq_some hk
    · cases h
  · cases h

end Sys2Proof.Machine
end

