-- ==== Sys2Proof/Laws/Bus.lean ====
section
/-! SUPPORT. A write, or a guarded pair, by a master to an open page does what the register's write does, and nothing else. -/
namespace Sys2Proof.Machine

theorem State.calm_iff {s : State} : s.calm = true ↔ s.core.fault.raised = [] := by simp [State.calm]

/-- What an open page gives, one fact each. -/
structure Opens (s : State) (page : Nat) : Prop where
  calm : s.core.fault.raised = []
  live : s.begin.barLive = true
  gate : (s.begin.bootGate && !bootPage page) = false
  on : s.begin.domState (pageDom page) = 0
  stays : s.begin.enteringOf (pageDom page) = none
  noReset : s.begin.inReset page = false
  noLock : s.begin.reg (hdrAddr page 0x020) = 0
  noPair : s.core.host.guards = []
  thawed : s.begin.frozen = false

theorem State.opens_elim {s : State} {page : Nat} (h : s.opens page = true) : Opens s page := by
  simp only [State.opens, Bool.and_eq_true, decide_eq_true_eq, Bool.not_eq_true', Option.isNone_iff_eq_none, List.isEmpty_iff,
    State.calm] at h
  obtain ⟨⟨⟨⟨⟨⟨⟨⟨a, b⟩, c⟩, d⟩, e⟩, f⟩, g⟩, i⟩, j⟩ := h
  exact ⟨a, b, c, d, e, f, g, i, j⟩

@[simp] theorem PageInfo.ofKind_kind (p : PageInfo) : p.ofKind.kind = p.kind := by
  unfold PageInfo.ofKind; split <;> rfl
@[simp] theorem PageInfo.ofKind_dom (p : PageInfo) : p.ofKind.dom = p.dom := by
  unfold PageInfo.ofKind; split <;> rfl

theorem pageInfo_lt {page : Nat} {p : PageInfo} (h : pageInfo page = some p) : page < 512 := by
  refine Nat.lt_of_not_le fun hn => ?_
  have h1 : ¬ page < 0x40 := by omega
  simp only [pageInfo, h1, if_false, pageRange] at h
  repeat rw [if_neg (by omega)] at h
  simp at h

theorem Dev.modHost_guards_self (d : Dev) (f : List GuardPend → List GuardPend) (h : f d.core.host.guards = d.core.host.guards) :
    d.modHost (fun x => { x with guards := f x.guards }) = d := by
  simp [Dev.modHost, h]

theorem Dev.locked_open {d : Dev} {page : Nat} (h : d.reg (hdrAddr page 0x020) = 0) (k : PageKind) (off : Nat) :
    d.locked page k off = false := by
  unfold Dev.locked
  rw [h]
  dsimp only
  split
  · rfl
  · split
    · rfl
    · have z : ∀ i, BitVec.getLsbD (0 : Word) i = false := fun _ => BitVec.getLsbD_zero
      rw [z, Bool.false_and, Bool.false_or, List.any_eq_false]
      intro r _
      split
      · rw [z]; decide
      · decide

/-- One whole dword written to an unguarded register of an open page. -/
theorem Dev.busWrite_reaches {s : State} {page off : Nat} {p : PageInfo} (ho : s.opens page = true) (hp : pageInfo page = some p)
    (h4 : off % 4 = 0) (ho4 : off < 4096) (hf : (regFields p.kind off).isEmpty = false) (hg : guardedAt p.kind off = false)
    (mst : Nat) (v : Word) :
    s.begin.busWrite mst (page * 4096 + off) v =
      (if off = 0x020 then s.begin.writeLock mst page v
        else if !(hasAcc p.kind off .rw || hasAcc p.kind off .wo) then (s.begin.drop, false)
        else s.begin.writeAct mst p.ofKind page off v).1.expirePend page := by
  have o := State.opens_elim ho
  have hlt := pageInfo_lt hp
  have e1 : (page * 4096 + off) / 4 * 4 = page * 4096 + off := by omega
  have e2 : (page * 4096 + off) / 4096 = page := by omega
  have e3 : (page * 4096 + off) % 4096 = off := by omega
  have hd : pageDom page = p.dom := by simp [pageDom, hp]
  have hon := o.on
  have hst := o.stays
  rw [hd] at hon hst
  have hc : s.begin.countWrite page = s.begin := by
    unfold Dev.countWrite
    exact Dev.modHost_guards_self _ (fun l => l.map _) (by simp [o.noPair])
  have hn : s.begin.pendOf page = none := by simp [Dev.pendOf, o.noPair]
  have hdrop : s.begin.dropPend page = s.begin := by simp [Dev.dropPend, hn]
  have hgate : ¬ (s.begin.bootGate = true ∧ (!bootPage page) = true ∧ mst / 256 ≠ 0xA) := by
    intro h; have := o.gate; simp [h.1, h.2.1] at this
  have hw : s.begin.writeDword mst (page * 4096 + off) v 0xF#4 =
      if off = 0x020 then s.begin.writeLock mst page v
        else if !(hasAcc p.kind off .rw || hasAcc p.kind off .wo) then (s.begin.drop, false)
        else s.begin.writeAct mst p.ofKind page off v := by
    unfold Dev.writeDword
    simp only [e2, e3, hp, ne_eq, not_true_eq_false, if_false, PageInfo.ofKind_dom, PageInfo.ofKind_kind, hon, hst, hf, hg, hgate]
    simp [o.noReset, hdrop, Dev.locked_open o.noLock]
  unfold Dev.busWrite Dev.writeRequest
  simp only [e1, e2, e3, hc, o.live]
  rw [if_neg (by simp; omega)]
  simp only [List.foldl_cons, List.foldl_nil, hw]

/-- One whole dword written to an open page. -/
theorem Dev.busWrite_open {s : State} {page off : Nat} {p : PageInfo} (ho : s.opens page = true) (hp : pageInfo page = some p)
    (h4 : off % 4 = 0) (ho4 : off < 4096) (hf : (regFields p.kind off).isEmpty = false) (hg : guardedAt p.kind off = false)
    (hl : off ≠ 0x020) (ha : (hasAcc p.kind off .rw || hasAcc p.kind off .wo) = true) (mst : Nat) (v : Word) :
    s.begin.busWrite mst (page * 4096 + off) v = (s.begin.writeAct mst p.ofKind page off v).1.expirePend page := by
  rw [Dev.busWrite_reaches ho hp h4 ho4 hf hg, if_neg hl, ha]
  rfl

theorem Dev.expirePend_none {d : Dev} {page : Nat} (h : d.core.host.guards = []) : d.expirePend page = d := by
  simp [Dev.expirePend, Dev.pendOf, h]

/-- A guarded pair written to an open page. -/
theorem Dev.busPair_open {s : State} {page off : Nat} {p : PageInfo} (ho : s.opens page = true) (hp : pageInfo page = some p)
    (h4 : off % 4 = 0) (h40 : 0x40 ≤ off) (h80 : off < 0x800) (hf : (regFields p.kind off).isEmpty = false)
    (hg : guardedAt p.kind off = true) (hc : (regFields p.kind (off + 0x800)).isEmpty = true) (mst : Nat) (v : Word) :
    s.begin.busPair mst (page * 4096 + off) v = (s.begin.writeAct mst p.ofKind page off v).1.expirePend page := by
  have o := State.opens_elim ho
  have hlt := pageInfo_lt hp
  have e1 : (page * 4096 + off) / 4 * 4 = page * 4096 + off := by omega
  have e2 : (page * 4096 + off) / 4096 = page := by omega
  have e3 : (page * 4096 + off) % 4096 = off := by omega
  obtain ⟨q, hq⟩ : ∃ q, q = off + 0x800 := ⟨_, rfl⟩
  have hq4 : q % 4 = 0 := by omega
  have hq5 : q < 4096 ∧ 0x840 ≤ q ∧ q - 0x800 = off := by omega
  have f0 : page * 4096 + off + 0x800 = page * 4096 + q := by rw [hq, Nat.add_assoc]
  rw [← hq] at hc
  clear hq
  have f1 : (page * 4096 + q) / 4 * 4 = page * 4096 + q := by omega
  have f2 : (page * 4096 + q) / 4096 = page := by omega
  have f3 : (page * 4096 + q) % 4096 = q := by omega
  have hd : pageDom page = p.dom := by simp [pageDom, hp]
  have hon := o.on
  have hst := o.stays
  rw [hd] at hon hst
  have hgate : ¬ (s.begin.bootGate = true ∧ (!bootPage page) = true ∧ mst / 256 ≠ 0xA) := by
    intro h; have := o.gate; simp [h.1, h.2.1] at this
  have hcw : s.begin.countWrite page = s.begin := by
    unfold Dev.countWrite
    exact Dev.modHost_guards_self _ (fun l => l.map _) (by simp [o.noPair])
  have hn : s.begin.pendOf page = none := by simp [Dev.pendOf, o.noPair]
  have hdrop : s.begin.dropPend page = s.begin := by simp [Dev.dropPend, hn]
  have hl : off ≠ 0x020 := by omega
  let d1 := fun (k : Nat) => s.begin.modHost fun h => { h with guards := [⟨page, off, v, k⟩] }
  have hw1 : (s.begin.writeDword mst (page * 4096 + off) v 0xF#4).1 = d1 1 := by
    unfold Dev.writeDword
    simp only [e2, e3, hp, ne_eq, not_true_eq_false, if_false, PageInfo.ofKind_dom, PageInfo.ofKind_kind, hon, hst, hf, hg, hgate]
    simp [o.noReset, hdrop, d1, Dev.modHost, o.noPair]
  have hb1 : s.begin.busWrite mst (page * 4096 + off) v = d1 1 := by
    unfold Dev.busWrite Dev.writeRequest
    simp only [e1, e2, e3, hcw, o.live]
    rw [if_neg (by simp; omega)]
    simp only [List.foldl_cons, List.foldl_nil, hw1]
    simp [Dev.expirePend, Dev.pendOf, d1, Dev.modHost]
  have hcw2 : (d1 1).countWrite page = d1 2 := by
    simp [d1, Dev.countWrite, Dev.modHost]
  have hw2 : ((d1 2).writeDword mst (page * 4096 + q) (~~~v) 0xF#4).1 = (s.begin.writeAct mst p.ofKind page off v).1 := by
    have hon' : (d1 2).domState p.dom = 0 := hon
    have hst' : (d1 2).enteringOf p.dom = none := hst
    have hgate' : ¬ ((d1 2).bootGate = true ∧ (!bootPage page) = true ∧ mst / 256 ≠ 0xA) := hgate
    have hpend : (d1 2).pendOf page = some ⟨page, off, v, 2⟩ := by simp [d1, Dev.pendOf, Dev.modHost]
    have hun : (d1 2).unpend page = s.begin := by
      simp only [d1, Dev.unpend, Dev.modHost]
      have := o.noPair
      simp only [List.filter, ne_eq, not_true_eq_false, decide_false]
      cases s with
      | mk r dm hm co pe => simp only [State.begin] at this ⊢; simp [this.symm]
    have hfz : s.begin.frozen = false := o.thawed
    unfold Dev.writeDword
    simp only [f2, f3, hp, ne_eq, not_true_eq_false, if_false, PageInfo.ofKind_dom, PageInfo.ofKind_kind, hon', hst', hc, hgate']
    have hir : (d1 2).inReset page = false := o.noReset
    simp only [hq5, hg]
    simp [Dev.writeComplement, hpend, hun, hir, Dev.pairDone, hfz, Dev.locked_open o.noLock]
  unfold Dev.busPair
  rw [hb1, f0]
  unfold Dev.busWrite Dev.writeRequest
  simp only [f1, f2, f3, hcw2]
  have hlive : (d1 1).barLive = true := o.live
  simp only [hlive]
  rw [if_neg (by simp; omega)]
  simp only [List.foldl_cons, List.foldl_nil, hw2]

end Sys2Proof.Machine
end

