-- ==== Sys2Proof/Laws/Answers.lean ====
section
/-! SUPPORT. How a statement about one command is reached: its effect, the collector at rest, and what the next state reads. -/
namespace Sys2Proof.Machine

/-- A command whose effect raises no fault event answers the state that its writes leave. -/
theorem answers_calm {c : Instr} {s : State} {f : Dev → Dev} {P : State → Prop} (he : exec c s = s.run f)
    (hc : (f s.begin).core.fault.raised = []) (hp : P (s.commit (f s.begin))) : Answers c s P :=
  ⟨_, by rw [he, State.run_calm hc], hp⟩

theorem exec_calm {c : Instr} {s : State} {f : Dev → Dev} (he : exec c s = s.run f) (hc : (f s.begin).core.fault.raised = []) :
    exec c s = .next (s.commit (f s.begin)) := by rw [he, State.run_calm hc]

theorem State.calmFor_iff {s : State} {f : Dev → Dev} : s.calmFor f = true ↔ (f s.begin).core.fault.raised = [] := by
  simp [State.calmFor]

/-- Every command runs one effect. -/
theorem exec_run (c : Instr) (s : State) : ∃ f : Dev → Dev, exec c s = s.run f := by
  cases c <;> dsimp only [exec,
    execRegisterWrite, execGuardPairExpiry, execPgStatClr, execResetReq, execQuiesce, execEnable, execResetDone, execPgLockWrite,
    execPowerRequest, execVote, execBar2Write, execBar2Read, execHostBusMasterChange, execHostPortLinkReset, execMbxSqTail,
    execMbxCqHead, execMbxEnable, execMbxDisable, execCommandFetch, execCommandCompletion, execMirrorWrite, execModeRequest,
    execFwInfo, execArmRecord, execArmDecode, execArmProxy, execDisarm, execRelease, execClose, execStreamStatus, execTakeStart,
    execTakeStop, execTakeStopTime, execSetIngest, execForceI, execForceIdr, execGetParamSets, execHostMeta, execHeadCmd,
    execHeadWake, execAllowAdd, execAllowRemove, execBufAssign, execBufFree, execAdmissionForward, execBlockLockGained,
    execBlockLockLost, execAlign, execPstart, execSample, execMetaPacket, execMotion, execHello, execResponse, execAck, execEcho,
    execHostileIntervalEnd, execPoliceCreditTick, execReplayFrame, execLaneMapFrame, execTriggerFrame, execTimeFrame,
    execHostCmdFrame, execChallengeFrame, execAdmitFrame, execTrainFrame, execAckFrame, execBackchannelResendTimeout,
    execResponseTimeout, execLinkLost, execGtQrel, execGtLaneOn, execWakePattern, execHoldExpiry, execPictureDeadline,
    execMissingPicture, execRowGrant, execTileDispatch, execStripCheckpoint, execTileCommit, execTileRowEmit, execMrmDrainTick,
    execRestartCreditTick, execMachineCheck, execPipelineOrder, execCommitPoint, execScanBoundary, execGafferHalt,
    execGafferHeartbeatTimeout, execEventAssert, execExternalFilterPass, execEvtSrcWrite, execFabricHandshakeTimeout,
    execLeaseRequest, execLeaseExpiry, execRingTailAdvance, execRingHeadAdvance, execQuDb, execQuRcfg, execDmaDescriptorDone,
    execDmaRequestLine, execDmaBurstDone, execChCfgWrite, execCalendarSlot, execPieceRelease, execRingSample, execChunkAllocate,
    execChunkRelease, execMagPresenceChange, execMagPerstRelease, execMagLinkUp, execMagLinkTimeout, execMagReady,
    execMagReadyTimeout, execNvmeAdminCompletion, execNvmeWriteCompletion, execNvmeReadCompletion, execNvmeFlushCompletion,
    execWriteTimeout, execMagLinkDown, execPcieCompletionTimeout, execExchangeWaitTimeout, execDrainConfirmTimeout,
    execPacePublish, execPortShortTimeout, execSmartPoll, execMagMount, execMagUnmount, execMagSwap, execMagFlush, execMagLog,
    execMagIdent, execArmOffload, execJournalWaitExpiry, execMemCorrectedRead, execMemUncorrectableRead, execPatrolScrub,
    execMcRetire, execRetirementCopyDone, execChannelLost, execRefreshDue, execDqsTrack, execChannelTrainingDone, execTimeStepAdd,
    execTimeSetAbsolute, execTimeRateInstall, execTmNowRead, execTmFreeRead, execRefclkLoss, execRefclkReturn, execPinStamp,
    execPpsOut, execTriggerDue, execEthFrameReceive, execPtpFrameTransmit, execPtpMessageDue, execAnnounceReceiptTimeout,
    execNetLinkChange, execPtpConfig, execPtpStatus, execTimeSet, execTrigSched, execTrigCancel, execTcConfig, execDecodeTileDone,
    execDecodePictureComplete, execPacedRelease, execProxySliceComplete, execProxyPictureStart, execRtcpSenderReport,
    execPeerIdent, execPeerDataFlit, execPeerNak, execPeerLinkLost, execHeartbeat, execPeerTime, execPeerTimeSend, execOfferReq,
    execOffer, execOfferTimeout, execAccept, execOfferReleaseTimeout, execConfirm, execReadReq, execPartnerFailed, execPeerStatus,
    execPeerAccept, execPeerRefuse, execFaultSourceEvent, execPathFault, execQuarantineClose, execFcClr, execFcClrAll,
    execFcRestore, execIdleTimerExpiry, execDomainEntryDone, execDomainWake, execDomainExitDone, execLpClreq, execLpTimerArm,
    execLpTimerExpiry, execDip, execDipRecovery, execFreezeLift, execSupplyReset, execPowerOnReset, execSeqRailGood,
    execSeqRailTimeout, execSeqRetry, execPinReset, execHostReset, execBootImageLoaded, execConfigRecordWaitEnd, execFlashReadPage,
    execFlashProgram, execFlashErase, execFlashCommandDone, execRcLog0Read, execEncTbytesRead, execDecSmpRead, execPxBytesRead,
    execPrTxRead, execTestGatherBank, execTestMagPort, execTestPeerPort, execTestNetPort, execTestDdr5Channel, execTestDone,
    execBypass, execIdcode, execSamplePreload, execExtest, execClamp, execHighz, execPinResetRelease, execHostLinkUp,
    execDatasetManagementCompletion, execProxyPacketLeavesPort] <;> exact ⟨_, rfl⟩

/-- Every command answers the state that its writes leave, with the collector's. -/
theorem exec_commit (c : Instr) (s : State) : ∃ d, exec c s = .next (s.commit d) := by
  obtain ⟨f, h⟩ := exec_run c s
  exact ⟨_, h⟩

/-- A table of the next state reads as it stood when the command ended. -/
theorem State.commit_mbx (s : State) (d : Dev) (m : Nat) : (s.commit d).begin.mbx m = d.mbx m := rfl
theorem State.commit_slot (s : State) (d : Dev) (n : Nat) : (s.commit d).begin.slot n = d.slot n := rfl

/-- With no write collected, what a command leaves is its core. -/
theorem State.commit_begin (s : State) (c : Core) : s.commit { s.begin with core := c } = s.withCore c := rfl

/-! ## The invariant -/

theorem Sparse.mem_del {α : Type} {k : Nat} {m : List (Nat × α)} {p : Nat × α} (h : p ∈ Sparse.del k m) : p ∈ m := by
  induction m with
  | nil => exact h
  | cons q m ih =>
    simp only [Sparse.del] at h
    split at h
    · exact List.mem_cons_of_mem _ (ih h)
    · rcases List.mem_cons.1 h with h | h
      · exact h ▸ List.mem_cons_self
      · exact List.mem_cons_of_mem _ (ih h)

theorem Sparse.mem_ins {α : Type} {k : Nat} {v : α} {m : List (Nat × α)} {p : Nat × α} (h : p ∈ Sparse.ins k v m) :
    p = (k, v) ∨ p ∈ m := by
  induction m with
  | nil => simpa [Sparse.ins] using h
  | cons q m ih =>
    simp only [Sparse.ins] at h
    split at h
    · rcases List.mem_cons.1 h with h | h
      · exact .inl h
      · exact .inr h
    · split at h
      · rcases List.mem_cons.1 h with h | h
        · exact .inl h
        · exact .inr (List.mem_cons_of_mem _ h)
      · rcases List.mem_cons.1 h with h | h
        · exact .inr (h ▸ List.mem_cons_self)
        · rcases ih h with h | h
          · exact .inl h
          · exact .inr (List.mem_cons_of_mem _ h)

theorem regsFixed_set {m : List (Nat × Word)} (h : regsFixed m = true) (a : Nat) (v : Word) :
    regsFixed (Sparse.set resetWord m a (regVal a v)) = true := by
  simp only [regsFixed, List.all_eq_true, decide_eq_true_eq] at h ⊢
  intro p hp
  unfold Sparse.set at hp
  split at hp
  · exact h p (Sparse.mem_del hp)
  · rcases Sparse.mem_ins hp with rfl | hp
    · exact regVal_regVal a v
    · exact h p hp

theorem commitRegs_fixed {m : List (Nat × Word)} (h : regsFixed m = true) (log : List (Nat × Word)) :
    regsFixed (commitRegs m log) = true := by
  unfold commitRegs
  generalize log.reverse = l
  induction l generalizing m with
  | nil => exact h
  | cons p l ih => exact ih (regsFixed_set h p.1 p.2)

theorem get_fixed {m : List (Nat × Word)} (h : regsFixed m = true) (a : Nat) :
    Sparse.get resetWord m a = resetWord a ∨ regVal a (Sparse.get resetWord m a) = Sparse.get resetWord m a := by
  induction m with
  | nil => exact .inl rfl
  | cons p m ih =>
    simp only [regsFixed, List.all_cons, Bool.and_eq_true, decide_eq_true_eq] at h
    simp only [Sparse.get]
    split
    · rename_i e; subst e; exact .inr h.1
    · exact ih h.2

theorem regVal_fixed (a : Nat) (v : Word) : regVal a v &&& ~~~wrMask a = resetWord a &&& ~~~wrMask a := by
  unfold regVal
  ext i hi
  simp only [BitVec.getElem_or, BitVec.getElem_and, BitVec.getElem_not]
  cases (wrMask a)[i] <;> simp

/-- A register of a state that meets the invariant has its fixed bits. -/
theorem inv_reg {s : State} (h : s.inv = true) (a : Nat) : s.begin.reg a &&& ~~~wrMask a = resetWord a &&& ~~~wrMask a := by
  simp only [State.inv, Bool.and_eq_true] at h
  have e : s.begin.reg a = Sparse.get resetWord s.regs a := by simp [Dev.reg, State.begin, Overlay.start, Overlay.get]
  rw [e]
  rcases get_fixed h.1.1.2 a with g | g
  · rw [g]
  · rw [← g]; exact regVal_fixed a _

end Sys2Proof.Machine
end

