-- ==== Sys2Proof/Laws/Collector.lean ====
section
/-! SUPPORT. What the fault collector does with one event of a source that is in fault state already: it counts it and may write
a record packet, and no reaction follows. -/
namespace Sys2Proof.Machine

/-- `d'` differs from `d` at most in registers, the collector, event sources, Lehr's moves and channels. -/
structure Dev.Collected (d d' : Dev) : Prop where
  core : ∃ f e l c, d'.core = { d.core with fault := f, evts := e, lehr := l, chans := c }
  dram : d'.dram = d.dram
  hostMem : d'.hostMem = d.hostMem

theorem Dev.Signals.collected {d d' : Dev} (h : Dev.Signals d d') : Dev.Collected d d' := by
  obtain ⟨e, l, c, hc⟩ := h.core
  exact ⟨⟨d.core.fault, e, l, c, by rw [hc]⟩, h.dram, h.hostMem⟩

theorem Dev.Collected.trans {a b c : Dev} (h : Dev.Collected a b) (g : Dev.Collected b c) : Dev.Collected a c := by
  obtain ⟨f, e, l, k, h1⟩ := h.core
  obtain ⟨f', e', l', k', g1⟩ := g.core
  exact ⟨⟨f', e', l', k', by rw [g1, h1]⟩, g.dram.trans h.dram, g.hostMem.trans h.hostMem⟩

theorem Dev.Collected.modFault (d : Dev) (f : FaultSt → FaultSt) : Dev.Collected d (d.modFault f) := ⟨⟨_, _, _, _, rfl⟩, rfl, rfl⟩

theorem Dev.putPacket_collected (d : Dev) (src : Nat) (a b p : Bool) (ws : List Word) (r n : Nat) :
    Dev.Collected d (d.putPacket src a b p ws r n) := by
  unfold Dev.putPacket
  dsimp only
  refine Dev.Collected.trans ?_ (Dev.requestLine_signals _ 0).collected
  split
  · exact ⟨⟨_, _, _, _, rfl⟩, rfl, rfl⟩
  · exact ⟨⟨_, _, _, _, rfl⟩, rfl, rfl⟩

/-- A packet changes the record FIFO of the collector alone. -/
theorem Dev.putPacket_fault (d : Dev) (src : Nat) (a b p : Bool) (ws : List Word) (r n : Nat) :
    (d.putPacket src a b p ws r n).core.fault.recs = d.core.fault.recs ∧
      (d.putPacket src a b p ws r n).core.fault.raised = d.core.fault.raised ∧
      (d.putPacket src a b p ws r n).core.fault.windows = d.core.fault.windows := by
  unfold Dev.putPacket
  dsimp only
  rw [(Dev.requestLine_signals _ 0).fault]
  split <;> exact ⟨rfl, rfl, rfl⟩

/-- The source exists, is in fault state, lies in no quarantine window, holds no equal rails, and is not a controller's. -/
def Dev.known (d : Dev) (src : Nat) : Bool :=
  (srcInfo src).isSome && (d.frec src).state && !d.railsHold src && !d.quarantined (srcBlock src) &&
    !(decide (1734 ≤ src) && decide (src < 1750))

theorem Dev.reactAll_none (d : Dev) (e : FaultEvent) (h : ¬ (1734 ≤ e.src ∧ e.src < 1750)) : d.reactAll [(e, 0)] = d := by
  unfold Dev.reactAll
  have h0 : ∀ bit, ([(e, 0)] : List (FaultEvent × Nat)).filter (fun p => p.2.testBit bit) = [] := by
    intro bit; simp
  simp only [h0]
  have hr : ∀ bit, reactOrder bit [] = [] := by intro bit; simp [reactOrder]
  simp only [hr, List.foldl_nil, List.foldl_cons]
  rw [if_neg (by intro g; exact h ⟨g.1, g.2.1⟩)]

theorem Dev.frec_of_setFrec {d x : Dev} {n : Nat} {R : FaultRec} (h : x.core.fault.recs = (d.setFrec n R).core.fault.recs) :
    x.frec n = R := by
  have := Dev.setFrec_frec d n R
  unfold Dev.frec at this ⊢
  rw [h]; exact this

/-- A known source's event is recorded; a packet may be written. -/
theorem Dev.takeEvent_known {d : Dev} {e : FaultEvent} (hp : e.path = false) {i : SrcInfo} (hi : srcInfo e.src = some i)
    (hst : (d.frec e.src).state = true) (hr : d.railsHold e.src = false) (hq : d.quarantined i.block = false) :
    ∃ (R : FaultRec) (c : Bool) (a b p : Bool) (ws : List Word) (r n : Nat), R.state = true ∧
      R.total = min ((d.frec e.src).total + 1) (2 ^ 32 - 1) ∧
      d.takeEvent e = (if c = true then (d.setFrec e.src R).putPacket e.src a b p ws r n else d.setFrec e.src R, 0) := by
  unfold Dev.takeEvent
  simp only [hi, hp, hr, hq, Bool.false_eq_true, if_false, Dev.setFrec_frec, and_false]
  generalize hR : (if (d.fullCapture e.src && !(d.frec e.src).captured) = true then _ else _ : FaultRec) = R
  have hRs : R.state = true := by rw [← hR]; split <;> exact hst
  have hRt : R.total = min ((d.frec e.src).total + 1) (2 ^ 32 - 1) := by rw [← hR]; split <;> rfl
  simp only [hRs, if_true]
  exact ⟨R, _, _, _, _, _, _, _, hRs, hRt, rfl⟩

/-- One event of a known source: TOTAL counts it, the source stays in fault state, and nothing reacts. -/
theorem Dev.settle_known {d : Dev} {e : FaultEvent} (hr : d.core.fault.raised = [e]) (hp : e.path = false) (hk : d.known e.src = true) (n : Nat) :
    Dev.Collected d (d.settle (n + 1)) ∧ (d.settle (n + 1)).core.fault.raised = [] ∧
      ((d.settle (n + 1)).frec e.src).state = true ∧
      ((d.settle (n + 1)).frec e.src).total = min ((d.frec e.src).total + 1) (2 ^ 32 - 1) := by
  simp only [Dev.known, Bool.and_eq_true, Bool.not_eq_true', Bool.and_eq_false_iff, decide_eq_false_iff_not, Option.isSome_iff_exists] at hk
  obtain ⟨⟨⟨⟨⟨i, hi⟩, hst⟩, hrails⟩, hq⟩, hg⟩ := hk
  have hg' : ¬ (1734 ≤ e.src ∧ e.src < 1750) := by rintro ⟨a, b⟩; rcases hg with h | h <;> omega
  have hb : srcBlock e.src = i.block := by simp [srcBlock, hi]
  rw [hb] at hq
  obtain ⟨R, c, a, b, p, ws, r, k, hRs, hRt, ht⟩ :=
    Dev.takeEvent_known (d := d.modFault fun f => { f with raised := [] }) hp hi hst hrails hq
  have h1 : ∀ x : Dev, x = (if c = true then ((d.modFault fun f => { f with raised := [] }).setFrec e.src R).putPacket e.src a b p ws r k
      else (d.modFault fun f => { f with raised := [] }).setFrec e.src R) →
      Dev.Collected d x ∧ x.core.fault.raised = [] ∧ x.frec e.src = R := by
    intro x hx
    have h0 : Dev.Collected d ((d.modFault fun f => { f with raised := [] }).setFrec e.src R) := ⟨⟨_, _, _, _, rfl⟩, rfl, rfl⟩
    subst hx
    split
    · have hpf := Dev.putPacket_fault ((d.modFault fun f => { f with raised := [] }).setFrec e.src R) e.src a b p ws r k
      exact ⟨h0.trans (Dev.putPacket_collected _ _ _ _ _ _ _ _), hpf.2.1, Dev.frec_of_setFrec hpf.1⟩
    · exact ⟨h0, rfl, Dev.setFrec_frec _ _ _⟩
  have hcoll : d.collect = (if c = true then ((d.modFault fun f => { f with raised := [] }).setFrec e.src R).putPacket e.src a b p ws r k
      else (d.modFault fun f => { f with raised := [] }).setFrec e.src R) := by
    unfold Dev.collect
    have hf : ([e].filter fun x => x.path || !([e].any fun o => o.path && decide (o.src = x.src))) = [e] := by simp [hp]
    simp only [hr, hf, List.foldl_cons, List.foldl_nil, List.nil_append, ht]
    exact Dev.reactAll_none _ e hg'
  obtain ⟨g1, g2, g3⟩ := h1 _ hcoll
  have hs : d.settle (n + 1) = d.collect := by
    rw [Dev.settle, hr]
    simp only [List.isEmpty_cons, Bool.false_eq_true, if_false]
    cases n <;> simp [Dev.settle, g2]
  rw [hs]
  exact ⟨g1, g2, by rw [g3]; exact hRs, by rw [g3]; exact hRt⟩

end Sys2Proof.Machine
end

