-- ==== Sys2Proof/Laws/Header.lean ====
section
/-! SUPPORT. The common page header: where its registers lie, and which of their bits may change. -/
namespace Sys2Proof.Machine

set_option maxRecDepth 100000 in
/-- Every page of the block base table: its first page is one too and is its own first page, it is the page of its block's index, and the
doorbell and channel pages count from their first page. -/
theorem pages_ok : ∀ page : Fin 512, (pageInfo page.val).all (fun p =>
    (match pageInfo p.first with
      | some q => decide (q.first = p.first)
      | none => false) &&
    decide (blockPage (blockIdx page.val) = p.first) && decide (pageDom p.first = pageDom page.val)) = true := by decide

theorem firstPage_of {page : Nat} {p : PageInfo} (h : pageInfo page = some p) : firstPage page = p.first := by simp [firstPage, h]

theorem firstPage_info {page : Nat} {p : PageInfo} (h : pageInfo page = some p) :
    ∃ q, pageInfo (firstPage page) = some q ∧ q.first = firstPage page := by
  have hp := pages_ok ⟨page, pageInfo_lt h⟩
  simp only [h, Option.all_some, Bool.and_eq_true] at hp
  rw [firstPage_of h]
  obtain ⟨⟨h1, _⟩, _⟩ := hp
  split at h1
  · rename_i q hq; exact ⟨q, hq, by simpa using h1⟩
  · cases h1

theorem firstPage_idem {page : Nat} {p : PageInfo} (h : pageInfo page = some p) : firstPage (firstPage page) = firstPage page := by
  obtain ⟨q, hq, he⟩ := firstPage_info h
  rw [firstPage_of hq, he]

theorem blockPage_idx {page : Nat} {p : PageInfo} (h : pageInfo page = some p) : blockPage (blockIdx page) = firstPage page := by
  have hp := pages_ok ⟨page, pageInfo_lt h⟩
  simp only [h, Option.all_some, Bool.and_eq_true, decide_eq_true_eq] at hp
  rw [firstPage_of h]; exact hp.1.2

theorem firstPage_dom {page : Nat} {p : PageInfo} (h : pageInfo page = some p) : pageDom (firstPage page) = pageDom page := by
  have hp := pages_ok ⟨page, pageInfo_lt h⟩
  simp only [h, Option.all_some, Bool.and_eq_true, decide_eq_true_eq] at hp
  rw [firstPage_of h]; exact hp.2

/-- The changing bits of a header register are those of its header fields. -/
theorem header_mask {page off : Nat} {p : PageInfo} (h : pageInfo page = some p) (ho : off < 0x40) :
    wrMask (page * 4096 + off) = rowsMask (headerFields.filter (·.covers off)) := by
  have h1 : (page * 4096 + off) / 4096 = page := by omega
  have h2 : (page * 4096 + off) % 4096 = off := by omega
  simp [wrMask, h1, h2, h, regFields, ho]

/-- The changing bits of a header register at its home. -/
theorem hdr_mask {page off : Nat} {p : PageInfo} (h : pageInfo page = some p) (ho : off < 0x40) :
    wrMask (hdrAddr page off) = rowsMask (headerFields.filter (·.covers off)) := by
  unfold hdrAddr
  split
  · obtain ⟨q, hq, _⟩ := firstPage_info h
    exact header_mask hq ho
  · exact header_mask h ho

/-- A header field reads what it was set to. -/
theorem Dev.hget_hset_same (d : Dev) {page : Nat} {p : PageInfo} (h : pageInfo page = some p) (r : FieldRow) (v : Nat) (ho : r.off < 0x40)
    (hm : rowsMask (headerFields.filter (·.covers r.off)) &&& r.mask = r.mask) (hw : r.lo + r.width ≤ 32) :
    (d.hset page r v).hget page r = v % 2 ^ r.width := by
  simp only [Dev.hget, Dev.hset, Dev.reg_setReg_same]
  rw [FieldRow.ext_regVal r _ (by rw [hdr_mask h ho]; exact hm) hw, FieldRow.ext_ins_same r hw]

/-- Another field of the same header register reads what it read before. -/
theorem Dev.hget_hset_field (d : Dev) {page : Nat} {p : PageInfo} (h : pageInfo page = some p) (r q : FieldRow) (v : Nat) (he : q.off = r.off)
    (ho : q.off < 0x40) (hm : rowsMask (headerFields.filter (·.covers q.off)) &&& q.mask = q.mask) (hw : q.lo + q.width ≤ 32)
    (hd : q.lo + q.width ≤ r.lo ∨ r.lo + r.width ≤ q.lo) : (d.hset page r v).hget page q = d.hget page q := by
  simp only [Dev.hget, Dev.hset, ← he, Dev.reg_setReg_same]
  rw [FieldRow.ext_regVal q _ (by rw [hdr_mask h ho]; exact hm) hw, FieldRow.ext_ins_other r q hd]

theorem State.commit_hget {s : State} {d : Dev} (h : Dev.Over s d) (page : Nat) (r : FieldRow) : (s.commit d).begin.hget page r = d.hget page r := by
  simp only [Dev.hget, State.commit_reg h]

/-- A register that a command wrote reads in the next state what it wrote last. -/
theorem State.commit_wrote {s : State} {d : Dev} {a : Nat} {v : Word} (h : d.regs.log.lookup a = some v) :
    (s.commit d).begin.reg a = regVal a v := by
  have e : (s.commit d).begin.reg a = Sparse.get resetWord (commitRegs s.regs d.regs.log) a := by
    simp [Dev.reg, State.begin, State.commit, Overlay.start, Overlay.get]
  rw [e, commitRegs, Sparse.get_fold resetWord (fun a v => regVal a v), h]

@[simp] theorem Dev.setReg_wrote (d : Dev) (a : Nat) (v : Word) : (d.setReg a v).regs.log.lookup a = some (regVal a v) := by
  simp [Dev.setReg, Overlay.put]

theorem Dev.setReg_wrote_other (d : Dev) {a b : Nat} (h : b ≠ a) (v : Word) : (d.setReg a v).regs.log.lookup b = d.regs.log.lookup b := by
  simp [Dev.setReg, Overlay.put, List.lookup_cons, show (b == a) = false by simpa using h]

/-- A guarded value that expires writes PG_STAT and PG_EVT of its page alone. -/
theorem Dev.expirePend_wrote (d : Dev) (page a : Nat) (h1 : a ≠ page * 4096 + 0x00C) (h2 : a ≠ page * 4096 + 0x024) :
    (d.expirePend page).regs.log.lookup a = d.regs.log.lookup a := by
  have h2' : a ≠ hdrAddr page 0x024 := by simpa [hdrAddr, hdrBlock] using h2
  unfold Dev.expirePend
  split
  · split
    · unfold Dev.dropPend
      split
      · show (((d.unpend page).stat page (2 ^ 22)).hbump page fPG_EVT_GUARD_MISS).regs.log.lookup a = _
        exact (Dev.setReg_wrote_other _ h2' _).trans (Dev.setReg_wrote_other _ h1 _)
      · rfl
    · rfl
  · rfl

end Sys2Proof.Machine
end

