-- ==== Sys2Proof/Laws/Known.lean ====
section
/-! SUPPORT. A command that raises one event of a source the collector knows, a read of an open page, and case splits that keep a
goal small. -/
namespace Sys2Proof.Machine

/-- What a known source's facts are. -/
theorem State.knows_elim {s : State} {src : Nat} (h : s.knows src = true) :
    s.core.fault.raised = [] ∧ (srcInfo src).isSome = true ∧ (s.begin.frec src).state = true ∧ (s.begin.frec src).railsEq = false ∧
      s.core.fault.windows = [] ∧ ¬ (1734 ≤ src ∧ src < 1750) := by
  simp only [State.knows, Bool.and_eq_true, Bool.not_eq_true', List.isEmpty_iff, State.calm] at h
  obtain ⟨⟨⟨⟨⟨a, b⟩, c⟩, e⟩, f⟩, g⟩ := h
  refine ⟨a, b, c, e, f, ?_⟩
  rintro ⟨h1, h2⟩
  simp [h1, h2] at g

/-- A command whose effect raises one event of a known source: the collector counts it, and the rest of the core stands as the effect
left it. -/
theorem answers_known {c : Instr} {s : State} {f : Dev → Dev} {e : FaultEvent} {P : State → Prop} (he : exec c s = s.run f)
    (hk : s.knows e.src = true) (hp : e.path = false) (hr : (f s.begin).core.fault.raised = [e])
    (hw : (f s.begin).core.fault.windows = s.core.fault.windows)
    (hs : ((f s.begin).frec e.src).state = true) (hq : ((f s.begin).frec e.src).railsEq = false)
    (hP : ∀ d, Dev.Collected (f s.begin) d → (d.frec e.src).state = true →
      (d.frec e.src).total = min (((f s.begin).frec e.src).total + 1) (2 ^ 32 - 1) → P (s.commit d)) : Answers c s P := by
  obtain ⟨_, h2, _, _, h5, h6⟩ := State.knows_elim hk
  have hkn : (f s.begin).known e.src = true := by
    have hq' : (f s.begin).quarantined (srcBlock e.src) = false := by simp [Dev.quarantined, hw, h5]
    have hg : (decide (1734 ≤ e.src) && decide (e.src < 1750)) = false := by
      by_cases h1 : 1734 ≤ e.src <;> by_cases h2 : e.src < 1750 <;> simp [h1, h2] <;> exact h6 ⟨h1, h2⟩
    simp [Dev.known, h2, hs, Dev.railsHold, hq, hq', hg]
  obtain ⟨g1, _, g3, g4⟩ := Dev.settle_known hr hp hkn 63
  exact ⟨s.commit ((f s.begin).settle 64), by rw [he]; rfl, hP _ g1 g3 g4⟩

/-- A read of an open page touches nothing else. -/
theorem State.reads_elim {s : State} {page : Nat} (h : s.reads page = true) :
    s.core.fault.raised = [] ∧ (s.begin.bootGate && !bootPage page) = false ∧ s.begin.domState (pageDom page) = 0 ∧ s.core.host.guards = [] := by
  simp only [State.reads, Bool.and_eq_true, decide_eq_true_eq, Bool.not_eq_true', List.isEmpty_iff, State.calm] at h
  exact ⟨h.1.1.1, h.1.1.2, h.1.2, h.2⟩

theorem Dev.touchPage_idle {s : State} {page : Nat} (h : s.reads page = true) : s.begin.touchPage page = s.begin := by
  obtain ⟨_, _, h3, h4⟩ := State.reads_elim h
  have : s.begin.countAccess page = s.begin := by
    unfold Dev.countAccess Dev.pendOf
    rw [show s.begin.core.host.guards = [] from h4]; rfl
  unfold Dev.touchPage
  rw [this, if_neg (by rw [h3]; decide)]

theorem ite_both {α : Type} {P : α → Prop} {c : Prop} [Decidable c] {a b : α} (ha : P a) (hb : P b) : P (if c then a else b) := by
  split <;> assumption

theorem ite_split {α : Type} {P : α → Prop} {c : Prop} [Decidable c] {a b : α} (ha : c → P a) (hb : ¬ c → P b) :
    P (if c then a else b) := by
  by_cases h : c
  · rw [if_pos h]; exact ha h
  · rw [if_neg h]; exact hb h

theorem bool_split {α : Type} {P : α → Prop} {b : Bool} {x y : α} (hx : b = true → P x) (hy : b = false → P y) :
    P (if b = true then x else y) := by
  cases b
  · exact hy rfl
  · exact hx rfl

end Sys2Proof.Machine
end

