-- ==== Sys2Proof/Laws/Memory.lean ====
section
/-! SUPPORT. DRAM and host memory byte by byte: what a write of a list of bytes leaves at every address. -/
namespace Sys2Proof.Machine

/-- A byte of host memory after a write. -/
theorem Dev.hostByte_writeHost (bs : List Byte) : ∀ (d : Dev) (a b : Nat),
    (d.writeHost a bs).hostByte b = if a ≤ b ∧ b < a + bs.length then bs.getD (b - a) 0 else d.hostByte b := by
  induction bs with
  | nil => intro d a b; rw [if_neg (by simp)]; rfl
  | cons x bs ih =>
    intro d a b
    show (({ d with hostMem := d.hostMem.put a x } : Dev).writeHost (a + 1) bs).hostByte b = _
    rw [ih]
    by_cases h1 : a + 1 ≤ b ∧ b < a + 1 + bs.length
    · rw [if_pos h1, if_pos (by simp; omega), show b - a = (b - (a + 1)) + 1 by omega, List.getD_cons_succ]
    · rw [if_neg h1]
      by_cases h2 : b = a
      · subst h2
        rw [if_pos (by simp)]
        simp [Dev.hostByte]
      · rw [if_neg (by simp; omega)]
        simp [Dev.hostByte, Overlay.get_put_other _ _ h2]

/-- A write to host memory changes host memory alone. -/
theorem Dev.writeHost_frame (bs : List Byte) : ∀ (d : Dev) (a : Nat),
    (d.writeHost a bs).core = d.core ∧ (d.writeHost a bs).regs = d.regs ∧ (d.writeHost a bs).dram = d.dram ∧
      (d.writeHost a bs).hostMem.base = d.hostMem.base := by
  induction bs with
  | nil => intro d a; exact ⟨rfl, rfl, rfl, rfl⟩
  | cons x bs ih => intro d a; exact ih _ _

@[simp] theorem Dev.writeHost_base (d : Dev) (a : Nat) (bs : List Byte) : (d.writeHost a bs).hostMem.base = d.hostMem.base :=
  (writeHost_frame bs d a).2.2.2

theorem Dev.Over.writeHost {s : State} {d : Dev} (h : Dev.Over s d) (a : Nat) (bs : List Byte) : Dev.Over s (d.writeHost a bs) :=
  h.of_eq (by simp) (by simp) (by simp)

/-- A byte of DRAM after a write. -/
theorem Dev.dramByte_putDram (bs : List Byte) : ∀ (d : Dev) (a b : Nat),
    (d.putDram a bs).dramByte b = if a ≤ b ∧ b < a + bs.length then bs.getD (b - a) 0 else d.dramByte b := by
  induction bs with
  | nil => intro d a b; rw [if_neg (by simp)]; rfl
  | cons x bs ih =>
    intro d a b
    show ((d.setDram a x).putDram (a + 1) bs).dramByte b = _
    rw [ih]
    by_cases h1 : a + 1 ≤ b ∧ b < a + 1 + bs.length
    · rw [if_pos h1, if_pos (by simp; omega), show b - a = (b - (a + 1)) + 1 by omega, List.getD_cons_succ]
    · rw [if_neg h1]
      by_cases h2 : b = a
      · subst h2
        rw [if_pos (by simp)]
        simp [Dev.dramByte, Dev.setDram]
      · rw [if_neg (by simp; omega)]
        simp [Dev.dramByte, Dev.setDram, Overlay.get_put_other _ _ h2]

/-- Bytes put into DRAM change DRAM alone. -/
theorem Dev.putDram_frame (bs : List Byte) : ∀ (d : Dev) (a : Nat),
    (d.putDram a bs).core = d.core ∧ (d.putDram a bs).regs = d.regs ∧ (d.putDram a bs).hostMem = d.hostMem ∧
      (d.putDram a bs).dram.base = d.dram.base := by
  induction bs with
  | nil => intro d a; exact ⟨rfl, rfl, rfl, rfl⟩
  | cons x bs ih => intro d a; exact ih _ _

/-- A write to DRAM: its bytes, the poison it clears (R311), and nothing else. -/
theorem Dev.writeDram_frame (d : Dev) (a : Nat) (bs : List Byte) :
    (d.writeDram a bs).core = { d.core with mem := d.core.mem.heal a bs.length } ∧ (d.writeDram a bs).regs = d.regs ∧
      (d.writeDram a bs).hostMem = d.hostMem ∧ (d.writeDram a bs).dram.base = d.dram.base := by
  have h := putDram_frame bs d a
  refine ⟨?_, h.2.1, h.2.2.1, h.2.2.2⟩
  simp only [Dev.writeDram, h.1]

theorem Dev.dramByte_writeDram (d : Dev) (a b : Nat) (bs : List Byte) :
    (d.writeDram a bs).dramByte b = if a ≤ b ∧ b < a + bs.length then bs.getD (b - a) 0 else d.dramByte b :=
  Dev.dramByte_putDram bs d a b

theorem Dev.Over.writeDram {s : State} {d : Dev} (h : Dev.Over s d) (a : Nat) (bs : List Byte) : Dev.Over s (d.writeDram a bs) :=
  h.of_eq (Dev.writeDram_frame d a bs).2.1 (Dev.writeDram_frame d a bs).2.2.2 (by rw [(Dev.writeDram_frame d a bs).2.2.1])

/-- Where a command wrote nothing, the next state's memory is the old one. -/
theorem State.commit_dram_same {s : State} {d : Dev} (h : d.dram.log = []) : (s.commit d).dram = s.dram := by
  simp [State.commit, h, Sparse.apply]
theorem State.commit_hostMem_same {s : State} {d : Dev} (h : d.hostMem.log = []) : (s.commit d).hostMem = s.hostMem := by
  simp [State.commit, h, Sparse.apply]
theorem State.commit_regs_same {s : State} {d : Dev} (h : d.regs.log = []) : (s.commit d).regs = s.regs := by
  simp [State.commit, h, commitRegs]

/-- A register that the command did not write reads as before. -/
theorem State.commit_unwritten {s : State} {d : Dev} {a : Nat} (h : d.regs.log.lookup a = none) : (s.commit d).begin.reg a = s.begin.reg a := by
  have e : (s.commit d).begin.reg a = Sparse.get resetWord (commitRegs s.regs d.regs.log) a := by
    simp [Dev.reg, State.begin, State.commit, Overlay.start, Overlay.get]
  rw [e, commitRegs, Sparse.get_fold resetWord (fun a v => regVal a v), h]
  simp [Dev.reg, State.begin, Overlay.start, Overlay.get]

end Sys2Proof.Machine
end

