-- ==== Sys2Proof/WellFormed.lean ====
section
/-! DEFINITION. The checks on the operands that the types of Syntax.lean leave open. Each check has a name; a command that passes all of them is
well formed. No meaning rests on them: a command that fails one is carried out as the spec treats what it brings, or has no effect. -/
namespace Sys2Proof

/-- The names of the checks. -/
inductive Malformed where
  /-- A write request of no dword, of more than 16, or beyond BAR0 (R21). -/
  | request
  /-- A BAR2 access of no byte, or beyond the window of 64 GiB (R40). -/
  | window
  /-- A submission entry that is not 16 words (R36). -/
  | entry
  /-- A descriptor that is not eight words, or more data than its LEN can say (R253). -/
  | descriptor
  /-- A decode pipeline beyond the twenty (Table 1.3). -/
  | pipe
  /-- An event source beyond the 136 (Table 12.7). -/
  | source
  /-- A DRAM address beyond 2 ^ 40, where no channel has a line (R310). -/
  | dram
  /-- A payload longer than its carrier holds. -/
  | payload
  /-- An address of more than 64 bits. -/
  | address
  /-- More record streams than there are slots (R49). -/
  | streams
  deriving DecidableEq, Repr

/-- A pipeline of the decode array is one of twenty. -/
def badPipe (decode : Bool) (pipe : Nat) : Option Malformed := if decode && decide (20 ≤ pipe) then some .pipe else none

/-- An address of the DRAM map. -/
def badDram (addr : Nat) : Option Malformed := if addr < 2 ^ 40 then none else some .dram

/-- A payload of at most `n` bytes. -/
def badPayload (n : Nat) (bs : List Byte) : Option Malformed := if bs.length ≤ n then none else some .payload

/-- A read of host memory or of a magazine for a mailbox command; none: the read failed. -/
def badRead (r : Option (List Byte)) : Option Malformed := badPayload 65536 (r.getD [])

/-- The check that a command fails, by name. -/
def Instr.check : Instr → Option Malformed
  | .registerWrite _ addr dws => if dws.isEmpty ∨ 16 < dws.length ∨ 0x200000 < addr + 4 * dws.length then some .request else none
  | .bar2Write off data => if data.isEmpty ∨ 2 ^ 36 < off + data.length then some .window else none
  | .bar2Read off ndw => if ndw.val = 0 ∨ 2 ^ 36 < off + 4 * ndw.val then some .window else none
  | .commandFetch _ entry => match entry with
    | some ws => if ws.length = 16 then none else some .entry
    | none => none
  | .armDecode _ source => badRead source
  | .armProxy _ tpl => badRead tpl
  | .hostMeta _ data => badRead data
  | .sample _ packet => badPayload 65536 packet
  | .metaPacket _ packet => badPayload 65536 packet
  | .motion _ packet => badPayload 65536 packet
  | .hello _ packet => badPayload 65536 packet
  | .response _ packet => badPayload 65536 packet
  | .ack _ packet => badPayload 65536 packet
  | .echo _ packet => badPayload 65536 packet
  | .machineCheck decode pipe _ _ => badPipe decode pipe.val
  | .pipelineOrder decode pipe _ => badPipe decode pipe.val
  | .commitPoint decode pipe _ => badPipe decode pipe.val
  | .eventAssert src _ => if src.val < 136 then none else some .source
  | .externalFilterPass src _ => if src.val < 136 then none else some .source
  | .evtSrcWrite _ src _ => if src.val < 136 then none else some .source
  | .dmaDescriptorDone _ desc _ data => if desc.length ≠ 8 ∨ 2 ^ 32 ≤ data.length then some .descriptor else none
  | .dmaBurstDone _ data => badPayload 65536 data
  | .nvmeAdminCompletion _ _ _ data => badPayload 4096 data
  | .nvmeReadCompletion _ _ _ _ data => badPayload 131072 data
  | .armOffload _ source => badRead source
  | .memUncorrectableRead addr _ _ => badDram addr
  | .patrolScrub addr _ => badDram addr
  | .ethFrameReceive _ frame => badPayload 65536 frame
  | .peerDataFlit _ flit => badPayload 256 flit
  | .offerReq _ streams _ => if streams ≤ 1024 then none else some .streams
  | .accept _ _ _ _ streams => if streams.length ≤ 1024 then none else some .streams
  | .confirm _ _ endAddr => if endAddr < 2 ^ 64 then none else some .address
  | .faultSourceEvent _ _ _ _ addr => if addr < 2 ^ 64 then none else some .address
  | .guardPairExpiry .. | .pgStatClr .. | .resetReq .. | .quiesce .. | .enable .. | .resetDone .. | .pgLockWrite .. | .powerRequest .. | .vote ..
  | .hostBusMasterChange .. | .hostPortLinkReset | .mbxSqTail .. | .mbxCqHead .. | .mbxEnable .. | .mbxDisable .. | .commandCompletion ..
  | .mirrorWrite | .modeRequest .. | .fwInfo .. | .armRecord .. | .disarm .. | .release .. | .close .. | .streamStatus .. | .takeStart ..
  | .takeStop .. | .takeStopTime | .setIngest .. | .forceI .. | .forceIdr .. | .getParamSets .. | .headCmd .. | .headWake .. | .allowAdd ..
  | .allowRemove .. | .bufAssign .. | .bufFree .. | .admissionForward | .blockLockGained .. | .blockLockLost .. | .align .. | .pstart ..
  | .hostileIntervalEnd | .policeCreditTick | .replayFrame .. | .laneMapFrame .. | .triggerFrame .. | .timeFrame .. | .hostCmdFrame ..
  | .challengeFrame .. | .admitFrame .. | .trainFrame .. | .ackFrame .. | .backchannelResendTimeout .. | .responseTimeout .. | .linkLost ..
  | .gtQrel .. | .gtLaneOn .. | .wakePattern .. | .holdExpiry .. | .pictureDeadline .. | .missingPicture .. | .rowGrant .. | .tileDispatch ..
  | .stripCheckpoint .. | .tileCommit .. | .tileRowEmit .. | .mrmDrainTick | .restartCreditTick | .scanBoundary .. | .gafferHalt ..
  | .gafferHeartbeatTimeout .. | .fabricHandshakeTimeout .. | .leaseRequest .. | .leaseExpiry .. | .ringTailAdvance .. | .ringHeadAdvance ..
  | .quDb .. | .quRcfg .. | .dmaRequestLine .. | .chCfgWrite .. | .calendarSlot | .pieceRelease .. | .ringSample | .chunkAllocate ..
  | .chunkRelease .. | .magPresenceChange .. | .magPerstRelease .. | .magLinkUp .. | .magLinkTimeout .. | .magReady .. | .magReadyTimeout ..
  | .nvmeWriteCompletion .. | .nvmeFlushCompletion .. | .writeTimeout .. | .magLinkDown .. | .pcieCompletionTimeout .. | .exchangeWaitTimeout
  | .drainConfirmTimeout .. | .pacePublish | .portShortTimeout .. | .smartPoll | .magMount .. | .magUnmount .. | .magSwap .. | .magFlush ..
  | .magLog .. | .magIdent .. | .journalWaitExpiry .. | .memCorrectedRead .. | .mcRetire .. | .retirementCopyDone | .channelLost .. | .refreshDue ..
  | .dqsTrack .. | .channelTrainingDone .. | .timeStepAdd .. | .timeSetAbsolute .. | .timeRateInstall .. | .tmNowRead | .tmFreeRead | .refclkLoss
  | .refclkReturn | .pinStamp .. | .ppsOut | .triggerDue .. | .ptpFrameTransmit .. | .ptpMessageDue .. | .announceReceiptTimeout ..
  | .netLinkChange .. | .ptpConfig .. | .ptpStatus .. | .timeSet .. | .trigSched .. | .trigCancel .. | .tcConfig .. | .decodeTileDone ..
  | .decodePictureComplete .. | .pacedRelease .. | .proxySliceComplete .. | .proxyPictureStart .. | .rtcpSenderReport .. | .peerIdent ..
  | .peerNak .. | .peerLinkLost .. | .heartbeat | .peerTime .. | .peerTimeSend | .offer .. | .offerTimeout | .offerReleaseTimeout .. | .readReq ..
  | .partnerFailed .. | .peerStatus .. | .peerAccept .. | .peerRefuse .. | .pathFault .. | .quarantineClose | .fcClr .. | .fcClrAll ..
  | .fcRestore .. | .idleTimerExpiry .. | .domainEntryDone .. | .domainWake .. | .domainExitDone .. | .lpClreq .. | .lpTimerArm .. | .lpTimerExpiry
  | .dip .. | .dipRecovery .. | .freezeLift | .supplyReset .. | .powerOnReset .. | .seqRailGood .. | .seqRailTimeout .. | .seqRetry | .pinReset
  | .hostReset .. | .bootImageLoaded | .configRecordWaitEnd | .flashReadPage .. | .flashProgram .. | .flashErase .. | .flashCommandDone ..
  | .rcLog0Read | .encTbytesRead .. | .decSmpRead .. | .pxBytesRead .. | .prTxRead .. | .testGatherBank .. | .testMagPort .. | .testPeerPort ..
  | .testNetPort .. | .testDdr5Channel .. | .testDone .. | .bypass | .idcode | .samplePreload .. | .extest | .clamp | .highz | .pinResetRelease
  | .hostLinkUp .. | .datasetManagementCompletion .. | .proxyPacketLeavesPort .. => none

/-- The command passes every check. -/
def Instr.wf (i : Instr) : Bool := i.check.isNone

end Sys2Proof
end

