-- ==== Sys2Proof/Laws/PerInstr.lean ====
section
/-! SUPPORT. For every command: a well-formed one brings at most 2 ^ 36 bytes. One lemma for each constructor. -/
namespace Sys2Proof.Laws.Payload

/-- The bytes that a command brings with it. -/
def bytes : Instr → Nat
  | .registerWrite _ _ dws => 4 * dws.length
  | .bar2Write _ data => data.length
  | .commandFetch _ entry => 4 * (entry.getD []).length
  | .armDecode _ source => (source.getD []).length
  | .armProxy _ tpl => (tpl.getD []).length
  | .hostMeta _ data => (data.getD []).length
  | .sample _ packet => packet.length
  | .metaPacket _ packet => packet.length
  | .motion _ packet => packet.length
  | .hello _ packet => packet.length
  | .response _ packet => packet.length
  | .ack _ packet => packet.length
  | .echo _ packet => packet.length
  | .dmaDescriptorDone _ desc _ data => 4 * desc.length + data.length
  | .dmaBurstDone _ data => data.length
  | .nvmeAdminCompletion _ _ _ data => data.length
  | .nvmeReadCompletion _ _ _ _ data => data.length
  | .armOffload _ source => (source.getD []).length
  | .ethFrameReceive _ frame => frame.length
  | .peerDataFlit _ flit => flit.length
  | .guardPairExpiry .. | .pgStatClr .. | .resetReq .. | .quiesce .. | .enable .. | .resetDone .. | .pgLockWrite .. | .powerRequest .. | .vote ..
  | .bar2Read .. | .hostBusMasterChange .. | .hostPortLinkReset | .mbxSqTail .. | .mbxCqHead .. | .mbxEnable .. | .mbxDisable ..
  | .commandCompletion .. | .mirrorWrite | .modeRequest .. | .fwInfo .. | .armRecord .. | .disarm .. | .release .. | .close .. | .streamStatus ..
  | .takeStart .. | .takeStop .. | .takeStopTime | .setIngest .. | .forceI .. | .forceIdr .. | .getParamSets .. | .headCmd .. | .headWake ..
  | .allowAdd .. | .allowRemove .. | .bufAssign .. | .bufFree .. | .admissionForward | .blockLockGained .. | .blockLockLost .. | .align ..
  | .pstart .. | .hostileIntervalEnd | .policeCreditTick | .replayFrame .. | .laneMapFrame .. | .triggerFrame .. | .timeFrame .. | .hostCmdFrame ..
  | .challengeFrame .. | .admitFrame .. | .trainFrame .. | .ackFrame .. | .backchannelResendTimeout .. | .responseTimeout .. | .linkLost ..
  | .gtQrel .. | .gtLaneOn .. | .wakePattern .. | .holdExpiry .. | .pictureDeadline .. | .missingPicture .. | .rowGrant .. | .tileDispatch ..
  | .stripCheckpoint .. | .tileCommit .. | .tileRowEmit .. | .mrmDrainTick | .restartCreditTick | .machineCheck .. | .pipelineOrder ..
  | .commitPoint .. | .scanBoundary .. | .gafferHalt .. | .gafferHeartbeatTimeout .. | .eventAssert .. | .externalFilterPass .. | .evtSrcWrite ..
  | .fabricHandshakeTimeout .. | .leaseRequest .. | .leaseExpiry .. | .ringTailAdvance .. | .ringHeadAdvance .. | .quDb .. | .quRcfg ..
  | .dmaRequestLine .. | .chCfgWrite .. | .calendarSlot | .pieceRelease .. | .ringSample | .chunkAllocate .. | .chunkRelease ..
  | .magPresenceChange .. | .magPerstRelease .. | .magLinkUp .. | .magLinkTimeout .. | .magReady .. | .magReadyTimeout .. | .nvmeWriteCompletion ..
  | .nvmeFlushCompletion .. | .writeTimeout .. | .magLinkDown .. | .pcieCompletionTimeout .. | .exchangeWaitTimeout | .drainConfirmTimeout ..
  | .pacePublish | .portShortTimeout .. | .smartPoll | .magMount .. | .magUnmount .. | .magSwap .. | .magFlush .. | .magLog .. | .magIdent ..
  | .journalWaitExpiry .. | .memCorrectedRead .. | .memUncorrectableRead .. | .patrolScrub .. | .mcRetire .. | .retirementCopyDone | .channelLost ..
  | .refreshDue .. | .dqsTrack .. | .channelTrainingDone .. | .timeStepAdd .. | .timeSetAbsolute .. | .timeRateInstall .. | .tmNowRead | .tmFreeRead
  | .refclkLoss | .refclkReturn | .pinStamp .. | .ppsOut | .triggerDue .. | .ptpFrameTransmit .. | .ptpMessageDue .. | .announceReceiptTimeout ..
  | .netLinkChange .. | .ptpConfig .. | .ptpStatus .. | .timeSet .. | .trigSched .. | .trigCancel .. | .tcConfig .. | .decodeTileDone ..
  | .decodePictureComplete .. | .pacedRelease .. | .proxySliceComplete .. | .proxyPictureStart .. | .rtcpSenderReport .. | .peerIdent ..
  | .peerNak .. | .peerLinkLost .. | .heartbeat | .peerTime .. | .peerTimeSend | .offerReq .. | .offer .. | .offerTimeout | .accept ..
  | .offerReleaseTimeout .. | .confirm .. | .readReq .. | .partnerFailed .. | .peerStatus .. | .peerAccept .. | .peerRefuse .. | .faultSourceEvent ..
  | .pathFault .. | .quarantineClose | .fcClr .. | .fcClrAll .. | .fcRestore .. | .idleTimerExpiry .. | .domainEntryDone .. | .domainWake ..
  | .domainExitDone .. | .lpClreq .. | .lpTimerArm .. | .lpTimerExpiry | .dip .. | .dipRecovery .. | .freezeLift | .supplyReset .. | .powerOnReset ..
  | .seqRailGood .. | .seqRailTimeout .. | .seqRetry | .pinReset | .hostReset .. | .bootImageLoaded | .configRecordWaitEnd | .flashReadPage ..
  | .flashProgram .. | .flashErase .. | .flashCommandDone .. | .rcLog0Read | .encTbytesRead .. | .decSmpRead .. | .pxBytesRead .. | .prTxRead ..
  | .testGatherBank .. | .testMagPort .. | .testPeerPort .. | .testNetPort .. | .testDdr5Channel .. | .testDone .. | .bypass | .idcode
  | .samplePreload .. | .extest | .clamp | .highz | .pinResetRelease | .hostLinkUp .. | .datasetManagementCompletion .. | .proxyPacketLeavesPort .. => 0

/-- A well-formed command brings at most 2 ^ 36 bytes (the BAR2 window). -/
def Statement (i : Instr) : Prop := i.wf = true → bytes i ≤ 2 ^ 36

theorem of_none {i : Instr} (h : bytes i = 0) : Statement i := fun _ => by rw [h]; decide

theorem of_check {i : Instr} {n : Nat} {bs : List Byte} (hc : i.check = badPayload n bs) (hb : bytes i = bs.length) (hn : n < 2 ^ 32) : Statement i := by
  intro h
  rw [Instr.wf, hc, badPayload] at h
  rw [hb]
  split at h
  · omega
  · cases h

theorem registerWrite (mst : Fin 4096) (addr : Nat) (dws : List (Word × BitVec 4)) : Statement (.registerWrite mst addr dws) := by
  intro h
  simp only [Instr.wf, Instr.check, bytes] at h ⊢
  split at h
  · cases h
  · omega
theorem guardPairExpiry (page : Fin 512) : Statement (.guardPairExpiry page) := of_none rfl
theorem pgStatClr (mst : Fin 4096) (page : Fin 512) (seq : BitVec 8) (mask : BitVec 24) : Statement (.pgStatClr mst page seq mask) := of_none rfl
theorem resetReq (mst : Fin 4096) (page : Fin 512) : Statement (.resetReq mst page) := of_none rfl
theorem quiesce (mst : Fin 4096) (page : Fin 512) : Statement (.quiesce mst page) := of_none rfl
theorem enable (mst : Fin 4096) (page : Fin 512) (on : Bool) : Statement (.enable mst page on) := of_none rfl
theorem resetDone (page : Fin 512) : Statement (.resetDone page) := of_none rfl
theorem pgLockWrite (mst : Fin 4096) (page : Fin 512) (v : Word) : Statement (.pgLockWrite mst page v) := of_none rfl
theorem powerRequest (mst : Fin 4096) (dom : Fin 202) (req : Fin 4) (idleUs : BitVec 16) : Statement (.powerRequest mst dom req idleUs) := of_none rfl
theorem vote (page : Fin 512) (c0 c1 c2 : Word) : Statement (.vote page c0 c1 c2) := of_none rfl
theorem bar2Write (off : Nat) (data : List Byte) : Statement (.bar2Write off data) := by
  intro h
  simp only [Instr.wf, Instr.check, bytes] at h ⊢
  split at h
  · cases h
  · omega
theorem bar2Read (off : Nat) (ndw : Fin 17) : Statement (.bar2Read off ndw) := of_none rfl
theorem hostBusMasterChange (bme d3hot : Bool) : Statement (.hostBusMasterChange bme d3hot) := of_none rfl
theorem hostPortLinkReset : Statement .hostPortLinkReset := of_none rfl
theorem mbxSqTail (m : Fin 16) (v : Word) : Statement (.mbxSqTail m v) := of_none rfl
theorem mbxCqHead (m : Fin 16) (v : Word) : Statement (.mbxCqHead m v) := of_none rfl
theorem mbxEnable (m : Fin 16) (cfg : Word) : Statement (.mbxEnable m cfg) := of_none rfl
theorem mbxDisable (m : Fin 16) (cfg : Word) : Statement (.mbxDisable m cfg) := of_none rfl
theorem commandFetch (m : Fin 16) (entry : Option (List Word)) : Statement (.commandFetch m entry) := by
  intro h
  cases entry with
  | none => simp [bytes]
  | some ws =>
    simp only [Instr.wf, Instr.check, bytes, Option.getD_some] at h ⊢
    split at h
    · omega
    · cases h
theorem commandCompletion (m : Fin 16) : Statement (.commandCompletion m) := of_none rfl
theorem mirrorWrite : Statement .mirrorWrite := of_none rfl
theorem modeRequest (mst : Fin 4096) (req : Word) : Statement (.modeRequest mst req) := of_none rfl
theorem fwInfo (m : Fin 16) : Statement (.fwInfo m) := of_none rfl
theorem armRecord (m : Fin 16) : Statement (.armRecord m) := of_none rfl
theorem armDecode (m : Fin 16) (source : Option (List Byte)) : Statement (.armDecode m source) := of_check rfl rfl (by decide)
theorem armProxy (m : Fin 16) (tpl : Option (List Byte)) : Statement (.armProxy m tpl) := of_check rfl rfl (by decide)
theorem disarm (m : Fin 16) : Statement (.disarm m) := of_none rfl
theorem release (m : Fin 16) : Statement (.release m) := of_none rfl
theorem close (m : Fin 16) : Statement (.close m) := of_none rfl
theorem streamStatus (m : Fin 16) (hostOk : Bool) : Statement (.streamStatus m hostOk) := of_none rfl
theorem takeStart (m : Fin 16) : Statement (.takeStart m) := of_none rfl
theorem takeStop (m : Fin 16) : Statement (.takeStop m) := of_none rfl
theorem takeStopTime : Statement .takeStopTime := of_none rfl
theorem setIngest (m : Fin 16) : Statement (.setIngest m) := of_none rfl
theorem forceI (m : Fin 16) : Statement (.forceI m) := of_none rfl
theorem forceIdr (m : Fin 16) : Statement (.forceIdr m) := of_none rfl
theorem getParamSets (m : Fin 16) (hostOk : Bool) : Statement (.getParamSets m hostOk) := of_none rfl
theorem hostMeta (m : Fin 16) (data : Option (List Byte)) : Statement (.hostMeta m data) := of_check rfl rfl (by decide)
theorem headCmd (m : Fin 16) : Statement (.headCmd m) := of_none rfl
theorem headWake (m : Fin 16) : Statement (.headWake m) := of_none rfl
theorem allowAdd (m : Fin 16) : Statement (.allowAdd m) := of_none rfl
theorem allowRemove (m : Fin 16) : Statement (.allowRemove m) := of_none rfl
theorem bufAssign (m : Fin 16) : Statement (.bufAssign m) := of_none rfl
theorem bufFree (m : Fin 16) : Statement (.bufFree m) := of_none rfl
theorem admissionForward : Statement .admissionForward := of_none rfl
theorem blockLockGained (lane : Fin 1024) : Statement (.blockLockGained lane) := of_none rfl
theorem blockLockLost (lane : Fin 1024) : Statement (.blockLockLost lane) := of_none rfl
theorem align (lane : Fin 1024) (logical carry spares : BitVec 8) (count : BitVec 16) (badHeaders : Nat) : Statement (.align lane logical carry spares count badHeaders) := of_none rfl
theorem pstart (head : Fin 1024) (region : Fin 16) (picture : BitVec 24) : Statement (.pstart head region picture) := of_none rfl
theorem sample (head : Fin 1024) (packet : List Byte) : Statement (.sample head packet) := of_check rfl rfl (by decide)
theorem metaPacket (head : Fin 1024) (packet : List Byte) : Statement (.metaPacket head packet) := of_check rfl rfl (by decide)
theorem motion (head : Fin 1024) (packet : List Byte) : Statement (.motion head packet) := of_check rfl rfl (by decide)
theorem hello (head : Fin 1024) (packet : List Byte) : Statement (.hello head packet) := of_check rfl rfl (by decide)
theorem response (head : Fin 1024) (packet : List Byte) : Statement (.response head packet) := of_check rfl rfl (by decide)
theorem ack (head : Fin 1024) (packet : List Byte) : Statement (.ack head packet) := of_check rfl rfl (by decide)
theorem echo (head : Fin 1024) (packet : List Byte) : Statement (.echo head packet) := of_check rfl rfl (by decide)
theorem hostileIntervalEnd : Statement .hostileIntervalEnd := of_none rfl
theorem policeCreditTick : Statement .policeCreditTick := of_none rfl
theorem replayFrame (head : Fin 1024) : Statement (.replayFrame head) := of_none rfl
theorem laneMapFrame (head : Fin 1024) : Statement (.laneMapFrame head) := of_none rfl
theorem triggerFrame (head : Fin 1024) : Statement (.triggerFrame head) := of_none rfl
theorem timeFrame (head : Fin 1024) : Statement (.timeFrame head) := of_none rfl
theorem hostCmdFrame (head : Fin 1024) : Statement (.hostCmdFrame head) := of_none rfl
theorem challengeFrame (head : Fin 1024) : Statement (.challengeFrame head) := of_none rfl
theorem admitFrame (head : Fin 1024) : Statement (.admitFrame head) := of_none rfl
theorem trainFrame (head : Fin 1024) : Statement (.trainFrame head) := of_none rfl
theorem ackFrame (head : Fin 1024) : Statement (.ackFrame head) := of_none rfl
theorem backchannelResendTimeout (head : Fin 1024) (tag : BitVec 8) : Statement (.backchannelResendTimeout head tag) := of_none rfl
theorem responseTimeout (head : Fin 1024) : Statement (.responseTimeout head) := of_none rfl
theorem linkLost (head : Fin 1024) : Statement (.linkLost head) := of_none rfl
theorem gtQrel (mst : Fin 4096) (bank : Fin 32) (v : Word) : Statement (.gtQrel mst bank v) := of_none rfl
theorem gtLaneOn (mst : Fin 4096) (bank : Fin 32) (v : Word) : Statement (.gtLaneOn mst bank v) := of_none rfl
theorem wakePattern (lane : Fin 1024) : Statement (.wakePattern lane) := of_none rfl
theorem holdExpiry (slot : Fin 1024) : Statement (.holdExpiry slot) := of_none rfl
theorem pictureDeadline (slot : Fin 1024) : Statement (.pictureDeadline slot) := of_none rfl
theorem missingPicture (slot : Fin 1024) : Statement (.missingPicture slot) := of_none rfl
theorem rowGrant (slot : Fin 1024) : Statement (.rowGrant slot) := of_none rfl
theorem tileDispatch (cluster : Fin 16) : Statement (.tileDispatch cluster) := of_none rfl
theorem stripCheckpoint (slot : Fin 1024) (row k : Nat) : Statement (.stripCheckpoint slot row k) := of_none rfl
theorem tileCommit (pipe : Fin 68) (selfCheckOk : Bool) : Statement (.tileCommit pipe selfCheckOk) := of_none rfl
theorem tileRowEmit (slot : Fin 1024) : Statement (.tileRowEmit slot) := of_none rfl
theorem mrmDrainTick : Statement .mrmDrainTick := of_none rfl
theorem restartCreditTick : Statement .restartCreditTick := of_none rfl
theorem machineCheck (decode : Bool) (pipe : Fin 68) (uaddr : BitVec 13) (groups : BitVec 8) : Statement (.machineCheck decode pipe uaddr groups) := of_none rfl
theorem pipelineOrder (decode : Bool) (pipe : Fin 68) (order : Fin 5) : Statement (.pipelineOrder decode pipe order) := of_none rfl
theorem commitPoint (decode : Bool) (pipe : Fin 68) (gap : BitVec 12) : Statement (.commitPoint decode pipe gap) := of_none rfl
theorem scanBoundary (ctl : Fin 8) : Statement (.scanBoundary ctl) := of_none rfl
theorem gafferHalt (ctl : Fin 8) : Statement (.gafferHalt ctl) := of_none rfl
theorem gafferHeartbeatTimeout (ctl : Fin 8) : Statement (.gafferHeartbeatTimeout ctl) := of_none rfl
theorem eventAssert (src : Fin 256) (level : Bool) : Statement (.eventAssert src level) := of_none rfl
theorem externalFilterPass (src : Fin 256) (level : Bool) : Statement (.externalFilterPass src level) := of_none rfl
theorem evtSrcWrite (mst : Fin 4096) (src : Fin 256) (v : Word) : Statement (.evtSrcWrite mst src v) := of_none rfl
theorem fabricHandshakeTimeout (block : Fin 183) : Statement (.fabricHandshakeTimeout block) := of_none rfl
theorem leaseRequest (ring : Fin 16384) (tag : BitVec 16) : Statement (.leaseRequest ring tag) := of_none rfl
theorem leaseExpiry (ring : Fin 16384) : Statement (.leaseExpiry ring) := of_none rfl
theorem ringTailAdvance (ring : Fin 16384) (tag : BitVec 16) (tail : BitVec 16) : Statement (.ringTailAdvance ring tag tail) := of_none rfl
theorem ringHeadAdvance (ring : Fin 16384) (head : BitVec 16) : Statement (.ringHeadAdvance ring head) := of_none rfl
theorem quDb (mst : Fin 4096) (i : Fin 4096) (v : Word) : Statement (.quDb mst n v) := of_none rfl
theorem quRcfg (mst : Fin 4096) (v : Word) : Statement (.quRcfg mst v) := of_none rfl
theorem dmaDescriptorDone (ring : Fin 4096) (desc : List Word) (status : Fin 5) (data : List Byte) : Statement (.dmaDescriptorDone ring desc status data) := by
  intro h
  simp only [Instr.wf, Instr.check, bytes] at h ⊢
  split at h
  · cases h
  · omega
theorem dmaRequestLine (line : Fin 256) : Statement (.dmaRequestLine line) := of_none rfl
theorem dmaBurstDone (ch : Fin 64) (data : List Byte) : Statement (.dmaBurstDone ch data) := of_check rfl rfl (by decide)
theorem chCfgWrite (mst : Fin 4096) (ch : Fin 64) (v : Word) : Statement (.chCfgWrite mst ch v) := of_none rfl
theorem calendarSlot : Statement .calendarSlot := of_none rfl
theorem pieceRelease (output : Fin 12) : Statement (.pieceRelease output) := of_none rfl
theorem ringSample : Statement .ringSample := of_none rfl
theorem chunkAllocate (tag : BitVec 16) (cls : Fin 8) (large : Bool) : Statement (.chunkAllocate tag cls large) := of_none rfl
theorem chunkRelease (handle : Word) (tag : BitVec 16) : Statement (.chunkRelease handle tag) := of_none rfl
theorem magPresenceChange (port : Fin 8) (present : Bool) : Statement (.magPresenceChange port present) := of_none rfl
theorem magPerstRelease (port : Fin 8) : Statement (.magPerstRelease port) := of_none rfl
theorem magLinkUp (port : Fin 8) (speed widthLog2 : Fin 8) : Statement (.magLinkUp port speed widthLog2) := of_none rfl
theorem magLinkTimeout (port : Fin 8) : Statement (.magLinkTimeout port) := of_none rfl
theorem magReady (port : Fin 8) (mqes : BitVec 16) (mpsmin : BitVec 4) : Statement (.magReady port mqes mpsmin) := of_none rfl
theorem magReadyTimeout (port : Fin 8) : Statement (.magReadyTimeout port) := of_none rfl
theorem nvmeAdminCompletion (port : Fin 8) (status : BitVec 15) (dw0 : Word) (data : List Byte) : Statement (.nvmeAdminCompletion port status dw0 data) := of_check rfl rfl (by decide)
theorem nvmeWriteCompletion (port : Fin 8) (pair : Fin 257) (cid : Fin 1024) (status : BitVec 15) : Statement (.nvmeWriteCompletion port pair cid status) := of_none rfl
theorem nvmeReadCompletion (port : Fin 8) (pair : Fin 257) (cid : Fin 1024) (status : BitVec 15) (data : List Byte) : Statement (.nvmeReadCompletion port pair cid status data) := of_check rfl rfl (by decide)
theorem nvmeFlushCompletion (port : Fin 8) (status : BitVec 15) : Statement (.nvmeFlushCompletion port status) := of_none rfl
theorem writeTimeout (port : Fin 8) : Statement (.writeTimeout port) := of_none rfl
theorem magLinkDown (port : Fin 8) : Statement (.magLinkDown port) := of_none rfl
theorem pcieCompletionTimeout (port : Fin 8) : Statement (.pcieCompletionTimeout port) := of_none rfl
theorem exchangeWaitTimeout : Statement .exchangeWaitTimeout := of_none rfl
theorem drainConfirmTimeout (slot : Fin 1024) : Statement (.drainConfirmTimeout slot) := of_none rfl
theorem pacePublish : Statement .pacePublish := of_none rfl
theorem portShortTimeout (port : Fin 8) : Statement (.portShortTimeout port) := of_none rfl
theorem smartPoll : Statement .smartPoll := of_none rfl
theorem magMount (m : Fin 16) : Statement (.magMount m) := of_none rfl
theorem magUnmount (m : Fin 16) : Statement (.magUnmount m) := of_none rfl
theorem magSwap (m : Fin 16) : Statement (.magSwap m) := of_none rfl
theorem magFlush (m : Fin 16) : Statement (.magFlush m) := of_none rfl
theorem magLog (m : Fin 16) : Statement (.magLog m) := of_none rfl
theorem magIdent (m : Fin 16) : Statement (.magIdent m) := of_none rfl
theorem armOffload (m : Fin 16) (source : Option (List Byte)) : Statement (.armOffload m source) := of_check rfl rfl (by decide)
theorem journalWaitExpiry (port : Fin 8) : Statement (.journalWaitExpiry port) := of_none rfl
theorem memCorrectedRead (ch : Fin 10) : Statement (.memCorrectedRead ch) := of_none rfl
theorem memUncorrectableRead (addr : Nat) (mst : Fin 4096) (user : Nat) : Statement (.memUncorrectableRead addr mst user) := of_none rfl
theorem patrolScrub (addr : Nat) (result : Fin 3) : Statement (.patrolScrub addr result) := of_none rfl
theorem mcRetire (mst : Fin 4096) (v : Word) : Statement (.mcRetire mst v) := of_none rfl
theorem retirementCopyDone : Statement .retirementCopyDone := of_none rfl
theorem channelLost (ch : Fin 10) : Statement (.channelLost ch) := of_none rfl
theorem refreshDue (ch : Fin 10) (rfm : Bool) (neighbours : Bool) : Statement (.refreshDue ch rfm neighbours) := of_none rfl
theorem dqsTrack (ch : Fin 10) (adjusted beyondLimit : Bool) : Statement (.dqsTrack ch adjusted beyondLimit) := of_none rfl
theorem channelTrainingDone (ch : Fin 10) (ok : Bool) (ms : BitVec 8) : Statement (.channelTrainingDone ch ok ms) := of_none rfl
theorem timeStepAdd (mst : Fin 4096) (v : Word) : Statement (.timeStepAdd mst v) := of_none rfl
theorem timeSetAbsolute (mst : Fin 4096) (v : Word) : Statement (.timeSetAbsolute mst v) := of_none rfl
theorem timeRateInstall (mst : Fin 4096) (v : Word) : Statement (.timeRateInstall mst v) := of_none rfl
theorem tmNowRead : Statement .tmNowRead := of_none rfl
theorem tmFreeRead : Statement .tmFreeRead := of_none rfl
theorem refclkLoss : Statement .refclkLoss := of_none rfl
theorem refclkReturn : Statement .refclkReturn := of_none rfl
theorem pinStamp (src : Fin 9) (rising : Bool) : Statement (.pinStamp src rising) := of_none rfl
theorem ppsOut : Statement .ppsOut := of_none rfl
theorem triggerDue (head : Fin 1024) : Statement (.triggerDue head) := of_none rfl
theorem ethFrameReceive (net : Fin 2) (frame : List Byte) : Statement (.ethFrameReceive net frame) := of_check rfl rfl (by decide)
theorem ptpFrameTransmit (net : Fin 2) : Statement (.ptpFrameTransmit net) := of_none rfl
theorem ptpMessageDue (net : Fin 2) (msg : Fin 16) : Statement (.ptpMessageDue net msg) := of_none rfl
theorem announceReceiptTimeout (net : Fin 2) : Statement (.announceReceiptTimeout net) := of_none rfl
theorem netLinkChange (net : Fin 2) (up : Bool) : Statement (.netLinkChange net up) := of_none rfl
theorem ptpConfig (m : Fin 16) : Statement (.ptpConfig m) := of_none rfl
theorem ptpStatus (m : Fin 16) (hostOk : Bool) : Statement (.ptpStatus m hostOk) := of_none rfl
theorem timeSet (m : Fin 16) : Statement (.timeSet m) := of_none rfl
theorem trigSched (m : Fin 16) : Statement (.trigSched m) := of_none rfl
theorem trigCancel (m : Fin 16) : Statement (.trigCancel m) := of_none rfl
theorem tcConfig (m : Fin 16) : Statement (.tcConfig m) := of_none rfl
theorem decodeTileDone (pipe : Fin 20) : Statement (.decodeTileDone pipe) := of_none rfl
theorem decodePictureComplete (slot : Fin 256) : Statement (.decodePictureComplete slot) := of_none rfl
theorem pacedRelease (slot : Fin 256) : Statement (.pacedRelease slot) := of_none rfl
theorem proxySliceComplete (slot : Fin 256) : Statement (.proxySliceComplete slot) := of_none rfl
theorem proxyPictureStart (slot : Fin 256) : Statement (.proxyPictureStart slot) := of_none rfl
theorem rtcpSenderReport (slot : Fin 256) : Statement (.rtcpSenderReport slot) := of_none rfl
theorem peerIdent (p : Fin 3) (member sizeM1 port : Fin 4) (serial : BitVec 64) (polarity : BitVec 8) (delay01ns : BitVec 16) : Statement (.peerIdent p member sizeM1 port serial polarity delay01ns) := of_none rfl
theorem peerDataFlit (p : Fin 3) (flit : List Byte) : Statement (.peerDataFlit p flit) := of_check rfl rfl (by decide)
theorem peerNak (p : Fin 3) (seq : BitVec 12) : Statement (.peerNak p seq) := of_none rfl
theorem peerLinkLost (p : Fin 3) : Statement (.peerLinkLost p) := of_none rfl
theorem heartbeat : Statement .heartbeat := of_none rfl
theorem peerTime (p : Fin 3) (sentNs : BitVec 64) (sentFrac : Word) : Statement (.peerTime p sentNs sentFrac) := of_none rfl
theorem peerTimeSend : Statement .peerTimeSend := of_none rfl
theorem offerReq (p : Fin 3) (streams : Nat) (sumMbps : Nat) : Statement (.offerReq p streams sumMbps) := of_none rfl
theorem offer (p : Fin 3) (port : Fin 8) : Statement (.offer p port) := of_none rfl
theorem offerTimeout : Statement .offerTimeout := of_none rfl
theorem accept (p : Fin 3) (takeId : BitVec 16) (tStart srcVolume : BitVec 64) (streams : List (Nat × Nat × Nat × Nat × Nat)) : Statement (.accept p takeId tStart srcVolume streams) := of_none rfl
theorem offerReleaseTimeout (p : Fin 3) : Statement (.offerReleaseTimeout p) := of_none rfl
theorem confirm (p : Fin 3) (slot : Fin 1024) (endAddr : Nat) : Statement (.confirm p slot endAddr) := of_none rfl
theorem readReq (p : Fin 3) (takeId : BitVec 16) (recStream : Fin 1024) (first : BitVec 24) (mbps : Nat) : Statement (.readReq p takeId recStream first mbps) := of_none rfl
theorem partnerFailed (p : Fin 3) : Statement (.partnerFailed p) := of_none rfl
theorem peerStatus (m : Fin 16) (hostOk : Bool) : Statement (.peerStatus m hostOk) := of_none rfl
theorem peerAccept (m : Fin 16) : Statement (.peerAccept m) := of_none rfl
theorem peerRefuse (m : Fin 16) : Statement (.peerRefuse m) := of_none rfl
theorem faultSourceEvent (src : Fin 2053) (mst : Fin 4096) (access : Fin 16) (detail : BitVec 16) (addr : Nat) : Statement (.faultSourceEvent src mst access detail addr) := of_none rfl
theorem pathFault (src : Fin 2053) : Statement (.pathFault src) := of_none rfl
theorem quarantineClose : Statement .quarantineClose := of_none rfl
theorem fcClr (mst : Fin 4096) (src : Fin 4096) : Statement (.fcClr mst src) := of_none rfl
theorem fcClrAll (mst : Fin 4096) : Statement (.fcClrAll mst) := of_none rfl
theorem fcRestore (mst : Fin 4096) (v : Word) : Statement (.fcRestore mst v) := of_none rfl
theorem idleTimerExpiry (dom : Fin 202) : Statement (.idleTimerExpiry dom) := of_none rfl
theorem domainEntryDone (dom : Fin 202) : Statement (.domainEntryDone dom) := of_none rfl
theorem domainWake (dom : Fin 202) (source : Fin 9) : Statement (.domainWake dom source) := of_none rfl
theorem domainExitDone (dom : Fin 202) : Statement (.domainExitDone dom) := of_none rfl
theorem lpClreq (mst : Fin 4096) (v : Word) : Statement (.lpClreq mst v) := of_none rfl
theorem lpTimerArm (mst : Fin 4096) (v : Word) : Statement (.lpTimerArm mst v) := of_none rfl
theorem lpTimerExpiry : Statement .lpTimerExpiry := of_none rfl
theorem dip (rail : Fin 8) (mv : BitVec 16) : Statement (.dip rail mv) := of_none rfl
theorem dipRecovery (rail : Fin 8) (mv : BitVec 16) : Statement (.dipRecovery rail mv) := of_none rfl
theorem freezeLift : Statement .freezeLift := of_none rfl
theorem supplyReset (rail : Fin 8) : Statement (.supplyReset rail) := of_none rfl
theorem powerOnReset (gangId gangSzM1 : Fin 4) : Statement (.powerOnReset gangId gangSzM1) := of_none rfl
theorem seqRailGood (rail : Fin 8) : Statement (.seqRailGood rail) := of_none rfl
theorem seqRailTimeout (rail : Fin 8) : Statement (.seqRailTimeout rail) := of_none rfl
theorem seqRetry : Statement .seqRetry := of_none rfl
theorem pinReset : Statement .pinReset := of_none rfl
theorem hostReset (mst : Fin 4096) (v : Word) : Statement (.hostReset mst v) := of_none rfl
theorem bootImageLoaded : Statement .bootImageLoaded := of_none rfl
theorem configRecordWaitEnd : Statement .configRecordWaitEnd := of_none rfl
theorem flashReadPage (mst : Fin 4096) : Statement (.flashReadPage mst) := of_none rfl
theorem flashProgram (mst : Fin 4096) : Statement (.flashProgram mst) := of_none rfl
theorem flashErase (mst : Fin 4096) : Statement (.flashErase mst) := of_none rfl
theorem flashCommandDone (error : Bool) : Statement (.flashCommandDone error) := of_none rfl
theorem rcLog0Read : Statement .rcLog0Read := of_none rfl
theorem encTbytesRead (pipe : Fin 68) : Statement (.encTbytesRead pipe) := of_none rfl
theorem decSmpRead (pipe : Fin 20) : Statement (.decSmpRead pipe) := of_none rfl
theorem pxBytesRead (engine : Fin 4) : Statement (.pxBytesRead engine) := of_none rfl
theorem prTxRead (p : Fin 3) : Statement (.prTxRead p) := of_none rfl
theorem testGatherBank (mst : Fin 4096) (index : Fin 32) (loop : Fin 4) : Statement (.testGatherBank mst index loop) := of_none rfl
theorem testMagPort (mst : Fin 4096) (index : Fin 32) (loop : Fin 4) : Statement (.testMagPort mst index loop) := of_none rfl
theorem testPeerPort (mst : Fin 4096) (index : Fin 32) (loop : Fin 4) : Statement (.testPeerPort mst index loop) := of_none rfl
theorem testNetPort (mst : Fin 4096) (index : Fin 32) (loop : Fin 4) : Statement (.testNetPort mst index loop) := of_none rfl
theorem testDdr5Channel (mst : Fin 4096) (index : Fin 32) (loop : Fin 4) : Statement (.testDdr5Channel mst index loop) := of_none rfl
theorem testDone (errors : Nat) (failed : Word) : Statement (.testDone errors failed) := of_none rfl
theorem bypass : Statement .bypass := of_none rfl
theorem idcode : Statement .idcode := of_none rfl
theorem samplePreload (preload : Option (List Bool)) : Statement (.samplePreload preload) := of_none rfl
theorem extest : Statement .extest := of_none rfl
theorem clamp : Statement .clamp := of_none rfl
theorem highz : Statement .highz := of_none rfl
theorem pinResetRelease : Statement .pinResetRelease := of_none rfl
theorem hostLinkUp (speed : Fin 8) (widthLog2 : Fin 4) : Statement (.hostLinkUp speed widthLog2) := of_none rfl
theorem datasetManagementCompletion (port : Fin 8) (status : BitVec 15) : Statement (.datasetManagementCompletion port status) := of_none rfl
theorem proxyPacketLeavesPort (slot : Fin 256) : Statement (.proxyPacketLeavesPort slot) := of_none rfl

end Sys2Proof.Laws.Payload
end

