-- ==== Sys2Proof/Laws/Quiet.lean ====
section
/-! SUPPORT. The registers that recording one event of a known source leaves alone: every page but those of the collector's first page and
of the request lines. -/
namespace Sys2Proof.Machine

/-- Registers on pages that neither the record FIFO nor a request line writes. -/
def Dev.Quiet (d d' : Dev) : Prop := ∀ a, a / 4096 ≠ 4 → a / 4096 ≠ 0x20 → a / 4096 ≠ 0x29 → a / 4096 ≠ 0x2A → d'.reg a = d.reg a

theorem Dev.Quiet.refl (d : Dev) : Dev.Quiet d d := fun _ _ _ _ _ => rfl
theorem Dev.Quiet.trans {a b c : Dev} (h : Dev.Quiet a b) (g : Dev.Quiet b c) : Dev.Quiet a c :=
  fun k h1 h2 h3 h4 => (g k h1 h2 h3 h4).trans (h k h1 h2 h3 h4)
theorem Dev.Quiet.of_regs {d d' : Dev} (h : d'.regs = d.regs) : Dev.Quiet d d' := fun a _ _ _ _ => by simp only [Dev.reg, h]
theorem Dev.Quiet.setReg (d : Dev) {b : Nat} (v : Word) (h : b / 4096 = 4 ∨ b / 4096 = 0x20 ∨ b / 4096 = 0x29 ∨ b / 4096 = 0x2A) :
    Dev.Quiet d (d.setReg b v) := by
  intro a h1 h2 h3 h4
  refine Dev.reg_setReg_other d (fun e => ?_) v
  subst e
  omega
theorem Dev.Quiet.ite {p : Prop} [Decidable p] {d a b : Dev} (ha : Dev.Quiet d a) (hb : Dev.Quiet d b) : Dev.Quiet d (if p then a else b) := by
  split <;> assumption
theorem Dev.Quiet.get {d d' : Dev} (h : Dev.Quiet d d') (k : PageKind) (i : Nat) (r : FieldRow) (n : Nat)
    (hp : fieldAddr k i r n / 4096 ≠ 4 ∧ fieldAddr k i r n / 4096 ≠ 0x20 ∧ fieldAddr k i r n / 4096 ≠ 0x29 ∧ fieldAddr k i r n / 4096 ≠ 0x2A) :
    d'.get k i r n = d.get k i r n := by
  simp only [Dev.get]; rw [h _ hp.1 hp.2.1 hp.2.2.1 hp.2.2.2]

theorem Dev.requestLine_quiet (d : Dev) (line : Nat) : Dev.Quiet d (d.requestLine line) := by
  unfold Dev.requestLine
  have fold : ∀ (l : List Nat), (∀ k ∈ l, k < 64) → ∀ e : Dev, Dev.Quiet e (l.foldl (fun (d : Dev) k =>
    if line ≤ 10 ∧ d.get .queueCh (k / 32) fCH_CFG_EN (k % 32) = 1 ∧ d.get .queueCh (k / 32) fCH_CFG_LINE (k % 32) = line then
      let c := d.chan k
      if !c.running then d.setChan k { c with running := true }
      else if !c.held then d.setChan k { c with held := true }
      else (d.bump .queueCh (k / 32) fCH_CNT_MISSED 1 (k % 32)).statBit .queue0 0 3
    else d) e) := by
    intro l
    induction l with
    | nil => intro _ e; exact .refl e
    | cons k l ih =>
      intro hl e
      have hk := hl k List.mem_cons_self
      refine Dev.Quiet.trans ?_ (ih (fun j hj => hl j (List.mem_cons_of_mem _ hj)) _)
      refine .ite (.ite (.of_regs rfl) (.ite (.of_regs rfl) (Dev.Quiet.trans (b := e.bump .queueCh (k / 32) fCH_CNT_MISSED 1 (k % 32)) ?_ ?_))) (.refl e)
      · refine Dev.Quiet.setReg e _ ?_
        simp only [fieldAddr, fCH_CNT_MISSED, PageKind.page]
        omega
      · exact Dev.Quiet.setReg _ _ (.inr (.inl (by decide)))
  exact fold _ (fun k hk => List.mem_range.1 hk) d

theorem Dev.putPacket_quiet (d : Dev) (src : Nat) (a b p : Bool) (ws : List Word) (r n : Nat) : Dev.Quiet d (d.putPacket src a b p ws r n) := by
  unfold Dev.putPacket
  dsimp only
  refine Dev.Quiet.trans ?_ (Dev.requestLine_quiet _ 0)
  refine .ite ?_ (.of_regs rfl)
  have h : ∀ z : Dev, z.regs = d.regs → Dev.Quiet d ((z.bump .fault0 0 fFC_LOST_PACKETS).statBit .fault0 0 4) := fun z hz =>
    ((Dev.Quiet.of_regs hz).trans (Dev.Quiet.setReg z _ (.inl (by decide)))).trans (Dev.Quiet.setReg _ _ (.inl (by decide)))
  exact h _ rfl

theorem Dev.requestLine_evts (d : Dev) (line : Nat) : (d.requestLine line).core.evts = d.core.evts := by
  unfold Dev.requestLine
  generalize List.range 64 = l
  induction l generalizing d with
  | nil => rfl
  | cons j l ih =>
    refine (ih _).trans ?_
    exact ite_both (P := fun z : Dev => z.core.evts = d.core.evts)
      (ite_both (P := fun z : Dev => z.core.evts = d.core.evts) rfl (ite_both (P := fun z : Dev => z.core.evts = d.core.evts) rfl rfl)) rfl

theorem Dev.putPacket_evts (d : Dev) (src : Nat) (a b p : Bool) (ws : List Word) (r n : Nat) :
    (d.putPacket src a b p ws r n).core.evts = d.core.evts := by
  unfold Dev.putPacket
  refine (Dev.requestLine_evts _ 0).trans ?_
  exact ite_both (P := fun z : Dev => z.core.evts = d.core.evts) rfl rfl

theorem Dev.Over.requestLine {s : State} {d : Dev} (h : Dev.Over s d) (line : Nat) : Dev.Over s (d.requestLine line) := by
  unfold Dev.requestLine
  generalize List.range 64 = l
  induction l generalizing d with
  | nil => exact h
  | cons k l ih =>
    refine ih ?_
    exact ite_both (P := Dev.Over s) (ite_both (P := Dev.Over s) (h.of_eq rfl rfl rfl)
      (ite_both (P := Dev.Over s) (h.of_eq rfl rfl rfl) ((h.bump _ _ _ _ _).stat _ _))) h

theorem Dev.Over.putPacket {s : State} {d : Dev} (h : Dev.Over s d) (src : Nat) (a b p : Bool) (ws : List Word) (r n : Nat) :
    Dev.Over s (d.putPacket src a b p ws r n) := by
  unfold Dev.putPacket
  refine Dev.Over.requestLine ?_ 0
  have g : ∀ z : Dev, Dev.Over s z → Dev.Over s ((z.bump .fault0 0 fFC_LOST_PACKETS).statBit .fault0 0 4) := fun z hz => (hz.bump _ _ _ _ _).stat _ _
  exact ite_both (P := Dev.Over s) (g _ (h.of_eq rfl rfl rfl)) (h.of_eq rfl rfl rfl)

/-- One event of a source that is in fault state is recorded: the collector's own state, a packet and its request line, and nothing else
where the reaction `reactAll` adds nothing. -/
theorem Dev.settle_recorded {d : Dev} {e : FaultEvent} (hr : d.core.fault.raised = [e]) (hp : e.path = false) {i : SrcInfo}
    (hi : srcInfo e.src = some i) (hst : (d.frec e.src).state = true) (hrails : d.railsHold e.src = false) (hq : d.quarantined i.block = false)
    (hre : ∀ x : Dev, Dev.Collected d x → Dev.Quiet d x → x.core.evts = d.core.evts → (x.frec e.src).state = true → x.reactAll [(e, 0)] = x) (n : Nat) :
    Dev.Collected d (d.settle (n + 1)) ∧ Dev.Quiet d (d.settle (n + 1)) ∧ (∀ s, Dev.Over s d → Dev.Over s (d.settle (n + 1))) ∧
      (d.settle (n + 1)).core.evts = d.core.evts ∧ (d.settle (n + 1)).core.fault.raised = [] ∧ ((d.settle (n + 1)).frec e.src).state = true ∧
      ((d.settle (n + 1)).frec e.src).total = min ((d.frec e.src).total + 1) (2 ^ 32 - 1) := by
  obtain ⟨R, c, a, b, p, ws, r, k, hRs, hRt, ht⟩ :=
    Dev.takeEvent_known (d := d.modFault fun f => { f with raised := [] }) hp hi hst hrails hq
  have h1 : ∀ x : Dev, x = (if c = true then ((d.modFault fun f => { f with raised := [] }).setFrec e.src R).putPacket e.src a b p ws r k
      else (d.modFault fun f => { f with raised := [] }).setFrec e.src R) →
      Dev.Collected d x ∧ Dev.Quiet d x ∧ (∀ s, Dev.Over s d → Dev.Over s x) ∧ x.core.evts = d.core.evts ∧ x.core.fault.raised = [] ∧ x.frec e.src = R := by
    intro x hx
    have h0 : Dev.Collected d ((d.modFault fun f => { f with raised := [] }).setFrec e.src R) := ⟨⟨_, _, _, _, rfl⟩, rfl, rfl⟩
    have q0 : Dev.Quiet d ((d.modFault fun f => { f with raised := [] }).setFrec e.src R) := .of_regs rfl
    have o0 : ∀ s, Dev.Over s d → Dev.Over s ((d.modFault fun f => { f with raised := [] }).setFrec e.src R) := fun s h => h.of_eq rfl rfl rfl
    subst hx
    split
    · have hpf := Dev.putPacket_fault ((d.modFault fun f => { f with raised := [] }).setFrec e.src R) e.src a b p ws r k
      exact ⟨h0.trans (Dev.putPacket_collected _ _ _ _ _ _ _ _), q0.trans (Dev.putPacket_quiet _ _ _ _ _ _ _ _),
        fun s h => Dev.Over.putPacket (o0 s h) _ _ _ _ _ _ _, Dev.putPacket_evts _ _ _ _ _ _ _ _, hpf.2.1, Dev.frec_of_setFrec hpf.1⟩
    · exact ⟨h0, q0, o0, rfl, rfl, Dev.setFrec_frec _ _ _⟩
  have hcoll : d.collect = (if c = true then ((d.modFault fun f => { f with raised := [] }).setFrec e.src R).putPacket e.src a b p ws r k
      else (d.modFault fun f => { f with raised := [] }).setFrec e.src R) := by
    unfold Dev.collect
    have hf : ([e].filter fun x => x.path || !([e].any fun o => o.path && decide (o.src = x.src))) = [e] := by simp [hp]
    simp only [hr, hf, List.foldl_cons, List.foldl_nil, List.nil_append, ht]
    obtain ⟨g1, g2, _, g3, _, g5⟩ := h1 _ rfl
    exact hre _ g1 g2 g3 (by rw [g5]; exact hRs)
  obtain ⟨g1, g2, g0, g3, g4, g5⟩ := h1 _ hcoll
  have hs : d.settle (n + 1) = d.collect := by
    rw [Dev.settle, hr]
    simp only [List.isEmpty_cons, Bool.false_eq_true, if_false]
    cases n <;> simp [Dev.settle, g4]
  rw [hs]
  exact ⟨g1, g2, g0, g3, g4, by rw [g5]; exact hRs, by rw [g5]; exact hRt⟩

/-- A command whose effect raises one event of a known source: the registers of quiet pages and the event sources stand as well. -/
theorem answers_known_quiet {c : Instr} {s : State} {f : Dev → Dev} {e : FaultEvent} {P : State → Prop} (he : exec c s = s.run f)
    (hk : s.knows e.src = true) (hp : e.path = false) (hr : (f s.begin).core.fault.raised = [e])
    (hw : (f s.begin).core.fault.windows = s.core.fault.windows)
    (hs : ((f s.begin).frec e.src).state = true) (hq : ((f s.begin).frec e.src).railsEq = false)
    (hP : ∀ d, Dev.Collected (f s.begin) d → Dev.Quiet (f s.begin) d →
      (Dev.Over s (f s.begin) → Dev.Over s d) → d.core.evts = (f s.begin).core.evts → (d.frec e.src).state = true →
      (d.frec e.src).total = min (((f s.begin).frec e.src).total + 1) (2 ^ 32 - 1) → P (s.commit d)) : Answers c s P := by
  obtain ⟨_, h2, _, _, h5, h6⟩ := State.knows_elim hk
  obtain ⟨i, hi⟩ := Option.isSome_iff_exists.1 h2
  have hq' : (f s.begin).quarantined i.block = false := by simp [Dev.quarantined, hw, h5]
  obtain ⟨g1, g2, g0, g3, _, g5, g6⟩ := Dev.settle_recorded hr hp hi hs (by simp [Dev.railsHold, hq]) hq' (fun x _ _ _ _ => Dev.reactAll_none x e h6) 63
  exact ⟨s.commit ((f s.begin).settle 64), by rw [he]; rfl, hP _ g1 g2 (g0 s) g3 g5 g6⟩

end Sys2Proof.Machine
end

