-- ==== Sys2Proof/Laws/Resets.lean ====
section
/-! SUPPORT. What a reset of the device leaves: every register in its reset value where the reset clears its class (Table 20.8a), and
DRAM at what an unlisted byte reads as. -/
namespace Sys2Proof.Machine

/-- Clearing classes of a register touches no other register. -/
theorem Dev.clearReg_other (d : Dev) (cs : List Cls) {a b : Nat} (h : b ≠ a) : (d.clearReg cs a).reg b = d.reg b :=
  Dev.reg_setReg_other _ h _

/-- Clearing depends on the register's own word alone. -/
theorem Dev.clearReg_same {d e : Dev} (cs : List Cls) (a : Nat) (h : d.reg a = e.reg a) : (d.clearReg cs a).reg a = (e.clearReg cs a).reg a := by
  simp only [Dev.clearReg, Dev.reg_setReg_same, h]

/-- Clearing twice is clearing once. -/
theorem Dev.clearReg_twice (d : Dev) (cs : List Cls) (a : Nat) : ((d.clearReg cs a).clearReg cs a).reg a = (d.clearReg cs a).reg a := by
  simp only [Dev.clearReg, Dev.reg_setReg_same]
  generalize cs.foldl (fun m c => m ||| classMask c a) (0 : Word) = m
  unfold regVal
  ext i hi
  simp only [BitVec.getElem_or, BitVec.getElem_and, BitVec.getElem_not]
  cases (wrMask a)[i] <;> cases m[i] <;> simp

/-- A register at its reset value keeps it. -/
theorem Dev.clearReg_reset {d : Dev} (cs : List Cls) (a : Nat) (h : d.reg a = resetWord a) : (d.clearReg cs a).reg a = d.reg a := by
  simp only [Dev.clearReg, Dev.reg_setReg_same, h]
  generalize cs.foldl (fun m c => m ||| classMask c a) (0 : Word) = m
  unfold regVal
  ext i hi
  simp only [BitVec.getElem_or, BitVec.getElem_and, BitVec.getElem_not]
  cases (wrMask a)[i] <;> cases m[i] <;> simp

/-- Clearing a list of registers clears each of them and leaves the others. -/
theorem clear_list (cs : List Cls) (f : Dev → Nat → Dev) (hf : ∀ d a, f d a = d.clearReg cs a ∨ f d a = d) (b : Nat) (hb : ∀ d, f d b = d.clearReg cs b)
    (l : List Nat) : ∀ d : Dev, (l.foldl f d).reg b = if b ∈ l then (d.clearReg cs b).reg b else d.reg b := by
  induction l with
  | nil => intro d; simp
  | cons a l ih =>
    intro d
    rw [List.foldl_cons, ih]
    by_cases e : b = a
    · subst e
      rw [hb, if_pos List.mem_cons_self]
      by_cases hm : b ∈ l
      · rw [if_pos hm]; exact Dev.clearReg_twice d cs b
      · rw [if_neg hm]
    · have h0 : (f d a).reg b = d.reg b := by
        rcases hf d a with h | h
        · rw [h]; exact Dev.clearReg_other d cs e
        · rw [h]
      by_cases hm : b ∈ l
      · rw [if_pos hm, if_pos (List.mem_cons_of_mem _ hm)]; exact Dev.clearReg_same cs b h0
      · rw [if_neg hm, if_neg (by simp [e, hm]), h0]

/-- A register that is not stored reads its reset value. -/
theorem Dev.reg_unstored {d : Dev} {b : Nat} (h : b ∉ d.storedRegs) : d.reg b = resetWord b := by
  have h1 : b ∉ d.regs.base.map (·.1) := fun g => h (List.mem_append_left _ g)
  have h2 : b ∉ d.regs.log.map (·.1) := fun g => h (List.mem_append_right _ g)
  unfold Dev.reg Overlay.get
  have e : d.regs.log.lookup b = none := by
    rw [List.lookup_eq_none_iff]
    intro p hp
    have : p.1 ≠ b := fun e => h2 (List.mem_map.2 ⟨p, hp, e⟩)
    simpa using fun e : b = p.1 => this e.symm
  rw [e]
  have key : ∀ m : List (Nat × Word), b ∉ m.map (·.1) → Sparse.get resetWord m b = resetWord b := by
    intro m
    induction m with
    | nil => intro _; rfl
    | cons p m ih =>
      intro hm
      simp only [List.map_cons, List.mem_cons, not_or] at hm
      simp only [Sparse.get]
      rw [if_neg (fun e => hm.1 e.symm)]
      exact ih hm.2
  exact key _ h1

/-- The classes a reset of the device clears (Table 20.8a). -/
def RstKind.clears (k : RstKind) : List Cls := if k = .powerOn then [.cfg, .ctl, .sts, .cnt, .lck, .ao] else [.cfg, .ctl, .sts, .cnt, .lck]

/-- The registers after the fold of a device reset. -/
theorem Dev.resetRegs (d : Dev) (k : RstKind) (b : Nat) (h : k = .host → b ≠ 0xC040) :
    ((d.storedRegs.eraseDups).foldl (fun (d : Dev) a => d.resetReg k a) d).reg b = (d.clearReg k.clears b).reg b := by
  rw [clear_list k.clears (fun (d : Dev) a => d.resetReg k a) ?_ b ?_]
  · by_cases hm : b ∈ d.storedRegs
    · rw [if_pos (List.mem_eraseDups.2 hm)]
    · rw [if_neg (fun g => hm (List.mem_eraseDups.1 g))]
      exact (Dev.clearReg_reset _ _ (Dev.reg_unstored hm)).symm
  · intro d a
    unfold Dev.resetReg
    by_cases e : k = .host ∧ a = 0xC040
    · exact .inr (if_pos e)
    · exact .inl (if_neg e)
  · intro d
    unfold Dev.resetReg
    exact if_neg fun e => h e.1 e.2

/-- The registers of a device reset, but the cause of the reset. -/
theorem Dev.deviceReset_reg (d : Dev) (k : RstKind) (b : Nat) (h : k = .host → b ≠ 0xC040) (hb : b ≠ 0x2070) :
    (d.deviceReset k).reg b = (d.clearReg k.clears b).reg b := by
  refine (Dev.reg_setReg_other _ ?_ _).trans (Dev.resetRegs d k b h)
  simpa [fieldAddr, PageKind.page, fLS_RST_CAUSE_LAST] using hb

/-- Storing registers leaves what lies below the overlays. -/
theorem Dev.Over.resetRegs {s : State} (k : RstKind) (l : List Nat) : ∀ d : Dev, Dev.Over s d → Dev.Over s (l.foldl (fun (d : Dev) a => d.resetReg k a) d) := by
  induction l with
  | nil => intro d h; exact h
  | cons a l ih =>
    intro d h
    refine ih _ ?_
    show Dev.Over s (d.resetReg k a)
    unfold Dev.resetReg
    split
    · exact h
    · exact h.setReg _ _

theorem Dev.Over.deviceReset {s : State} {d : Dev} (h : Dev.Over s d) (k : RstKind) : Dev.Over s (d.deviceReset k) := by
  obtain ⟨x, hx, o⟩ : ∃ x : Dev, x = (d.storedRegs.eraseDups).foldl (fun (d : Dev) a => d.resetReg k a) d ∧ Dev.Over s x :=
    ⟨_, rfl, Dev.Over.resetRegs k _ d h⟩
  have e : d.deviceReset k = Dev.set { x with core := x.core.afterReset k, dram := Overlay.clear memDefault x.dram } .lehrSupply 0 fLS_RST_CAUSE_LAST k.code := by
    rw [hx]; rfl
  rw [e]
  have o' : Dev.Over s { x with core := x.core.afterReset k, dram := Overlay.clear memDefault x.dram } := Dev.Over.of_eq o rfl rfl rfl
  exact o'.set _ _ _ _ _

theorem resetRegs_core (k : RstKind) (l : List Nat) : ∀ d : Dev, (l.foldl (fun (d : Dev) a => d.resetReg k a) d).core = d.core := by
  induction l with
  | nil => intro d; rfl
  | cons a l ih =>
    intro d
    rw [List.foldl_cons, ih]
    unfold Dev.resetReg
    split <;> rfl

/-- What a device reset leaves behind the registers. -/
theorem Dev.deviceReset_core (d : Dev) (k : RstKind) : (d.deviceReset k).core = d.core.afterReset k := by
  show Core.afterReset _ k = _
  rw [resetRegs_core]

theorem resetRegs_dram (k : RstKind) (l : List Nat) : ∀ d : Dev, (l.foldl (fun (d : Dev) a => d.resetReg k a) d).dram = d.dram := by
  induction l with
  | nil => intro d; rfl
  | cons a l ih =>
    intro d
    rw [List.foldl_cons, ih]
    unfold Dev.resetReg
    split <;> rfl

/-- An overlay that was cleared reads the default throughout. -/
theorem Overlay.get_clear {α : Type} (d : Nat → α) (o : Overlay α) (k : Nat) : (Overlay.clear d o).get d k = d k := by
  unfold Overlay.get Overlay.clear
  have key : ∀ m : List (Nat × α), (match (m.map fun kv => (kv.1, d kv.1)).lookup k with
      | some v => v
      | none => Sparse.get d m k) = d k := by
    intro m
    induction m with
    | nil => rfl
    | cons p m ih =>
      rw [List.map_cons, List.lookup_cons]
      by_cases h : k = p.1
      · subst h; simp
      · have h1 : (k == p.1) = false := by simpa using h
        rw [h1]
        simp only [Sparse.get]
        rw [if_neg (fun e => h e.symm)]
        exact ih
  exact key o.base

/-- DRAM is not kept. -/
theorem Dev.deviceReset_dram (d : Dev) (k : RstKind) (a : Nat) : (d.deviceReset k).dramByte a = memDefault a := Overlay.get_clear memDefault _ a

end Sys2Proof.Machine
end

