-- ==== Sys2Proof/Laws/Runs.lean ====
section
/-! SUPPORT. The effect that each command runs, one lemma for each: what a proof about a command starts from. -/
namespace Sys2Proof.Machine

theorem run_registerWrite (mst : Fin 4096) (addr : Nat) (dws : List (Word × BitVec 4)) (s : State) : exec (.registerWrite mst addr dws) s =
    s.run (fun d => if mst.val / 256 = 0xF then d else d.writeRequest mst.val addr dws) := rfl
theorem run_guardPairExpiry (page : Fin 512) (s : State) : exec (.guardPairExpiry page) s =
    s.run (fun d => d.dropPend page.val) := rfl
theorem run_pgStatClr (mst : Fin 4096) (page : Fin 512) (seq : BitVec 8) (mask : BitVec 24) (s : State) : exec (.pgStatClr mst page seq mask) s =
    s.run (fun d => d.busWrite mst.val (page.val * 4096 + 0x010) (seq ++ mask)) := rfl
theorem run_resetReq (mst : Fin 4096) (page : Fin 512) (s : State) : exec (.resetReq mst page) s =
    s.run (fun d => d.busWrite mst.val (page.val * 4096 + 0x008) (d.reg (hdrAddr page.val 0x008) ||| 0x4#32)) := rfl
theorem run_quiesce (mst : Fin 4096) (page : Fin 512) (s : State) : exec (.quiesce mst page) s =
    s.run (fun d =>
      let v := d.reg (hdrAddr page.val 0x008) &&& 0x1#32
      d.busWrite mst.val (page.val * 4096 + 0x008) (v ||| 0x2#32)) := rfl
theorem run_enable (mst : Fin 4096) (page : Fin 512) (on : Bool) (s : State) : exec (.enable mst page on) s =
    s.run (fun d =>
      let v := d.reg (hdrAddr page.val 0x008) &&& 0x2#32
      d.busWrite mst.val (page.val * 4096 + 0x008) (v ||| (if on then 1#32 else 0#32))) := rfl
theorem run_resetDone (page : Fin 512) (s : State) : exec (.resetDone page) s =
    s.run (fun d => d.endReset (blockIdx page.val)) := rfl
theorem run_pgLockWrite (mst : Fin 4096) (page : Fin 512) (v : Word) (s : State) : exec (.pgLockWrite mst page v) s =
    s.run (fun d => d.busWrite mst.val (page.val * 4096 + 0x020) v) := rfl
theorem run_powerRequest (mst : Fin 4096) (dom : Fin 202) (req : Fin 4) (idleUs : BitVec 16) (s : State) : exec (.powerRequest mst dom req idleUs) s =
    s.run (fun d =>
      let v := fLP_DOM_REQ.ins (idleUs.setWidth 32) req.val
      d.busWrite mst.val (fieldAddr .lehrPower 0 fLP_DOM_REQ dom.val) (fLP_DOM_TWAKE.ins v (d.get .lehrPower 0 fLP_DOM_TWAKE dom.val))) := rfl
theorem run_vote (page : Fin 512) (c0 c1 c2 : Word) (s : State) : exec (.vote page c0 c1 c2) s =
    s.run (fun d => d.vote page.val c0 c1 c2) := rfl
theorem run_bar2Write (off : Nat) (data : List Byte) (s : State) : exec (.bar2Write off data) s =
    s.run (fun d => d.bar2Write off data) := rfl
theorem run_bar2Read (off : Nat) (ndw : Fin 17) (s : State) : exec (.bar2Read off ndw) s =
    s.run (fun d => d.bar2Read off ndw.val) := rfl
theorem run_hostBusMasterChange (bme d3hot : Bool) (s : State) : exec (.hostBusMasterChange bme d3hot) s =
    s.run (fun d => d.busMasterChange bme d3hot) := rfl
theorem run_hostPortLinkReset (s : State) : exec .hostPortLinkReset s =
    s.run (fun d => d.hostDown) := rfl
theorem run_mbxSqTail (m : Fin 16) (v : Word) (s : State) : exec (.mbxSqTail m v) s =
    s.run (fun d => d.busWrite 0x000 (0xC114 + 0x20 * m.val) v) := rfl
theorem run_mbxCqHead (m : Fin 16) (v : Word) (s : State) : exec (.mbxCqHead m v) s =
    s.run (fun d => d.busWrite 0x000 (0xC118 + 0x20 * m.val) v) := rfl
theorem run_mbxEnable (m : Fin 16) (cfg : Word) (s : State) : exec (.mbxEnable m cfg) s =
    s.run (fun d => d.busPair 0x000 (0xC110 + 0x20 * m.val) (cfg ||| 0x80000000#32)) := rfl
theorem run_mbxDisable (m : Fin 16) (cfg : Word) (s : State) : exec (.mbxDisable m cfg) s =
    s.run (fun d => d.busPair 0x000 (0xC110 + 0x20 * m.val) (cfg &&& 0x7FFFFFFF#32)) := rfl
theorem run_commandFetch (m : Fin 16) (entry : Option (List Word)) (s : State) : exec (.commandFetch m entry) s =
    s.run (fun d => d.commandFetch m.val entry) := rfl
theorem run_commandCompletion (m : Fin 16) (s : State) : exec (.commandCompletion m) s =
    s.run (fun d => d.commandCompletion m.val) := rfl
theorem run_mirrorWrite (s : State) : exec .mirrorWrite s =
    s.run (fun d => d.mirrorWrite) := rfl
theorem run_modeRequest (mst : Fin 4096) (req : Word) (s : State) : exec (.modeRequest mst req) s =
    s.run (fun d => d.busPair mst.val 0x4C req) := rfl
theorem run_fwInfo (m : Fin 16) (s : State) : exec (.fwInfo m) s =
    s.run (fun d => d.withCmd m.val 0x01 fun d c => d.cmdFwInfo m.val c) := rfl
theorem run_armRecord (m : Fin 16) (s : State) : exec (.armRecord m) s =
    s.run (fun d => d.withCmd m.val 0x10 fun d c => d.cmdArmRecord m.val c) := rfl
theorem run_armDecode (m : Fin 16) (source : Option (List Byte)) (s : State) : exec (.armDecode m source) s =
    s.run (fun d => d.withCmd m.val 0x11 fun d c => d.cmdArmDecode m.val source c) := rfl
theorem run_armProxy (m : Fin 16) (tpl : Option (List Byte)) (s : State) : exec (.armProxy m tpl) s =
    s.run (fun d => d.withCmd m.val 0x12 fun d c => d.cmdArmProxy m.val tpl c) := rfl
theorem run_disarm (m : Fin 16) (s : State) : exec (.disarm m) s =
    s.run (fun d => d.withCmd m.val 0x13 fun d c => d.cmdDisarm m.val c) := rfl
theorem run_release (m : Fin 16) (s : State) : exec (.release m) s =
    s.run (fun d => d.withCmd m.val 0x14 fun d c => d.cmdRelease m.val c) := rfl
theorem run_close (m : Fin 16) (s : State) : exec (.close m) s =
    s.run (fun d => d.withCmd m.val 0x15 fun d c => d.cmdClose m.val c) := rfl
theorem run_streamStatus (m : Fin 16) (hostOk : Bool) (s : State) : exec (.streamStatus m hostOk) s =
    s.run (fun d => d.withCmd m.val 0x16 fun d c => d.cmdStreamStatus m.val hostOk c) := rfl
theorem run_takeStart (m : Fin 16) (s : State) : exec (.takeStart m) s =
    s.run (fun d => d.withCmd m.val 0x20 fun d c => d.cmdTakeStart m.val c) := rfl
theorem run_takeStop (m : Fin 16) (s : State) : exec (.takeStop m) s =
    s.run (fun d => d.withCmd m.val 0x21 fun d c => d.cmdTakeStop m.val c) := rfl
theorem run_takeStopTime (s : State) : exec .takeStopTime s =
    s.run (fun d => d.takeDrain.takeEnd) := rfl
theorem run_setIngest (m : Fin 16) (s : State) : exec (.setIngest m) s =
    s.run (fun d => d.withCmd m.val 0x30 fun d c => d.cmdSetIngest m.val c) := rfl
theorem run_forceI (m : Fin 16) (s : State) : exec (.forceI m) s =
    s.run (fun d => d.withCmd m.val 0x31 fun d c => d.cmdForceI m.val c) := rfl
theorem run_forceIdr (m : Fin 16) (s : State) : exec (.forceIdr m) s =
    s.run (fun d => d.withCmd m.val 0x32 fun d c => d.cmdForceIdr m.val c) := rfl
theorem run_getParamSets (m : Fin 16) (hostOk : Bool) (s : State) : exec (.getParamSets m hostOk) s =
    s.run (fun d => d.withCmd m.val 0x33 fun d c => d.cmdParamSets m.val hostOk c) := rfl
theorem run_hostMeta (m : Fin 16) (data : Option (List Byte)) (s : State) : exec (.hostMeta m data) s =
    s.run (fun d => d.withCmd m.val 0x34 fun d c => d.cmdHostMeta m.val data c) := rfl
theorem run_headCmd (m : Fin 16) (s : State) : exec (.headCmd m) s =
    s.run (fun d => d.withCmd m.val 0x40 fun d c => d.cmdHeadCmd m.val c) := rfl
theorem run_headWake (m : Fin 16) (s : State) : exec (.headWake m) s =
    s.run (fun d => d.withCmd m.val 0x41 fun d c => d.cmdHeadWake m.val c) := rfl
theorem run_allowAdd (m : Fin 16) (s : State) : exec (.allowAdd m) s =
    s.run (fun d => d.withCmd m.val 0x42 fun d c => d.cmdAllowAdd m.val c) := rfl
theorem run_allowRemove (m : Fin 16) (s : State) : exec (.allowRemove m) s =
    s.run (fun d => d.withCmd m.val 0x43 fun d c => d.cmdAllowRemove m.val c) := rfl
theorem run_bufAssign (m : Fin 16) (s : State) : exec (.bufAssign m) s =
    s.run (fun d => d.withCmd m.val 0x50 fun d c => d.cmdBufAssign m.val c) := rfl
theorem run_bufFree (m : Fin 16) (s : State) : exec (.bufFree m) s =
    s.run (fun d => d.withCmd m.val 0x51 fun d c => d.cmdBufFree m.val c) := rfl
theorem run_admissionForward (s : State) : exec .admissionForward s =
    s.run (fun d => d.forwardTaken) := rfl
theorem run_blockLockGained (lane : Fin 1024) (s : State) : exec (.blockLockGained lane) s =
    s.run (fun d => d.lockGained lane.val) := rfl
theorem run_blockLockLost (lane : Fin 1024) (s : State) : exec (.blockLockLost lane) s =
    s.run (fun d => d.lockLost lane.val) := rfl
theorem run_align (lane : Fin 1024) (logical carry spares : BitVec 8) (count : BitVec 16) (badHeaders : Nat) (s : State) : exec (.align lane logical carry spares count badHeaders) s =
    s.run (fun d => d.alignBlock lane.val logical.toNat carry.toNat spares.toNat count.toNat badHeaders) := rfl
theorem run_pstart (head : Fin 1024) (region : Fin 16) (picture : BitVec 24) (s : State) : exec (.pstart head region picture) s =
    s.run (fun d => d.recvPstart head.val region.val picture.toNat) := rfl
theorem run_sample (head : Fin 1024) (packet : List Byte) (s : State) : exec (.sample head packet) s =
    s.run (fun d => d.recvSample head.val packet) := rfl
theorem run_metaPacket (head : Fin 1024) (packet : List Byte) (s : State) : exec (.metaPacket head packet) s =
    s.run (fun d => d.recvMeta head.val packet) := rfl
theorem run_motion (head : Fin 1024) (packet : List Byte) (s : State) : exec (.motion head packet) s =
    s.run (fun d => d.recvMotion head.val packet) := rfl
theorem run_hello (head : Fin 1024) (packet : List Byte) (s : State) : exec (.hello head packet) s =
    s.run (fun d => d.recvHello head.val packet) := rfl
theorem run_response (head : Fin 1024) (packet : List Byte) (s : State) : exec (.response head packet) s =
    s.run (fun d => d.recvResponse head.val packet) := rfl
theorem run_ack (head : Fin 1024) (packet : List Byte) (s : State) : exec (.ack head packet) s =
    s.run (fun d => d.recvAck head.val packet) := rfl
theorem run_echo (head : Fin 1024) (packet : List Byte) (s : State) : exec (.echo head packet) s =
    s.run (fun d => d.recvEcho head.val packet) := rfl
theorem run_hostileIntervalEnd (s : State) : exec .hostileIntervalEnd s =
    s.run (fun d => d.hostileEnd) := rfl
theorem run_policeCreditTick (s : State) : exec .policeCreditTick s =
    s.run (fun d => d.creditTick) := rfl
theorem run_replayFrame (head : Fin 1024) (s : State) : exec (.replayFrame head) s =
    s.run (fun d => d.sendFrame head.val 1) := rfl
theorem run_laneMapFrame (head : Fin 1024) (s : State) : exec (.laneMapFrame head) s =
    s.run (fun d => d.sendFrame head.val 2) := rfl
theorem run_triggerFrame (head : Fin 1024) (s : State) : exec (.triggerFrame head) s =
    s.run (fun d => d.sendFrame head.val 3) := rfl
theorem run_timeFrame (head : Fin 1024) (s : State) : exec (.timeFrame head) s =
    s.run (fun d => d.sendTime head.val) := rfl
theorem run_hostCmdFrame (head : Fin 1024) (s : State) : exec (.hostCmdFrame head) s =
    s.run (fun d => d.sendFrame head.val 5) := rfl
theorem run_challengeFrame (head : Fin 1024) (s : State) : exec (.challengeFrame head) s =
    s.run (fun d => d.sendFrame head.val 6) := rfl
theorem run_admitFrame (head : Fin 1024) (s : State) : exec (.admitFrame head) s =
    s.run (fun d => d.sendFrame head.val 7) := rfl
theorem run_trainFrame (head : Fin 1024) (s : State) : exec (.trainFrame head) s =
    s.run (fun d => d.sendTrain head.val) := rfl
theorem run_ackFrame (head : Fin 1024) (s : State) : exec (.ackFrame head) s =
    s.run (fun d => d.sendFrame head.val 9) := rfl
theorem run_backchannelResendTimeout (head : Fin 1024) (tag : BitVec 8) (s : State) : exec (.backchannelResendTimeout head tag) s =
    s.run (fun d => d.resendTimeout head.val tag.toNat) := rfl
theorem run_responseTimeout (head : Fin 1024) (s : State) : exec (.responseTimeout head) s =
    s.run (fun d => d.responseTimeout head.val) := rfl
theorem run_linkLost (head : Fin 1024) (s : State) : exec (.linkLost head) s =
    s.run (fun d => d.linkLost head.val) := rfl
theorem run_gtQrel (mst : Fin 4096) (bank : Fin 32) (v : Word) (s : State) : exec (.gtQrel mst bank v) s =
    s.run (fun d => d.busWrite mst.val ((0x80 + bank.val) * 4096 + 0x050) v) := rfl
theorem run_gtLaneOn (mst : Fin 4096) (bank : Fin 32) (v : Word) (s : State) : exec (.gtLaneOn mst bank v) s =
    s.run (fun d => d.busWrite mst.val ((0x80 + bank.val) * 4096 + 0x04C) v) := rfl
theorem run_wakePattern (lane : Fin 1024) (s : State) : exec (.wakePattern lane) s =
    s.run (fun d => d.wakePattern lane.val) := rfl
theorem run_holdExpiry (slot : Fin 1024) (s : State) : exec (.holdExpiry slot) s =
    s.run (fun d => d.closeRows slot.val) := rfl
theorem run_pictureDeadline (slot : Fin 1024) (s : State) : exec (.pictureDeadline slot) s =
    s.run (fun d => d.closeRows slot.val) := rfl
theorem run_missingPicture (slot : Fin 1024) (s : State) : exec (.missingPicture slot) s =
    s.run (fun d => d.declareMissing slot.val) := rfl
theorem run_rowGrant (slot : Fin 1024) (s : State) : exec (.rowGrant slot) s =
    s.run (fun d => d.grantRow slot.val) := rfl
theorem run_tileDispatch (cluster : Fin 16) (s : State) : exec (.tileDispatch cluster) s =
    s.run (fun d => d.dispatch cluster.val) := rfl
theorem run_stripCheckpoint (slot : Fin 1024) (row k : Nat) (s : State) : exec (.stripCheckpoint slot row k) s =
    s.run (fun d => d.checkpoint slot.val row k) := rfl
theorem run_tileCommit (pipe : Fin 68) (selfCheckOk : Bool) (s : State) : exec (.tileCommit pipe selfCheckOk) s =
    s.run (fun d =>
      let job := (d.enc pipe.val).job
      let d := (d.tileCommit pipe.val selfCheckOk).refreshMode
      match job with
      | some (s, pic, r, _) => d.digestRow s pic r
      | none => d) := rfl
theorem run_tileRowEmit (slot : Fin 1024) (s : State) : exec (.tileRowEmit slot) s =
    s.run (fun d =>
      let d := match (d.rec? slot.val).bind (·.nextRow) with
        | some (q, r) => d.digestRow slot.val q.pic r
        | none => d
      d.rowEmit slot.val) := rfl
theorem run_mrmDrainTick (s : State) : exec .mrmDrainTick s =
    s.run (fun d => d.drainTick) := rfl
theorem run_restartCreditTick (s : State) : exec .restartCreditTick s =
    s.run (fun d => d.creditStep) := rfl
theorem run_machineCheck (decode : Bool) (pipe : Fin 68) (uaddr : BitVec 13) (groups : BitVec 8) (s : State) : exec (.machineCheck decode pipe uaddr groups) s =
    s.run (fun d =>
      if decode then (if pipe.val < 20 then d.decMachineCheck pipe.val uaddr.toNat groups.toNat else d)
      else d.encMachineCheck pipe.val uaddr.toNat groups.toNat) := rfl
theorem run_pipelineOrder (decode : Bool) (pipe : Fin 68) (order : Fin 5) (s : State) : exec (.pipelineOrder decode pipe order) s =
    s.run (fun d =>
      if decode then (if pipe.val < 20 then d.setDecp pipe.val (latchOrder (d.decp pipe.val) order.val) else d)
      else d.setEnc pipe.val (latchOrder (d.enc pipe.val) order.val)) := rfl
theorem run_commitPoint (decode : Bool) (pipe : Fin 68) (gap : BitVec 12) (s : State) : exec (.commitPoint decode pipe gap) s =
    s.run (fun d =>
      let g := min 2048 gap.toNat
      if decode then
        if pipe.val < 20 then
          let d := d.raiseMax .dec pipe.val fMC_GAP_MAX g
          d.setDecp pipe.val { d.decp pipe.val with orders := [] }
        else d
      else (d.raiseMax .enc pipe.val fMC_GAP_MAX g).takeOrders pipe.val) := rfl
theorem run_scanBoundary (ctl : Fin 8) (s : State) : exec (.scanBoundary ctl) s =
    s.run (fun d => d.scanBoundary ctl.val) := rfl
theorem run_gafferHalt (ctl : Fin 8) (s : State) : exec (.gafferHalt ctl) s =
    s.run (fun d => d.firmwareHalt ctl.val) := rfl
theorem run_gafferHeartbeatTimeout (ctl : Fin 8) (s : State) : exec (.gafferHeartbeatTimeout ctl) s =
    s.run (fun d => d.heartbeatLost ctl.val) := rfl
theorem run_eventAssert (src : Fin 256) (level : Bool) (s : State) : exec (.eventAssert src level) s =
    s.run (fun d => if evtExternal src.val then d else d.eventLine src.val level) := rfl
theorem run_externalFilterPass (src : Fin 256) (level : Bool) (s : State) : exec (.externalFilterPass src level) s =
    s.run (fun d => if evtExternal src.val then d.eventLine src.val level else d) := rfl
theorem run_evtSrcWrite (mst : Fin 4096) (src : Fin 256) (v : Word) (s : State) : exec (.evtSrcWrite mst src v) s =
    s.run (fun d => d.busPair mst.val (fieldAddr .event 0 fEVT_SRC_TARGET src.val) v) := rfl
theorem run_fabricHandshakeTimeout (block : Fin 183) (s : State) : exec (.fabricHandshakeTimeout block) s =
    s.run (fun d => d.raise (1808 + block.val)) := rfl
theorem run_leaseRequest (ring : Fin 16384) (tag : BitVec 16) (s : State) : exec (.leaseRequest ring tag) s =
    s.run (fun d => d.lease ring.val tag.toNat) := rfl
theorem run_leaseExpiry (ring : Fin 16384) (s : State) : exec (.leaseExpiry ring) s =
    s.run (fun d => d.leaseExpire ring.val) := rfl
theorem run_ringTailAdvance (ring : Fin 16384) (tag : BitVec 16) (tail : BitVec 16) (s : State) : exec (.ringTailAdvance ring tag tail) s =
    s.run (fun d => d.tailBy ring.val tag.toNat tail.toNat) := rfl
theorem run_ringHeadAdvance (ring : Fin 16384) (head : BitVec 16) (s : State) : exec (.ringHeadAdvance ring head) s =
    s.run (fun d => if (d.ring ring.val).en then d.advanceHead ring.val head.toNat else d) := rfl
theorem run_quDb (mst : Fin 4096) (i : Fin 4096) (v : Word) (s : State) : exec (.quDb mst i v) s =
    s.run (fun d => d.busWrite mst.val (fieldAddr .queueDb (i.val / 512) fQU_DB_TAIL (i.val % 512)) v) := rfl
theorem run_quRcfg (mst : Fin 4096) (v : Word) (s : State) : exec (.quRcfg mst v) s =
    s.run (fun d => d.busPair mst.val 0x20054 v) := rfl
theorem run_dmaDescriptorDone (ring : Fin 4096) (desc : List Word) (status : Fin 5) (data : List Byte) (s : State) : exec (.dmaDescriptorDone ring desc status data) s =
    s.run (fun d => d.descDone (8192 + ring.val) desc status.val data) := rfl
theorem run_dmaRequestLine (line : Fin 256) (s : State) : exec (.dmaRequestLine line) s =
    s.run (fun d => d.requestLine line.val) := rfl
theorem run_dmaBurstDone (ch : Fin 64) (data : List Byte) (s : State) : exec (.dmaBurstDone ch data) s =
    s.run (fun d => d.burstDone ch.val data) := rfl
theorem run_chCfgWrite (mst : Fin 4096) (ch : Fin 64) (v : Word) (s : State) : exec (.chCfgWrite mst ch v) s =
    s.run (fun d => d.busPair mst.val (fieldAddr .queueCh (ch.val / 32) fCH_CFG_EN (ch.val % 32)) v) := rfl
theorem run_calendarSlot (s : State) : exec .calendarSlot s =
    s.run (fun d => d.calendarSlot) := rfl
theorem run_pieceRelease (output : Fin 12) (s : State) : exec (.pieceRelease output) s =
    s.run (fun d => d.drrVisit output.val) := rfl
theorem run_ringSample (s : State) : exec .ringSample s =
    s.run (fun d => d.ringSample) := rfl
theorem run_chunkAllocate (tag : BitVec 16) (cls : Fin 8) (large : Bool) (s : State) : exec (.chunkAllocate tag cls large) s =
    s.run (fun d => (d.allocChunk tag.toNat cls.val large).1) := rfl
theorem run_chunkRelease (handle : Word) (tag : BitVec 16) (s : State) : exec (.chunkRelease handle tag) s =
    s.run (fun d => d.releaseHold handle.toNat tag.toNat) := rfl
theorem run_magPresenceChange (port : Fin 8) (present : Bool) (s : State) : exec (.magPresenceChange port present) s =
    s.run (fun d => d.presence port.val present) := rfl
theorem run_magPerstRelease (port : Fin 8) (s : State) : exec (.magPerstRelease port) s =
    s.run (fun d => d.perstRelease port.val) := rfl
theorem run_magLinkUp (port : Fin 8) (speed widthLog2 : Fin 8) (s : State) : exec (.magLinkUp port speed widthLog2) s =
    s.run (fun d => d.magLinkUp port.val speed.val widthLog2.val) := rfl
theorem run_magLinkTimeout (port : Fin 8) (s : State) : exec (.magLinkTimeout port) s =
    s.run (fun d => d.magLinkTimeout port.val) := rfl
theorem run_magReady (port : Fin 8) (mqes : BitVec 16) (mpsmin : BitVec 4) (s : State) : exec (.magReady port mqes mpsmin) s =
    s.run (fun d => d.magReady port.val mqes.toNat mpsmin.toNat) := rfl
theorem run_magReadyTimeout (port : Fin 8) (s : State) : exec (.magReadyTimeout port) s =
    s.run (fun d => d.magReadyTimeout port.val) := rfl
theorem run_nvmeAdminCompletion (port : Fin 8) (status : BitVec 15) (dw0 : Word) (data : List Byte) (s : State) : exec (.nvmeAdminCompletion port status dw0 data) s =
    s.run (fun d => d.adminDone port.val status.toNat dw0.toNat data) := rfl
theorem run_nvmeWriteCompletion (port : Fin 8) (pair : Fin 257) (cid : Fin 1024) (status : BitVec 15) (s : State) : exec (.nvmeWriteCompletion port pair cid status) s =
    s.run (fun d => d.writeDone port.val pair.val cid.val status.toNat) := rfl
theorem run_nvmeReadCompletion (port : Fin 8) (pair : Fin 257) (cid : Fin 1024) (status : BitVec 15) (data : List Byte) (s : State) : exec (.nvmeReadCompletion port pair cid status data) s =
    s.run (fun d => d.nvmeRead port.val pair.val cid.val status.toNat data) := rfl
theorem run_nvmeFlushCompletion (port : Fin 8) (status : BitVec 15) (s : State) : exec (.nvmeFlushCompletion port status) s =
    s.run (fun d => d.flushDone port.val status.toNat) := rfl
theorem run_writeTimeout (port : Fin 8) (s : State) : exec (.writeTimeout port) s =
    s.run (fun d => d.writeTimedOut port.val) := rfl
theorem run_magLinkDown (port : Fin 8) (s : State) : exec (.magLinkDown port) s =
    s.run (fun d =>
      let st := d.get .mag port.val fMAG_STAT_STATE
      if st = 0 ∨ st = 6 then d else (d.assertEvt (88 + port.val)).removePort port.val) := rfl
theorem run_pcieCompletionTimeout (port : Fin 8) (s : State) : exec (.pcieCompletionTimeout port) s =
    s.run (fun d => d.assertEvt (88 + port.val)) := rfl
theorem run_exchangeWaitTimeout (s : State) : exec .exchangeWaitTimeout s =
    s.run (fun d => d.exchangeWaitOver) := rfl
theorem run_drainConfirmTimeout (slot : Fin 1024) (s : State) : exec (.drainConfirmTimeout slot) s =
    s.run (fun d => d.drainMissed slot.val) := rfl
theorem run_pacePublish (s : State) : exec .pacePublish s =
    s.run (fun d => d.pacePublish) := rfl
theorem run_portShortTimeout (port : Fin 8) (s : State) : exec (.portShortTimeout port) s =
    s.run (fun d => d.portShortOver port.val) := rfl
theorem run_smartPoll (s : State) : exec .smartPoll s =
    s.run (fun d => d.smartPoll) := rfl
theorem run_magMount (m : Fin 16) (s : State) : exec (.magMount m) s =
    s.run (fun d => d.withCmd m.val 0x60 fun d c => d.cmdMagMount m.val c) := rfl
theorem run_magUnmount (m : Fin 16) (s : State) : exec (.magUnmount m) s =
    s.run (fun d => d.withCmd m.val 0x61 fun d c => d.cmdMagUnmount m.val c) := rfl
theorem run_magSwap (m : Fin 16) (s : State) : exec (.magSwap m) s =
    s.run (fun d => d.withCmd m.val 0x62 fun d c => d.cmdMagSwap m.val c) := rfl
theorem run_magFlush (m : Fin 16) (s : State) : exec (.magFlush m) s =
    s.run (fun d => d.withCmd m.val 0x63 fun d c => d.cmdMagFlush m.val c) := rfl
theorem run_magLog (m : Fin 16) (s : State) : exec (.magLog m) s =
    s.run (fun d => d.withCmd m.val 0x64 fun d c => d.cmdMagLog m.val c) := rfl
theorem run_magIdent (m : Fin 16) (s : State) : exec (.magIdent m) s =
    s.run (fun d => d.withCmd m.val 0x66 fun d c => d.cmdMagIdent m.val c) := rfl
theorem run_armOffload (m : Fin 16) (source : Option (List Byte)) (s : State) : exec (.armOffload m source) s =
    s.run (fun d => d.withCmd m.val 0x65 fun d c => d.cmdArmOffload m.val source c) := rfl
theorem run_journalWaitExpiry (port : Fin 8) (s : State) : exec (.journalWaitExpiry port) s =
    s.run (fun d => d.journalWait port.val) := rfl
theorem run_memCorrectedRead (ch : Fin 10) (s : State) : exec (.memCorrectedRead ch) s =
    s.run (fun d => d.corrected ch.val) := rfl
theorem run_memUncorrectableRead (addr : Nat) (mst : Fin 4096) (user : Nat) (s : State) : exec (.memUncorrectableRead addr mst user) s =
    s.run (fun d => d.uncorrectable addr mst.val user) := rfl
theorem run_patrolScrub (addr : Nat) (result : Fin 3) (s : State) : exec (.patrolScrub addr result) s =
    s.run (fun d => d.scrubRead addr result.val) := rfl
theorem run_mcRetire (mst : Fin 4096) (v : Word) (s : State) : exec (.mcRetire mst v) s =
    s.run (fun d => d.busPair mst.val 0x4A048 v) := rfl
theorem run_retirementCopyDone (s : State) : exec .retirementCopyDone s =
    s.run (fun d => d.retireDone) := rfl
theorem run_channelLost (ch : Fin 10) (s : State) : exec (.channelLost ch) s =
    s.run (fun d => d.loseChannel ch.val) := rfl
theorem run_refreshDue (ch : Fin 10) (rfm : Bool) (neighbours : Bool) (s : State) : exec (.refreshDue ch rfm neighbours) s =
    s.run (fun d => d.refreshed ch.val rfm neighbours) := rfl
theorem run_dqsTrack (ch : Fin 10) (adjusted beyondLimit : Bool) (s : State) : exec (.dqsTrack ch adjusted beyondLimit) s =
    s.run (fun d => d.tracked ch.val adjusted beyondLimit) := rfl
theorem run_channelTrainingDone (ch : Fin 10) (ok : Bool) (ms : BitVec 8) (s : State) : exec (.channelTrainingDone ch ok ms) s =
    s.run (fun d => d.trained ch.val ok ms.toNat) := rfl
theorem run_timeStepAdd (mst : Fin 4096) (v : Word) (s : State) : exec (.timeStepAdd mst v) s =
    s.run (fun d => d.busPair mst.val 0x8068 (fTM_APPLY_OFS.ins v 1)) := rfl
theorem run_timeSetAbsolute (mst : Fin 4096) (v : Word) (s : State) : exec (.timeSetAbsolute mst v) s =
    s.run (fun d => d.busPair mst.val 0x8068 (fTM_APPLY_OFS.ins v 2)) := rfl
theorem run_timeRateInstall (mst : Fin 4096) (v : Word) (s : State) : exec (.timeRateInstall mst v) s =
    s.run (fun d => d.busPair mst.val 0x8068 (fTM_APPLY_RATE_EN.ins v 1)) := rfl
theorem run_tmNowRead (s : State) : exec .tmNowRead s =
    s.run (fun d => d.readNow) := rfl
theorem run_tmFreeRead (s : State) : exec .tmFreeRead s =
    s.run (fun d => d.readFree) := rfl
theorem run_refclkLoss (s : State) : exec .refclkLoss s =
    s.run (fun d => d.refLost) := rfl
theorem run_refclkReturn (s : State) : exec .refclkReturn s =
    s.run (fun d => d.refBack) := rfl
theorem run_pinStamp (src : Fin 9) (rising : Bool) (s : State) : exec (.pinStamp src rising) s =
    s.run (fun d => d.stampPin src.val rising) := rfl
theorem run_ppsOut (s : State) : exec .ppsOut s =
    s.run (fun d => d.ppsRise) := rfl
theorem run_triggerDue (head : Fin 1024) (s : State) : exec (.triggerDue head) s =
    s.run (fun d => d.triggerDue head.val) := rfl
theorem run_ethFrameReceive (net : Fin 2) (frame : List Byte) (s : State) : exec (.ethFrameReceive net frame) s =
    s.run (fun d => d.ethReceive net.val frame) := rfl
theorem run_ptpFrameTransmit (net : Fin 2) (s : State) : exec (.ptpFrameTransmit net) s =
    s.run (fun d => d.ptpTransmit net.val) := rfl
theorem run_ptpMessageDue (net : Fin 2) (msg : Fin 16) (s : State) : exec (.ptpMessageDue net msg) s =
    s.run (fun d => d.ptpDue net.val msg.val) := rfl
theorem run_announceReceiptTimeout (net : Fin 2) (s : State) : exec (.announceReceiptTimeout net) s =
    s.run (fun d => d.announceLost net.val) := rfl
theorem run_netLinkChange (net : Fin 2) (up : Bool) (s : State) : exec (.netLinkChange net up) s =
    s.run (fun d => d.netLink net.val up) := rfl
theorem run_ptpConfig (m : Fin 16) (s : State) : exec (.ptpConfig m) s =
    s.run (fun d => d.withCmd m.val 0x70 fun d c => d.cmdPtpConfig m.val c) := rfl
theorem run_ptpStatus (m : Fin 16) (hostOk : Bool) (s : State) : exec (.ptpStatus m hostOk) s =
    s.run (fun d => d.withCmd m.val 0x71 fun d c => d.cmdPtpStatus m.val hostOk c) := rfl
theorem run_timeSet (m : Fin 16) (s : State) : exec (.timeSet m) s =
    s.run (fun d => d.withCmd m.val 0x72 fun d c => d.cmdTimeSet m.val c) := rfl
theorem run_trigSched (m : Fin 16) (s : State) : exec (.trigSched m) s =
    s.run (fun d => d.withCmd m.val 0x73 fun d c => d.cmdTrigSched m.val c) := rfl
theorem run_trigCancel (m : Fin 16) (s : State) : exec (.trigCancel m) s =
    s.run (fun d => d.withCmd m.val 0x74 fun d c => d.cmdTrigCancel m.val c) := rfl
theorem run_tcConfig (m : Fin 16) (s : State) : exec (.tcConfig m) s =
    s.run (fun d => d.withCmd m.val 0x75 fun d c => d.cmdTcConfig m.val c) := rfl
theorem run_decodeTileDone (pipe : Fin 20) (s : State) : exec (.decodeTileDone pipe) s =
    s.run (fun d => d.decTileDone pipe.val) := rfl
theorem run_decodePictureComplete (slot : Fin 256) (s : State) : exec (.decodePictureComplete slot) s =
    s.run (fun d => d.decPictureDone (1024 + slot.val)) := rfl
theorem run_pacedRelease (slot : Fin 256) (s : State) : exec (.pacedRelease slot) s =
    s.run (fun d => d.pacedRelease (1024 + slot.val)) := rfl
theorem run_proxySliceComplete (slot : Fin 256) (s : State) : exec (.proxySliceComplete slot) s =
    s.run (fun d => d.proxySlice (1280 + slot.val)) := rfl
theorem run_proxyPictureStart (slot : Fin 256) (s : State) : exec (.proxyPictureStart slot) s =
    s.run (fun d => d.proxyPicture (1280 + slot.val)) := rfl
theorem run_rtcpSenderReport (slot : Fin 256) (s : State) : exec (.rtcpSenderReport slot) s =
    s.run (fun d => d.rtcpReport (1280 + slot.val)) := rfl
theorem run_peerIdent (p : Fin 3) (member sizeM1 port : Fin 4) (serial : BitVec 64) (polarity : BitVec 8) (delay01ns : BitVec 16) (s : State) : exec (.peerIdent p member sizeM1 port serial polarity delay01ns) s =
    s.run (fun d => d.peerIdent p.val member.val sizeM1.val port.val serial.toNat polarity.toNat delay01ns.toNat) := rfl
theorem run_peerDataFlit (p : Fin 3) (flit : List Byte) (s : State) : exec (.peerDataFlit p flit) s =
    s.run (fun d => d.peerFlit p.val flit) := rfl
theorem run_peerNak (p : Fin 3) (seq : BitVec 12) (s : State) : exec (.peerNak p seq) s =
    s.run (fun d => d.peerNak p.val seq.toNat) := rfl
theorem run_peerLinkLost (p : Fin 3) (s : State) : exec (.peerLinkLost p) s =
    s.run (fun d => d.peerLost p.val) := rfl
theorem run_heartbeat (s : State) : exec .heartbeat s =
    s.run (fun d => d.heartbeat) := rfl
theorem run_peerTime (p : Fin 3) (sentNs : BitVec 64) (sentFrac : Word) (s : State) : exec (.peerTime p sentNs sentFrac) s =
    s.run (fun d => d.gangTime p.val sentNs.toNat sentFrac.toNat) := rfl
theorem run_peerTimeSend (s : State) : exec .peerTimeSend s =
    s.run (fun d => d.sendGangTime) := rfl
theorem run_offerReq (p : Fin 3) (_streams : Nat) (sumMbps : Nat) (s : State) : exec (.offerReq p _streams sumMbps) s =
    s.run (fun d => d.offerAsked p.val sumMbps) := rfl
theorem run_offer (p : Fin 3) (_port : Fin 8) (s : State) : exec (.offer p _port) s =
    s.run (fun d => d.offerCame p.val) := rfl
theorem run_offerTimeout (s : State) : exec .offerTimeout s =
    s.run (fun d => d.offersOver) := rfl
theorem run_accept (p : Fin 3) (takeId : BitVec 16) (tStart srcVolume : BitVec 64) (streams : List (Nat × Nat × Nat × Nat × Nat)) (s : State) : exec (.accept p takeId tStart srcVolume streams) s =
    s.run (fun d => d.offerTaken p.val takeId.toNat tStart.toNat srcVolume.toNat streams) := rfl
theorem run_offerReleaseTimeout (p : Fin 3) (s : State) : exec (.offerReleaseTimeout p) s =
    s.run (fun d => d.offerReleased p.val) := rfl
theorem run_confirm (p : Fin 3) (slot : Fin 1024) (endAddr : Nat) (s : State) : exec (.confirm p slot endAddr) s =
    s.run (fun d => d.partnerConfirms p.val slot.val endAddr) := rfl
theorem run_readReq (p : Fin 3) (takeId : BitVec 16) (recStream : Fin 1024) (first : BitVec 24) (mbps : Nat) (s : State) : exec (.readReq p takeId recStream first mbps) s =
    s.run (fun d => d.readAsked p.val takeId.toNat recStream.val first.toNat mbps) := rfl
theorem run_partnerFailed (p : Fin 3) (s : State) : exec (.partnerFailed p) s =
    s.run (fun d => d.partnerFails p.val) := rfl
theorem run_peerStatus (m : Fin 16) (hostOk : Bool) (s : State) : exec (.peerStatus m hostOk) s =
    s.run (fun d => d.withCmd m.val 0x80 fun d c => d.cmdPeerStatus m.val hostOk c) := rfl
theorem run_peerAccept (m : Fin 16) (s : State) : exec (.peerAccept m) s =
    s.run (fun d => d.withCmd m.val 0x81 fun d c => d.cmdPeerAccept m.val c) := rfl
theorem run_peerRefuse (m : Fin 16) (s : State) : exec (.peerRefuse m) s =
    s.run (fun d => d.withCmd m.val 0x82 fun d c => d.cmdPeerRefuse m.val c) := rfl
theorem run_faultSourceEvent (src : Fin 2053) (mst : Fin 4096) (access : Fin 16) (detail : BitVec 16) (addr : Nat) (s : State) : exec (.faultSourceEvent src mst access detail addr) s =
    s.run (fun d =>
      if src.val < 4096 ∧ (srcInfo src.val).isNone then d
      else
        let d := if ((srcInfo src.val).map (·.level)).getD false then d.setFrec src.val { d.frec src.val with level := true } else d
        d.raise src.val mst.val access.val detail.toNat addr) := rfl
theorem run_pathFault (src : Fin 2053) (s : State) : exec (.pathFault src) s =
    s.run (fun d => if (srcInfo src.val).isNone then d else d.raisePath src.val) := rfl
theorem run_quarantineClose (s : State) : exec .quarantineClose s =
    s.run (fun d => d.windowClose) := rfl
theorem run_fcClr (mst : Fin 4096) (src : Fin 4096) (s : State) : exec (.fcClr mst src) s =
    s.run (fun d => d.busWrite mst.val 0x4040 (BitVec.ofNat 32 src.val)) := rfl
theorem run_fcClrAll (mst : Fin 4096) (s : State) : exec (.fcClrAll mst) s =
    s.run (fun d => d.busWrite mst.val 0x4040 0x80000000#32) := rfl
theorem run_fcRestore (mst : Fin 4096) (v : Word) (s : State) : exec (.fcRestore mst v) s =
    s.run (fun d => d.busPair mst.val (fieldAddr .fault3 0 fFC_RESTORE_REQ 0) v) := rfl
theorem run_idleTimerExpiry (dom : Fin 202) (s : State) : exec (.idleTimerExpiry dom) s =
    s.run (fun d => d.idleExpiry dom.val) := rfl
theorem run_domainEntryDone (dom : Fin 202) (s : State) : exec (.domainEntryDone dom) s =
    s.run (fun d => d.entryDone dom.val) := rfl
theorem run_domainWake (dom : Fin 202) (source : Fin 9) (s : State) : exec (.domainWake dom source) s =
    s.run (fun d => d.wakeBy dom.val source.val) := rfl
theorem run_domainExitDone (dom : Fin 202) (s : State) : exec (.domainExitDone dom) s =
    s.run (fun d => d.domainBack dom.val) := rfl
theorem run_lpClreq (mst : Fin 4096) (v : Word) (s : State) : exec (.lpClreq mst v) s =
    s.run (fun d => d.busPair mst.val 0x1040 v) := rfl
theorem run_lpTimerArm (mst : Fin 4096) (v : Word) (s : State) : exec (.lpTimerArm mst v) s =
    s.run (fun d => d.busPair mst.val 0x104C v) := rfl
theorem run_lpTimerExpiry (s : State) : exec .lpTimerExpiry s =
    s.run (fun d => d.timerFires) := rfl
theorem run_dip (rail : Fin 8) (mv : BitVec 16) (s : State) : exec (.dip rail mv) s =
    s.run (fun d => d.railDips rail.val mv.toNat) := rfl
theorem run_dipRecovery (rail : Fin 8) (mv : BitVec 16) (s : State) : exec (.dipRecovery rail mv) s =
    s.run (fun d => d.dipOver rail.val mv.toNat) := rfl
theorem run_freezeLift (s : State) : exec .freezeLift s =
    s.run (fun d => d.freezeLifts) := rfl
theorem run_supplyReset (rail : Fin 8) (s : State) : exec (.supplyReset rail) s =
    s.run (fun d => d.supplyFails rail.val) := rfl
theorem run_powerOnReset (gangId gangSzM1 : Fin 4) (s : State) : exec (.powerOnReset gangId gangSzM1) s =
    s.run (fun d => d.powerOn gangId.val gangSzM1.val) := rfl
theorem run_seqRailGood (rail : Fin 8) (s : State) : exec (.seqRailGood rail) s =
    s.run (fun d => d.railGood rail.val) := rfl
theorem run_seqRailTimeout (rail : Fin 8) (s : State) : exec (.seqRailTimeout rail) s =
    s.run (fun d => d.railTimeout rail.val) := rfl
theorem run_seqRetry (s : State) : exec .seqRetry s =
    s.run (fun d => d.seqRetry) := rfl
theorem run_pinReset (s : State) : exec .pinReset s =
    s.run (fun d => d.pinLow) := rfl
theorem run_hostReset (mst : Fin 4096) (v : Word) (s : State) : exec (.hostReset mst v) s =
    s.run (fun d => d.busPair mst.val 0x206C (fLS_RST_REQ_KIND.ins (fLS_RST_REQ_REQ.ins v 1) 1)) := rfl
theorem run_bootImageLoaded (s : State) : exec .bootImageLoaded s =
    s.run (fun d => d.imageLoaded) := rfl
theorem run_configRecordWaitEnd (s : State) : exec .configRecordWaitEnd s =
    s.run (fun d => d.recWaitEnd) := rfl
theorem run_flashReadPage (mst : Fin 4096) (s : State) : exec (.flashReadPage mst) s =
    s.run (fun d => d.busPair mst.val 0x3054 0x80000001#32) := rfl
theorem run_flashProgram (mst : Fin 4096) (s : State) : exec (.flashProgram mst) s =
    s.run (fun d => d.busPair mst.val 0x3054 0x80000002#32) := rfl
theorem run_flashErase (mst : Fin 4096) (s : State) : exec (.flashErase mst) s =
    s.run (fun d => d.busPair mst.val 0x3054 0x80000003#32) := rfl
theorem run_flashCommandDone (error : Bool) (s : State) : exec (.flashCommandDone error) s =
    s.run (fun d => d.flashDone error) := rfl
theorem run_rcLog0Read (s : State) : exec .rcLog0Read s =
    s.run (fun d => d.readLog) := rfl
theorem run_encTbytesRead (pipe : Fin 68) (s : State) : exec (.encTbytesRead pipe) s =
    s.run (fun d =>
      let hi := fieldAddr .enc pipe.val fENC_TBYTES_HI_BYTES_HI 0
      d.latchRead (fieldAddr .enc pipe.val fENC_TBYTES_LO_BYTES_LO 0) [(hi, d.reg hi)]) := rfl
theorem run_decSmpRead (pipe : Fin 20) (s : State) : exec (.decSmpRead pipe) s =
    s.run (fun d =>
      let hi := fieldAddr .dec pipe.val fDEC_SMP_HI_SAMPLES_HI 0
      d.latchRead (fieldAddr .dec pipe.val fDEC_SMP_LO_SAMPLES_LO 0) [(hi, d.reg hi)]) := rfl
theorem run_pxBytesRead (engine : Fin 4) (s : State) : exec (.pxBytesRead engine) s =
    s.run (fun d =>
      let hi := fieldAddr .proxy engine.val fPX_BYTES_HI_BYTES_HI 0
      d.latchRead (fieldAddr .proxy engine.val fPX_BYTES_LO_BYTES_LO 0) [(hi, d.reg hi)]) := rfl
theorem run_prTxRead (p : Fin 3) (s : State) : exec (.prTxRead p) s =
    s.run (fun d =>
      let hi := fieldAddr .peer p.val fPR_TX_HI_BYTES_HI 0
      d.latchRead (fieldAddr .peer p.val fPR_TX_LO_BYTES_LO 0) [(hi, d.reg hi)]) := rfl
theorem run_testGatherBank (mst : Fin 4096) (index : Fin 32) (loop : Fin 4) (s : State) : exec (.testGatherBank mst index loop) s =
    s.run (fun d => d.busPair mst.val 0x80 (BitVec.ofNat 32 (2 ^ 31 + 0 * 2 ^ 24 + index.val * 2 ^ 16 + loop.val * 2 ^ 8))) := rfl
theorem run_testMagPort (mst : Fin 4096) (index : Fin 32) (loop : Fin 4) (s : State) : exec (.testMagPort mst index loop) s =
    s.run (fun d => d.busPair mst.val 0x80 (BitVec.ofNat 32 (2 ^ 31 + 1 * 2 ^ 24 + index.val * 2 ^ 16 + loop.val * 2 ^ 8))) := rfl
theorem run_testPeerPort (mst : Fin 4096) (index : Fin 32) (loop : Fin 4) (s : State) : exec (.testPeerPort mst index loop) s =
    s.run (fun d => d.busPair mst.val 0x80 (BitVec.ofNat 32 (2 ^ 31 + 2 * 2 ^ 24 + index.val * 2 ^ 16 + loop.val * 2 ^ 8))) := rfl
theorem run_testNetPort (mst : Fin 4096) (index : Fin 32) (loop : Fin 4) (s : State) : exec (.testNetPort mst index loop) s =
    s.run (fun d => d.busPair mst.val 0x80 (BitVec.ofNat 32 (2 ^ 31 + 3 * 2 ^ 24 + index.val * 2 ^ 16 + loop.val * 2 ^ 8))) := rfl
theorem run_testDdr5Channel (mst : Fin 4096) (index : Fin 32) (loop : Fin 4) (s : State) : exec (.testDdr5Channel mst index loop) s =
    s.run (fun d => d.busPair mst.val 0x80 (BitVec.ofNat 32 (2 ^ 31 + 4 * 2 ^ 24 + index.val * 2 ^ 16 + loop.val * 2 ^ 8))) := rfl
theorem run_testDone (errors : Nat) (failed : Word) (s : State) : exec (.testDone errors failed) s =
    s.run (fun d => d.testDone errors failed) := rfl
theorem run_bypass (s : State) : exec .bypass s =
    s.run (fun d => d.jtagLoad .bypass) := rfl
theorem run_idcode (s : State) : exec .idcode s =
    s.run (fun d => d.jtagLoad .idcode) := rfl
theorem run_samplePreload (preload : Option (List Bool)) (s : State) : exec (.samplePreload preload) s =
    s.run (fun d => d.jtagPreload preload) := rfl
theorem run_extest (s : State) : exec .extest s =
    s.run (fun d => d.jtagLoad .extest) := rfl
theorem run_clamp (s : State) : exec .clamp s =
    s.run (fun d => d.jtagLoad .clamp) := rfl
theorem run_highz (s : State) : exec .highz s =
    s.run (fun d => d.jtagLoad .highz) := rfl
theorem run_pinResetRelease (s : State) : exec .pinResetRelease s =
    s.run (fun d => d.pinRelease) := rfl
theorem run_hostLinkUp (speed : Fin 8) (widthLog2 : Fin 4) (s : State) : exec (.hostLinkUp speed widthLog2) s =
    s.run (fun d => d.hostUp speed.val widthLog2.val) := rfl
theorem run_datasetManagementCompletion (port : Fin 8) (status : BitVec 15) (s : State) : exec (.datasetManagementCompletion port status) s =
    s.run (fun d => d.dsmDone port.val status.toNat) := rfl
theorem run_proxyPacketLeavesPort (slot : Fin 256) (s : State) : exec (.proxyPacketLeavesPort slot) s =
    s.run (fun d => d.proxyLeaves (1280 + slot.val)) := rfl

end Sys2Proof.Machine
end

