-- ==== Sys2Proof/Laws/Signals.lean ====
section
/-! SUPPORT. A source that asserts holds its level, whatever follows (R241, R243). -/
namespace Sys2Proof.Machine

theorem Dev.refuseAll_core (l : List Nat) (c : Nat) : ∀ d : Dev, (l.foldl (fun (d : Dev) m => d.refuseEntry m c) d).core = d.core := by
  induction l with
  | nil => intro d; rfl
  | cons m l ih => intro d; exact ih _

theorem Dev.abortEntry_evts (d : Dev) (n c : Nat) : (d.abortEntry n c).core.evts = d.core.evts := by
  unfold Dev.abortEntry
  dsimp only
  split
  · have h := Dev.refuseAll_core d.core.lehr.groupMembers c
      (d.modLehr fun l => { l with entering := l.entering.filter (fun m => !d.core.lehr.groupMembers.contains m.dom), groupMembers := [] })
    simp only [Dev.statBit_core, Dev.bump_core, Dev.set_core, h]
    rfl
  · rfl

theorem Dev.wakeOne_evts (d : Dev) (n src : Nat) : (d.wakeOne n src).core.evts = d.core.evts := by
  unfold Dev.wakeOne
  split
  · split
    · exact Dev.abortEntry_evts d _ _
    · rfl
  · split
    · rfl
    · rfl

theorem Dev.evtTargetSleep_evts (d : Dev) (n : Nat) : (d.evtTargetSleep n).core.evts = d.core.evts := by
  unfold Dev.evtTargetSleep
  dsimp only
  split
  · rfl
  · split
    · split
      · exact Dev.wakeOne_evts d _ _
      · rfl
    · split
      · split
        · exact Dev.abortEntry_evts d _ _
        · rfl
      · rfl

theorem Dev.evtCount_level (d : Dev) (n : Nat) : ((d.evtCount n).evt n).level = (d.evt n).level := by
  unfold Dev.evtCount
  dsimp only
  split <;> split <;> first | rfl | simp [Dev.evt, Dev.setEvt, Dev.set, Dev.bump, Dev.statBit, Dev.stat, Dev.setReg]

/-- A source that asserted holds its level. -/
theorem Dev.assertEvt_level (d : Dev) (n : Nat) : ((d.assertEvt n).evt n).level = true := by
  have h0 : ((d.setEvt n { d.evt n with level := true }).evt n).level = true := by simp [Dev.evt, Dev.setEvt]
  unfold Dev.assertEvt
  dsimp only
  split
  · split
    · unfold Dev.evt
      rw [Dev.wakeOne_evts, Dev.wakeOne_evts]
      exact h0
    · exact h0
  · unfold Dev.evt
    rw [Dev.evtTargetSleep_evts]
    exact (Dev.evtCount_level _ n).trans h0

end Sys2Proof.Machine
end

