-- ==== Sys2Proof/Laws/Touches.lean ====
section
/-! SUPPORT. Which pages' registers an operation may write: every register on another page reads as before, and the writes stay
over the tables of the state that the command began in. -/
namespace Sys2Proof.Machine

/-- Registers are written on the listed pages alone. -/
structure Dev.Touches (ps : List Nat) (d d' : Dev) : Prop where
  regs : ∀ a, a / 4096 ∉ ps → d'.reg a = d.reg a
  keeps : ∀ s, Dev.Over s d → Dev.Over s d'

theorem Dev.Touches.refl (ps : List Nat) (d : Dev) : Dev.Touches ps d d := ⟨fun _ _ => rfl, fun _ h => h⟩
theorem Dev.Touches.trans {ps : List Nat} {a b c : Dev} (h : Dev.Touches ps a b) (g : Dev.Touches ps b c) : Dev.Touches ps a c :=
  ⟨fun k hk => (g.regs k hk).trans (h.regs k hk), fun s hs => g.keeps s (h.keeps s hs)⟩
theorem Dev.Touches.mono {ps qs : List Nat} {d d' : Dev} (h : Dev.Touches ps d d') (hq : ∀ p ∈ ps, p ∈ qs) : Dev.Touches qs d d' :=
  ⟨fun a ha => h.regs a fun g => ha (hq _ g), h.keeps⟩
/-- An update of the core alone. -/
theorem Dev.Touches.ofCore {ps : List Nat} {d d' : Dev} (hr : d'.regs = d.regs) (hd : d'.dram = d.dram) (hh : d'.hostMem = d.hostMem) : Dev.Touches ps d d' :=
  ⟨fun a _ => by simp only [Dev.reg, hr], fun _ h => h.of_eq hr (by rw [hd]) (by rw [hh])⟩
theorem Dev.Touches.setReg {ps : List Nat} (d : Dev) {a : Nat} (v : Word) (h : a / 4096 ∈ ps) : Dev.Touches ps d (d.setReg a v) :=
  ⟨fun b hb => Dev.reg_setReg_other d (fun e => hb (by rw [e]; exact h)) v, fun _ hs => hs.setReg _ _⟩
theorem Dev.Touches.set {ps : List Nat} (d : Dev) (k : PageKind) (i : Nat) (r : FieldRow) (v n : Nat) (h : fieldAddr k i r n / 4096 ∈ ps) :
    Dev.Touches ps d (d.set k i r v n) := .setReg d _ h
theorem Dev.Touches.bump {ps : List Nat} (d : Dev) (k : PageKind) (i : Nat) (r : FieldRow) (b n : Nat) (h : fieldAddr k i r n / 4096 ∈ ps) :
    Dev.Touches ps d (d.bump k i r b n) := .setReg d _ h
theorem Dev.Touches.stat {ps : List Nat} (d : Dev) (p b : Nat) (h : p ∈ ps) : Dev.Touches ps d (d.stat p b) :=
  .setReg d _ (by have : (p * 4096 + 0x00C) / 4096 = p := by omega
                  rw [this]; exact h)
theorem Dev.Touches.statBit {ps : List Nat} (d : Dev) (k : PageKind) (i b : Nat) (h : k.page i ∈ ps) : Dev.Touches ps d (d.statBit k i b) :=
  .stat d _ _ h
theorem Dev.Touches.ite {ps : List Nat} {p : Prop} [Decidable p] {d a b : Dev} (ha : Dev.Touches ps d a) (hb : Dev.Touches ps d b) :
    Dev.Touches ps d (if p then a else b) := by split <;> assumption
theorem Dev.Touches.foldl {β : Type} {ps : List Nat} (f : Dev → β → Dev) (l : List β) (hf : ∀ d, ∀ b ∈ l, Dev.Touches ps d (f d b)) :
    ∀ d, Dev.Touches ps d (l.foldl f d) := by
  induction l with
  | nil => intro d; exact .refl _ d
  | cons b l ih => intro d; exact (hf d b List.mem_cons_self).trans (ih (fun e c hc => hf e c (List.mem_cons_of_mem _ hc)) _)

/-- A field of another page reads what it read before. -/
theorem Dev.Touches.get {ps : List Nat} {d d' : Dev} (h : Dev.Touches ps d d') (k : PageKind) (i : Nat) (r : FieldRow) (n : Nat)
    (hp : fieldAddr k i r n / 4096 ∉ ps) : d'.get k i r n = d.get k i r n := by
  simp only [Dev.get, h.regs _ hp]
/-- The next state reads it so too. -/
theorem Dev.Touches.commit {ps : List Nat} {s : State} {d d' : Dev} (h : Dev.Touches ps d d') (ho : Dev.Over s d) (k : PageKind) (i : Nat)
    (r : FieldRow) (n : Nat) (hp : fieldAddr k i r n / 4096 ∉ ps) : (s.commit d').begin.get k i r n = d.get k i r n :=
  (State.commit_get (h.keeps s ho) k i r n).trans (h.get k i r n hp)

/-! ## Event sources and wakes write Lehr's page and the event controller's -/

/-- No entry into a low-power state is under way, before and after; registers change on the listed pages alone. -/
structure Dev.Tells (ps : List Nat) (d d' : Dev) : Prop where
  touches : Dev.Touches ps d d'
  still : d'.core.lehr.entering = []

theorem Dev.Tells.trans {ps : List Nat} {a b c : Dev} (h : Dev.Tells ps a b) (g : Dev.Tells ps b c) : Dev.Tells ps a c := ⟨h.touches.trans g.touches, g.still⟩

theorem Dev.enteringOf_still {d : Dev} (h : d.core.lehr.entering = []) (n : Nat) : d.enteringOf n = none := by
  unfold Dev.enteringOf; rw [h]; rfl

theorem Dev.wakeOne_tells {ps : List Nat} (h1 : 1 ∈ ps) (d : Dev) (n src : Nat) (h : d.core.lehr.entering = []) : Dev.Tells ps d (d.wakeOne n src) := by
  unfold Dev.wakeOne
  rw [Dev.enteringOf_still h]
  refine ite_both (P := Dev.Tells ps d) ⟨.refl _ _, h⟩ ⟨?_, h⟩
  have p : ∀ r : FieldRow, r.off < 4096 → fieldAddr .lehrPower 0 r 0 / 4096 ∈ ps := by
    intro r hr
    have : fieldAddr .lehrPower 0 r 0 / 4096 = 1 := by simp only [fieldAddr, PageKind.page]; omega
    rw [this]; exact h1
  refine Dev.Touches.trans (b := d.modLehr fun l => { l with exiting := l.exiting ++ [⟨n, 0, d.domState n = 2, d.free, none⟩] }) (.ofCore rfl rfl rfl) ?_
  exact ((Dev.Touches.bump _ _ _ _ _ _ (p _ (by decide))).trans (.set _ _ _ _ _ _ (p _ (by decide)))).trans (.set _ _ _ _ _ _ (p _ (by decide)))

theorem evtPage (r : FieldRow) (n : Nat) (h : r.off + r.stride * n < 4096) : fieldAddr .event 0 r n / 4096 = 0xB := by
  simp only [fieldAddr, PageKind.page]; omega

theorem Dev.evtTargetSleep_tells {ps : List Nat} (h1 : 1 ∈ ps) (hb : 0xB ∈ ps) (d : Dev) (n : Nat) (h : d.core.lehr.entering = []) :
    Dev.Tells ps d (d.evtTargetSleep n) := by
  unfold Dev.evtTargetSleep
  refine ite_both (P := Dev.Tells ps d) ⟨.refl _ _, h⟩ ?_
  refine ite_both (P := Dev.Tells ps d) ?_ ?_
  · refine ite_both (P := Dev.Tells ps d) ?_ ⟨.refl _ _, h⟩
    have g := Dev.wakeOne_tells h1 d (0x89 + d.evtView n) 7 h
    refine ⟨(g.touches.trans (.bump _ _ _ _ _ _ ?_)).trans (.statBit _ _ _ _ ?_), g.still⟩
    · rw [evtPage _ _ (by decide)]; exact hb
    · exact hb
  · rw [Dev.enteringOf_still h]; exact ⟨.refl _ _, h⟩

theorem Dev.evtCount_tells {ps : List Nat} (hb : 0xB ∈ ps) (d : Dev) (n : Nat) (hn : n < 256) (h : d.core.lehr.entering = []) : Dev.Tells ps d (d.evtCount n) := by
  have q : ∀ r : FieldRow, r.off + r.stride * n < 4096 → fieldAddr .event 0 r n / 4096 ∈ ps := fun r hr => by rw [evtPage _ _ hr]; exact hb
  have q0 : ∀ r : FieldRow, r.off + r.stride * 0 < 4096 → fieldAddr .event 0 r 0 / 4096 ∈ ps := fun r hr => by rw [evtPage _ _ hr]; exact hb
  have step1 : ∀ x : Dev, Dev.Tells ps d x → Dev.Tells ps d ((x.bump .event 0 fEVT_SRC_COUNT 1 n).set .event 0 fEVT_SRC_PEND 1 n) := fun x hx =>
    ⟨(hx.touches.trans (.bump _ _ _ _ _ _ (q _ (by simp only [fEVT_SRC_COUNT]; omega)))).trans (.set _ _ _ _ _ _ (q _ (by simp only [fEVT_SRC_PEND]; omega))), hx.still⟩
  have step2 : ∀ x : Dev, Dev.Tells ps d x → Dev.Tells ps d (if x.get .event 0 fEVT_SRC_PEND n = 1 then x else x.setEvt n { x.evt n with since := x.free }) := fun x hx =>
    ite_both (P := Dev.Tells ps d) hx ⟨hx.touches.trans (.ofCore rfl rfl rfl), hx.still⟩
  have step3 : Dev.Tells ps d (if d.get .event 0 fEVT_SRC_COUNT n = 15 then (d.bump .event 0 fEVT_CNT_SATURATED).statBit .event 0 0 else d) :=
    ite_both (P := Dev.Tells ps d) ⟨(Dev.Touches.bump _ _ _ _ _ _ (q0 _ (by decide))).trans (.statBit _ _ _ _ hb), h⟩ ⟨.refl _ _, h⟩
  exact step1 _ (step2 _ step3)

/-- A source that asserts writes the event controller's page and Lehr's, and begins no entry. -/
theorem Dev.assertEvt_tells {ps : List Nat} (h1 : 1 ∈ ps) (hb : 0xB ∈ ps) (d : Dev) (n : Nat) (hn : n < 256) (h : d.core.lehr.entering = []) :
    Dev.Tells ps d (d.assertEvt n) := by
  have h0 : Dev.Tells ps d (d.setEvt n { d.evt n with level := true }) := ⟨.ofCore rfl rfl rfl, h⟩
  have key : ∀ x : Dev, x.core.lehr.entering = [] → Dev.Tells ps x (if x.domState 0xC0 ≠ 0 then
      if x.get .event 0 fEVT_SRC_WATCH n = 1 then (x.wakeOne 0xC0 7).wakeOne (0x89 + x.evtView n) 7 else x
      else (x.evtCount n).evtTargetSleep n) := by
    intro x hx
    refine ite_both (P := Dev.Tells ps x) (ite_both (P := Dev.Tells ps x) ?_ ⟨.refl _ _, hx⟩) ?_
    · have g := Dev.wakeOne_tells h1 x 0xC0 7 hx
      exact g.trans (Dev.wakeOne_tells h1 _ _ _ g.still)
    · have g := Dev.evtCount_tells hb x n hn hx
      exact g.trans (Dev.evtTargetSleep_tells h1 hb _ _ g.still)
  exact h0.trans (key _ h)

theorem Dev.releaseEvt_tells {ps : List Nat} (hb : 0xB ∈ ps) (d : Dev) (n : Nat) (hn : n < 256) (h : d.core.lehr.entering = []) :
    Dev.Tells ps d (d.releaseEvt n) := by
  refine ⟨Dev.Touches.trans (b := d.setEvt n { d.evt n with level := false }) (.ofCore rfl rfl rfl) (.set _ _ _ _ _ _ ?_), h⟩
  rw [evtPage _ _ (by simp only [fEVT_SRC_PEND]; omega)]; exact hb

theorem Dev.wakeDom_tells {ps : List Nat} (h1 : 1 ∈ ps) (hb : 0xB ∈ ps) (d : Dev) (n src : Nat) (h : d.core.lehr.entering = []) :
    Dev.Tells ps d (d.wakeDom n src) := by
  unfold Dev.wakeDom
  refine ite_both (P := Dev.Tells ps d) ⟨.refl _ _, h⟩ ?_
  have g := Dev.wakeOne_tells h1 d n src h
  exact g.trans (Dev.assertEvt_tells h1 hb _ 118 (by decide) g.still)

theorem Dev.wakeBy_tells {ps : List Nat} (h1 : 1 ∈ ps) (hb : 0xB ∈ ps) (d : Dev) (n src : Nat) (h : d.core.lehr.entering = []) :
    Dev.Tells ps d (d.wakeBy n src) := by
  unfold Dev.wakeBy
  generalize d.wakeSet n src = l
  induction l generalizing d with
  | nil => exact ⟨.refl _ _, h⟩
  | cons k l ih => exact (Dev.wakeDom_tells h1 hb d k src h).trans (ih _ (Dev.wakeDom_tells h1 hb d k src h).still)

/-- A hold that is released may free its chunk, which the firmware is told (R264). -/
theorem Dev.releaseHold_tells {ps : List Nat} (h1 : 1 ∈ ps) (hb : 0xB ∈ ps) (d : Dev) (k tag : Nat) (h : d.core.lehr.entering = []) :
    Dev.Tells ps d (d.releaseHold k tag) := by
  have key : ∀ c : Cullet, Dev.Tells ps d ((d.setCullet c).assertEvt 114) := fun c =>
    Dev.Tells.trans (b := d.setCullet c) ⟨.ofCore rfl rfl rfl, h⟩ (Dev.assertEvt_tells h1 hb (d.setCullet c) 114 (by decide) h)
  unfold Dev.releaseHold
  exact ite_both (P := Dev.Tells ps d) (ite_both (P := Dev.Tells ps d) ⟨.ofCore rfl rfl rfl, h⟩ (key _)) ⟨.ofCore rfl rfl rfl, h⟩

end Sys2Proof.Machine
end

section
namespace Sys2Proof.Machine

/-! ## The invariant (O5, O6) -/

theorem State.inv_commit {s : State} (h : s.inv = true) (d : Dev) : (s.commit d).inv = true := by
  simp only [State.inv, Bool.and_eq_true] at h ⊢
  obtain ⟨⟨⟨hregs, hfixed⟩, hdram⟩, hhost⟩ := h
  exact ⟨⟨⟨commitRegs_wf hregs _, commitRegs_fixed hfixed _⟩, Sparse.wf_apply memDefault hdram _⟩, Sparse.wf_apply memDefault hhost _⟩

theorem State.inv_withPending (s : State) (q : List Instr) : (s.withPending q).inv = s.inv := rfl

theorem idleTick_inv (s : State) : (idleTick s).inv = s.inv := by
  unfold idleTick
  split <;> rfl

/-- Settles O5: a tick leaves the tables alone, and whatever a command does ends in a commit, which keeps their canonical form. -/
theorem everyStepKeepsInvariant : Obligations.EveryStepKeepsInvariant := by
  intro s t hs hstep
  unfold step at hstep
  cases hq : s.pending with
  | nil =>
    simp only [hq, Host.Outcome.next.injEq] at hstep
    rw [← hstep, idleTick_inv]
    exact hs
  | cons c q =>
    obtain ⟨d, hd⟩ := exec_commit c (s.withPending q)
    simp only [hq, hd, Host.Outcome.next.injEq] at hstep
    rw [← hstep]
    exact State.inv_commit ((s.inv_withPending q).trans hs) d

/-- Settles O6: the state that any command leaves meets the invariant again, and the invariant fixes these bits. -/
theorem fixedBitsNeverChange : Obligations.FixedBitsNeverChange := by
  intro c s a hs
  obtain ⟨d, hd⟩ := exec_commit c s
  exact ⟨inv_reg hs a, _, hd, inv_reg (State.inv_commit hs d) a⟩

end Sys2Proof.Machine
end

section
namespace Sys2Proof.Machine

/-! ## Fields of one bit, and fields that a command keeps -/

theorem FieldRow.ext_lt (r : FieldRow) (w : Word) : r.ext w < 2 ^ r.width := Nat.mod_lt _ (Nat.two_pow_pos _)

/-- A field of one bit reads that bit. -/
theorem FieldRow.ext_bit (r : FieldRow) (h : r.width = 1) (w : Word) : r.ext w = (w.getLsbD r.lo).toNat := by
  apply Nat.eq_of_testBit_eq
  intro i
  rw [FieldRow.testBit_ext, h, Nat.testBit_bool_toNat]
  cases i <;> simp

/-! ## Addresses of header registers -/

theorem hdrAddr_mod (page : Nat) {off : Nat} (h : off < 4096) : hdrAddr page off % 4096 = off := by
  unfold hdrAddr
  omega

/-- Two header registers at different offsets are two registers, whatever their pages. -/
theorem hdrAddr_ne (page page' : Nat) {off off' : Nat} (h : off < 4096) (h' : off' < 4096) (hne : off ≠ off') :
    hdrAddr page off ≠ hdrAddr page' off' := fun e =>
  hne (by rw [← hdrAddr_mod page h, e, hdrAddr_mod page' h'])

/-- A register that is not of block scope lies on its own page. -/
theorem hdrAddr_page (page : Nat) {off : Nat} (h : hdrBlock off = false) : hdrAddr page off = page * 4096 + off := by
  simp [hdrAddr, h]

theorem hdrBlock_false {off : Nat} (h : 0x40 ≤ off) : hdrBlock off = false := by
  have : ¬ (off = 0x008 ∨ off = 0x014 ∨ off = 0x018 ∨ off = 0x01C ∨ off = 0x020) := by omega
  simpa [hdrBlock] using this

/-- The registers of block scope are reached through the block's first page. -/
theorem hdrAddr_first {page off : Nat} {p : PageInfo} (h : pageInfo page = some p) (hb : hdrBlock off = true) :
    hdrAddr p.first off = hdrAddr page off := by
  simp only [hdrAddr, hb, if_true]
  rw [← firstPage_of h, firstPage_idem h]

/-! ## Header fields after a write of another header register -/

theorem Dev.hget_setReg_other (d : Dev) {a page : Nat} (q : FieldRow) (v : Word) (h : hdrAddr page q.off ≠ a) :
    (d.setReg a v).hget page q = d.hget page q := by
  simp only [Dev.hget, Dev.reg_setReg_other d h]

theorem Dev.hget_hset_other (d : Dev) (page page' : Nat) (r q : FieldRow) (v : Nat) (hr : r.off < 4096) (hq : q.off < 4096)
    (hne : q.off ≠ r.off) : (d.hset page r v).hget page' q = d.hget page' q :=
  d.hget_setReg_other q _ (hdrAddr_ne page' page hq hr hne)

theorem Dev.hget_stat_other (d : Dev) (page page' bits : Nat) (q : FieldRow) (hq : q.off < 4096) (hne : q.off ≠ 0x00C) :
    (d.stat page bits).hget page' q = d.hget page' q :=
  d.hget_setReg_other q _ fun e => hne (by have := hdrAddr_mod page' hq; omega)

/-- A saturating header counter counts one. -/
theorem Dev.hget_hbump (d : Dev) {page : Nat} {p : PageInfo} (h : pageInfo page = some p) (r : FieldRow) (ho : r.off < 0x40)
    (hm : rowsMask (headerFields.filter (·.covers r.off)) &&& r.mask = r.mask) (hw : r.lo + r.width ≤ 32) :
    (d.hbump page r).hget page r = min (d.hget page r + 1) (2 ^ r.width - 1) := by
  unfold Dev.hbump
  rw [Dev.hget_hset_same d h r _ ho hm hw]
  exact Nat.mod_eq_of_lt (Nat.lt_of_le_of_lt (Nat.min_le_right _ _) (Nat.sub_lt (Nat.two_pow_pos _) Nat.one_pos))

/-- A status bit that hardware sets reads 1 (R32). -/
theorem Dev.stat_bit (d : Dev) {page : Nat} {p : PageInfo} (h : pageInfo page = some p) {i : Nat} (hi : i < 24)
    (hm : (rowsMask (headerFields.filter (·.covers 0x00C))).getLsbD i = true) :
    ((d.stat page (2 ^ i)).reg (page * 4096 + 0x00C)).getLsbD i = true := by
  have hset : (BitVec.ofNat 32 (2 ^ i % 2 ^ 24)).getLsbD i = true := by
    rw [BitVec.getLsbD_ofNat, Nat.testBit_mod_two_pow, Nat.testBit_two_pow_self]
    simp [hi, show i < 32 by omega]
  simp only [Dev.stat, Dev.reg_setReg_same, regVal, header_mask h (off := 0x00C) (by decide), BitVec.getLsbD_or, BitVec.getLsbD_and, hm,
    hset, Bool.or_true, Bool.true_or, Bool.and_true]

/-! ## A guarded value that is dropped (R31) -/

@[simp] theorem Dev.unpend_reg (d : Dev) (page a : Nat) : (d.unpend page).reg a = d.reg a := rfl
@[simp] theorem Dev.unpend_hget (d : Dev) (page page' : Nat) (r : FieldRow) : (d.unpend page).hget page' r = d.hget page' r := rfl
@[simp] theorem Dev.unpend_fault (d : Dev) (page : Nat) : (d.unpend page).core.fault = d.core.fault := rfl
@[simp] theorem Dev.guardMiss_core (d : Dev) (page : Nat) : (d.guardMiss page).core = d.core := rfl

theorem Dev.pendOf_unpend (d : Dev) (page : Nat) : (d.unpend page).pendOf page = none := by
  simp [Dev.pendOf, Dev.unpend]

theorem Dev.Over.unpend {s : State} {d : Dev} (h : Dev.Over s d) (page : Nat) : Dev.Over s (d.unpend page) := h.of_eq rfl rfl rfl
theorem Dev.Over.guardMiss {s : State} {d : Dev} (h : Dev.Over s d) (page : Nat) : Dev.Over s (d.guardMiss page) := (h.stat _ _).hbump _ _

theorem Dev.dropPend_pending {d : Dev} {page : Nat} (h : (d.pendOf page).isSome = true) :
    d.dropPend page = (d.unpend page).guardMiss page := if_pos h

theorem Dev.guardMiss_count (d : Dev) {page : Nat} {p : PageInfo} (h : pageInfo page = some p) :
    (d.guardMiss page).hget page fPG_EVT_GUARD_MISS = min (d.hget page fPG_EVT_GUARD_MISS + 1) 255 := by
  unfold Dev.guardMiss
  rw [Dev.hget_hbump _ h _ (by decide) (by decide) (by decide), Dev.hget_stat_other _ _ _ _ _ (by decide) (by decide)]
  rfl

theorem Dev.guardMiss_status (d : Dev) {page : Nat} {p : PageInfo} (h : pageInfo page = some p) :
    (d.guardMiss page).hget page fPG_STAT_GUARD_MISS = 1 := by
  unfold Dev.guardMiss Dev.hbump
  rw [Dev.hget_hset_other _ _ _ _ _ _ (by decide) (by decide) (by decide)]
  unfold Dev.hget
  rw [FieldRow.ext_bit _ rfl]
  show (((d.stat page (2 ^ 22)).reg (page * 4096 + 0x00C)).getLsbD 22).toNat = 1
  rw [Dev.stat_bit d h (by decide) (by decide)]
  rfl

/-- Settles O9: what is left is the dropped value's page without it, and one guard miss of that page. -/
theorem guardedPairExpires : Obligations.GuardedPairExpires := by
  intro s page hcalm hpage hpend
  obtain ⟨p, hp⟩ := Option.isSome_iff_exists.1 hpage
  have heff : s.begin.dropPend page.val = (s.begin.unpend page.val).guardMiss page.val := Dev.dropPend_pending hpend
  have hover : Dev.Over s ((s.begin.unpend page.val).guardMiss page.val) := ((Dev.Over.begin s).unpend _).guardMiss _
  refine answers_calm (run_guardPairExpiry page s) ?_ ?_ <;> simp only [heff]
  · exact State.calm_iff.1 hcalm
  · simp only [State.commit_hget hover]
    exact ⟨s.begin.pendOf_unpend page.val, Dev.guardMiss_count _ hp, Dev.guardMiss_status _ hp⟩

end Sys2Proof.Machine
end

section
namespace Sys2Proof.Machine

/-! ## Which bits a write may change -/

/-- The bits of the rows of a list that are chosen. -/
theorem rows_getLsbD (c : FieldRow → Prop) [DecidablePred c] (rows : List FieldRow) (i : Nat) : ∀ m : Word,
    (rows.foldl (fun a r => if c r then a ||| r.mask else a) m).getLsbD i =
      (m.getLsbD i || rows.any fun r => decide (c r) && r.mask.getLsbD i) := by
  induction rows with
  | nil => intro m; simp
  | cons r rows ih =>
    intro m
    rw [List.foldl_cons, ih, List.any_cons]
    by_cases h : c r
    · simp only [h, if_true, BitVec.getLsbD_or, decide_true, Bool.true_and, Bool.or_assoc]
    · simp only [h, if_false, decide_false, Bool.false_and, Bool.false_or]

theorem writableMask_getLsbD (k : PageKind) (off i : Nat) :
    (writableMask k off).getLsbD i = (regFields k off).any fun r => decide (r.acc = .rw ∨ r.acc = .rwg) && r.mask.getLsbD i := by
  rw [writableMask, rows_getLsbD]
  simp

theorem rowsMask_getLsbD (rows : List FieldRow) (i : Nat) :
    (rowsMask rows).getLsbD i = rows.any fun r => decide (r.cls ≠ .id) && r.mask.getLsbD i := by
  have e : rowsMask rows = rows.foldl (fun a r => if r.cls ≠ .id then a ||| r.mask else a) 0 := by
    simp only [rowsMask, ne_eq, ite_not]
  rw [e, rows_getLsbD]
  simp

/-- No field that a write may change is of class ID, in any register table. -/
theorem writable_not_id (k : PageKind) :
    (headerFields ++ kindFields k).all (fun r => !decide (r.acc = .rw ∨ r.acc = .rwg) || decide (r.cls ≠ .id)) = true := by
  cases k <;> decide

theorem regFields_subset {k : PageKind} {off : Nat} {r : FieldRow} (h : r ∈ regFields k off) : r ∈ headerFields ++ kindFields k := by
  unfold regFields at h
  split at h
  · exact List.mem_append_left _ (List.mem_filter.1 h).1
  · split at h
    · cases h
    · exact List.mem_append_right _ (List.mem_filter.1 h).1

/-- What a write may change lies in the changing bits of the register. -/
theorem writableMask_changing (k : PageKind) (off i : Nat) (h : (writableMask k off).getLsbD i = true) :
    (rowsMask (regFields k off)).getLsbD i = true := by
  rw [writableMask_getLsbD, List.any_eq_true] at h
  obtain ⟨r, hr, hbit⟩ := h
  obtain ⟨hacc, hmask⟩ := Bool.and_eq_true_iff.1 hbit
  rw [rowsMask_getLsbD, List.any_eq_true]
  have hrow := List.all_eq_true.1 (writable_not_id k) r (regFields_subset hr)
  rw [hacc, Bool.not_true, Bool.false_or] at hrow
  exact ⟨r, hr, Bool.and_eq_true_iff.2 ⟨hrow, hmask⟩⟩

/-- A word with its fixed bits, changed in changing bits alone, is stored as it is. -/
theorem regVal_insert {a : Nat} {w v m : Word} (hw : w &&& ~~~wrMask a = resetWord a &&& ~~~wrMask a)
    (hm : ∀ i, m.getLsbD i = true → (wrMask a).getLsbD i = true) :
    regVal a ((w &&& ~~~m) ||| (v &&& m)) = (w &&& ~~~m) ||| (v &&& m) := by
  apply BitVec.eq_of_getLsbD_eq
  intro i hi
  have hwi := congrArg (BitVec.getLsbD · i) hw
  have hmi := hm i
  simp only [BitVec.getLsbD_and, BitVec.getLsbD_not, hi, decide_true, Bool.true_and] at hwi
  simp only [regVal, BitVec.getLsbD_or, BitVec.getLsbD_and, BitVec.getLsbD_not, hi, decide_true, Bool.true_and]
  cases hc : (wrMask a).getLsbD i with
  | true => simp
  | false =>
    have hmf : m.getLsbD i = false := by simpa [hc] using hmi
    simp only [hc, Bool.not_false, Bool.and_true] at hwi
    simp [hmf, hwi]

/-- The pages of NET, CULLET 1 to 3, MARVER, MEM, PROXY, ME, ENC and DEC, where a register that is written stores and nothing follows. -/
def plainKinds : List PageKind := [.net, .cullet1, .cullet2, .cullet3, .marver0, .marver1, .marver2, .marver3, .mem, .proxy, .me, .enc, .dec]

/-- A block register of a plain page takes the value written. -/
theorem Dev.writeAct_plain (d : Dev) (mst page off : Nat) (v : Word) {q : PageInfo} (hk : q.kind ∈ plainKinds) (ho : 0x40 ≤ off) :
    d.writeAct mst q page off v = (d.store q.kind off (page * 4096 + off) v, true) := by
  have h8 : off ≠ 0x008 := by omega
  have h10 : off ≠ 0x010 := by omega
  have h18 : off ≠ 0x018 := by omega
  unfold Dev.writeAct
  rw [if_neg h8, if_neg h10, if_neg h18, hdrAddr_page page (hdrBlock_false ho)]
  obtain ⟨k, btype, inst, first, pages, dom⟩ := q
  simp only [plainKinds, List.mem_cons, List.not_mem_nil, or_false] at hk
  rcases hk with rfl | rfl | rfl | rfl | rfl | rfl | rfl | rfl | rfl | rfl | rfl | rfl | rfl <;> rfl

theorem Dev.Over.store {s : State} {d : Dev} (h : Dev.Over s d) (k : PageKind) (off a : Nat) (v : Word) : Dev.Over s (d.store k off a v) :=
  h.setReg _ _

/-- Settles O8: the write reaches `store`, and storing keeps its value because every writable bit may change. -/
theorem directWriteStoresWritableBits : Obligations.DirectWriteStoresWritableBits := by
  intro s mst page off p v hinv hopen hp hkind hmst h4 h40 hlt hacc hguard
  have o := State.opens_elim hopen
  have hfields : (regFields p.kind off).isEmpty = false := by
    obtain ⟨r, hr, _⟩ := List.any_eq_true.1 hacc
    exact List.isEmpty_eq_false_iff_exists_mem.2 ⟨r, hr⟩
  have hlock : off ≠ 0x020 := by omega
  have heff : (if mst.val / 256 = 0xF then s.begin else s.begin.writeRequest mst.val (page * 4096 + off) [(v, 0xF#4)]) =
      s.begin.store p.kind off (page * 4096 + off) v := by
    rw [if_neg hmst]
    refine (Dev.busWrite_open hopen hp h4 hlt hfields hguard hlock (by simp [hacc]) mst.val v).trans ?_
    rw [Dev.writeAct_plain _ _ _ _ _ ((PageInfo.ofKind_kind p).symm ▸ hkind) h40, PageInfo.ofKind_kind]
    exact Dev.expirePend_none o.noPair
  have hmask : wrMask (page * 4096 + off) = rowsMask (regFields p.kind off) := by
    have h1 : (page * 4096 + off) / 4096 = page := by omega
    have h2 : (page * 4096 + off) % 4096 = off := by omega
    simp only [wrMask, h1, h2, hp]
  refine answers_calm (run_registerWrite mst (page * 4096 + off) [(v, 0xF#4)] s) ?_ ?_ <;> simp only [heff]
  · exact o.calm
  · rw [State.commit_reg ((Dev.Over.begin s).store _ _ _ _), Dev.store, Dev.reg_setReg_same]
    exact regVal_insert (inv_reg hinv _) fun i hi => hmask ▸ writableMask_changing _ _ i hi

end Sys2Proof.Machine
end

section
namespace Sys2Proof.Machine

/-! ## Writes of the header of an open page -/

theorem regFields_header (k : PageKind) {off : Nat} (h : off < 0x40) : regFields k off = headerFields.filter (·.covers off) := if_pos h

theorem guardedAt_header (k : PageKind) {off : Nat} (h : off < 0x40) : guardedAt k off = false := by
  have : ¬ (0x40 ≤ off ∧ off < 0x800) := by omega
  simp [guardedAt, this]

/-- A header register, but PG_LOCK, that a write may reach does what its write does. -/
theorem Dev.busWrite_header {s : State} {page off : Nat} {p : PageInfo} (ho : s.opens page = true) (hp : pageInfo page = some p)
    (h4 : off % 4 = 0) (h40 : off < 0x40) (hl : off ≠ 0x020)
    (ha : (headerFields.filter (·.covers off)).any (fun r => decide (r.acc = .rw ∨ r.acc = .wo)) = true) (mst : Nat) (v : Word) :
    s.begin.busWrite mst (page * 4096 + off) v = (s.begin.writeAct mst p.ofKind page off v).1.expirePend page := by
  obtain ⟨r, hr, hacc⟩ := List.any_eq_true.1 ha
  have hmem : r ∈ regFields p.kind off := regFields_header p.kind h40 ▸ hr
  refine Dev.busWrite_open ho hp h4 (by omega) (List.isEmpty_eq_false_iff_exists_mem.2 ⟨r, hmem⟩) (guardedAt_header _ h40) hl ?_ mst v
  have key : ∀ c : Acc, r.acc = c → hasAcc p.kind off c = true := fun c hc => List.any_eq_true.2 ⟨r, hmem, by simp [hc]⟩
  rcases of_decide_eq_true hacc with h | h
  · rw [key _ h, Bool.true_or]
  · rw [key _ h, Bool.or_true]

theorem Dev.busWrite_ctl {s : State} {page : Nat} {p : PageInfo} (ho : s.opens page = true) (hp : pageInfo page = some p) (mst : Nat)
    (v : Word) : s.begin.busWrite mst (page * 4096 + 0x008) v = (s.begin.writeCtl page v).expirePend page :=
  Dev.busWrite_header ho hp (by decide) (by decide) (by decide) (by decide) mst v

theorem Dev.busWrite_statClr {s : State} {page : Nat} {p : PageInfo} (ho : s.opens page = true) (hp : pageInfo page = some p) (mst : Nat)
    (v : Word) : s.begin.busWrite mst (page * 4096 + 0x010) v = (s.begin.statClear page v).expirePend page :=
  Dev.busWrite_header ho hp (by decide) (by decide) (by decide) (by decide) mst v

/-! ## PG_CTL (R24) -/

/-- QUIESCE and ENABLE take the values written. -/
def Dev.ctlBits (d : Dev) (page : Nat) (v : Word) : Dev :=
  (d.hset page fPG_CTL_QUIESCE (fPG_CTL_QUIESCE.ext v)).hset page fPG_CTL_ENABLE (fPG_CTL_ENABLE.ext v)

theorem Dev.writeCtl_eq (d : Dev) (page : Nat) (v : Word) : d.writeCtl page v =
    if fPG_CTL_RESET_REQ.ext v = 1 then (d.ctlBits page v).askReset (blockIdx page) true else d.ctlBits page v := rfl

theorem Dev.Over.ctlBits {s : State} {d : Dev} (h : Dev.Over s d) (page : Nat) (v : Word) : Dev.Over s (d.ctlBits page v) :=
  (h.hset _ _ _).hset _ _ _

theorem Dev.ctlBits_core (d : Dev) (page : Nat) (v : Word) : (d.ctlBits page v).core = d.core := rfl

theorem Dev.ctlBits_enable (d : Dev) {page : Nat} {p : PageInfo} (hp : pageInfo page = some p) (v : Word) :
    (d.ctlBits page v).hget page fPG_CTL_ENABLE = fPG_CTL_ENABLE.ext v :=
  (Dev.hget_hset_same _ hp _ _ (by decide) (by decide) (by decide)).trans (Nat.mod_eq_of_lt (FieldRow.ext_lt _ _))

theorem Dev.ctlBits_quiesce (d : Dev) {page : Nat} {p : PageInfo} (hp : pageInfo page = some p) (v : Word) :
    (d.ctlBits page v).hget page fPG_CTL_QUIESCE = fPG_CTL_QUIESCE.ext v := by
  unfold Dev.ctlBits
  rw [Dev.hget_hset_field _ hp fPG_CTL_ENABLE fPG_CTL_QUIESCE _ rfl (by decide) (by decide) (by decide) (by decide),
    Dev.hget_hset_same _ hp _ _ (by decide) (by decide) (by decide)]
  exact Nat.mod_eq_of_lt (FieldRow.ext_lt _ _)

/-- A write to PG_CTL of an open page that asks for no reset sets its two bits, and the rest of the device stays as it is. -/
theorem answers_ctlBits {c : Instr} {s : State} {page mst : Nat} {f : Dev → Dev} {v : Word} {p : PageInfo} {P : State → Prop} (ho : s.opens page = true)
    (hp : pageInfo page = some p) (he : exec c s = s.run f) (hf : f s.begin = s.begin.busWrite mst (page * 4096 + 0x008) v)
    (hv : fPG_CTL_RESET_REQ.ext v = 0)
    (hP : P (s.commit (s.begin.ctlBits page v))) : Answers c s P := by
  have o := State.opens_elim ho
  have hnone : (s.begin.ctlBits page v).expirePend page = s.begin.ctlBits page v := Dev.expirePend_none o.noPair
  have heff : f s.begin = s.begin.ctlBits page v := by
    rw [hf, Dev.busWrite_ctl ho hp, Dev.writeCtl_eq, if_neg (by rw [hv]; decide), hnone]
  refine answers_calm he ?_ ?_ <;> rw [heff]
  · exact o.calm
  · exact hP

theorem State.commit_ctlBits_hget (s : State) (page : Nat) (v : Word) (r : FieldRow) :
    (s.commit (s.begin.ctlBits page v)).begin.hget page r = (s.begin.ctlBits page v).hget page r :=
  State.commit_hget ((Dev.Over.begin s).ctlBits page v) page r

/-- ENABLE written, QUIESCE as it stands (R24). -/
theorem answers_enable {s : State} {page : Fin 512} (ho : s.opens page.val = true) (hpage : (pageInfo page.val).isSome = true)
    (mst : Fin 4096) (on : Bool) : Answers (.enable mst page on) s fun t =>
      t.begin.hget page.val fPG_CTL_ENABLE = (if on then 1 else 0) ∧
      t.begin.hget page.val fPG_CTL_QUIESCE = s.begin.hget page.val fPG_CTL_QUIESCE := by
  obtain ⟨p, hp⟩ := Option.isSome_iff_exists.1 hpage
  refine answers_ctlBits ho hp (run_enable mst page on s) rfl ?_ ?_
  · rw [FieldRow.ext_bit _ rfl]
    cases on <;> simp [fPG_CTL_RESET_REQ]
  · rw [State.commit_ctlBits_hget, State.commit_ctlBits_hget, Dev.ctlBits_enable _ hp, Dev.ctlBits_quiesce _ hp]
    constructor
    · rw [FieldRow.ext_bit _ rfl]
      cases on <;> simp [fPG_CTL_ENABLE]
    · rw [Dev.hget, FieldRow.ext_bit _ rfl, FieldRow.ext_bit _ rfl]
      cases on <;> simp [fPG_CTL_QUIESCE]

/-- QUIESCE written 1, ENABLE as it stands (R24). -/
theorem answers_quiesce {s : State} {page : Fin 512} (ho : s.opens page.val = true) (hpage : (pageInfo page.val).isSome = true)
    (mst : Fin 4096) : Answers (.quiesce mst page) s fun t =>
      t.begin.hget page.val fPG_CTL_QUIESCE = 1 ∧
      t.begin.hget page.val fPG_CTL_ENABLE = s.begin.hget page.val fPG_CTL_ENABLE := by
  obtain ⟨p, hp⟩ := Option.isSome_iff_exists.1 hpage
  refine answers_ctlBits ho hp (run_quiesce mst page s) rfl ?_ ?_
  · rw [FieldRow.ext_bit _ rfl]
    simp [fPG_CTL_RESET_REQ]
  · rw [State.commit_ctlBits_hget, State.commit_ctlBits_hget, Dev.ctlBits_enable _ hp, Dev.ctlBits_quiesce _ hp]
    constructor
    · rw [FieldRow.ext_bit _ rfl]
      simp [fPG_CTL_QUIESCE]
    · rw [Dev.hget, FieldRow.ext_bit _ rfl, FieldRow.ext_bit _ rfl]
      simp [fPG_CTL_ENABLE]

end Sys2Proof.Machine
end

section
namespace Sys2Proof.Machine

/-! ## PG_STAT_CLR (R32) -/

/-- A header register past PG_CAP resets to what its fields give. -/
theorem header_reset {page off : Nat} {p : PageInfo} (h : pageInfo page = some p) (h8 : 8 ≤ off) (ho : off < 0x40) :
    resetWord (page * 4096 + off) = rowsReset (headerFields.filter (·.covers off)) := by
  have h1 : (page * 4096 + off) / 4096 = page := by omega
  have h2 : (page * 4096 + off) % 4096 = off := by omega
  have hover : resetOverride p off = none := by
    unfold resetOverride
    rw [if_neg (by omega), if_neg (by omega)]
    cases p.kind <;> simp only [reduceCtorEq, ite_eq_right_iff, imp_false] <;> omega
  simp only [resetWord, h1, h2, h, hover, regFields_header p.kind ho]

/-- PG_STAT with bits cleared. -/
def Dev.statMasked (d : Dev) (page : Nat) (v : Word) : Dev :=
  d.setReg (page * 4096 + 0x00C) (d.reg (page * 4096 + 0x00C) &&& ~~~(v &&& 0x00FFFFFF#32))

/-- The records that a status bit holds: WARN of QUEUE and the machine-check record of a pipeline (Tables 12.2 and 13.9). -/
def statRecords : List FieldRow := [fQU_WARN_VALID, fMC_MCHK_REC_VALID]

/-- PG_STAT_CLR with the page's SEQ clears the masked bits, and releases at most one record. -/
theorem Dev.statClear_cases (d : Dev) (page : Nat) (v : Word) (h : d.reg (page * 4096 + 0x00C) >>> 24 = v >>> 24) :
    d.statClear page v = d.statMasked page v ∨
      ∃ k i r, r ∈ statRecords ∧ d.statClear page v = (d.statMasked page v).set k i r 0 := by
  unfold Dev.statClear
  rw [if_pos h]
  cases pageInfo page with
  | none => exact .inl rfl
  | some p =>
    dsimp only
    split
    · exact .inr ⟨_, _, _, by simp [statRecords], rfl⟩
    · split
      · exact .inr ⟨_, _, _, by simp [statRecords], rfl⟩
      · exact .inl rfl

/-- A record is released in a register of its own. -/
theorem statRecords_addr {r : FieldRow} (hr : r ∈ statRecords) (k : PageKind) (i page : Nat) : page * 4096 + 0x00C ≠ fieldAddr k i r 0 := by
  have hoff : r.off < 4096 ∧ r.off ≠ 0x00C := by
    simp only [statRecords, List.mem_cons, List.not_mem_nil, or_false] at hr
    rcases hr with rfl | rfl <;> decide
  unfold fieldAddr
  omega

theorem Dev.statClear_core (d : Dev) (page : Nat) (v : Word) (h : d.reg (page * 4096 + 0x00C) >>> 24 = v >>> 24) :
    (d.statClear page v).core = d.core := by
  rcases d.statClear_cases page v h with e | ⟨k, i, r, _, e⟩ <;> rw [e] <;> rfl

theorem Dev.Over.statClear {s : State} {d : Dev} (ho : Dev.Over s d) (page : Nat) (v : Word)
    (h : d.reg (page * 4096 + 0x00C) >>> 24 = v >>> 24) : Dev.Over s (d.statClear page v) := by
  rcases d.statClear_cases page v h with e | ⟨k, i, r, _, e⟩ <;> rw [e]
  · exact ho.setReg _ _
  · exact Dev.Over.set (ho.setReg _ _) _ _ _ _ _

theorem Dev.statClear_reg (d : Dev) (page : Nat) (v : Word) (h : d.reg (page * 4096 + 0x00C) >>> 24 = v >>> 24) :
    (d.statClear page v).reg (page * 4096 + 0x00C) =
      regVal (page * 4096 + 0x00C) (d.reg (page * 4096 + 0x00C) &&& ~~~(v &&& 0x00FFFFFF#32)) := by
  rcases d.statClear_cases page v h with e | ⟨k, i, r, hr, e⟩ <;> rw [e]
  · exact Dev.reg_setReg_same _ _ _
  · exact (Dev.reg_setReg_other _ (statRecords_addr hr k i page) _).trans (Dev.reg_setReg_same _ _ _)

/-- A bit of the mask reads 0 in the stored status: its reset value is 0. -/
theorem statMasked_bit {page : Nat} {p : PageInfo} (hp : pageInfo page = some p) (w v : Word) {i : Nat} (hi : i < 24)
    (hv : v.getLsbD i = true) : (regVal (page * 4096 + 0x00C) (w &&& ~~~(v &&& 0x00FFFFFF#32))).getLsbD i = false := by
  have hmask : (0x00FFFFFF#32).getLsbD i = true := by
    rw [show (0x00FFFFFF#32) = BitVec.ofNat 32 (2 ^ 24 - 1) from rfl, BitVec.getLsbD_ofNat, Nat.testBit_two_pow_sub_one]
    simp [hi, show i < 32 by omega]
  have hreset : (resetWord (page * 4096 + 0x00C)).getLsbD i = false := by
    rw [header_reset hp (by decide) (by decide), show rowsReset (headerFields.filter (·.covers 0x00C)) = 0#32 from by decide]
    exact BitVec.getLsbD_zero
  simp only [regVal, BitVec.getLsbD_or, BitVec.getLsbD_and, BitVec.getLsbD_not, hv, hmask, hreset, Bool.true_and, Bool.not_true, Bool.and_false,
    Bool.false_and, Bool.or_false]

/-- PG_STAT_CLR of an open page with the page's SEQ clears the masked bits. -/
theorem answers_pgStatClr {s : State} {page : Fin 512} (ho : s.opens page.val = true) (hpage : (pageInfo page.val).isSome = true)
    (mst : Fin 4096) (seq : BitVec 8) (mask : BitVec 24) (hseq : s.begin.reg (page.val * 4096 + 0x00C) >>> 24 = seq.setWidth 32) :
    Answers (.pgStatClr mst page seq mask) s fun t =>
      ∀ i, i < 24 → mask.getLsbD i = true → (t.begin.reg (page.val * 4096 + 0x00C)).getLsbD i = false := by
  obtain ⟨p, hp⟩ := Option.isSome_iff_exists.1 hpage
  have o := State.opens_elim ho
  have hv : s.begin.reg (page.val * 4096 + 0x00C) >>> 24 = (seq ++ mask : Word) >>> 24 := by
    rw [hseq]
    apply BitVec.eq_of_getLsbD_eq
    intro i hi
    rw [BitVec.getLsbD_setWidth, BitVec.getLsbD_ushiftRight, BitVec.getLsbD_append]
    simp [hi]
  have hnone : (s.begin.statClear page.val (seq ++ mask)).expirePend page.val = s.begin.statClear page.val (seq ++ mask) :=
    Dev.expirePend_none (by rw [Dev.statClear_core _ _ _ hv]; exact o.noPair)
  refine answers_calm (run_pgStatClr mst page seq mask s) ?_ ?_ <;> simp only [Dev.busWrite_statClr ho hp, hnone]
  · rw [Dev.statClear_core _ _ _ hv]
    exact o.calm
  · intro i hi hbit
    rw [State.commit_reg ((Dev.Over.begin s).statClear _ _ hv), Dev.statClear_reg _ _ _ hv]
    exact statMasked_bit hp _ _ hi (by rw [BitVec.getLsbD_append]; simp [hi, hbit])

end Sys2Proof.Machine
end

section
namespace Sys2Proof.Machine

/-! ## A block reset that is asked for (R27) -/

set_option maxRecDepth 100000 in
/-- Every power domain of a page is one of Table 20.1, the spine included. -/
theorem pageDom_le : ∀ page : Fin 512, pageDom page.val ≤ 0xC9 := by decide

/-- Where a domain stands is shown by a register that is no header register. -/
theorem Dev.domState_hset (d : Dev) (page n : Nat) (r : FieldRow) (v : Nat) (hn : n ≤ 0xC9) (hr : r.off < 0x40) :
    (d.hset page r v).domState n = d.domState n := by
  have hne : fieldAddr .lehrPower 0 fLP_DOM_STATE n ≠ hdrAddr page r.off := by
    have := hdrAddr_mod page (off := r.off) (by omega)
    simp only [fieldAddr, PageKind.page, fLP_DOM_STATE]
    omega
  unfold Dev.domState Dev.get
  rw [Dev.hset, Dev.reg_setReg_other _ hne]

theorem Dev.domState_ctlBits (d : Dev) (page n : Nat) (v : Word) (hn : n ≤ 0xC9) : (d.ctlBits page v).domState n = d.domState n := by
  unfold Dev.ctlBits
  rw [Dev.domState_hset _ _ _ _ _ hn (by decide), Dev.domState_hset _ _ _ _ _ hn (by decide)]

theorem Dev.inReset_ctlBits (d : Dev) (page page' : Nat) (v : Word) : (d.ctlBits page v).inReset page' = d.inReset page' := by
  unfold Dev.inReset Dev.ctlBits
  rw [Dev.hget_hset_other _ _ _ _ _ _ (by decide) (by decide) (by decide), Dev.hget_hset_other _ _ _ _ _ _ (by decide) (by decide) (by decide)]

/-- RESET_BUSY is of block scope. -/
theorem Dev.inReset_first (d : Dev) {page : Nat} {p : PageInfo} (h : pageInfo page = some p) : d.inReset p.first = d.inReset page := by
  unfold Dev.inReset Dev.hget
  rw [hdrAddr_first h rfl]

theorem blockPage_first {page : Nat} {p : PageInfo} (h : pageInfo page = some p) : blockPage (blockIdx page) = p.first :=
  (blockPage_idx h).trans (firstPage_of h)

theorem pageDom_blockPage {page : Nat} {p : PageInfo} (h : pageInfo page = some p) : pageDom (blockPage (blockIdx page)) = pageDom page := by
  rw [blockPage_idx h, firstPage_dom h]

/-- A block reset that is asked for sets RESET_REQ last. -/
theorem Dev.holdReset_req (d : Dev) (b : Nat) : ∃ e : Dev, d.holdReset b true = e.hset (blockPage b) fPG_CTL_RESET_REQ 1 := ⟨_, rfl⟩

/-- A block that is on and not in reset takes a request for its reset. -/
theorem Dev.askReset_req {d : Dev} {b : Nat} (hon : d.domState (pageDom (blockPage b)) = 0) (hr : d.resetting b = false) :
    ∃ e : Dev, d.askReset b true = e.hset (blockPage b) fPG_CTL_RESET_REQ 1 := by
  unfold Dev.askReset Dev.startReset
  rw [if_pos hon, hr]
  exact Dev.holdReset_req _ _

/-- RESET_REQ written last reads 1 in the next state, also where a guarded value expires after it. -/
theorem State.commit_resetReq (s : State) (e : Dev) (q page : Nat) {p : PageInfo} (hp : pageInfo page = some p) :
    (s.commit ((e.hset p.first fPG_CTL_RESET_REQ 1).expirePend q)).begin.hget page fPG_CTL_RESET_REQ = 1 := by
  have haddr : hdrAddr p.first fPG_CTL_RESET_REQ.off = hdrAddr page fPG_CTL_RESET_REQ.off := hdrAddr_first hp rfl
  have hmod := hdrAddr_mod page (off := fPG_CTL_RESET_REQ.off) (by decide)
  have hoff : fPG_CTL_RESET_REQ.off = 8 := rfl
  have hwrote : ((e.hset p.first fPG_CTL_RESET_REQ 1).expirePend q).regs.log.lookup (hdrAddr page fPG_CTL_RESET_REQ.off) =
      some (regVal (hdrAddr page fPG_CTL_RESET_REQ.off)
        (fPG_CTL_RESET_REQ.ins (e.reg (hdrAddr page fPG_CTL_RESET_REQ.off)) 1)) := by
    rw [Dev.expirePend_wrote _ _ _ (by omega) (by omega), Dev.hset, haddr]
    exact Dev.setReg_wrote _ _ _
  unfold Dev.hget
  rw [State.commit_wrote hwrote, regVal_regVal, FieldRow.ext_regVal _ _ (by rw [hdr_mask hp (by decide)]; decide) (by decide),
    FieldRow.ext_ins_same _ (by decide)]
  rfl

/-- RESET_REQ reads 1 after a reset request that raises no fault event. -/
theorem answers_resetReq {s : State} {page : Fin 512} (ho : s.opens page.val = true) (hpage : (pageInfo page.val).isSome = true)
    (mst : Fin 4096)
    (hcalm : s.calmFor (fun d => d.busWrite mst.val (page.val * 4096 + 0x008) (d.reg (hdrAddr page.val 0x008) ||| 0x4#32)) = true) :
    Answers (.resetReq mst page) s fun t => t.begin.hget page.val fPG_CTL_RESET_REQ = 1 := by
  obtain ⟨p, hp⟩ := Option.isSome_iff_exists.1 hpage
  have o := State.opens_elim ho
  refine answers_calm (run_resetReq mst page s) (State.calmFor_iff.1 hcalm) ?_
  have hreq : fPG_CTL_RESET_REQ.ext (s.begin.reg (hdrAddr page.val 0x008) ||| 0x4#32) = 1 := by
    rw [FieldRow.ext_bit _ rfl]
    simp [fPG_CTL_RESET_REQ]
  have hfirst := blockPage_first hp
  obtain ⟨e, he⟩ := Dev.askReset_req (d := s.begin.ctlBits page.val (s.begin.reg (hdrAddr page.val 0x008) ||| 0x4#32)) (b := blockIdx page.val)
    (by rw [pageDom_blockPage hp, Dev.domState_ctlBits _ _ _ _ (pageDom_le page)]; exact o.on)
    (by rw [Dev.resetting, Dev.inReset_ctlBits, hfirst, Dev.inReset_first _ hp]; exact o.noReset)
  rw [Dev.busWrite_ctl ho hp, Dev.writeCtl_eq, if_pos hreq, he, hfirst]
  exact State.commit_resetReq s e _ _ hp

/-- Settles O10, one lemma for each of the four commands. -/
theorem controlAndStatusWrites : Obligations.ControlAndStatusWrites := fun _ mst _ on seq mask ho hpage =>
  ⟨answers_enable ho hpage mst on, answers_quiesce ho hpage mst, answers_pgStatClr ho hpage mst seq mask, answers_resetReq ho hpage mst⟩

/-! ## PG_LOCK (R33) -/

/-- Every bit of PG_LOCK may change. -/
theorem regVal_lock {page : Nat} {p : PageInfo} (h : pageInfo page = some p) (v : Word) : regVal (hdrAddr page 0x020) v = v := by
  have hmask : wrMask (hdrAddr page 0x020) = BitVec.allOnes 32 := by
    rw [hdr_mask h (by decide)]
    decide
  rw [regVal, hmask, BitVec.and_allOnes, BitVec.not_allOnes, BitVec.and_zero, BitVec.or_zero]

/-- The first write to PG_LOCK of a block stores the lock bits and is remembered. -/
theorem Dev.writeLock_first {d : Dev} {page : Nat} (hf : d.frozen = false) (hw : d.core.host.lockWritten.contains (blockIdx page) = false)
    (mst : Nat) (v : Word) : d.writeLock mst page v =
      ((d.modHost fun h => { h with lockWritten := h.lockWritten ++ [blockIdx page] }).setReg (hdrAddr page 0x020) v, true) := by
  unfold Dev.writeLock
  dsimp only
  rw [hf, hw]
  rfl

/-- Settles O11: the write reaches PG_LOCK, whose bits may all change. -/
theorem firstLockWriteSetsLocks : Obligations.FirstLockWriteSetsLocks := by
  intro s mst page v ho hpage hfirst
  obtain ⟨p, hp⟩ := Option.isSome_iff_exists.1 hpage
  have o := State.opens_elim ho
  obtain ⟨e, he⟩ : ∃ e : Dev, e = s.begin.modHost fun h => { h with lockWritten := h.lockWritten ++ [blockIdx page.val] } := ⟨_, rfl⟩
  have hover : Dev.Over s e := by rw [he]; exact (Dev.Over.begin s).of_eq rfl rfl rfl
  have heff : s.begin.busWrite mst.val (page.val * 4096 + 0x020) v = e.setReg (hdrAddr page.val 0x020) v := by
    rw [Dev.busWrite_reaches ho hp (by decide) (by decide) (by rw [regFields_header _ (by decide)]; decide) (guardedAt_header _ (by decide)),
      if_pos rfl, Dev.writeLock_first o.thawed hfirst, ← he]
    exact Dev.expirePend_none (by rw [he]; exact o.noPair)
  refine answers_calm (run_pgLockWrite mst page v s) ?_ ?_ <;> simp only [heff]
  · rw [he]
    exact o.calm
  · refine ⟨?_, by rw [he]; rfl⟩
    rw [State.commit_reg (hover.setReg _ _), Dev.reg_setReg_same, regVal_lock hp]

end Sys2Proof.Machine
end

section
namespace Sys2Proof.Machine

/-! ## What follows a block reset keeps the list of restores (R27, R366) -/

theorem Dev.restage_fault (d : Dev) (id : Nat) (st : CmdStage) : (d.restage id st).core.fault = d.core.fault := rfl

theorem Dev.forwardLost_fault (d : Dev) : d.forwardLost.core.fault = d.core.fault := by
  have key : ∀ (ids : List Nat) (e : Dev), (ids.foldl (fun (e : Dev) id => e.restage id (.done 9 0 0)) e).core.fault = e.core.fault := by
    intro ids
    induction ids with
    | nil => intro e; rfl
    | cons id ids ih => intro e; exact (ih _).trans (e.restage_fault id _)
  exact key _ _

/-- The choice of the admission holder raises no fault and ends no restore. -/
theorem Dev.refreshHolder_fault (d : Dev) : d.refreshHolder.core.fault = d.core.fault := by
  have release : ∀ (e : Dev) (c : Nat), ((e.set .gaffer c fGF_STAT_HOLDER 0).releaseEvt (120 + c)).core.fault = e.core.fault := fun e c =>
    (Dev.releaseEvt_signals _ _).fault
  have tell : ∀ (e : Dev) (p : Prop) [Decidable p] (n : Nat), (if p then e else e.assertEvt n).core.fault = e.core.fault := fun e p _ n =>
    ite_both (P := fun x : Dev => x.core.fault = e.core.fault) rfl (Dev.assertEvt_signals e n).fault
  have tell' : ∀ (e : Dev) (p : Prop) [Decidable p] (n : Nat), (if p then e.assertEvt n else e).core.fault = e.core.fault := fun e p _ n =>
    ite_both (P := fun x : Dev => x.core.fault = e.core.fault) (Dev.assertEvt_signals e n).fault rfl
  have lose : ∀ (e : Dev) (p : Prop) [Decidable p], (if p then e.forwardLost else e).core.fault = e.core.fault := fun e p _ =>
    ite_both (P := fun x : Dev => x.core.fault = e.core.fault) e.forwardLost_fault rfl
  unfold Dev.refreshHolder
  dsimp only
  split
  · rfl
  · cases d.holder <;> cases (List.range 8).find? d.gafRuns <;>
      simp only [tell, tell', lose, release, Dev.statBit_core, Dev.set_core]

theorem Dev.evtResume_signals (d : Dev) : Dev.Signals d d.evtResume := by
  unfold Dev.evtResume
  exact .foldl _ (fun e n => .ite ((Dev.evtCount_signals e n).trans (Dev.evtTargetSleep_signals _ n)) (.refl e)) _ d

theorem Dev.startCtl_restoring (d : Dev) (c : Nat) : (d.startCtl c).core.fault.restoring = d.core.fault.restoring := by
  unfold Dev.startCtl
  rw [Dev.refreshHolder_fault]
  rfl

theorem Dev.afterReset_restoring (d : Dev) (b : Nat) : (d.afterReset b).core.fault.restoring = d.core.fault.restoring := by
  unfold Dev.afterReset
  split
  · rw [d.evtResume_signals.fault]
  · split
    · exact d.startCtl_restoring _
    · split
      · split <;> rfl
      · rfl

/-! ## The end of a block reset -/

/-- The block's header and its quarantine window when its reset ends (R27, R364). -/
def Dev.resetEnded (d : Dev) (b : Nat) : Dev :=
  let p := blockPage b
  (((d.hset p fPG_PWR_STAT_RESET_BUSY 0).hset p fPG_CTL_RESET_REQ 0).stat p (2 ^ 21)).modFault fun f => { f with windows := f.windows.map fun w =>
    if w.quadrant.isNone ∧ w.block = b then { w with resetDone := true } else w }

/-- With no restore in progress, a block reset that may end ends, and the block does what follows its reset. -/
theorem Dev.endReset_plain {d : Dev} {b : Nat} (hr : d.resetting b = true) (hq : d.heldByQuad b = false) (hn : d.core.fault.restoring = []) :
    d.endReset b = (d.resetEnded b).afterReset b := by
  have hrest : ((d.resetEnded b).afterReset b).core.fault.restoring = [] := (Dev.afterReset_restoring _ b).trans hn
  have hnone : ∀ n, ((d.resetEnded b).afterReset b).core.fault.restoring.contains n = false := fun n => by rw [hrest]; rfl
  have hend : d.endReset b = (let x := (d.resetEnded b).afterReset b
      let x := if x.core.fault.restoring.contains b then x.restoreDone b else x
      match blockQuad b with
      | some q => if x.core.fault.restoring.contains (183 + q) ∧ !((quadBlocks q).any x.resetting) then x.restoreDone (183 + q) else x
      | none => x) := by
    unfold Dev.endReset
    rw [if_neg (by simp [hr, hq])]
    rfl
  rw [hend]
  dsimp only
  rw [hnone, if_neg (by decide)]
  split
  · rw [if_neg (by rw [hnone]; simp)]
  · rfl

/-- The header of a block whose reset has ended. -/
theorem Dev.resetEnded_header (d : Dev) {page : Nat} {p : PageInfo} (hp : pageInfo page = some p) :
    (d.resetEnded (blockIdx page)).hget p.first fPG_PWR_STAT_RESET_BUSY = 0 ∧
      (d.resetEnded (blockIdx page)).hget p.first fPG_CTL_RESET_REQ = 0 ∧
      ((d.resetEnded (blockIdx page)).reg (p.first * 4096 + 0x00C)).getLsbD 21 = true := by
  obtain ⟨q, hq, _⟩ := firstPage_info hp
  rw [firstPage_of hp] at hq
  obtain ⟨e, he⟩ : ∃ e, e = (d.hset p.first fPG_PWR_STAT_RESET_BUSY 0).hset p.first fPG_CTL_RESET_REQ 0 := ⟨_, rfl⟩
  have hstat : (d.resetEnded (blockIdx page)).regs = (e.stat p.first (2 ^ 21)).regs := by
    rw [he, ← blockPage_first hp]
    rfl
  have hget : ∀ r, (d.resetEnded (blockIdx page)).hget p.first r = (e.stat p.first (2 ^ 21)).hget p.first r := fun r => by
    simp only [Dev.hget, Dev.reg, hstat]
  refine ⟨?_, ?_, ?_⟩
  · rw [hget, Dev.hget_stat_other _ _ _ _ _ (by decide) (by decide), he, Dev.hget_hset_other _ _ _ _ _ _ (by decide) (by decide) (by decide)]
    exact Dev.hget_hset_same _ hq _ _ (by decide) (by decide) (by decide)
  · rw [hget, Dev.hget_stat_other _ _ _ _ _ (by decide) (by decide), he]
    exact Dev.hget_hset_same _ hq _ _ (by decide) (by decide) (by decide)
  · rw [Dev.reg, hstat]
    exact Dev.stat_bit e hq (by decide) (by decide)

/-! ## Triplicated fields (R29) -/

set_option maxRecDepth 100000 in
/-- Every page of the block base table lies in one of the 183 blocks. -/
theorem blockIdx_lt : ∀ page : Fin 512, (pageInfo page.val).isSome = true → blockIdx page.val < 183 := by decide

/-- PG_CTL voted, VOTE_CORR counted. -/
def Dev.voted (d : Dev) (page : Nat) (w : Word) : Dev := (d.setReg (hdrAddr page 0x008) w).hbump page fPG_EVT_VOTE_CORR

theorem Dev.vote_differs (d : Dev) {page : Fin 512} {p : PageInfo} {c0 c1 c2 : Word} (hp : pageInfo page.val = some p)
    (hc : ¬ (c0 = c1 ∧ c1 = c2)) (hd : d.domState (pageDom page.val) ≠ 2) :
    d.vote page.val c0 c1 c2 = (d.voted page.val (majority c0 c1 c2)).raise (2 * blockIdx page.val) := by
  have hb := blockIdx_lt page (by rw [hp]; rfl)
  unfold Dev.vote
  rw [if_neg]
  · rfl
  · rintro (h | h | h)
    · exact hc h
    · omega
    · exact hd h

theorem Dev.voted_ctl (d : Dev) (page : Nat) (w : Word) : (d.voted page w).reg (hdrAddr page 0x008) = regVal (hdrAddr page 0x008) w := by
  have hne : hdrAddr page 0x008 ≠ hdrAddr page fPG_EVT_VOTE_CORR.off := hdrAddr_ne _ _ (by decide) (by decide) (by decide)
  exact (Dev.reg_setReg_other _ hne _).trans (Dev.reg_setReg_same _ _ _)

theorem Dev.voted_count (d : Dev) {page : Nat} {p : PageInfo} (hp : pageInfo page = some p) (w : Word) :
    (d.voted page w).hget page fPG_EVT_VOTE_CORR = min (d.hget page fPG_EVT_VOTE_CORR + 1) (2 ^ 8 - 1) := by
  unfold Dev.voted
  rw [Dev.hget_hbump _ hp _ (by decide) (by decide) (by decide),
    Dev.hget_setReg_other _ _ _ (hdrAddr_ne _ _ (by decide) (by decide) (by decide))]
  rfl

/-- What a command answers, once its effect is known. -/
theorem exec_effect {c : Instr} {s : State} {f : Dev → Dev} {d : Dev} (he : exec c s = s.run f) (hd : f s.begin = d) :
    exec c s = .next (s.commit (d.settle 64)) := by
  rw [he, ← hd]
  rfl

/-- Settles O60: with no restore in progress what ends the reset is `resetEnded`, and what votes is `voted`. -/
theorem blockResetEndsAndVoteCorrects : Obligations.BlockResetEndsAndVoteCorrects := by
  intro s page p c0 c1 c2 hp
  constructor
  · intro hr hq hn
    obtain ⟨hbusy, hreq, hdone⟩ := s.begin.resetEnded_header hp
    exact ⟨_, exec_effect (run_resetDone page s) (Dev.endReset_plain hr hq hn), _, rfl, hbusy, hreq, hdone, rfl, rfl⟩
  · intro hc hd
    exact ⟨_, exec_effect (run_vote page c0 c1 c2 s) (Dev.vote_differs _ hp hc hd), _, rfl, Dev.voted_ctl _ _ _, Dev.voted_count _ hp _, rfl⟩

end Sys2Proof.Machine
end

section
namespace Sys2Proof.Machine

/-! ## Updates that keep the tables below the overlays -/

theorem Dev.Over.modHost {s : State} {d : Dev} (h : Dev.Over s d) (f : HostPort → HostPort) : Dev.Over s (d.modHost f) := h.of_eq rfl rfl rfl
theorem Dev.Over.setMbx {s : State} {d : Dev} (h : Dev.Over s d) (m : Nat) (x : Mailbox) : Dev.Over s (d.setMbx m x) := h.of_eq rfl rfl rfl

/-- A field reads the value it was set to, if the value fits. -/
theorem Dev.get_set_fits (d : Dev) (k : PageKind) (i : Nat) (r : FieldRow) (v n : Nat) (h : fieldOk k i r n = true) (hv : v < 2 ^ r.width) :
    (d.set k i r v n).get k i r n = v := (d.get_set_same k i r v n h).trans (Nat.mod_eq_of_lt hv)

/-- A field beside it in the same register reads what it read before. -/
theorem Dev.get_set_beside (d : Dev) (k : PageKind) (i : Nat) (r q : FieldRow) (v n : Nat) (ha : fieldAddr k i q n = fieldAddr k i r n)
    (h : q.lo + q.width ≤ r.lo ∨ r.lo + r.width ≤ q.lo) (hq : fieldOk k i q n = true) :
    (d.set k i r v n).get k i q n = d.get k i q n := Dev.get_set_field d k k i i r q v n n ha h hq

/-! ## The host port's own state (R20, R382) -/

theorem Dev.Over.busMasterChange {s : State} {d : Dev} (h : Dev.Over s d) (bme d3 : Bool) : Dev.Over s (d.busMasterChange bme d3) :=
  (h.set _ _ _ _ _).modHost _

theorem Dev.Over.hostDown {s : State} {d : Dev} (h : Dev.Over s d) : Dev.Over s d.hostDown := by
  unfold Dev.hostDown
  exact (((h.set _ _ _ _ _).set _ _ _ _ _).set _ _ _ _ _).modHost _

theorem Dev.busMasterChange_bme (d : Dev) (bme d3 : Bool) :
    (d.busMasterChange bme d3).get .hostport 0 fHP_LINK_BME = if bme then 1 else 0 :=
  Dev.get_set_fits d .hostport 0 fHP_LINK_BME _ 0 (by decide) (by cases bme <;> decide)

/-- The link's fields read 0 after a reset of the link. -/
theorem Dev.hostDown_link (d : Dev) : d.hostDown.get .hostport 0 fHP_LINK_SPEED = 0 ∧ d.hostDown.get .hostport 0 fHP_LINK_WIDTH = 0 ∧
    d.hostDown.get .hostport 0 fHP_LINK_BME = 0 := by
  refine ⟨?_, ?_, Dev.get_set_fits _ .hostport 0 fHP_LINK_BME 0 0 (by decide) (by decide)⟩
  · refine (Dev.get_set_beside _ .hostport 0 fHP_LINK_BME fHP_LINK_SPEED 0 0 rfl (by decide) (by decide)).trans ?_
    refine (Dev.get_set_beside _ .hostport 0 fHP_LINK_WIDTH fHP_LINK_SPEED 0 0 rfl (by decide) (by decide)).trans ?_
    exact Dev.get_set_fits _ .hostport 0 fHP_LINK_SPEED 0 0 (by decide) (by decide)
  · refine (Dev.get_set_beside _ .hostport 0 fHP_LINK_BME fHP_LINK_WIDTH 0 0 rfl (by decide) (by decide)).trans ?_
    exact Dev.get_set_fits _ .hostport 0 fHP_LINK_WIDTH 0 0 (by decide) (by decide)

/-- A link that has trained at a speed of Table 2.11. -/
theorem Dev.hostUp_trained (d : Dev) {speed : Nat} (h1 : 1 ≤ speed) (h6 : speed ≤ 6) (width : Nat) :
    d.hostUp speed width = (d.set .hostport 0 fHP_LINK_SPEED speed).set .hostport 0 fHP_LINK_WIDTH width := by
  unfold Dev.hostUp
  rw [if_neg (by omega)]

/-- Settles O18: each field of HP_LINK reads what was last set, and the fields lie apart in one register. -/
theorem hostPortFollowsItsLink : Obligations.HostPortFollowsItsLink := by
  intro s bme d3 speed w hcalm
  have hraised := State.calm_iff.1 hcalm
  have hover := Dev.Over.begin s
  refine ⟨answers_calm (run_hostBusMasterChange bme d3 s) hraised ?_, answers_calm (run_hostPortLinkReset s) hraised ?_, fun h1 h6 => ?_⟩
  · exact ⟨(State.commit_get (hover.busMasterChange bme d3) _ _ _ _).trans (Dev.busMasterChange_bme _ _ _), rfl⟩
  · obtain ⟨hspeed, hwidth, hbme⟩ := s.begin.hostDown_link
    have hget := State.commit_get hover.hostDown .hostport 0
    exact ⟨(hget _ 0).trans hspeed, (hget _ 0).trans hwidth, (hget _ 0).trans hbme, rfl⟩
  · have hup := s.begin.hostUp_trained h1 h6 w.val
    have hget := State.commit_get ((hover.set .hostport 0 fHP_LINK_SPEED speed.val 0).set .hostport 0 fHP_LINK_WIDTH w.val 0) .hostport 0
    refine answers_calm (run_hostLinkUp speed w s) ?_ ?_ <;> simp only [hup]
    · exact hraised
    · refine ⟨(hget _ 0).trans ?_, (hget _ 0).trans ?_⟩
      · refine (Dev.get_set_beside _ .hostport 0 fHP_LINK_WIDTH fHP_LINK_SPEED _ 0 rfl (by decide) (by decide)).trans ?_
        exact Dev.get_set_fits _ .hostport 0 fHP_LINK_SPEED _ 0 (by decide) (show speed.val < 16 by omega)
      · exact Dev.get_set_fits _ .hostport 0 fHP_LINK_WIDTH _ 0 (by decide) (show w.val < 8 by omega)

end Sys2Proof.Machine
end

section
namespace Sys2Proof.Machine

/-! ## The registers of a mailbox (Table 2.11) -/

/-- The host port's place in the block base table. -/
def hostportInfo : PageInfo := ⟨.hostport, 9, 0, 0xC, 1, 0xC4⟩

theorem pageInfo_hostport : pageInfo 0xC = some hostportInfo := by decide

/-- The fields of a mailbox that the doorbells, MBX_CFG and the fetch of a command set. -/
def mbxFields : List FieldRow :=
  [fMBX_CFG_EN, fMBX_CFG_CQ_LOG2, fMBX_SQ_TAIL_TAIL, fMBX_CQ_HEAD_HEAD, fMBX_STAT_IDLE, fMBX_STAT_ERR, fMBX_STAT_ERR_CODE, fMBX_STAT_SQ_HEAD]

/-- They may change, in each of the sixteen mailboxes. -/
theorem mbxFields_ok : ∀ m : Fin 16, ∀ r ∈ mbxFields, fieldOk .hostport 0 r m.val = true := by decide

/-- The doorbells are written directly, MBX_CFG through a guarded pair. -/
theorem doorbell_plain : ∀ m : Fin 16, ∀ c ∈ [0x14, 0x18], (regFields .hostport (0x100 + 32 * m.val + c)).isEmpty = false ∧
    guardedAt .hostport (0x100 + 32 * m.val + c) = false ∧ hasAcc .hostport (0x100 + 32 * m.val + c) .rw = true := by decide

theorem mbxCfg_guarded : ∀ m : Fin 16, (regFields .hostport (0x100 + 32 * m.val + 0x10)).isEmpty = false ∧
    guardedAt .hostport (0x100 + 32 * m.val + 0x10) = true ∧ (regFields .hostport (0x100 + 32 * m.val + 0x10 + 0x800)).isEmpty = true := by decide

/-- What a write of MBX_CFG or of a doorbell does, by its place in the mailbox's registers. -/
def Dev.mbxWrite (d : Dev) (m c : Nat) (v : Word) : Dev := if c = 0x10 then d.mbxCfg m v else if c = 0x14 then d.sqTail m v else d.cqHead m v

theorem Dev.writeAct_mbx (d : Dev) (mst : Nat) (m : Fin 16) {c : Nat} (hc : c ∈ [0x10, 0x14, 0x18]) (v : Word) :
    d.writeAct mst hostportInfo.ofKind 0xC (0x100 + 32 * m.val + c) v = (d.mbxWrite m.val c v, true) := by
  have hm := m.isLt
  have hc' : c = 0x10 ∨ c = 0x14 ∨ c = 0x18 := by simpa using hc
  have hdiv : (0x100 + 32 * m.val + c - 0x100) / 32 = m.val := by omega
  have hmod : (0x100 + 32 * m.val + c) % 32 = c := by omega
  have hallowed : d.writeAllowed .hostport (0x100 + 32 * m.val + c) = true := by
    unfold Dev.writeAllowed
    exact if_neg (by omega)
  unfold Dev.writeAct
  rw [if_neg (by omega), if_neg (by omega), if_neg (by omega)]
  simp only [hostportInfo, PageInfo.ofKind, hallowed, hdiv, hmod, Bool.not_true, Bool.false_eq_true, if_false]
  rw [if_neg (by omega)]
  rcases hc' with rfl | rfl | rfl <;> rfl

/-- A doorbell of an open host port. -/
theorem Dev.busWrite_doorbell {s : State} (ho : s.opens 0xC = true) (mst : Nat) (m : Fin 16) {c : Nat} (hc : c ∈ [0x14, 0x18]) (v : Word) :
    s.begin.busWrite mst (0xC * 4096 + (0x100 + 32 * m.val + c)) v = (s.begin.mbxWrite m.val c v).expirePend 0xC := by
  have hm := m.isLt
  have hc' : c = 0x14 ∨ c = 0x18 := by simpa using hc
  obtain ⟨hfields, hguard, hacc⟩ := doorbell_plain m c hc
  rw [Dev.busWrite_open ho pageInfo_hostport (by omega) (by omega) hfields hguard (by omega) (by rw [hostportInfo, hacc]; rfl),
    Dev.writeAct_mbx _ _ m (List.mem_cons_of_mem _ hc)]

/-- A guarded pair on MBX_CFG of an open host port. -/
theorem Dev.busPair_mbxCfg {s : State} (ho : s.opens 0xC = true) (mst : Nat) (m : Fin 16) (v : Word) :
    s.begin.busPair mst (0xC * 4096 + (0x100 + 32 * m.val + 0x10)) v = (s.begin.mbxCfg m.val v).expirePend 0xC := by
  have hm := m.isLt
  obtain ⟨hfields, hguard, hcomp⟩ := mbxCfg_guarded m
  rw [Dev.busPair_open ho pageInfo_hostport (by omega) (by omega) (by omega) hfields hguard hcomp, Dev.writeAct_mbx _ _ m (by decide)]
  rfl

/-! ## The doorbells (R35, R36, R38) -/

theorem Dev.mbx_of_host {d d' : Dev} (h : d'.core.host = d.core.host) (m : Nat) : d'.mbx m = d.mbx m := by
  simp only [Dev.mbx, h]

/-- A doorbell ends with the mailbox's source asserting, whatever it did before. -/
theorem answers_assertEvt {c : Instr} {s : State} {f : Dev → Dev} {e : Dev} {m : Nat} {P : State → Prop} (ho : s.opens 0xC = true)
    (he : exec c s = s.run f) (hf : f s.begin = (e.assertEvt m).expirePend 0xC) (hg : e.core.host.guards = s.core.host.guards)
    (hr : e.core.fault = s.core.fault) (hP : P (s.commit (e.assertEvt m))) : Answers c s P := by
  have o := State.opens_elim ho
  have hsig := Dev.assertEvt_signals e m
  rw [Dev.expirePend_none (by rw [hsig.host, hg]; exact o.noPair)] at hf
  refine answers_calm he ?_ ?_ <;> rw [hf]
  · rw [hsig.fault, hr]
    exact o.calm
  · exact hP

/-- SQ_TAIL asserts the source over a change of registers alone. -/
theorem Dev.sqTail_asserts (d : Dev) (m : Nat) (v : Word) : ∃ e : Dev, d.sqTail m v = e.assertEvt m ∧ e.core = d.core := by
  refine ⟨_, rfl, ?_⟩
  exact ite_both (P := fun x : Dev => x.core = d.core) rfl rfl

/-- CQ_HEAD of a mailbox that is on, inside the ring and not past the entries written, returns the entries before it. -/
theorem Dev.cqHead_returns (d : Dev) (m : Fin 16) (v : Word) (hen : d.get .hostport 0 fMBX_CFG_EN m.val = 1)
    (hh : fMBX_CQ_HEAD_HEAD.ext v < d.cqSize m.val)
    (hl : ((d.mbx m.val).cqTail + d.cqSize m.val - fMBX_CQ_HEAD_HEAD.ext v) % d.cqSize m.val ≤ (d.mbx m.val).unreturned) :
    d.cqHead m.val v = ((d.set .hostport 0 fMBX_CQ_HEAD_HEAD (fMBX_CQ_HEAD_HEAD.ext v) m.val).setMbx m.val { d.mbx m.val with
      unreturned := ((d.mbx m.val).cqTail + d.cqSize m.val - fMBX_CQ_HEAD_HEAD.ext v) % d.cqSize m.val }).assertEvt m.val := by
  have hkeep : ∀ q : FieldRow, q.off + q.stride * m.val ≠ 0x118 + 32 * m.val →
      (d.set .hostport 0 fMBX_CQ_HEAD_HEAD (fMBX_CQ_HEAD_HEAD.ext v) m.val).get .hostport 0 q m.val = d.get .hostport 0 q m.val := by
    intro q hq
    refine Dev.get_set_reg d _ _ _ _ _ _ _ _ _ ?_
    simp only [fieldAddr, PageKind.page, fMBX_CQ_HEAD_HEAD]
    omega
  have hen' := (hkeep fMBX_CFG_EN (by simp only [fMBX_CFG_EN]; omega)).trans hen
  have hsize : (d.set .hostport 0 fMBX_CQ_HEAD_HEAD (fMBX_CQ_HEAD_HEAD.ext v) m.val).cqSize m.val = d.cqSize m.val := by
    unfold Dev.cqSize
    rw [hkeep fMBX_CFG_CQ_LOG2 (by simp only [fMBX_CFG_CQ_LOG2]; omega)]
  have hmbx : (d.set .hostport 0 fMBX_CQ_HEAD_HEAD (fMBX_CQ_HEAD_HEAD.ext v) m.val).mbx m.val = d.mbx m.val := Dev.mbx_of_host rfl _
  unfold Dev.cqHead
  dsimp only
  rw [hen', hsize, hmbx, if_neg (by decide), if_neg (by omega)]

/-- Settles O12: both doorbells end with the mailbox's source asserting, and that leaves the mailboxes alone. -/
theorem mailboxDoorbells : Obligations.MailboxDoorbells := by
  intro s m v ho
  dsimp only
  constructor
  · obtain ⟨e, he, hcore⟩ := s.begin.sqTail_asserts m.val v
    have hf : s.begin.busWrite 0x000 (0xC114 + 0x20 * m.val) v = (e.assertEvt m.val).expirePend 0xC := by
      rw [show 0xC114 + 0x20 * m.val = 0xC * 4096 + (0x100 + 32 * m.val + 0x14) by omega, Dev.busWrite_doorbell ho _ m (by decide), ← he]
      rfl
    exact answers_assertEvt ho (run_mbxSqTail m v s) hf (by rw [hcore]; rfl) (by rw [hcore]; rfl) (e.assertEvt_level m.val)
  · intro hen hh hl
    have hf : s.begin.busWrite 0x000 (0xC118 + 0x20 * m.val) v = (s.begin.cqHead m.val v).expirePend 0xC := by
      rw [show 0xC118 + 0x20 * m.val = 0xC * 4096 + (0x100 + 32 * m.val + 0x18) by omega, Dev.busWrite_doorbell ho _ m (by decide)]
      rfl
    rw [Dev.cqHead_returns _ m v hen hh hl] at hf
    refine answers_assertEvt ho (run_mbxCqHead m v s) hf rfl rfl ⟨Dev.assertEvt_level _ _, ?_⟩
    rw [State.commit_mbx, Dev.mbx_of_host (Dev.assertEvt_signals _ _).host, Dev.setMbx_mbx]

end Sys2Proof.Machine
end

section
namespace Sys2Proof.Machine

/-! ## MBX_CFG (R38) -/

/-- A mailbox that starts: its configuration, no error, its ring read from entry 0, and nothing fetched. -/
def Dev.mbxStarted (d : Dev) (m : Nat) (v : Word) : Dev :=
  ((((d.setReg (fieldAddr .hostport 0 fMBX_CFG_EN m) v).set .hostport 0 fMBX_STAT_ERR 0 m).set .hostport 0 fMBX_STAT_ERR_CODE 0 m).set
    .hostport 0 fMBX_STAT_SQ_HEAD 0 m).setMbx m Mailbox.rest

theorem Dev.mbxCfg_starts (d : Dev) (m : Nat) (v : Word) (hen : d.get .hostport 0 fMBX_CFG_EN m = 0)
    (hidle : d.get .hostport 0 fMBX_STAT_IDLE m = 1) (hv : fMBX_CFG_EN.ext v = 1)
    (hsq : 4 ≤ fMBX_CFG_SQ_LOG2.ext v ∧ fMBX_CFG_SQ_LOG2.ext v ≤ 12) (hcq : 4 ≤ fMBX_CFG_CQ_LOG2.ext v ∧ fMBX_CFG_CQ_LOG2.ext v ≤ 12) :
    d.mbxCfg m v = d.mbxStarted m v := by
  unfold Dev.mbxCfg
  dsimp only
  rw [hen, hidle, hv, if_neg (by decide), if_neg (by decide), if_neg (by decide)]
  simp only [decide_eq_true hsq, decide_eq_true hcq, Bool.and_self, if_true]
  rfl

/-- A mailbox that is on takes EN alone. -/
theorem Dev.mbxCfg_stops (d : Dev) (m : Nat) (v : Word) (hen : d.get .hostport 0 fMBX_CFG_EN m = 1) :
    ∃ e : Dev, (e = d ∨ e = d.drop) ∧ d.mbxCfg m v = e.set .hostport 0 fMBX_CFG_EN (fMBX_CFG_EN.ext v) m := by
  unfold Dev.mbxCfg
  dsimp only
  rw [hen, if_pos rfl]
  split
  · exact ⟨d, .inl rfl, rfl⟩
  · exact ⟨d.drop, .inr rfl, rfl⟩

theorem Dev.Over.mbxStarted {s : State} {d : Dev} (h : Dev.Over s d) (m : Nat) (v : Word) : Dev.Over s (d.mbxStarted m v) :=
  ((((h.setReg _ _).set _ _ _ _ _).set _ _ _ _ _).set _ _ _ _ _).setMbx _ _

theorem Dev.Over.drop {s : State} {d : Dev} (h : Dev.Over s d) : Dev.Over s d.drop := h.bump _ _ _ _ _

/-- MBX_ENABLE writes EN 1 and leaves the ring sizes as they are. -/
theorem mbxEnable_word (cfg : Word) : fMBX_CFG_EN.ext (cfg ||| 0x80000000#32) = 1 ∧
    fMBX_CFG_SQ_LOG2.ext (cfg ||| 0x80000000#32) = fMBX_CFG_SQ_LOG2.ext cfg ∧
    fMBX_CFG_CQ_LOG2.ext (cfg ||| 0x80000000#32) = fMBX_CFG_CQ_LOG2.ext cfg := by
  have low : ∀ r : FieldRow, r.lo + r.width ≤ 31 → r.ext (cfg ||| 0x80000000#32) = r.ext cfg := by
    intro r hr
    apply Nat.eq_of_testBit_eq
    intro i
    rw [FieldRow.testBit_ext, FieldRow.testBit_ext, BitVec.getLsbD_or, show (0x80000000#32) = BitVec.twoPow 32 31 from rfl,
      BitVec.getLsbD_twoPow]
    by_cases hi : i < r.width
    · simp [show ¬ 31 = r.lo + i by omega]
    · simp [hi]
  refine ⟨?_, low _ (by decide), low _ (by decide)⟩
  rw [FieldRow.ext_bit _ rfl, BitVec.getLsbD_or]
  simp [fMBX_CFG_EN]

/-- MBX_DISABLE writes EN 0. -/
theorem mbxDisable_word (cfg : Word) : fMBX_CFG_EN.ext (cfg &&& 0x7FFFFFFF#32) = 0 := by
  rw [FieldRow.ext_bit _ rfl, BitVec.getLsbD_and]
  simp [fMBX_CFG_EN]

/-- A write of MBX_CFG of an open host port leaves what `e` holds. -/
theorem answers_mbxCfg {c : Instr} {s : State} {f : Dev → Dev} {e : Dev} {m : Fin 16} {v : Word} {P : State → Prop} (ho : s.opens 0xC = true)
    (he : exec c s = s.run f) (hf : f s.begin = s.begin.busPair 0x000 (0xC110 + 0x20 * m.val) v) (hcfg : s.begin.mbxCfg m.val v = e)
    (hg : e.core.host.guards = s.core.host.guards) (hr : e.core.fault = s.core.fault) (hP : P (s.commit e)) : Answers c s P := by
  have o := State.opens_elim ho
  rw [show 0xC110 + 0x20 * m.val = 0xC * 4096 + (0x100 + 32 * m.val + 0x10) by omega, Dev.busPair_mbxCfg ho, hcfg,
    Dev.expirePend_none (hg.trans o.noPair)] at hf
  refine answers_calm he ?_ ?_ <;> rw [hf]
  · rw [hr]
    exact o.calm
  · exact hP

/-- Settles O13: EN set restarts the mailbox, EN cleared changes EN alone. -/
theorem mailboxEnableAndDisable : Obligations.MailboxEnableAndDisable := by
  intro s m cfg ho
  have hok := mbxFields_ok m
  have hover := Dev.Over.begin s
  constructor
  · intro hen hidle hsq4 hsq12 hcq4 hcq12
    obtain ⟨hv, hsq, hcq⟩ := mbxEnable_word cfg
    have hcfg := s.begin.mbxCfg_starts m.val _ hen hidle hv (hsq.symm ▸ ⟨hsq4, hsq12⟩) (hcq.symm ▸ ⟨hcq4, hcq12⟩)
    refine answers_mbxCfg ho (run_mbxEnable m cfg s) rfl hcfg rfl rfl ⟨?_, ?_⟩
    · exact Dev.setMbx_mbx _ _ _
    · rw [State.commit_get (hover.mbxStarted _ _)]
      exact Dev.get_set_fits _ .hostport 0 fMBX_STAT_SQ_HEAD 0 m.val (hok _ (by decide)) (by decide)
  · intro hen
    obtain ⟨e, hcases, hcfg⟩ := s.begin.mbxCfg_stops m.val (cfg &&& 0x7FFFFFFF#32) hen
    have hcore : e.core = s.core := by rcases hcases with rfl | rfl <;> rfl
    have hovere : Dev.Over s e := by
      rcases hcases with rfl | rfl
      · exact hover
      · exact hover.drop
    refine answers_mbxCfg ho (run_mbxDisable m cfg s) rfl hcfg (by rw [Dev.set_core, hcore]) (by rw [Dev.set_core, hcore]) ⟨?_, ?_⟩
    · rw [State.commit_get (hovere.set _ _ _ _ _), mbxDisable_word]
      exact Dev.get_set_fits _ .hostport 0 fMBX_CFG_EN 0 m.val (hok _ (by decide)) (by decide)
    · exact Dev.mbx_of_host (by rw [State.begin_core, State.commit_core, Dev.set_core, hcore]; rfl) m.val

end Sys2Proof.Machine
end

section
namespace Sys2Proof.Machine

/-! ## Fetching a command (R36, R236, R239) -/

/-- OPCODE is the upper half of DW0. -/
theorem argF_opcode (ws : List Word) : argF ws 0 31 16 = (ws.getD 0 0).toNat / 65536 := by
  have hlt := (ws.getD 0 0).isLt
  simp only [argF, bitsNat, BitVec.toNat_ushiftRight, Nat.shiftRight_eq_div_pow]
  omega

/-- The stage in which a fetched entry stands behind the commands of its mailbox. -/
def Dev.fetchStage (d : Dev) (t : Nat) (ws : List Word) : CmdStage := match cmdMasks (argF ws 0 31 16) with
  | none => .done 1 0 0
  | some ms => if !reservedOk ws ms then .done 2 0 0
      else if forHolder (argF ws 0 31 16) && decide (d.holder ≠ some t) then .forwarded else .ready

/-- The entry is taken: SQ_HEAD advances, and the command stands in the mailbox. -/
def Dev.fetched (d : Dev) (m : Nat) (ws : List Word) (st : CmdStage) : Dev :=
  let e := d.set .hostport 0 fMBX_STAT_SQ_HEAD ((d.get .hostport 0 fMBX_STAT_SQ_HEAD m + 1) % d.sqSize m) m
  let e := (e.setMbx m { d.mbx m with cmds := (d.mbx m).cmds ++ [⟨d.core.host.nextCmd, ws, st⟩] }).mbxIdle m
  e.modHost fun h => { h with nextCmd := h.nextCmd + 1 }

/-- A fetched command that is forwarded stands in the holder's queue too, and the holder's source asserts. -/
def Dev.fetchTold (d : Dev) (m : Nat) (ws : List Word) (st : CmdStage) : Dev :=
  if st = .forwarded then
    ((d.fetched m ws st).modHost fun h => { h with fwdQueue := h.fwdQueue ++ [d.core.host.nextCmd] }).assertEvt (120 + (d.fetched m ws st).holder.getD 0)
  else d.fetched m ws st

/-- What a mailbox must show for its next entry to be fetched. -/
structure Dev.Fetches (d : Dev) (m t : Nat) : Prop where
  target : d.get .hostport 0 fMBX_CFG_TARGET m = t
  en : d.get .hostport 0 fMBX_CFG_EN m = 1
  noErr : d.get .hostport 0 fMBX_STAT_ERR m = 0
  master : d.busMaster = true
  runs : d.gafRuns t = true
  on : d.domState (0x89 + t) = 0
  room : (d.mbx m).cmds.length + (d.mbx m).unreturned < d.cqSize m
  waits : d.get .hostport 0 fMBX_SQ_TAIL_TAIL m ≠ d.get .hostport 0 fMBX_STAT_SQ_HEAD m
  inRing : d.get .hostport 0 fMBX_SQ_TAIL_TAIL m < d.sqSize m

theorem Dev.commandFetch_takes {d : Dev} {m t : Nat} (h : d.Fetches m t) (e : List Word) :
    d.commandFetch m (some e) = d.fetchTold m ((List.range 16).map fun i => e.getD i 0) (d.fetchStage t ((List.range 16).map fun i => e.getD i 0)) := by
  have hroom := h.room
  have hring := h.inRing
  have hgo : ¬ (d.get .hostport 0 fMBX_CFG_EN m = 0 ∨ d.get .hostport 0 fMBX_STAT_ERR m = 1 ∨ (!d.busMaster) = true ∨ (!d.gafRuns t) = true ∨
      d.domState (0x89 + t) ≠ 0 ∨ d.cqSize m ≤ (d.mbx m).cmds.length + (d.mbx m).unreturned ∨
      d.get .hostport 0 fMBX_SQ_TAIL_TAIL m = d.get .hostport 0 fMBX_STAT_SQ_HEAD m) := by
    simp only [h.en, h.noErr, h.master, h.runs, h.on, h.waits, Bool.not_true, Bool.false_eq_true, Nat.one_ne_zero, Nat.zero_ne_one, ne_eq,
      not_true_eq_false, or_false, false_or]
    omega
  unfold Dev.commandFetch
  dsimp only
  rw [h.target, if_neg hgo, if_neg (by omega)]
  rfl

theorem Dev.fetchTold_mbx (d : Dev) (m : Nat) (ws : List Word) (st : CmdStage) :
    ((d.fetchTold m ws st).mbx m).cmds = (d.mbx m).cmds ++ [⟨d.core.host.nextCmd, ws, st⟩] := by
  have hfetched : ((d.fetched m ws st).mbx m).cmds = (d.mbx m).cmds ++ [⟨d.core.host.nextCmd, ws, st⟩] :=
    congrArg Mailbox.cmds (Dev.setMbx_mbx _ m _)
  unfold Dev.fetchTold
  split
  · rw [Dev.mbx_of_host (Dev.assertEvt_signals _ _).host]
    exact hfetched
  · exact hfetched

theorem Dev.fetchTold_fault (d : Dev) (m : Nat) (ws : List Word) (st : CmdStage) : (d.fetchTold m ws st).core.fault = d.core.fault := by
  unfold Dev.fetchTold
  exact ite_both (P := fun x : Dev => x.core.fault = d.core.fault) (Dev.assertEvt_signals _ _).fault rfl

theorem Dev.fetchStage_unknown (d : Dev) (t : Nat) {ws : List Word} (h : cmdMasks ((ws.getD 0 0).toNat / 65536) = none) :
    d.fetchStage t ws = .done 1 0 0 := by
  unfold Dev.fetchStage
  rw [argF_opcode, h]

theorem Dev.fetchStage_reserved (d : Dev) (t : Nat) {ws : List Word} {ms : List Nat} (h : cmdMasks ((ws.getD 0 0).toNat / 65536) = some ms)
    (hr : reservedOk ws ms = false) : d.fetchStage t ws = .done 2 0 0 := by
  unfold Dev.fetchStage
  rw [argF_opcode, h]
  simp only [hr, Bool.not_false, if_true]

theorem Dev.fetchStage_ok (d : Dev) (t : Nat) {ws : List Word} {ms : List Nat} (h : cmdMasks ((ws.getD 0 0).toNat / 65536) = some ms)
    (hr : reservedOk ws ms = true) :
    d.fetchStage t ws = if forHolder ((ws.getD 0 0).toNat / 65536) = true ∧ d.holder ≠ some t then .forwarded else .ready := by
  unfold Dev.fetchStage
  rw [argF_opcode, h]
  simp only [hr, Bool.not_true, Bool.false_eq_true, if_false, Bool.and_eq_true, decide_eq_true_eq]

/-- Settles O14: under these conditions the entry is taken in the stage that `fetchStage` gives it. -/
theorem commandFetchTakesEntry : Obligations.CommandFetchTakesEntry := by
  intro s m e hcalm t0 ws op hen herr hmaster hruns hon hroom hwaits hring
  have heff := Dev.commandFetch_takes ⟨rfl, hen, herr, hmaster, hruns, hon, hroom, hwaits, hring⟩ e
  refine answers_calm (run_commandFetch m (some e) s) ?_ ?_ <;> simp only [heff]
  · rw [Dev.fetchTold_fault]
    exact State.calm_iff.1 hcalm
  · exact ⟨_, Dev.fetchTold_mbx _ _ _ _, rfl, Dev.fetchStage_unknown _ _, fun ms => Dev.fetchStage_reserved _ _, fun ms => Dev.fetchStage_ok _ _⟩

end Sys2Proof.Machine
end

section
namespace Sys2Proof.Machine

/-! ## Bytes in host memory -/

@[simp] theorem leBytes_length (k n : Nat) : (leBytes k n).length = k := by simp [leBytes]

/-- Two writes that follow each other are one. -/
theorem Dev.writeHost_append (xs ys : List Byte) : ∀ (d : Dev) (a : Nat),
    (d.writeHost a xs).writeHost (a + xs.length) ys = d.writeHost a (xs ++ ys) := by
  induction xs with
  | nil => intro d a; rfl
  | cons x xs ih =>
    intro d a
    simp only [Dev.writeHost, List.cons_append, List.length_cons, ← ih]
    rw [show a + (xs.length + 1) = a + 1 + xs.length by omega]

/-- A byte within a write to host memory. -/
theorem Dev.hostByte_within (d : Dev) (a i : Nat) {bs : List Byte} (h : i < bs.length) : (d.writeHost a bs).hostByte (a + i) = bs.getD i 0 := by
  rw [Dev.hostByte_writeHost, if_pos (by omega), Nat.add_sub_cancel_left]

/-- A byte outside of it. -/
theorem Dev.hostByte_outside (d : Dev) {a b : Nat} {bs : List Byte} (h : b < a ∨ a + bs.length ≤ b) :
    (d.writeHost a bs).hostByte b = d.hostByte b := by
  rw [Dev.hostByte_writeHost, if_neg (by omega)]

/-- An entry of the second of two lists. -/
theorem getD_append_add {α : Type} (xs ys : List α) (i : Nat) (x : α) : (xs ++ ys).getD (xs.length + i) x = ys.getD i x := by
  rw [List.getD_eq_getElem?_getD, List.getD_eq_getElem?_getD, List.getElem?_append_right (Nat.le_add_right _ _), Nat.add_sub_cancel_left]

/-- An entry of the first of them. -/
theorem getD_append_first {α : Type} (xs ys : List α) {i : Nat} (h : i < xs.length) (x : α) : (xs ++ ys).getD i x = xs.getD i x := by
  rw [List.getD_eq_getElem?_getD, List.getD_eq_getElem?_getD, List.getElem?_append_left h]

/-! ## The completion entry (R36) -/

/-- CMD_ID is the lower half of DW0. -/
theorem argF_cmdId (ws : List Word) : argF ws 0 15 0 = (ws.getD 0 0).toNat % 2 ^ 16 := by
  simp [argF, bitsNat]

/-- DW3 of a completion entry. -/
def cqDw3 (status : Nat) (phase : Bool) (c : MbxCmd) : Nat :=
  status % 2 ^ 15 * 2 ^ 17 + (if phase then 2 ^ 16 else 0) + (c.words.getD 0 0).toNat % 2 ^ 16

/-- The four words of a completion entry. -/
def cqEntry (r0 r1 : Word) (head dw3 : Nat) : List Byte := leBytes 4 r0.toNat ++ (leBytes 4 r1.toNat ++ (leBytes 4 head ++ leBytes 4 dw3))

theorem cqEntry_length (r0 r1 : Word) (head dw3 : Nat) : (cqEntry r0 r1 head dw3).length = 16 := by simp [cqEntry]

theorem cqEntry_getD (r0 r1 : Word) (head dw3 : Nat) {i : Nat} (hi : i < 4) :
    (cqEntry r0 r1 head dw3).getD i 0 = (leBytes 4 r0.toNat).getD i 0 ∧ (cqEntry r0 r1 head dw3).getD (4 + i) 0 = (leBytes 4 r1.toNat).getD i 0 ∧
      (cqEntry r0 r1 head dw3).getD (8 + i) 0 = (leBytes 4 head).getD i 0 ∧ (cqEntry r0 r1 head dw3).getD (12 + i) 0 = (leBytes 4 dw3).getD i 0 := by
  have skip : ∀ (n : Nat) (ys : List Byte) (j : Nat), (leBytes 4 n ++ ys).getD (4 + j) 0 = ys.getD j 0 := fun n ys j => by
    have := getD_append_add (leBytes 4 n) ys j 0
    rwa [leBytes_length] at this
  have first : ∀ (n : Nat) (ys : List Byte), (leBytes 4 n ++ ys).getD i 0 = (leBytes 4 n).getD i 0 := fun n ys =>
    getD_append_first _ _ (by rw [leBytes_length]; exact hi) _
  unfold cqEntry
  refine ⟨first _ _, ?_, ?_, ?_⟩
  · rw [skip, first]
  · rw [show 8 + i = 4 + (4 + i) by omega, skip, skip, first]
  · rw [show 12 + i = 4 + (4 + (4 + i)) by omega, skip, skip, skip]

/-- The slot of the completion ring that is written next. -/
def Dev.cqSlot (d : Dev) (m : Nat) : Nat :=
  d.get .hostport 0 fMBX_CQ_LO_ADDR_LO m * 16 + d.get .hostport 0 fMBX_CQ_HI_ADDR_HI m * 2 ^ 32 + 16 * (d.mbx m).cqTail

/-- The mailbox after its command `c` got a completion entry. -/
def Dev.completed (d : Dev) (m : Nat) (c : MbxCmd) : Mailbox :=
  let x := d.mbx m
  let wrap := d.cqSize m ≤ x.cqTail + 1
  { x with cmds := x.cmds.erase c, cqTail := if wrap then 0 else x.cqTail + 1, phase := if wrap then !x.phase else x.phase,
           unreturned := x.unreturned + 1 }

/-- The controller's command counts, and IDLE of the mailbox. -/
def Dev.countCmd (d : Dev) (m status : Nat) : Dev :=
  let t := d.get .hostport 0 fMBX_CFG_TARGET m
  let d := d.bump .gaffer t fGF_CMD_CNT_DONE
  (if status ≠ 0 then d.bump .gaffer t fGF_CMD_CNT_FAILED else d).mbxIdle m

theorem Dev.countCmd_frame (d : Dev) (m status : Nat) :
    (d.countCmd m status).core = d.core ∧ (d.countCmd m status).dram = d.dram ∧ (d.countCmd m status).hostMem = d.hostMem :=
  ite_both (P := fun x : Dev => (x.mbxIdle m).core = d.core ∧ (x.mbxIdle m).dram = d.dram ∧ (x.mbxIdle m).hostMem = d.hostMem)
    ⟨rfl, rfl, rfl⟩ ⟨rfl, rfl, rfl⟩

theorem Dev.Over.countCmd {s : State} {d : Dev} (h : Dev.Over s d) (m status : Nat) : Dev.Over s (d.countCmd m status) :=
  ite_both (P := fun x : Dev => Dev.Over s (x.mbxIdle m)) (((h.bump _ _ _ _ _).bump _ _ _ _ _).set _ _ _ _ _) ((h.bump _ _ _ _ _).set _ _ _ _ _)

/-- The bytes of a completion entry of the mailbox now. -/
def Dev.cqBytes (d : Dev) (m : Nat) (c : MbxCmd) (status : Nat) (r0 r1 : Word) : List Byte :=
  cqEntry r0 r1 (d.get .hostport 0 fMBX_STAT_SQ_HEAD m) (cqDw3 status (d.mbx m).phase c)

/-- A completion entry is written, and the mailbox and the counts follow. -/
def Dev.entryWritten (d : Dev) (m : Nat) (c : MbxCmd) (status : Nat) (r0 r1 : Word) : Dev :=
  ((d.writeHost (d.cqSlot m) (d.cqBytes m c status r0 r1)).setMbx m (d.completed m c)).countCmd m status

theorem Dev.Over.entryWritten {s : State} {d : Dev} (h : Dev.Over s d) (m : Nat) (c : MbxCmd) (status : Nat) (r0 r1 : Word) :
    Dev.Over s (d.entryWritten m c status r0 r1) := ((h.writeHost _ _).setMbx _ _).countCmd _ _

theorem Dev.entryWritten_mbx (d : Dev) (m : Nat) (c : MbxCmd) (status : Nat) (r0 r1 : Word) :
    (d.entryWritten m c status r0 r1).mbx m = d.completed m c := by
  obtain ⟨hcore, _, _⟩ := Dev.countCmd_frame ((d.writeHost (d.cqSlot m) (d.cqBytes m c status r0 r1)).setMbx m (d.completed m c)) m status
  exact (Dev.mbx_of_host (congrArg Core.host hcore) m).trans (Dev.setMbx_mbx _ _ _)

theorem Dev.entryWritten_hostByte (d : Dev) (m : Nat) (c : MbxCmd) (status : Nat) (r0 r1 : Word) (b : Nat) :
    (d.entryWritten m c status r0 r1).hostByte b = (d.writeHost (d.cqSlot m) (d.cqBytes m c status r0 r1)).hostByte b := by
  obtain ⟨_, _, hhost⟩ := Dev.countCmd_frame ((d.writeHost (d.cqSlot m) (d.cqBytes m c status r0 r1)).setMbx m (d.completed m c)) m status
  unfold Dev.hostByte Dev.entryWritten
  rw [hhost]
  rfl

theorem Dev.entryWritten_frame (d : Dev) (m : Nat) (c : MbxCmd) (status : Nat) (r0 r1 : Word) :
    (d.entryWritten m c status r0 r1).core.fault = d.core.fault ∧ (d.entryWritten m c status r0 r1).dram = d.dram := by
  obtain ⟨hcore, hdram, _⟩ := Dev.countCmd_frame ((d.writeHost (d.cqSlot m) (d.cqBytes m c status r0 r1)).setMbx m (d.completed m c)) m status
  unfold Dev.entryWritten
  rw [hcore, hdram]
  simp

/-- The oldest command is done, so its entry is the one written. -/
theorem Dev.commandCompletion_writes {d : Dev} {m : Nat} {c : MbxCmd} {status : Nat} {r0 r1 : Word} (hb : d.busMaster = true)
    (hc : (d.mbx m).cmds.head? = some c) (hs : c.stage = .done status r0 r1) : d.commandCompletion m = d.entryWritten m c status r0 r1 := by
  have hfind : ((d.mbx m).cmds.find? fun c => match c.stage with
      | .done .. => true
      | _ => false) = some c := by
    obtain ⟨cs, hcs⟩ := List.head?_eq_some_iff.1 hc
    rw [hcs, List.find?_cons_of_pos (by simp only [hs])]
  have hbytes : d.cqBytes m c status r0 r1 =
      (leBytes 4 r0.toNat ++ leBytes 4 r1.toNat ++ leBytes 4 (d.get .hostport 0 fMBX_STAT_SQ_HEAD m)) ++
        leBytes 4 (status % 2 ^ 15 * 2 ^ 17 + (if (d.mbx m).phase then 2 ^ 16 else 0) + argF c.words 0 15 0) := by
    rw [argF_cmdId]
    simp only [Dev.cqBytes, cqEntry, cqDw3, List.append_assoc]
  unfold Dev.entryWritten
  rw [hbytes, ← Dev.writeHost_append]
  unfold Dev.commandCompletion
  dsimp only
  split
  · rename_i h
    exact absurd (h.symm.trans hfind) (by simp)
  · rename_i c' h
    obtain rfl : c' = c := Option.some.inj (h.symm.trans hfind)
    rw [hs, hb]
    rfl

/-- Settles O15: the four words of the entry are read back byte by byte, and the completed mailbox lacks its first command. -/
theorem commandCompletionWritesEntry : Obligations.CommandCompletionWritesEntry := by
  intro s m c status r0 r1 hcalm hb hc hs x a
  have heff := Dev.commandCompletion_writes hb hc hs
  have hover : Dev.Over s (s.begin.entryWritten m.val c status r0 r1) := (Dev.Over.begin s).entryWritten _ _ _ _ _
  obtain ⟨hfault, hdram⟩ := s.begin.entryWritten_frame m.val c status r0 r1
  have hlen : (s.begin.cqBytes m.val c status r0 r1).length = 16 := cqEntry_length _ _ _ _
  have htail : (s.begin.completed m.val c).cmds = x.cmds.tail := by
    obtain ⟨cs, hcs⟩ := List.head?_eq_some_iff.1 hc
    show (s.begin.mbx m.val).cmds.erase c = (s.begin.mbx m.val).cmds.tail
    rw [hcs, List.erase_cons_head, List.tail_cons]
  have hbyte : ∀ b, (s.commit (s.begin.entryWritten m.val c status r0 r1)).begin.hostByte b =
      (s.begin.writeHost a (s.begin.cqBytes m.val c status r0 r1)).hostByte b := fun b =>
    (State.commit_hostByte hover b).trans (Dev.entryWritten_hostByte _ _ _ _ _ _ b)
  have hword : ∀ k i, k + i < 16 → (s.commit (s.begin.entryWritten m.val c status r0 r1)).begin.hostByte (a + k + i) =
      (s.begin.cqBytes m.val c status r0 r1).getD (k + i) 0 := fun k i hk => by
    rw [hbyte, Nat.add_assoc, Dev.hostByte_within _ _ _ (by omega)]
  refine answers_calm (run_commandCompletion m s) ?_ ?_ <;> simp only [heff]
  · rw [hfault]
    exact State.calm_iff.1 hcalm
  · refine ⟨?_, ?_, fun i hi => ?_, fun b hb => ?_, ?_⟩
    · rw [State.commit_mbx, Dev.entryWritten_mbx, htail]
    · rw [State.commit_mbx, Dev.entryWritten_mbx]
      rfl
    · obtain ⟨h0, h1, h2, h3⟩ := cqEntry_getD r0 r1 (s.begin.get .hostport 0 fMBX_STAT_SQ_HEAD m.val) (cqDw3 status x.phase c) hi
      have hfirst := hword 0 i (by omega)
      rw [Nat.add_zero, Nat.zero_add] at hfirst
      exact ⟨hfirst.trans h0, (hword 4 i (by omega)).trans h1, (hword 8 i (by omega)).trans h2, (hword 12 i (by omega)).trans h3⟩
    · rw [hbyte, Dev.hostByte_outside _ (by rw [hlen]; exact hb)]
    · exact State.commit_dram_same (by rw [hdram]; rfl)

end Sys2Proof.Machine
end

section
namespace Sys2Proof.Machine

/-! ## The status mirror (R39) -/

/-- A field of each entry of a list, `k` bytes each. -/
theorem flatMap_leBytes_length {α : Type} (k : Nat) (f : α → Nat) (l : List α) : (l.flatMap fun a => leBytes k (f a)).length = l.length * k := by
  induction l with
  | nil => rw [List.flatMap_nil, List.length_nil, List.length_nil, Nat.zero_mul]
  | cons a l ih => rw [List.flatMap_cons, List.length_append, leBytes_length, ih, List.length_cons, Nat.add_mul, Nat.one_mul, Nat.add_comm]

theorem Dev.mirrorBytes_length (d : Dev) (seq : Nat) : (d.mirrorBytes seq).length = 256 := by
  have hgroups := flatMap_leBytes_length 4 (fun _ => d.pgFlt 4) (List.range 4)
  have htails := flatMap_leBytes_length 2 (fun m => (d.mbx m).cqTail) (List.range 16)
  rw [List.length_range] at hgroups htails
  unfold Dev.mirrorBytes
  repeat rw [List.length_append]
  rw [hgroups, htails, List.length_replicate]
  repeat rw [leBytes_length]

/-- MIRROR_SEQ stands at byte 8 of the mirror. -/
theorem Dev.mirrorBytes_seq (d : Dev) (seq : Nat) {i : Nat} (hi : i < 4) : (d.mirrorBytes seq).getD (8 + i) 0 = (leBytes 4 seq).getD i 0 := by
  have hskip := getD_append_add (leBytes 8 d.now)
  rw [leBytes_length] at hskip
  unfold Dev.mirrorBytes
  simp only [List.append_assoc]
  rw [hskip, getD_append_first _ _ (by rw [leBytes_length]; exact hi)]

/-- The number that the next write of the mirror carries. -/
def Dev.nextSeq (d : Dev) : Nat := (d.core.host.mirrorSeq + 1) % 2 ^ 32

/-- MIRROR_SEQ advances. -/
def Dev.seqAdvanced (d : Dev) : Dev := d.modHost fun h => { h with mirrorSeq := d.nextSeq }

/-- The mirror is written at its address. -/
theorem Dev.mirrorWrite_writes {d : Dev} (hen : d.get .hostport 0 fHP_MIRROR_CTL_EN = 1) (hper : d.get .hostport 0 fHP_MIRROR_CTL_PERIOD_US ≠ 0)
    (hb : d.busMaster = true) :
    d.mirrorWrite = d.seqAdvanced.writeHost (d.get .hostport 0 fHP_MIRROR_LO_ADDR_LO * 256 + d.get .hostport 0 fHP_MIRROR_HI_ADDR_HI * 2 ^ 32)
      (d.mirrorBytes d.nextSeq) := if_pos ⟨hen, hper, hb⟩

/-- Settles O16: the mirror's 256 bytes are one write to host memory, and MIRROR_SEQ is at their byte 8. -/
theorem mirrorWriteFillsMirror : Obligations.MirrorWriteFillsMirror := by
  intro s hcalm hen hper hb a
  have heff := Dev.mirrorWrite_writes hen hper hb
  have hover : Dev.Over s (s.begin.seqAdvanced.writeHost a (s.begin.mirrorBytes s.begin.nextSeq)) := ((Dev.Over.begin s).modHost _).writeHost _ _
  have hlen := s.begin.mirrorBytes_length s.begin.nextSeq
  refine answers_calm (run_mirrorWrite s) ?_ ?_ <;> simp only [heff]
  · rw [Dev.writeHost_core]
    exact State.calm_iff.1 hcalm
  · refine ⟨?_, fun i hi => ?_, fun b hb => ?_, ?_, ?_⟩
    · rw [State.commit_core, Dev.writeHost_core]
      rfl
    · rw [State.commit_hostByte hover, Nat.add_assoc, Dev.hostByte_within _ _ _ (by omega), Dev.mirrorBytes_seq _ _ hi]
      rfl
    · rw [State.commit_hostByte hover, Dev.hostByte_outside _ (by omega)]
      rfl
    · exact State.commit_regs_same (by rw [Dev.writeHost_regs]; rfl)
    · exact State.commit_dram_same (by rw [Dev.writeHost_dram]; rfl)

/-! ## BAR2 (R40) -/

/-- A BAR2 write inside the window and the mapped capacity, with WR_EN 1, is a write of DRAM. -/
theorem Dev.bar2Write_inside {d : Dev} {off : Nat} {data : List Byte} (hd : data ≠ []) (hwin : off + data.length ≤ 2 ^ 36)
    (hlive : d.barLive = true) (hwr : d.get .hostport 0 fHP_BAR2_CTL_WR_EN = 1) (hmap : d.bar2Addr off + data.length ≤ d.mapped) :
    d.bar2Write off data = d.writeDram (d.bar2Addr off) data := by
  have hpos : 0 < data.length := List.length_pos_iff.2 hd
  have hgo : ¬ (data.isEmpty = true ∨ 2 ^ 36 < off + data.length ∨ (!d.barLive) = true) := by
    simp only [List.isEmpty_iff, hd, hlive, Bool.not_true, Bool.false_eq_true, or_false, false_or]
    omega
  unfold Dev.bar2Write
  dsimp only
  rw [if_neg hgo, hwr, if_neg (by decide), if_neg (by omega), if_neg (by omega), List.take_of_length_le (by omega)]

/-- A BAR2 write of no byte does nothing. -/
theorem Dev.bar2Write_nil (d : Dev) (off : Nat) : d.bar2Write off [] = d := if_pos (.inl rfl)

/-- The read data of a BAR2 read. -/
def Dev.bar2Answer (d : Dev) (ws : List Word) : Dev := d.modHost fun h => { h with rdata := ws, rPoison := false, rUr := false }

/-- An aligned BAR2 read inside the window and the mapped capacity, of bursts that are not poisoned, answers the words of DRAM. -/
theorem Dev.bar2Read_inside {d : Dev} {off n : Nat} (h4 : off % 4 = 0) (hn : n ≠ 0) (hwin : off + 4 * n ≤ 2 ^ 36) (hlive : d.barLive = true)
    (hmap : d.bar2Addr off + 4 * n ≤ d.mapped) (hclean : ((burstsOf (d.bar2Addr off) (4 * n)).any fun b => d.core.mem.poisoned b) = false) :
    d.bar2Read off n = d.bar2Answer ((List.range n).map fun i => BitVec.ofNat 32 (ofLe (d.readDram (d.bar2Addr off + 4 * i) 4))) := by
  have hoff : off / 4 * 4 = off := by omega
  have hgo : ¬ (n = 0 ∨ 2 ^ 36 < off + 4 * n ∨ (!d.barLive) = true) := by
    simp only [hn, hlive, Bool.not_true, Bool.false_eq_true, or_false, false_or]
    omega
  have hbad : (burstsOf (d.bar2Addr off) (4 * n)).filter (fun b => decide (64 * b < d.mapped) && d.core.mem.poisoned b) = [] := by
    rw [List.filter_eq_nil_iff]
    intro b hb hp
    exact List.any_eq_false.1 hclean b hb (Bool.and_eq_true_iff.1 hp).2
  have hwords : (List.range n).map (fun i => d.bar2Dword (d.bar2Addr off + 4 * i)) =
      (List.range n).map fun i => BitVec.ofNat 32 (ofLe (d.readDram (d.bar2Addr off + 4 * i) 4)) := by
    refine List.map_congr_left fun i hi => ?_
    have := List.mem_range.1 hi
    exact if_neg (by omega)
  unfold Dev.bar2Read
  dsimp only
  rw [hoff, if_neg hgo, hbad, hwords]
  rfl

/-- BAR2 writes store their bytes. -/
theorem answers_bar2Write {s : State} {off : Nat} {data : List Byte} (hcalm : s.calm = true) (hlive : s.begin.barLive = true)
    (hwr : s.begin.get .hostport 0 fHP_BAR2_CTL_WR_EN = 1) (hwin : off + data.length ≤ 2 ^ 36)
    (hmap : s.begin.bar2Addr off + data.length ≤ s.begin.mapped) : Answers (.bar2Write off data) s fun t =>
      (∀ i, i < data.length → t.begin.dramByte (s.begin.bar2Addr off + i) = data.getD i 0) ∧
      (∀ b, (b < s.begin.bar2Addr off ∨ s.begin.bar2Addr off + data.length ≤ b) → t.begin.dramByte b = s.begin.dramByte b) ∧
      t.hostMem = s.hostMem ∧ t.regs = s.regs := by
  have hraised := State.calm_iff.1 hcalm
  by_cases hd : data = []
  · subst hd
    have heff := s.begin.bar2Write_nil off
    refine answers_calm (run_bar2Write off [] s) ?_ ?_ <;> simp only [heff]
    · exact hraised
    · exact ⟨fun i hi => absurd hi (Nat.not_lt_zero i), fun b _ => State.commit_dramByte (Dev.Over.begin s) b, rfl, rfl⟩
  · have heff := Dev.bar2Write_inside hd hwin hlive hwr hmap
    obtain ⟨hcore, hregs, hhost, _⟩ := s.begin.writeDram_frame (s.begin.bar2Addr off) data
    have hover := (Dev.Over.begin s).writeDram (s.begin.bar2Addr off) data
    refine answers_calm (run_bar2Write off data s) ?_ ?_ <;> simp only [heff]
    · rw [hcore]
      exact hraised
    · refine ⟨fun i hi => ?_, fun b hb => ?_, ?_, ?_⟩
      · rw [State.commit_dramByte hover, Dev.dramByte_writeDram, if_pos (by omega), Nat.add_sub_cancel_left]
      · rw [State.commit_dramByte hover, Dev.dramByte_writeDram, if_neg (by omega)]
      · exact State.commit_hostMem_same (by rw [hhost]; rfl)
      · exact State.commit_regs_same (by rw [hregs]; rfl)

/-- Settles O19: inside the mapped capacity a BAR2 access is an access of DRAM at the window's address. -/
theorem bar2ReadsAndWritesDram : Obligations.Bar2ReadsAndWritesDram := by
  intro s off data n hcalm hlive a
  refine ⟨fun hwr hwin hmap => answers_bar2Write hcalm hlive hwr hwin hmap, fun h4 hn hwin hmap hclean => ?_⟩
  have heff := Dev.bar2Read_inside h4 hn hwin hlive hmap hclean
  refine answers_calm (run_bar2Read off n s) ?_ ?_ <;> simp only [heff]
  · exact State.calm_iff.1 hcalm
  · exact ⟨rfl, rfl, rfl, rfl, rfl⟩

end Sys2Proof.Machine
end

section
namespace Sys2Proof.Machine

/-! ## A mode request (R46) -/

/-- The device page's place in the block base table. -/
def deviceInfo : PageInfo := ⟨.device, 1, 0, 0, 1, 0xC9⟩

theorem pageInfo_device : pageInfo 0 = some deviceInfo := by decide

/-- DEV_MODE_REQ is written through a guarded pair. -/
theorem modeReq_guarded : (regFields .device 0x04C).isEmpty = false ∧ guardedAt .device 0x04C = true ∧
    (regFields .device (0x04C + 0x800)).isEmpty = true := by decide

/-- DEV_MODE_REQ.REQ is the low four bits. -/
theorem modeReq_field (v : Word) : fDEV_MODE_REQ_REQ.ext v = v.toNat % 16 := by
  simp [FieldRow.ext, FieldRow.width, fDEV_MODE_REQ_REQ]

/-- The device after a value stands in DEV_MODE_REQ. -/
def Dev.modeReqStored (d : Dev) (v : Word) : Dev := d.store .device 0x04C (hdrAddr 0 0x04C) v

/-- A guarded pair on DEV_MODE_REQ of an open device page is a mode request. -/
theorem Dev.busPair_modeReq {s : State} (ho : s.opens 0 = true) (mst : Nat) (v : Word) :
    s.begin.busPair mst 0x4C v = ((s.begin.modeReqStored v).requestMode (v.toNat % 16)).expirePend 0 := by
  obtain ⟨hfields, hguard, hcomp⟩ := modeReq_guarded
  have hpair := Dev.busPair_open (off := 0x04C) ho pageInfo_device (by decide) (by decide) (by decide) hfields hguard hcomp mst v
  rw [← modeReq_field]
  exact hpair

/-- Outside boot, a request that finds none waiting waits, and the admission holder's source asserts. -/
theorem Dev.requestMode_waits {d : Dev} (hfree : d.core.host.modeReq = none) (hbase : d.base ≠ 0) (req : Nat) :
    d.requestMode req = (d.modHost fun h => { h with modeReq := some req }).assertEvt 119 := by
  unfold Dev.requestMode
  rw [hfree, if_neg (by decide)]
  exact if_neg hbase

/-- DEV_MODE is another register than DEV_MODE_REQ. -/
theorem Dev.modeReqStored_base (d : Dev) (v : Word) : (d.modeReqStored v).base = d.base :=
  congrArg fDEV_MODE_BASE.ext (d.reg_setReg_other (by decide) _)

/-- Settles O17: the pair reaches `requestMode`, which with none waiting records the request and asserts source 119. -/
theorem modeRequestWaits : Obligations.ModeRequestWaits := by
  intro s mst v ho hfree hbase
  have o := State.opens_elim ho
  have hsig := ((s.begin.modeReqStored v).modHost fun h => { h with modeReq := some (v.toNat % 16) }).assertEvt_signals 119
  have heff : s.begin.busPair mst.val 0x4C v =
      ((s.begin.modeReqStored v).modHost fun h => { h with modeReq := some (v.toNat % 16) }).assertEvt 119 := by
    rw [Dev.busPair_modeReq ho, Dev.requestMode_waits hfree (by rw [Dev.modeReqStored_base]; exact hbase), Dev.expirePend_none]
    rw [hsig.host]
    exact o.noPair
  refine answers_calm (run_modeRequest mst v s) ?_ ?_ <;> simp only [heff]
  · rw [hsig.fault]
    exact o.calm
  · exact ⟨congrArg HostPort.modeReq hsig.host, Dev.assertEvt_level _ _⟩

end Sys2Proof.Machine
end

section
namespace Sys2Proof.Machine

/-! ## Updates beside the stream slots -/

/-- `d'` has the slots, the host port, the fault collector and the take of `d`. -/
structure Dev.Beside (d d' : Dev) : Prop where
  slots : d'.core.slots = d.core.slots
  host : d'.core.host = d.core.host
  fault : d'.core.fault = d.core.fault
  take : d'.core.take = d.core.take

theorem Dev.Beside.refl (d : Dev) : Dev.Beside d d := ⟨rfl, rfl, rfl, rfl⟩
theorem Dev.Beside.trans {a b c : Dev} (h : Dev.Beside a b) (g : Dev.Beside b c) : Dev.Beside a c :=
  ⟨g.slots.trans h.slots, g.host.trans h.host, g.fault.trans h.fault, g.take.trans h.take⟩
theorem Dev.Beside.slot {d d' : Dev} (h : Dev.Beside d d') (n : Nat) : d'.slot n = d.slot n := by simp only [Dev.slot, h.slots]
theorem Dev.Beside.ite {p : Prop} [Decidable p] {d a b : Dev} (ha : Dev.Beside d a) (hb : Dev.Beside d b) :
    Dev.Beside d (if p then a else b) := ite_both ha hb
theorem Dev.Beside.foldl {β : Type} (f : Dev → β → Dev) (hf : ∀ d b, Dev.Beside d (f d b)) (l : List β) (d : Dev) :
    Dev.Beside d (l.foldl f d) := List.foldlRecOn l f (.refl d) fun e he b _ => he.trans (hf e b)

theorem Dev.Signals.beside {d d' : Dev} (h : Dev.Signals d d') : Dev.Beside d d' :=
  ⟨h.slots, h.host, h.fault, by obtain ⟨_, _, _, e⟩ := h.core; rw [e]⟩

theorem Dev.Beside.set (d : Dev) (k : PageKind) (i : Nat) (r : FieldRow) (v n : Nat) : Dev.Beside d (d.set k i r v n) := ⟨rfl, rfl, rfl, rfl⟩
theorem Dev.Beside.bump (d : Dev) (k : PageKind) (i : Nat) (r : FieldRow) (b n : Nat) : Dev.Beside d (d.bump k i r b n) := ⟨rfl, rfl, rfl, rfl⟩
theorem Dev.Beside.statBit (d : Dev) (k : PageKind) (i b : Nat) : Dev.Beside d (d.statBit k i b) := ⟨rfl, rfl, rfl, rfl⟩
theorem Dev.Beside.setRec (d : Dev) (n : Nat) (x : RecStream) : Dev.Beside d (d.setRec n x) := ⟨rfl, rfl, rfl, rfl⟩
theorem Dev.Beside.setDec (d : Dev) (n : Nat) (x : DecStream) : Dev.Beside d (d.setDec n x) := ⟨rfl, rfl, rfl, rfl⟩
theorem Dev.Beside.setRing (d : Dev) (n : Nat) (x : Ring) : Dev.Beside d (d.setRing n x) := ⟨rfl, rfl, rfl, rfl⟩
theorem Dev.Beside.setMag (d : Dev) (n : Nat) (x : MagPort) : Dev.Beside d (d.setMag n x) := ⟨rfl, rfl, rfl, rfl⟩
theorem Dev.Beside.setCullet (d : Dev) (c : Cullet) : Dev.Beside d (d.setCullet c) := ⟨rfl, rfl, rfl, rfl⟩

theorem Dev.unpark_beside (d : Dev) (n ds : Nat) : Dev.Beside d (d.unpark n ds) := by
  unfold Dev.unpark Dev.enterWheel
  exact .ite (.ite ⟨rfl, rfl, rfl, rfl⟩ (.ite ⟨rfl, rfl, rfl, rfl⟩ ⟨rfl, rfl, rfl, rfl⟩)) (.refl d)

theorem Dev.recomputeDs_beside (d : Dev) (m : Nat) : Dev.Beside d (d.recomputeDs m) := by
  unfold Dev.recomputeDs
  exact .foldl _ (fun e _ => .ite ((Dev.Beside.setRec e _ _).trans (Dev.unpark_beside _ _ _)) (.setRec e _ _)) _ d

theorem Dev.refreshShort_beside (d : Dev) (m : Nat) : Dev.Beside d (d.refreshShort m) := by
  unfold Dev.refreshShort
  have told : ∀ (e : Dev) (b : Bool), Dev.Beside e (if b = true then (e.statBit .marver0 0 4).assertEvt 113 else e) := fun e b =>
    .ite ((Dev.Beside.statBit e _ _ _).trans (Dev.assertEvt_signals _ _).beside) (.refl e)
  exact .ite (.refl d) (((Dev.Beside.set d _ _ _ _ _).trans (.setMag _ _ _)).trans (told _ _))

theorem Dev.setTakeState_beside (d : Dev) (k : Nat) : Dev.Beside d (d.setTakeState k) :=
  .ite (.refl d) ((Dev.Beside.set d _ _ _ _ _).trans (.statBit _ _ _ _))

theorem Dev.refreshArmed_beside (d : Dev) : Dev.Beside d d.refreshArmed :=
  .ite (.refl d) (.ite (d.setTakeState_beside 1) (.ite (d.setTakeState_beside _) (.refl d)))

theorem Dev.grantQuota_beside {d e : Dev} {tag n : Nat} (h : d.grantQuota tag n = some e) : Dev.Beside d e := by
  unfold Dev.grantQuota at h
  split at h
  · cases h
    exact .setCullet _ _
  · cases h

theorem Dev.allocFail_beside (d : Dev) (cls : Nat) (large : Bool) : Dev.Beside d (d.allocFail cls large) := ⟨rfl, rfl, rfl, rfl⟩

theorem Dev.allocChunk_beside (d : Dev) (tag cls : Nat) (large : Bool) : Dev.Beside d (d.allocChunk tag cls large).1 := by
  unfold Dev.allocChunk
  refine ite_both (P := fun r : Dev × Option Nat => Dev.Beside d r.1) ?_ (d.allocFail_beside cls large)
  dsimp only
  split
  · exact d.allocFail_beside cls large
  · exact .setCullet _ _

end Sys2Proof.Machine
end

section
namespace Sys2Proof.Machine

/-! ## Commands that a mailbox holds ready -/

/-- A mailbox's oldest ready command of the opcode is carried out; where nothing is raised, its writes are all that happens. -/
theorem answers_withCmd {i : Instr} {s : State} {m op : Nat} {f : Dev → MbxCmd → Dev} {c : MbxCmd} {e : Dev} {P : State → Prop}
    (he : exec i s = s.run fun d => d.withCmd m op f) (hc : s.begin.readyCmd m op = some c) (hf : f s.begin c = e)
    (hr : e.core.fault.raised = []) (hP : P (s.commit e)) : Answers i s P := by
  have heff : s.begin.withCmd m op f = e := by
    rw [Dev.withCmd, hc]
    exact hf
  refine answers_calm he ?_ ?_ <;> simp only [heff]
  · exact hr
  · exact hP

/-- The command is done in the next state, where its effect left the mailboxes alone before it finished. -/
theorem State.commit_done {s : State} {e : Dev} {m op : Nat} {c : MbxCmd} (hc : s.begin.readyCmd m op = some c)
    (hh : e.core.host = s.core.host) (st : Nat) (r0 r1 : Word) : (s.commit (e.finishCmd m c.id st r0 r1)).done m c st r0 r1 :=
  Dev.finishCmd_done e m c (by rw [Dev.mbx_of_host (d := s.begin) hh]; exact Dev.readyCmd_mem hc) st r0 r1

/-! ## A stream that drains (Table 3.3) -/

/-- The slot of a stream that drains. -/
def Slot.drained (sl : Slot) (reason : Nat) : Slot := { sl with state := .draining, reason := reason, closePend := none }

theorem Dev.drainStream_drains {d : Dev} {n : Nat} (h : (d.slot n).state = .running ∨ (d.slot n).state = .armed) (reason : Nat) :
    Dev.Beside (d.setSlot n ((d.slot n).drained reason)) (d.drainStream n reason) := by
  unfold Dev.drainStream
  rw [if_pos h]
  dsimp only
  split
  · exact (Dev.Beside.setRec _ _ _).trans (Dev.assertEvt_signals _ _).beside
  · exact .refl _

theorem Dev.drainStream_none {d : Dev} {n : Nat} (h : ¬ ((d.slot n).state = .running ∨ (d.slot n).state = .armed)) (reason : Nat) :
    d.drainStream n reason = d := if_neg h

/-- What a stream that drains leaves alone. -/
theorem Dev.drainStream_frame (d : Dev) (n reason : Nat) : (d.drainStream n reason).core.host = d.core.host ∧
    (d.drainStream n reason).core.fault = d.core.fault ∧ (d.drainStream n reason).core.take = d.core.take := by
  by_cases h : (d.slot n).state = .running ∨ (d.slot n).state = .armed
  · obtain ⟨_, hhost, hfault, htake⟩ := Dev.drainStream_drains h reason
    exact ⟨hhost, hfault, htake⟩
  · rw [Dev.drainStream_none h]
    exact ⟨rfl, rfl, rfl⟩

theorem Dev.drainStream_slot {d : Dev} {n : Nat} (h : (d.slot n).state = .running ∨ (d.slot n).state = .armed) (reason : Nat) :
    (d.drainStream n reason).slot n = (d.slot n).drained reason := by
  rw [(Dev.drainStream_drains h reason).slot, Dev.setSlot_slot]

theorem Dev.drainStream_slot_other (d : Dev) {n k : Nat} (h : k ≠ n) (reason : Nat) : (d.drainStream n reason).slot k = d.slot k := by
  by_cases hs : (d.slot n).state = .running ∨ (d.slot n).state = .armed
  · rw [(Dev.drainStream_drains hs reason).slot, Dev.setSlot_slot_other _ h]
  · rw [Dev.drainStream_none hs]

/-- An order to close drains a RUNNING stream that is not a proxy. -/
theorem Dev.closeStream_running {d : Dev} {n : Nat} (hn : n < 1280) (h : (d.slot n).state = .running) (reason : Nat) :
    Dev.Beside (d.setSlot n ((d.slot n).drained reason)) (d.closeStream n reason) := by
  unfold Dev.closeStream Dev.closeNow
  simp only [if_neg (show ¬ 1280 ≤ n by omega), h]
  exact .ite (Dev.drainStream_drains (.inl h) reason) (.refl _)

/-! ## A stream that ends -/

theorem Dev.releaseHold_slots (d : Dev) (h tag : Nat) : (d.releaseHold h tag).core.slots = d.core.slots :=
  ite_both (P := fun x : Dev => x.core.slots = d.core.slots)
    (ite_both (P := fun x : Dev => x.core.slots = d.core.slots) rfl (Dev.assertEvt_signals _ _).slots) rfl

theorem Dev.releaseTag_slots (d : Dev) (tag : Nat) : (d.releaseTag tag).core.slots = d.core.slots :=
  List.foldlRecOn _ _ (motive := fun x : Dev => x.core.slots = d.core.slots) rfl fun e he _ _ => (e.releaseHold_slots _ _).trans he

theorem Dev.dropDecJobs_slots (d : Dev) (n : Nat) : (d.dropDecJobs n).core.slots = d.core.slots := by
  refine List.foldlRecOn _ _ (motive := fun x : Dev => x.core.slots = d.core.slots) rfl fun e he b _ => ?_
  dsimp only
  split
  · split
    · exact he
    · exact he
  · exact he

theorem Dev.dropQuota_slots (d : Dev) (tag : Nat) : (d.dropQuota tag).core.slots = d.core.slots := rfl

theorem Dev.freeDecode_slots (d : Dev) (n : Nat) : (d.freeDecode n).core.slots = d.core.slots := by
  unfold Dev.freeDecode
  split
  · rfl
  · rw [Dev.setDec_core_slots, Dev.dropQuota_slots, Dev.releaseTag_slots, Dev.dropDecJobs_slots]

/-- What a decode or proxy stream holds is no slot. -/
theorem Dev.freeSlot_slots (d : Dev) {n : Nat} (hn : 1024 ≤ n) : (d.freeSlot n).core.slots = d.core.slots := by
  unfold Dev.freeSlot
  rw [if_neg (by omega)]
  refine ite_both (P := fun x : Dev => x.core.slots = d.core.slots) (d.freeDecode_slots n) ?_
  split <;> rfl

/-- A live decode or proxy stream that closes. -/
theorem Dev.endStream_closed {d : Dev} {n : Nat} (hn : 1024 ≤ n) (h : (d.slot n).state.live = true) (reason : Nat) :
    (d.endStream n .closed reason).slot n = { d.slot n with state := .closed, reason := reason, closePend := none, resv := Resv.none } := by
  unfold Dev.endStream
  dsimp only
  simp only [h, Bool.not_true, Bool.false_eq_true, if_false, reduceCtorEq]
  rw [(Dev.refreshArmed_beside _).slot]
  exact (congrArg (tget Slot.idle · n) (Dev.freeSlot_slots _ hn)).trans (d.setSlot_slot n _)

/-- An order to close ends an ARMED decode or proxy stream. -/
theorem Dev.closeStream_armed {d : Dev} {n : Nat} (hn : 1024 ≤ n) (h : (d.slot n).state = .armed)
    (hp : 1280 ≤ n → (d.proxy? n).isSome = true) (reason : Nat) : d.closeStream n reason = d.endStream n .closed reason := by
  unfold Dev.closeStream
  split
  · rename_i h1280
    obtain ⟨x, hx⟩ := Option.isSome_iff_exists.1 (hp h1280)
    unfold Dev.proxyClose
    rw [hx]
    dsimp only
    rw [if_pos h]
  · unfold Dev.closeNow
    simp only [h]
    exact if_neg (by omega)

/-- A stream that returns to IDLE leaves its slot at rest but for the check code. -/
theorem Dev.backToIdle_slot (d : Dev) (n check : Nat) : (d.backToIdle n check).slot n = { Slot.idle with check := check } := by
  unfold Dev.backToIdle
  dsimp only
  rw [(Dev.refreshArmed_beside _).slot]
  exact Dev.setSlot_slot _ n _

/-! ## DISARM, RELEASE and CLOSE (R52, Table 12.3) -/

theorem Dev.cmdDisarm_armed {d : Dev} {c : MbxCmd} (hn : argF c.words 2 10 0 < 1536) (h : (d.slot (argF c.words 2 10 0)).state = .armed)
    (ht : (d.slot (argF c.words 2 10 0)).inTake = false) (m : Nat) :
    d.cmdDisarm m c = (d.backToIdle (argF c.words 2 10 0) 0).finishCmd m c.id 0 := by
  unfold Dev.cmdDisarm
  simp only [if_neg (Nat.not_le.2 hn), h, ht, Bool.not_false, and_self, if_true]

theorem Dev.cmdRelease_ended {d : Dev} {c : MbxCmd} (hn : argF c.words 2 10 0 < 1536) (h : (d.slot (argF c.words 2 10 0)).state.live = false)
    (m : Nat) : d.cmdRelease m c = (d.releaseSlot (argF c.words 2 10 0)).finishCmd m c.id 0 := by
  unfold Dev.cmdRelease
  simp only [if_neg (Nat.not_le.2 hn), h, Bool.false_eq_true, if_false]

theorem Dev.cmdClose_live {d : Dev} {c : MbxCmd} (hn : argF c.words 2 10 0 < 1536) (h : (d.slot (argF c.words 2 10 0)).state.live = true)
    (m : Nat) : d.cmdClose m c = (d.closeStream (argF c.words 2 10 0) 2).finishCmd m c.id 0 := by
  unfold Dev.cmdClose
  simp only [if_neg (Nat.not_le.2 hn), h, if_true]

theorem Dev.releaseSlot_slot (d : Dev) (n : Nat) : (d.releaseSlot n).slot n = Slot.idle := tget_tset_same _ _ _ _
theorem Dev.releaseSlot_slot_other (d : Dev) {n k : Nat} (h : k ≠ n) : (d.releaseSlot n).slot k = d.slot k := tget_tset_other _ _ h _

/-- Settles O26: each command is its operation on the slot, and what the operation does besides touches no slot. -/
theorem streamsEndOnCommand : Obligations.StreamsEndOnCommand := by
  intro s m c hcalm n
  have hraised := State.calm_iff.1 hcalm
  refine ⟨fun hc hn harmed htake hcf => ?_, fun hc hn hlive => ?_, fun hc hn hrun => ?_, fun hc h1024 hn harmed hproxy hcf => ?_⟩
  · refine answers_withCmd (run_disarm m s) hc (Dev.cmdDisarm_armed hn harmed htake m.val) (State.calmFor_iff.1 hcf) ?_
    exact Dev.backToIdle_slot _ n 0
  · refine answers_withCmd (run_release m s) hc (Dev.cmdRelease_ended hn hlive m.val) hraised ⟨State.commit_done hc rfl 0 0 0, ?_, fun k hk => ?_⟩
    · exact Dev.releaseSlot_slot _ n
    · exact Dev.releaseSlot_slot_other _ hk
  · have hclose := Dev.closeStream_running hn hrun 2
    have hslot : (s.begin.closeStream n 2).slot n = (s.begin.slot n).drained 2 := by rw [hclose.slot, Dev.setSlot_slot]
    refine answers_withCmd (run_close m s) hc (Dev.cmdClose_live (Nat.lt_trans hn (by decide)) (by rw [hrun]; rfl) m.val) ?_
      ⟨State.commit_done hc hclose.host 0 0 0, ?_, ?_⟩
    · rw [Dev.finishCmd_core_fault, hclose.fault]
      exact hraised
    · exact congrArg Slot.state hslot
    · exact congrArg Slot.reason hslot
  · have hlive : (s.begin.slot n).state.live = true := by rw [harmed]; rfl
    have hslot := Dev.endStream_closed h1024 hlive 2
    rw [← Dev.closeStream_armed h1024 harmed hproxy] at hslot
    exact answers_withCmd (run_close m s) hc (Dev.cmdClose_live hn hlive m.val) (State.calmFor_iff.1 hcf)
      ⟨congrArg Slot.state hslot, congrArg Slot.reason hslot⟩

end Sys2Proof.Machine
end

section
namespace Sys2Proof.Machine

/-! ## A take begins (R56) -/

/-- A stream joins the take `id`. -/
def Dev.joinTake (d : Dev) (id n : Nat) : Dev :=
  let e := d.setSlot n { d.slot n with inTake := true }
  match e.rec? n with
  | some x => e.setRec n { x with takeId := id }
  | none => e

/-- The number of the next take. -/
def Dev.nextTakeId (d : Dev) : Nat :=
  let id := (d.get .device 0 fDEV_TAKE_TAKE_ID + 1) % 65536
  if id = 0 then 1 else id

/-- The device with a take of its own. -/
def Dev.setTake (d : Dev) (k : Option Take) : Dev := { d with core := { d.core with take := k } }

theorem Dev.joinTake_beside (d : Dev) (id n : Nat) : Dev.Beside (d.setSlot n { d.slot n with inTake := true }) (d.joinTake id n) := by
  unfold Dev.joinTake
  dsimp only
  split
  · exact .setRec _ _ _
  · exact .refl _

/-- What streams that join a take leave alone, and how their slots stand: each keeps its state, and none leaves the take. -/
structure Dev.Joined (d d' : Dev) : Prop where
  host : d'.core.host = d.core.host
  fault : d'.core.fault = d.core.fault
  take : d'.core.take = d.core.take
  state : ∀ k, (d'.slot k).state = (d.slot k).state
  stays : ∀ k, (d.slot k).inTake = true → (d'.slot k).inTake = true

theorem Dev.joinTake_joined (d : Dev) (id n : Nat) : Dev.Joined d (d.joinTake id n) := by
  have h := d.joinTake_beside id n
  have hslot : ∀ k, (d.joinTake id n).slot k = if k = n then { d.slot n with inTake := true } else d.slot k := by
    intro k
    rw [h.slot]
    split
    · rename_i hk
      rw [hk, Dev.setSlot_slot]
    · rename_i hk
      exact Dev.setSlot_slot_other _ hk _
  refine ⟨h.host, h.fault, h.take, fun k => ?_, fun k hk => ?_⟩ <;> rw [hslot]
  · split
    · rename_i hk
      rw [hk]
    · rfl
  · split
    · rfl
    · exact hk

theorem Dev.joinTake_inTake (d : Dev) (id n : Nat) : ((d.joinTake id n).slot n).inTake = true := by
  rw [(d.joinTake_beside id n).slot, Dev.setSlot_slot]

/-- Every stream of the list is in the take, and the others are as they were. -/
theorem Dev.joinAll_joined (id : Nat) (l : List Nat) : ∀ d : Dev, Dev.Joined d (l.foldl (fun d n => d.joinTake id n) d) ∧
    ∀ n ∈ l, ((l.foldl (fun d n => d.joinTake id n) d).slot n).inTake = true := by
  induction l with
  | nil => exact fun d => ⟨⟨rfl, rfl, rfl, fun _ => rfl, fun _ h => h⟩, fun n hn => absurd hn List.not_mem_nil⟩
  | cons a l ih =>
    intro d
    have hj := d.joinTake_joined id a
    obtain ⟨hrest, hin⟩ := ih (d.joinTake id a)
    refine ⟨⟨hrest.host.trans hj.host, hrest.fault.trans hj.fault, hrest.take.trans hj.take, fun k => (hrest.state k).trans (hj.state k),
      fun k hk => hrest.stays k (hj.stays k hk)⟩, fun n hn => ?_⟩
    rcases List.mem_cons.1 hn with rfl | hn
    · exact hrest.stays n (d.joinTake_inTake id n)
    · exact hin n hn

/-- While one of its streams is live the take does not end. -/
theorem Dev.takeEnd_live {d : Dev} {k : Take} (hk : d.core.take = some k) {n : Nat} (hn : n ∈ k.slots) (hlive : (d.slot n).state.live = true) :
    d.takeEnd = d := by
  have hover : d.takeOver = false := by
    unfold Dev.takeOver
    rw [hk]
    exact List.all_eq_false.2 ⟨n, hn, by simp [hlive]⟩
  unfold Dev.takeEnd
  rw [hk]
  simp [hover]

/-- The ARMED record streams. -/
def Dev.armedRecs (d : Dev) : List Nat := (d.core.slots.filter fun p => decide (p.1 < 1024) && decide (p.2.state = .armed)).map (·.1)

/-- A take of the streams `ok` begins: they join it, and DEV_TAKE shows its number, how many they are, and TAKE_STATE 2. -/
def Dev.takeBegun (d : Dev) (tStart : Nat) (ok : List Nat) : Dev :=
  let e := ok.foldl (fun e n => e.joinTake d.nextTakeId n) (d.setTake (some ⟨d.nextTakeId, tStart, none, ok⟩))
  ((e.set .device 0 fDEV_TAKE_TAKE_ID d.nextTakeId).set .device 0 fDEV_TAKE_STREAMS ok.length).setTakeState 2

/-- What the beginning of a take leaves alone, and the take itself. -/
structure Dev.Begun (tStart : Nat) (ok : List Nat) (d d' : Dev) : Prop where
  host : d'.core.host = d.core.host
  fault : d'.core.fault = d.core.fault
  take : d'.core.take = some ⟨d.nextTakeId, tStart, none, ok⟩
  state : ∀ k, (d'.slot k).state = (d.slot k).state
  inTake : ∀ n ∈ ok, (d'.slot n).inTake = true

theorem Dev.takeBegun_begun (d : Dev) (tStart : Nat) (ok : List Nat) : Dev.Begun tStart ok d (d.takeBegun tStart ok) := by
  unfold Dev.takeBegun
  obtain ⟨hj, hin⟩ := Dev.joinAll_joined d.nextTakeId ok (d.setTake (some ⟨d.nextTakeId, tStart, none, ok⟩))
  generalize ok.foldl (fun e n => e.joinTake d.nextTakeId n) (d.setTake (some ⟨d.nextTakeId, tStart, none, ok⟩)) = e at hj hin
  have hshown := ((Dev.Beside.set e .device 0 fDEV_TAKE_TAKE_ID d.nextTakeId 0).trans (.set _ .device 0 fDEV_TAKE_STREAMS ok.length 0)).trans
    (Dev.setTakeState_beside _ 2)
  exact ⟨hshown.host.trans hj.host, hshown.fault.trans hj.fault, hshown.take.trans hj.take, fun k => (congrArg Slot.state (hshown.slot k)).trans (hj.state k),
    fun n hn => (congrArg Slot.inTake (hshown.slot n)).trans (hin n hn)⟩

/-- With every recheck passed, TAKE_START begins the take of all ARMED record streams, and it goes on while one of them is live. -/
theorem Dev.takeStart_begins {d : Dev} (hok : ∀ n ∈ d.armedRecs, d.recheck n = 0) {n : Nat} (hn : n ∈ d.armedRecs)
    (hlive : (d.slot n).state.live = true) (tStart : Nat) (allOrNone : Bool) :
    d.takeStart tStart allOrNone = (d.takeBegun tStart d.armedRecs, 0) := by
  have hpass : (d.armedRecs.map fun n => (n, d.recheck n)).find? (fun p => decide (p.2 ≠ 0)) = none := by
    simpa [List.find?_eq_none] using hok
  have hb := d.takeBegun_begun tStart d.armedRecs
  have hend : (d.takeBegun tStart d.armedRecs).takeEnd = d.takeBegun tStart d.armedRecs :=
    Dev.takeEnd_live hb.take hn (by rw [hb.state]; exact hlive)
  unfold Dev.armedRecs at hpass
  unfold Dev.takeStart
  dsimp only
  rw [hpass]
  exact Prod.ext hend rfl

theorem Dev.cmdTakeStart_begins {d : Dev} {c : MbxCmd} (hruns : d.takeRuns = false) (hsafe : d.safeHold = false)
    (hbase : d.base = 2 ∨ d.base = 3 ∨ d.base = 5) {e : Dev} (he : d.takeStart (arg64 c.words 2) (argF c.words 4 0 0 = 1) = (e, 0)) (m : Nat) :
    d.cmdTakeStart m c = e.finishCmd m c.id 0 (BitVec.ofNat 32 (e.get .device 0 fDEV_TAKE_TAKE_ID)) := by
  unfold Dev.cmdTakeStart
  rw [if_neg (by simp [hruns, hsafe, hbase]), he]
  rfl

/-! ## The stop time (R57) -/

/-- The streams of the list drain. -/
theorem Dev.drainAll (reason : Nat) (l : List Nat) : ∀ d : Dev, (l.foldl (fun d n => d.drainStream n reason) d).core.host = d.core.host ∧
    (l.foldl (fun d n => d.drainStream n reason) d).core.fault = d.core.fault ∧
    (l.foldl (fun d n => d.drainStream n reason) d).core.take = d.core.take := by
  intro d
  refine List.foldlRecOn l _ (motive := fun e : Dev => e.core.host = d.core.host ∧ e.core.fault = d.core.fault ∧ e.core.take = d.core.take)
    ⟨rfl, rfl, rfl⟩ fun e he n _ => ?_
  obtain ⟨hhost, hfault, htake⟩ := e.drainStream_frame n reason
  exact ⟨hhost.trans he.1, hfault.trans he.2.1, htake.trans he.2.2⟩

/-- A stream that drains already, for this reason, still does when the others drain. -/
theorem Dev.drainAll_draining (reason n : Nat) (l : List Nat) (d : Dev) (h : (d.slot n).state = .draining ∧ (d.slot n).reason = reason) :
    ((l.foldl (fun d n => d.drainStream n reason) d).slot n).state = .draining ∧
    ((l.foldl (fun d n => d.drainStream n reason) d).slot n).reason = reason := by
  refine List.foldlRecOn l _ (motive := fun e : Dev => (e.slot n).state = .draining ∧ (e.slot n).reason = reason) h fun e he k _ => ?_
  by_cases hk : n = k
  · subst hk
    rw [Dev.drainStream_none (by rw [he.1]; decide)]
    exact he
  · rw [e.drainStream_slot_other hk]
    exact he

/-- Every stream of the list that has not ended drains. -/
theorem Dev.drainAll_slot (reason n : Nat) (l : List Nat) (hn : n ∈ l) : ∀ d : Dev, ((d.slot n).state = .running ∨ (d.slot n).state = .armed) →
    ((l.foldl (fun d n => d.drainStream n reason) d).slot n).state = .draining ∧
    ((l.foldl (fun d n => d.drainStream n reason) d).slot n).reason = reason := by
  induction l with
  | nil => exact absurd hn List.not_mem_nil
  | cons a l ih =>
    intro d h
    by_cases ha : n = a
    · subst ha
      refine Dev.drainAll_draining reason n l (d.drainStream n reason) ?_
      rw [Dev.drainStream_slot h]
      exact ⟨rfl, rfl⟩
    · refine ih ((List.mem_cons.1 hn).resolve_left ha) (d.drainStream a reason) ?_
      rw [d.drainStream_slot_other ha]
      exact h

theorem Dev.takeDrain_frame (d : Dev) : d.takeDrain.core.host = d.core.host ∧ d.takeDrain.core.fault = d.core.fault ∧
    d.takeDrain.core.take = d.core.take := by
  unfold Dev.takeDrain
  split
  · split
    · split
      · exact Dev.drainAll 1 _ d
      · exact ⟨rfl, rfl, rfl⟩
    · exact ⟨rfl, rfl, rfl⟩
  · exact ⟨rfl, rfl, rfl⟩

/-- The stop time has come and no exchange runs: the streams of the take drain. -/
theorem Dev.takeDrain_due {d : Dev} {k : Take} {ts : Nat} (hk : d.core.take = some k) (hts : k.tStop = some ts) (hnow : ts ≤ d.now)
    (hx : d.core.exchange = none) : d.takeDrain = k.slots.foldl (fun d n => d.drainStream n 1) d := by
  unfold Dev.takeDrain
  rw [hk]
  dsimp only
  rw [hts]
  exact if_pos ⟨hnow, by simp [Dev.exchanging, hx]⟩

theorem Dev.cmdTakeStop_runs {d : Dev} {c : MbxCmd} {k : Take} (hs : d.get .device 0 fDEV_TAKE_TAKE_STATE = 2) (hk : d.core.take = some k) (m : Nat) :
    d.cmdTakeStop m c = (((d.setTake (some { k with tStop := some (arg64 c.words 2) })).setTakeState 3).takeDrain).finishCmd m c.id 0
      (BitVec.ofNat 32 (d.get .device 0 fDEV_TAKE_TAKE_ID)) := by
  unfold Dev.cmdTakeStop Dev.takeStop
  rw [if_pos hs, hk]
  rfl

/-- Settles O27: the streams join the take, TAKE_STOP writes its stop time, and at that time each of them drains. -/
theorem takesBeginAndEnd : Obligations.TakesBeginAndEnd := by
  intro s m c hcalm armed
  have hraised := State.calm_iff.1 hcalm
  refine ⟨fun hc hruns hsafe hbase hne hok => ?_, fun k hc hstate hk => ?_, fun k ts n hk hts hnow hx hn hst => ?_⟩
  · obtain ⟨n, hn⟩ := List.exists_mem_of_ne_nil armed hne
    have hlive : (s.begin.slot n).state.live = true := by rw [(hok n hn).2]; rfl
    have hstart := Dev.takeStart_begins (d := s.begin) (fun n hn => (hok n hn).1) hn hlive (arg64 c.words 2) (argF c.words 4 0 0 = 1)
    have hb := s.begin.takeBegun_begun (arg64 c.words 2) armed
    refine answers_withCmd (run_takeStart m s) hc (Dev.cmdTakeStart_begins hruns hsafe hbase hstart m.val) ?_
      ⟨_, hb.take, rfl, rfl, rfl, fun n hn => ⟨hb.inTake n hn, (hb.state n).trans (hok n hn).2⟩⟩
    rw [Dev.finishCmd_core_fault]
    exact (congrArg FaultSt.raised hb.fault).trans hraised
  · have hstate3 := (s.begin.setTake (some { k with tStop := some (arg64 c.words 2) })).setTakeState_beside 3
    obtain ⟨hhost, hfault, htake⟩ := ((s.begin.setTake (some { k with tStop := some (arg64 c.words 2) })).setTakeState 3).takeDrain_frame
    refine answers_withCmd (run_takeStop m s) hc (Dev.cmdTakeStop_runs hstate hk m.val) ?_
      ⟨State.commit_done hc (hhost.trans hstate3.host) 0 _ 0, htake.trans hstate3.take⟩
    rw [Dev.finishCmd_core_fault, hfault, hstate3.fault]
    exact hraised
  · have hdue := Dev.takeDrain_due (d := s.begin) hk hts hnow hx
    obtain ⟨_, hfault, htake⟩ := Dev.drainAll 1 k.slots s.begin
    have hslot := Dev.drainAll_slot 1 n k.slots hn s.begin hst
    have hend : s.begin.takeDrain.takeEnd = k.slots.foldl (fun d n => d.drainStream n 1) s.begin := by
      rw [hdue]
      exact Dev.takeEnd_live (htake.trans hk) hn (by rw [hslot.1]; rfl)
    refine answers_calm (run_takeStopTime s) ?_ ?_ <;> simp only [hend]
    · rw [hfault]
      exact hraised
    · exact hslot

end Sys2Proof.Machine
end

section
namespace Sys2Proof.Machine

/-! ## An arm that is admitted (R53) -/

/-- From `d` to `d'` slot `n` was armed with a priority, and the host port and the fault collector were left alone. -/
structure Dev.Arms (n prio : Nat) (d d' : Dev) : Prop where
  state : (d'.slot n).state = .armed
  prio : (d'.slot n).prio = prio
  host : d'.core.host = d.core.host
  fault : d'.core.fault = d.core.fault

theorem Dev.Arms.beside {n prio : Nat} {a b c : Dev} (h : Dev.Arms n prio a b) (g : Dev.Beside b c) : Dev.Arms n prio a c :=
  ⟨(congrArg Slot.state (g.slot n)).trans h.state, (congrArg Slot.prio (g.slot n)).trans h.prio, g.host.trans h.host, g.fault.trans h.fault⟩

theorem Dev.armSlot_arms {d e : Dev} (h : Dev.Beside d e) (n prio ctl : Nat) (v : Resv) : Dev.Arms n prio d (e.armSlot n prio ctl v) := by
  exact ⟨congrArg Slot.state (Dev.setSlot_slot e n _), congrArg Slot.prio (Dev.setSlot_slot e n _), h.host, h.fault⟩

/-- What an arm answers: with check code 0 it has armed its slot. -/
def Dev.ArmsIfPassed (n prio : Nat) (d : Dev) (r : Dev × Nat) : Prop := r.2 = 0 → Dev.Arms n prio d r.1

theorem Dev.refuseArm_armsIfPassed (n prio k : Nat) (d e : Dev) {code : Nat} (hcode : code ≠ 0) :
    Dev.ArmsIfPassed n prio d (e.refuseArm k code, code) := fun h => absurd h hcode

/-! ## ARM_RECORD -/

/-- A verdict of ARM_RECORD: code 0 comes with the stream, and what was granted to it lies beside the slots. -/
def Dev.Judged (d : Dev) (r : Nat × Option (RecStream × List (Nat × Nat) × Dev)) : Prop :=
  r.1 = 0 → ∃ x place e, r.2 = some (x, place, e) ∧ Dev.Beside d e

theorem Dev.judged_fails (d : Dev) {code : Nat} (h : code ≠ 0) : d.Judged (code, none) := fun h0 => absurd h0 h

theorem Dev.judgeRecord_judged (d : Dev) (n : Nat) (p : RecParams) : d.Judged (d.judgeRecord n p) := by
  have no : ∀ {code : Nat}, code ≠ 0 → d.Judged (code, none) := d.judged_fails
  unfold Dev.judgeRecord
  refine ite_both (no (by decide)) (ite_both (no (by decide)) (ite_both (no (by decide)) (ite_both (no (by decide)) (iteInduction no fun _ => ?_))))
  split
  · refine ite_both (no (by decide)) ?_
    split
    · exact no (by decide)
    · rename_i e hquota
      exact ite_both (no (by decide)) fun _ => ⟨_, _, e, rfl, Dev.grantQuota_beside hquota⟩
  · exact no (by decide)

/-- The contexts of a record stream are reserved for its tiles (R97). -/
def Dev.reserveCtxs (d : Dev) (n : Nat) (x : RecStream) : Dev :=
  (x.ctxs.zip (List.range x.ctxs.length)).foldl (fun (d : Dev) e => { d with core := { d.core with
    tctx := tset d.core.tctx e.1 (tileCtxAt n (e.2 / x.decl.geo.tcols) (e.2 % x.decl.geo.tcols) x.decl.geo) } }) d

theorem Dev.reserveCtxs_beside (d : Dev) (n : Nat) (x : RecStream) : Dev.Beside d (d.reserveCtxs n x) := by
  unfold Dev.reserveCtxs
  refine .foldl _ ?_ _ d
  exact fun _ _ => ⟨rfl, rfl, rfl, rfl⟩

/-- A record stream that was armed takes its place: its state, its ring, its contexts, and its port's drain rates (R95, R97, R190). -/
def Dev.recordPlaced (d : Dev) (n : Nat) (p : RecParams) (x : RecStream) : Dev :=
  (((((d.setRec n x).setRing (12288 + n) { Ring.rest with en := true, paced := true, output := p.port, sizeLog2 := 15, owner := n }).reserveCtxs
    n x).recomputeDs p.port).refreshShort p.port).refreshArmed

theorem Dev.recordPlaced_beside (d : Dev) (n : Nat) (p : RecParams) (x : RecStream) : Dev.Beside d (d.recordPlaced n p x) := by
  unfold Dev.recordPlaced
  exact (((((Dev.Beside.setRec d n x).trans (.setRing _ _ _)).trans (Dev.reserveCtxs_beside _ n x)).trans
    (Dev.recomputeDs_beside _ _)).trans (Dev.refreshShort_beside _ _)).trans (Dev.refreshArmed_beside _)

theorem Dev.armRecord_arms (d : Dev) (n prio : Nat) (p : RecParams) : Dev.ArmsIfPassed n prio d (d.armRecord n prio p) := by
  have hj := d.judgeRecord_judged n p
  unfold Dev.armRecord
  split
  · rename_i x place e heq
    rw [heq] at hj
    obtain ⟨_, _, _, hsome, hbeside⟩ := hj rfl
    cases hsome
    exact fun _ => (Dev.armSlot_arms hbeside n prio _ _).beside (Dev.recordPlaced_beside _ n p x)
  · rename_i code o hne heq
    intro h
    rw [heq] at hj
    obtain ⟨x, place, e, hsome, _⟩ := hj h
    exact (hne x place e h hsome).elim

/-! ## ARM_DECODE, ARM_OFFLOAD and ARM_PROXY -/

theorem Dev.placeDec_arms {d e : Dev} (h : Dev.Beside d e) (n prio : Nat) (x : DecStream) (v : Resv) :
    Dev.ArmsIfPassed n prio d (e.placeDec n prio x v, 0) := fun _ => (Dev.armSlot_arms h n prio _ v).beside (.setDec _ _ _)

theorem Dev.grantQuota_getD_beside (d : Dev) (tag n : Nat) : Dev.Beside d ((d.grantQuota tag n).getD d) := by
  cases h : d.grantQuota tag n with
  | none => exact .refl d
  | some e => exact Dev.grantQuota_beside h

theorem Dev.armDecode_arms (d : Dev) (n prio : Nat) (p : DecParams) (bytes : Option (List Byte)) :
    Dev.ArmsIfPassed n prio d (d.armDecode n prio p bytes) := by
  have no : ∀ (e : Dev) {code : Nat}, code ≠ 0 → Dev.ArmsIfPassed n prio d (e.refuseArm n code, code) := d.refuseArm_armsIfPassed n prio n
  unfold Dev.armDecode
  refine ite_both (no d (by decide)) (ite_both (no d (by decide)) (ite_both (no d (by decide)) (ite_both (no d (by decide)) (ite_both (no d (by decide)) ?_))))
  split
  · exact no d (by decide)
  · refine ite_both (no d (by decide)) (ite_both (no d (by decide)) (ite_both (no d (by decide)) (ite_both (no d (by decide)) (ite_both ?_ ?_))))
    · have hchunk := (d.grantQuota_getD_beside n 1).trans (Dev.allocChunk_beside _ n 4 true)
      split
      · exact no _ (by decide)
      · rename_i e k halloc
        rw [halloc] at hchunk
        exact Dev.placeDec_arms hchunk n prio _ _
    · exact Dev.placeDec_arms (.refl d) n prio _ _

theorem Dev.armOffload_arms (d : Dev) (n prio port takeId recStream rate outRing : Nat) (peer : Option Nat) (bytes : Option (List Byte)) :
    Dev.ArmsIfPassed n prio d (d.armOffload n prio port takeId recStream rate outRing peer bytes) := by
  have no : ∀ {code : Nat}, code ≠ 0 → Dev.ArmsIfPassed n prio d (d.refuseArm n code, code) := d.refuseArm_armsIfPassed n prio n d
  unfold Dev.armOffload
  refine ite_both (no (by decide)) (ite_both (no (by decide)) (ite_both (no (by decide)) (ite_both (no (by decide)) (ite_both (no (by decide)) ?_))))
  split
  · exact Dev.placeDec_arms (.refl d) n prio _ _
  · exact no (by decide)

theorem Dev.armProxy_arms (d : Dev) (n prio : Nat) (p : ProxyParams) (seq0 : Nat) (tpl : List Byte) :
    Dev.ArmsIfPassed n prio d (d.armProxy n prio p seq0 tpl) := by
  have no : ∀ {code : Nat}, code ≠ 0 → Dev.ArmsIfPassed n prio d (d.refuseArm n code, code) := d.refuseArm_armsIfPassed n prio n d
  unfold Dev.armProxy
  split
  · exact no (by decide)
  · refine ite_both (no (by decide)) (ite_both (no (by decide)) (ite_both (no (by decide)) (ite_both (no (by decide)) (ite_both (no (by decide)) ?_))))
    split
    · exact no (by decide)
    · exact fun _ => (Dev.armSlot_arms (.refl d) n prio _ _).beside ⟨rfl, rfl, rfl, rfl⟩

/-- An arm that keeps the peer ports within their limits stands as it was judged (R347). -/
theorem Dev.peerGate_arms {n prio : Nat} {d : Dev} {r : Dev × Nat} (h : Dev.ArmsIfPassed n prio d r) :
    Dev.ArmsIfPassed n prio d (Dev.peerGate d r n) :=
  ite_both (d.refuseArm_armsIfPassed n prio n d (by decide)) h

/-! ## The arm commands (Table 12.4) -/

theorem Dev.finishArm_passed {r : Dev × Nat} (h : r.2 = 0) (m id : Nat) : Dev.finishArm r m id = r.1.finishCmd m id 0 := by
  unfold Dev.finishArm
  rw [h, if_pos rfl]
  rfl

/-- An arm command whose arm passes leaves its slot ARMED and completes with status 0. -/
theorem answers_arm {i : Instr} {s : State} {m op n prio : Nat} {f : Dev → MbxCmd → Dev} {c : MbxCmd} {r : Dev × Nat} (hcalm : s.calm = true)
    (he : exec i s = s.run fun d => d.withCmd m op f) (hc : s.begin.readyCmd m op = some c) (hf : f s.begin c = Dev.finishArm r m c.id)
    (ha : Dev.ArmsIfPassed n prio s.begin r) (h0 : r.2 = 0) :
    Answers i s fun t => t.done m c 0 0 0 ∧ (t.begin.slot n).state = .armed ∧ (t.begin.slot n).prio = prio := by
  obtain ⟨hstate, hprio, hhost, hfault⟩ := ha h0
  refine answers_withCmd he hc (hf.trans (Dev.finishArm_passed h0 m c.id)) ?_ ⟨State.commit_done hc hhost 0 0 0, hstate, hprio⟩
  rw [Dev.finishCmd_core_fault, hfault]
  exact State.calm_iff.1 hcalm

/-- ARM_DECODE of a source that is no partner's judges its arm, within the limits of the peer ports. -/
theorem Dev.cmdArmDecode_own {d : Dev} {c : MbxCmd} (hsrc : (decParams c.words d.base).source ≠ 1) (m : Nat) (src : Option (List Byte)) :
    d.cmdArmDecode m src c = Dev.finishArm (Dev.peerGate d (d.armDecode (argF c.words 2 10 0) (argF c.words 2 31 29) (decParams c.words d.base) src)
      (argF c.words 2 10 0)) m c.id := by
  unfold Dev.cmdArmDecode
  dsimp only
  rw [if_neg (fun h => hsrc h.1)]
  split
  · exact absurd (by assumption) hsrc
  · rw [if_neg (fun h => hsrc h.2)]

/-- Settles O25: each arm command finishes with its arm's verdict, and an arm that passes has armed its slot. -/
theorem armCommandsArmTheirSlot : Obligations.ArmCommandsArmTheirSlot := by
  intro s m c hcalm n prio armed
  refine ⟨fun hc h0 => ?_, fun src hc => ?_, fun tpl hc h0 => ?_, fun src hc h0 => ?_⟩
  · exact answers_arm hcalm (run_armRecord m s) hc rfl (Dev.armRecord_arms _ _ _ _) h0
  · intro p hsrc h0
    exact answers_arm hcalm (run_armDecode m src s) hc (Dev.cmdArmDecode_own hsrc m.val src) (Dev.peerGate_arms (Dev.armDecode_arms _ _ _ _ _)) h0
  · exact answers_arm hcalm (run_armProxy m (some tpl) s) hc rfl (Dev.armProxy_arms _ _ _ _ _ _) h0
  · exact answers_arm hcalm (run_armOffload m src s) hc rfl (Dev.peerGate_arms (Dev.armOffload_arms _ _ _ _ _ _ _ _ _ _)) h0

end Sys2Proof.Machine
end

section
namespace Sys2Proof.Machine

/-! ## Pictures and rows in hand after a change of one of them -/

theorem listMod_getElem? {α : Type} (l : List α) (i j : Nat) (f : α → α) :
    (listMod l i f)[j]? = if j = i then l[j]?.map f else l[j]? := by
  by_cases hj : j < l.length
  · have hzip : (l.zip (List.range l.length))[j]? = some (l[j], j) := by
      simp [hj]
    simp only [listMod, List.getElem?_map, hzip, List.getElem?_eq_getElem hj, Option.map_some]
    split <;> rfl
  · have hlen : l.length ≤ j := Nat.le_of_not_lt hj
    have hnone : (listMod l i f)[j]? = none := by
      rw [List.getElem?_eq_none_iff]
      simpa [listMod] using hlen
    rw [hnone, List.getElem?_eq_none_iff.2 hlen]
    split <;> rfl

theorem PicSt.row_modRow_same (q : PicSt) {r : Nat} (hr : r < q.rows.length) (f : RowSt → RowSt) : (q.modRow r f).row r = f (q.row r) := by
  simp only [PicSt.row, PicSt.modRow, List.getD_eq_getElem?_getD, listMod_getElem?, if_true, List.getElem?_eq_getElem hr, Option.map_some,
    Option.getD_some]

theorem RecStream.pic_of_pic? {x : RecStream} {p : Nat} {q : PicSt} (h : x.pic? p = some q) : q.pic = p := by
  simpa using List.find?_some h

/-- A picture is found by its number after a change that keeps the numbers. -/
theorem RecStream.pic?_modPic (x : RecStream) (p k : Nat) {f : PicSt → PicSt} (hf : ∀ q, (f q).pic = q.pic) :
    (x.modPic p f).pic? k = (x.pic? k).map fun q => if q.pic = p then f q else q := by
  have hkey : ((fun q : PicSt => decide (q.pic = k)) ∘ fun q => if q.pic = p then f q else q) = fun q => decide (q.pic = k) := by
    funext q
    simp only [Function.comp_apply]
    split
    · rw [hf]
    · rfl
  unfold RecStream.pic? RecStream.modPic
  rw [List.find?_map, hkey]

theorem RecStream.pic?_modPic_same {x : RecStream} {p : Nat} {q : PicSt} (hq : x.pic? p = some q) {f : PicSt → PicSt}
    (hf : ∀ q, (f q).pic = q.pic) : (x.modPic p f).pic? p = some (f q) := by
  rw [x.pic?_modPic p p hf, hq, Option.map_some, if_pos (RecStream.pic_of_pic? hq)]

theorem RecStream.pic?_modPic_other {x : RecStream} {p k : Nat} {q : PicSt} (hq : x.pic? k = some q) (hk : k ≠ p) {f : PicSt → PicSt}
    (hf : ∀ q, (f q).pic = q.pic) : (x.modPic p f).pic? k = some q := by
  rw [x.pic?_modPic p k hf, hq, Option.map_some, if_neg (by rw [RecStream.pic_of_pic? hq]; exact hk)]

theorem RecStream.pic?_modRow {x : RecStream} {q : PicSt} (hq : x.pic? q.pic = some q) (r : Nat) (f : RowSt → RowSt) :
    (x.modPic q.pic fun q => q.modRow r f).pic? q.pic = some (q.modRow r f) :=
  RecStream.pic?_modPic_same hq (f := fun q => q.modRow r f) fun _ => rfl

/-! ## A row is granted (R195) -/

theorem RecStream.toGrant_row_lt {x : RecStream} {q : PicSt} {r : Nat} (h : x.toGrant = some (q, r)) : r < q.rows.length := by
  obtain ⟨p, _, hp⟩ := List.exists_of_findSome?_eq_some h
  obtain ⟨k, hk, hpair⟩ := Option.map_eq_some_iff.1 hp
  cases hpair
  exact List.mem_range.1 (List.mem_of_find?_eq_some hk)

/-- The room of a stream's model for the next grant. -/
def RecStream.grantRoom (x : RecStream) (q : PicSt) (r : Nat) : Int := (((8 * x.bs : Int) - x.f) / 8) - x.granted - x.reserved q r

/-- The grant of a row: the larger of X_r and the smaller of A_r + C_r and the room. -/
def RecStream.grantOf (x : RecStream) (q : PicSt) (r : Nat) : Nat :=
  (max (x.decl.geo.xRow r : Int) (min (x.allot q r + x.carryAt q r) (x.grantRoom q r))).toNat

/-- A row for which there is room gets its grant, and its bound from the rung. -/
theorem Dev.grantRow_grants {d : Dev} {n : Nat} {x : RecStream} {q : PicSt} {r : Nat} (hx : d.rec? n = some x) (ht : x.toGrant = some (q, r))
    (hroom : (x.decl.geo.xRow r : Int) ≤ x.grantRoom q r) :
    ∃ f : RowSt → RowSt, (∀ w, (f w).grant = some (x.grantOf q r) ∧ (f w).bound = x.eOf x.rung) ∧
      d.grantRow n = d.setRec n { x.modPic q.pic (fun q => q.modRow r f) with lastGrant := x.grantOf q r } := by
  unfold RecStream.grantRoom at hroom
  unfold Dev.grantRow
  simp only [hx, ht]
  rw [if_neg (Int.not_lt.2 hroom)]
  exact ⟨_, fun _ => ⟨rfl, rfl⟩, rfl⟩

/-! ## Tiles are dealt to pipelines (R54) -/

theorem Dev.pipeFor_free {d : Dev} {cl p : Nat} {t : ReadyTile} (h : d.pipeFor cl t = some p) : (d.enc p).job = none := by
  have hfree : d.encFree p = true := by
    unfold Dev.pipeFor at h
    split at h
    · split at h
      · rename_i hf
        cases h
        exact hf
      · cases h
    · exact List.find?_some h
  simp only [Dev.encFree, Bool.and_eq_true, Option.isNone_iff_eq_none] at hfree
  exact hfree.2

theorem Dev.startTile_job {d : Dev} {t : ReadyTile} (h : (d.rec? t.slot).isSome = true) (p : Nat) :
    ((d.startTile p t).enc p).job = some (t.slot, t.pic, t.row, t.col) := by
  obtain ⟨x, hx⟩ := Option.isSome_iff_exists.1 h
  unfold Dev.startTile
  rw [hx]
  exact congrArg Pipe.job (Dev.setEnc_enc _ p _)

theorem Dev.startTile_enc_other (d : Dev) {p k : Nat} (h : k ≠ p) (t : ReadyTile) : (d.startTile p t).enc k = d.enc k := by
  unfold Dev.startTile
  split
  · rfl
  · exact Dev.setEnc_enc_other _ h _

theorem Dev.startTile_fault (d : Dev) (p : Nat) (t : ReadyTile) : (d.startTile p t).core.fault = d.core.fault := by
  unfold Dev.startTile
  split <;> rfl

/-- A ready tile goes to its pipeline, where one takes it. -/
def Dev.dealTile (d : Dev) (cl : Nat) (t : ReadyTile) : Dev := match d.pipeFor cl t with
  | some p => d.startTile p t
  | none => d

theorem Dev.dealTile_fault (d : Dev) (cl : Nat) (t : ReadyTile) : (d.dealTile cl t).core.fault = d.core.fault := by
  unfold Dev.dealTile
  split
  · exact d.startTile_fault _ t
  · rfl

/-- A pipeline that has a tile keeps it while others are dealt. -/
theorem Dev.dealTile_job {d : Dev} {p : Nat} {j : Nat × Nat × Nat × Nat} (h : (d.enc p).job = some j) (cl : Nat) (t : ReadyTile) :
    ((d.dealTile cl t).enc p).job = some j := by
  unfold Dev.dealTile
  split
  · rename_i k hk
    have hne : p ≠ k := fun e => by rw [e, Dev.pipeFor_free hk] at h; cases h
    rw [d.startTile_enc_other hne]
    exact h
  · exact h

theorem Dev.dispatch_fault (d : Dev) (cl : Nat) : (d.dispatch cl).core.fault = d.core.fault :=
  List.foldlRecOn _ _ (motive := fun e : Dev => e.core.fault = d.core.fault) rfl fun e he t _ => (e.dealTile_fault cl t).trans he

/-- The first ready tile gets the pipeline that R54 names, and keeps it. -/
theorem Dev.dispatch_first {d : Dev} {cl p : Nat} {k : ReadyTile} {ks : List ReadyTile} (hr : d.readyTiles cl = k :: ks)
    (hp : d.pipeFor cl k = some p) (hk : (d.rec? k.slot).isSome = true) :
    ((d.dispatch cl).enc p).job = some (k.slot, k.pic, k.row, k.col) := by
  have hdeal : d.dispatch cl = ks.foldl (fun e t => e.dealTile cl t) (d.startTile p k) := by
    unfold Dev.dispatch
    rw [hr, List.foldl_cons, hp]
    rfl
  rw [hdeal]
  exact List.foldlRecOn ks _ (motive := fun e : Dev => (e.enc p).job = some (k.slot, k.pic, k.row, k.col)) (Dev.startTile_job hk p)
    fun e he t _ => Dev.dealTile_job he cl t

/-! ## A checkpoint (R198) -/

/-- The picture whose row a checkpoint judges: the first in which every tile of the row has begun and not all are coded. -/
def RecStream.checked (x : RecStream) (r : Nat) : Option PicSt := x.pics.find? fun q => decide ((q.row r).closed ≠ 2) &&
  !(q.row r).tiles.isEmpty && ((q.row r).tiles.all fun t => decide (t.stage ≠ 0)) && !(q.row r).coded

/-- A checkpoint that all tiles reach counts their strips, and an attempt that is not the first goes on. -/
theorem Dev.checkpoint_counts {d : Dev} {n r k : Nat} {x : RecStream} {q : PicSt} (hx : d.rec? n = some x) (hq : x.checked r = some q)
    (hk : k ≠ 0) (hstrips : k ≤ x.decl.geo.strips r) (hlines : (q.row r).linesIn (x.decl.geo.stripLines r k) = true)
    (htiles : ((q.row r).tiles.all fun t => decide (t.stage = 2 ∨ t.strips + 1 = k)) = true) (hattempt : (q.row r).attempt ≠ 1) :
    d.checkpoint n r k = d.setRec n (x.modPic q.pic fun q => q.modRow r fun w =>
      { w with tiles := w.tiles.map fun t => if t.stage = 1 then { t with strips := k } else t }) := by
  have hgo : ¬ (k = 0 ∨ x.decl.geo.strips r < k ∨ (!(q.row r).linesIn (x.decl.geo.stripLines r k)) = true ∨
      (!(q.row r).tiles.all fun t => decide (t.stage = 2 ∨ t.strips + 1 = k)) = true) := by
    simp only [hlines, htiles, Bool.not_true, Bool.false_eq_true, or_false]
    omega
  unfold RecStream.checked at hq
  unfold Dev.checkpoint
  simp only [hx, hq]
  rw [if_neg hgo, if_neg fun h => hattempt h.1]

end Sys2Proof.Machine
end

section
namespace Sys2Proof.Machine

/-! ## A tile is committed (R167) -/

/-- A row that has a tile is a row of its picture. -/
theorem PicSt.row_lt_of_tile {q : PicSt} {r c : Nat} (h : (q.row r).tiles[c]?.isSome = true) : r < q.rows.length := by
  rcases Nat.lt_or_ge r q.rows.length with hr | hr
  · exact hr
  · rw [PicSt.row, List.getD_eq_getElem?_getD, List.getElem?_eq_none hr] at h
    cases h

/-- A change of a row that keeps its tiles keeps the tiles of every row. -/
theorem PicSt.tiles_modRow (q : PicSt) (r k : Nat) {f : RowSt → RowSt} (hf : ∀ w, (f w).tiles = w.tiles) :
    ((q.modRow r f).row k).tiles = (q.row k).tiles := by
  simp only [PicSt.row, PicSt.modRow, List.getD_eq_getElem?_getD, listMod_getElem?]
  split
  · cases q.rows[k]? with
    | none => rfl
    | some w => exact hf w
  · rfl

/-- `y` has every picture of `x`, with the tiles it had. -/
def RecStream.TilesKept (x y : RecStream) : Prop :=
  ∀ k q, x.pic? k = some q → ∃ q', y.pic? k = some q' ∧ ∀ r, (q'.row r).tiles = (q.row r).tiles

theorem RecStream.modPic_tilesKept (x : RecStream) (p : Nat) {f : PicSt → PicSt} (hpic : ∀ q, (f q).pic = q.pic)
    (htiles : ∀ q r, ((f q).row r).tiles = (q.row r).tiles) : x.TilesKept (x.modPic p f) := by
  intro k q hq
  by_cases hk : k = p
  · subst hk
    exact ⟨f q, RecStream.pic?_modPic_same hq hpic, htiles q⟩
  · exact ⟨q, RecStream.pic?_modPic_other hq hk hpic, fun _ => rfl⟩

/-- Pipeline `p` is free, the tile in column `c` of row `r` of stream `n`'s picture is coded, and no fault is raised. -/
structure Dev.Coded (p n pic r c : Nat) (d : Dev) : Prop where
  idle : (d.enc p).job = none
  calm : d.core.fault.raised = []
  tile : ∃ y q, d.rec? n = some y ∧ y.pic? pic = some q ∧ (q.row r).tiles[c]?.map (·.stage) = some 2

section
variable {p n pic r c : Nat} {d : Dev} (h : Dev.Coded p n pic r c d)
include h

theorem Dev.Coded.frame {d' : Dev} (he : d'.core.encs = d.core.encs) (hf : d'.core.fault = d.core.fault) (hr : d'.core.recs = d.core.recs) :
    Dev.Coded p n pic r c d' := by
  obtain ⟨hidle, hcalm, htile⟩ := h
  refine ⟨?_, by rw [hf]; exact hcalm, ?_⟩
  · rw [Dev.enc, he]
    exact hidle
  · simp only [Dev.rec?, hr]
    exact htile

theorem Dev.Coded.assertEvt (k : Nat) : Dev.Coded p n pic r c (d.assertEvt k) := by
  obtain ⟨_, _, _, e⟩ := (Dev.assertEvt_signals d k).core
  exact h.frame (by rw [e]) (by rw [e]) (by rw [e])

theorem Dev.Coded.takeOrders (k : Nat) : Dev.Coded p n pic r c (d.takeOrders k) := by
  have hset : ∀ o : List Nat, Dev.Coded p n pic r c (d.setEnc k { d.enc k with orders := o }) := by
    intro o
    obtain ⟨hidle, hcalm, htile⟩ := h
    refine ⟨?_, hcalm, htile⟩
    by_cases hk : p = k
    · subst hk
      rw [Dev.setEnc_enc]
      exact hidle
    · rw [d.setEnc_enc_other hk]
      exact hidle
  exact ite_both (hset _) (hset _)

theorem Dev.Coded.giveBack (k : Nat) : Dev.Coded p n pic r c (d.giveBack k) :=
  ite_both h (ite_both (h.frame rfl rfl rfl) h)

theorem Dev.Coded.refreshMode : Dev.Coded p n pic r c d.refreshMode :=
  ite_both (h.frame rfl rfl rfl) (h.frame rfl rfl rfl)

theorem Dev.Coded.setRec {s : Nat} {x y : RecStream} (hx : d.rec? s = some x) (hkeep : x.TilesKept y) :
    Dev.Coded p n pic r c (d.setRec s y) := by
  obtain ⟨hidle, hcalm, z, q, hz, hq, htile⟩ := h
  by_cases hs : n = s
  · subst hs
    obtain rfl : x = z := Option.some.inj (hx.symm.trans hz)
    obtain ⟨q', hq', hsame⟩ := hkeep pic q hq
    exact ⟨hidle, hcalm, y, q', Dev.setRec_rec _ _ _, hq', by rw [hsame]; exact htile⟩
  · exact ⟨hidle, hcalm, z, q, (Dev.setRec_rec_other d hs y).trans hz, hq, htile⟩

theorem Dev.Coded.commit (s : State) : Dev.Coded p n pic r c (s.commit d).begin := h.frame rfl rfl rfl

end

/-- `d'` is `d` with other bytes in DRAM: of the rest only the poison that a write heals can differ. -/
def Dev.Rewritten (d d' : Dev) : Prop := ∃ m, d'.core = { d.core with mem := m }

theorem Dev.Rewritten.writeDram {d d' : Dev} (h : Dev.Rewritten d d') (a : Nat) (bs : List Byte) : Dev.Rewritten d (d'.writeDram a bs) := by
  obtain ⟨m, hm⟩ := h
  exact ⟨m.heal a bs.length, by simp only [Dev.writeDram, Dev.putDram_core, hm]⟩

theorem Dev.digestRow_rewritten (d : Dev) (s k i : Nat) : Dev.Rewritten d (d.digestRow s k i) := by
  unfold Dev.digestRow
  split
  · exact ⟨_, rfl⟩
  · refine List.foldlRecOn _ _ (motive := Dev.Rewritten d) ⟨_, rfl⟩ fun e he a _ => ?_
    split
    · exact he
    · refine ite_both he (List.foldlRecOn _ _ (motive := Dev.Rewritten d) he fun e he a _ => ?_)
      dsimp only
      split
      · exact he.writeDram _ _
      · exact he

theorem Dev.Coded.digestRow {p n pic r c : Nat} {d : Dev} (h : Dev.Coded p n pic r c d) (s k i : Nat) :
    Dev.Coded p n pic r c (d.digestRow s k i) := by
  obtain ⟨_, e⟩ := d.digestRow_rewritten s k i
  exact h.frame (by rw [e]) (by rw [e]) (by rw [e])

/-- A tile's context is written beside the pipelines, the streams and the fault collector. -/
theorem Dev.commitTile_frame (d : Dev) (x : RecStream) (q : PicSt) (r c : Nat) (o : TileOut) (bound qp : Nat) :
    (d.commitTile x q r c o bound qp).core.encs = d.core.encs ∧ (d.commitTile x q r c o bound qp).core.fault = d.core.fault ∧
    (d.commitTile x q r c o bound qp).core.recs = d.core.recs := by
  unfold Dev.commitTile
  dsimp only
  split
  · exact ⟨rfl, rfl, rfl⟩
  · split <;> exact ⟨rfl, rfl, rfl⟩

theorem Dev.Coded.exhaustRow {p n pic r c : Nat} {d : Dev} (h : Dev.Coded p n pic r c d) (s k i cause : Nat) :
    Dev.Coded p n pic r c (d.exhaustRow s k i cause) := by
  unfold Dev.exhaustRow
  split
  · exact h
  · rename_i x hx
    split
    · exact h
    · have hkeep := x.modPic_tilesKept k (f := fun q => q.modRow i fun w => { w with exhCause := cause, maxErr := 0 }) (fun _ => rfl)
        fun q j => q.tiles_modRow i j fun _ => rfl
      refine (fun g : Dev.Coded p n pic r c _ ∧ Dev.rec? _ s = some x => g.1.setRec g.2 hkeep) ?_
      refine List.foldlRecOn _ _ (motive := fun e => Dev.Coded p n pic r c e ∧ e.rec? s = some x) ⟨h, hx⟩ fun e he t _ => ?_
      split
      · rename_i o _
        obtain ⟨hencs, hfault, hrecs⟩ := e.commitTile_frame x ‹_› i t.2 o 0xFFFF 0
        exact ⟨he.1.frame hencs hfault hrecs, (congrArg (List.lookup s) hrecs).trans he.2⟩
      · exact he

theorem Dev.Coded.takeGranules {p n pic r c : Nat} {d : Dev} (h : Dev.Coded p n pic r c d) (s k i : Nat) :
    Dev.Coded p n pic r c (d.takeGranules s k i).1 := by
  have hreg := h.frame (d' := (d.set .memctl 0 fRP_OVF_USED_NOW (d.get .memctl 0 fRP_OVF_USED_NOW + i)).raiseMax .memctl 0 fRP_OVF_USED_PEAK
    (d.get .memctl 0 fRP_OVF_USED_NOW + i)) rfl rfl rfl
  unfold Dev.takeGranules
  refine ite_both (P := fun a : Dev × Bool => Dev.Coded p n pic r c a.1) h (ite_both (P := fun a : Dev × Bool => Dev.Coded p n pic r c a.1) h ?_)
  dsimp only
  split
  · rename_i x hx
    exact hreg.setRec hx fun _ q hq => ⟨q, hq, fun _ => rfl⟩
  · exact hreg

/-- A row whose overflow granules are refused is exhausted. -/
theorem Dev.Coded.granted {p n pic r c : Nat} {k : Dev × Bool} (h : Dev.Coded p n pic r c k.1) (s j i : Nat) :
    Dev.Coded p n pic r c (if k.2 = true then k.1 else (k.1.bump .memctl 0 fRP_OVF_FAIL_ENCODE).exhaustRow s j i 2) :=
  ite_both h ((h.frame (d' := k.1.bump .memctl 0 fRP_OVF_FAIL_ENCODE) rfl rfl rfl).exhaustRow s j i 2)

theorem Dev.Coded.decideRow {p n pic r c : Nat} {d : Dev} (h : Dev.Coded p n pic r c d) (s k i : Nat) :
    Dev.Coded p n pic r c (d.decideRow s k i) := by
  unfold Dev.decideRow
  split
  · exact h
  · split
    · exact h
    · have hevt := h.assertEvt (48 + (d.slot s).resv.clusterOf 0)
      refine ite_both (hevt.exhaustRow s k i 1) (ite_both hevt ?_)
      exact Dev.Coded.granted (hevt.takeGranules s k _) s k i

/-- A picture with one row changed and its motion sums counted anew, as a commit leaves it. -/
def PicSt.committed (q : PicSt) (r : Nat) (f : RowSt → RowSt) (v : Int × Int) (m : Nat) : PicSt := { q.modRow r f with mvSum := v, mvN := m }

/-- What a commit writes at a tile's row: the tile is coded, whatever else is noted of it. -/
theorem RecStream.modPic_codesTile {x : RecStream} {q : PicSt} {r c : Nat} (hq : x.pic? q.pic = some q) (ht : (q.row r).tiles[c]?.isSome = true)
    {f : RowSt → RowSt} (hf : ∃ k : TileSt → TileSt, (∀ w, (f w).tiles = listMod w.tiles c k) ∧ ∀ t, (k t).stage = 2) (v : Int × Int) (m : Nat) :
    ∃ q', (x.modPic q.pic fun q => q.committed r f v m).pic? q.pic = some q' ∧ (q'.row r).tiles[c]?.map (·.stage) = some 2 := by
  obtain ⟨k, htiles, hk⟩ := hf
  have hpic : ∀ q : PicSt, (q.committed r f v m).pic = q.pic := fun _ => rfl
  refine ⟨q.committed r f v m, RecStream.pic?_modPic_same hq hpic, ?_⟩
  obtain ⟨t, ht'⟩ := Option.isSome_iff_exists.1 ht
  have hrow : ((q.committed r f v m).row r).tiles = listMod (q.row r).tiles c k :=
    (congrArg RowSt.tiles (q.row_modRow_same (q.row_lt_of_tile ht) f)).trans (htiles _)
  rw [hrow, listMod_getElem?, if_pos rfl, ht']
  exact congrArg some (hk t)

theorem Dev.countTile_fault (d : Dev) (p cl : Nat) (o : TileOut) : (d.countTile p cl o).core.fault = d.core.fault :=
  ite_both (P := fun e : Dev => e.core.fault = d.core.fault) rfl rfl

theorem Dev.storeTile_fault (d : Dev) (p cl : Nat) (x : RecStream) (q : PicSt) (r c : Nat) (o : TileOut) (bound qp : Nat) :
    ((d.countTile p cl o).commitTile x q r c o bound qp).core.fault = d.core.fault := by
  obtain ⟨_, hfault, _⟩ := (d.countTile p cl o).commitTile_frame x q r c o bound qp
  exact hfault.trans (d.countTile_fault p cl o)

/-- A coded tile is stored in its stream, and its pipeline freed at the commit point. -/
theorem Dev.freed_coded {p n pic r c : Nat} {d : Dev} {x : RecStream} (hcalm : d.core.fault.raised = [])
    (ht : ∃ q, x.pic? pic = some q ∧ (q.row r).tiles[c]?.map (·.stage) = some 2) :
    Dev.Coded p n pic r c ((((d.setRec n x).freePipe p).takeOrders p).giveBack p) := by
  obtain ⟨q, hq, htile⟩ := ht
  have hfree : Dev.Coded p n pic r c ((d.setRec n x).freePipe p) :=
    ⟨congrArg Pipe.job (Dev.setEnc_enc _ p _), hcalm, x, q, Dev.setRec_rec d n x, hq, htile⟩
  exact (hfree.takeOrders p).giveBack p

/-- A tile that passes its bound check is coded, and its pipeline is free. -/
theorem Dev.tileCommit_coded {d : Dev} {p n r c : Nat} {x : RecStream} {q : PicSt} (hcalm : d.core.fault.raised = [])
    (hjob : (d.enc p).job = some (n, q.pic, r, c)) (hx : d.rec? n = some x) (hq : x.pic? q.pic = some q) (hclosed : (q.row r).closed ≠ 2)
    (hlost : (q.row r).lost = false) (hdone : (q.row r).doneAt.isSome = true)
    (hok : (encodeBounded (d.tileParams n x q r c) (q.tileSample x.decl.geo r c)).boundOk = true) (ht : (q.row r).tiles[c]?.isSome = true) :
    Dev.Coded p n q.pic r c (d.tileCommit p true) := by
  unfold Dev.tileCommit
  simp only [hjob, hx, hq]
  rw [if_neg (by simp [hclosed, hlost]), if_neg (by simp [Option.isSome_iff_ne_none.1 hdone]), if_neg (by simp [hok])]
  refine (fun he => ite_both (Dev.Coded.decideRow he _ _ _) he) (Dev.freed_coded ?_ ?_)
  · exact (congrArg FaultSt.raised (d.storeTile_fault p _ x q r c _ _ _)).trans hcalm
  · refine RecStream.modPic_codesTile hq ht ?_ _ _
    exact ⟨fun t => { t with stage := 2, strips := _, out := _, exh := _ }, fun _ => rfl, fun _ => rfl⟩

end Sys2Proof.Machine
end

section
namespace Sys2Proof.Machine

/-! ## The row counts of a record stream -/

/-- A stream's parameters and its counts of absent, exhausted and strained rows. -/
def RecStream.figures (x : RecStream) : RecParams × Nat × Nat × Nat := (x.par, x.rowsAbs, x.rowsExh, x.rowsStr)

/-- Every stream has in `d'` the figures it has in `d`. -/
def Dev.FiguresKept (d d' : Dev) : Prop := ∀ n, (d'.rec? n).map RecStream.figures = (d.rec? n).map RecStream.figures

theorem Dev.FiguresKept.refl (d : Dev) : Dev.FiguresKept d d := fun _ => rfl
theorem Dev.FiguresKept.trans {a b c : Dev} (h : Dev.FiguresKept a b) (g : Dev.FiguresKept b c) : Dev.FiguresKept a c :=
  fun n => (g n).trans (h n)
theorem Dev.FiguresKept.ofRecs {d d' : Dev} (h : d'.core.recs = d.core.recs) : Dev.FiguresKept d d' := fun n => by simp only [Dev.rec?, h]

/-- A stream is stored with the figures it had. -/
theorem Dev.FiguresKept.setRec {d : Dev} {s : Nat} {y : RecStream} (h : (d.rec? s).map RecStream.figures = some y.figures) :
    Dev.FiguresKept d (d.setRec s y) := by
  intro n
  by_cases hn : n = s
  · subst hn
    rw [Dev.setRec_rec, h]
    rfl
  · rw [d.setRec_rec_other hn]

theorem Dev.FiguresKept.modRec {d : Dev} {s : Nat} {x y : RecStream} (hx : d.rec? s = some x) (hy : y.figures = x.figures) :
    Dev.FiguresKept d (d.setRec s y) := .setRec (by rw [hx, hy]; rfl)

theorem Dev.Rewritten.figuresKept {d d' : Dev} (h : Dev.Rewritten d d') : Dev.FiguresKept d d' := by
  obtain ⟨_, e⟩ := h
  exact .ofRecs (by rw [e])

theorem Dev.unpark_figuresKept (d : Dev) (n ds : Nat) : Dev.FiguresKept d (d.unpark n ds) := by
  unfold Dev.unpark Dev.enterWheel
  exact ite_both (ite_both (.ofRecs rfl) (ite_both (.ofRecs rfl) (.ofRecs rfl))) (.refl d)

theorem Dev.advanceTail_figuresKept (d : Dev) (n tail : Nat) : Dev.FiguresKept d (d.advanceTail n tail) :=
  ite_both (ite_both (.ofRecs rfl) (.ofRecs rfl)) (.ofRecs rfl)

theorem Dev.setRing_figuresKept (d : Dev) (n : Nat) (r : Ring) : Dev.FiguresKept d (d.setRing n r) := .ofRecs rfl

theorem Dev.rcLogAdd_figuresKept (d : Dev) (kind s trow a b pic : Nat) : Dev.FiguresKept d (d.rcLogAdd kind s trow a b pic) :=
  .ofRecs (ite_both (P := fun e : Dev => e.core.recs = d.core.recs) rfl rfl)

/-- A count, its status bit and its entry in the log of rate control. -/
theorem Dev.noted_figuresKept (d : Dev) (r : FieldRow) (b kind s trow x y pic : Nat) :
    Dev.FiguresKept d (((d.bump .marver0 0 r).statBit .marver0 0 b).rcLogAdd kind s trow x y pic) :=
  Dev.FiguresKept.trans (.ofRecs rfl) (Dev.rcLogAdd_figuresKept _ _ _ _ _ _ _)

theorem Dev.allocChunk_figuresKept (d : Dev) (tag cls : Nat) (large : Bool) : Dev.FiguresKept d (d.allocChunk tag cls large).1 := by
  unfold Dev.allocChunk
  refine ite_both (P := fun r : Dev × Option Nat => Dev.FiguresKept d r.1) ?_ (.ofRecs rfl)
  dsimp only
  split <;> exact .ofRecs rfl

theorem Dev.ensureChunks_figuresKept (s : Nat) (l : List Nat) : ∀ d : Dev, Dev.FiguresKept d (Dev.ensureChunks s l d).1 := by
  induction l with
  | nil => exact .refl
  | cons c cs ih =>
    intro d
    unfold Dev.ensureChunks
    split
    · exact .refl d
    · rename_i x hx
      refine ite_both (P := fun r : Dev × Bool => Dev.FiguresKept d r.1) (ih d) ?_
      have halloc := d.allocChunk_figuresKept s 0 true
      split
      · rename_i e he
        rw [he] at halloc
        exact halloc
      · rename_i e h he
        rw [he] at halloc
        exact (halloc.trans (.setRec ((halloc s).trans (by rw [hx]; rfl)))).trans (ih _)

/-! ## A row's unit is emitted -/

theorem Dev.countEmitted_figuresKept (d : Dev) (w : RowSt) : Dev.FiguresKept d (d.countEmitted w) := by
  unfold Dev.countEmitted
  refine ite_both (.refl d) (List.foldlRecOn _ _ (motive := Dev.FiguresKept d) (.refl d) fun e he t _ => ?_)
  split
  · exact he
  · exact he.trans (.ofRecs rfl)

theorem Dev.stepUp_figuresKept (d : Dev) (s pic : Nat) : Dev.FiguresKept d (d.stepUp s pic) := by
  unfold Dev.stepUp
  split
  · exact .refl d
  · rename_i x hx
    have hcount : Dev.FiguresKept d (d.setRec s { x.modPic pic (fun q => { q with upCount := q.upCount + 1 }) with downCnt := 0 }) :=
      .modRec hx rfl
    refine ite_both hcount ?_
    split
    · exact hcount
    · rename_i y hy
      refine (hcount.trans (.modRec hy ?_)).trans (Dev.noted_figuresKept _ _ _ _ _ _ _ _ _)
      rfl

theorem Dev.rowLadder_figuresKept (d : Dev) (s pic r : Nat) (w : RowSt) (bytes allot : Nat) :
    Dev.FiguresKept d (d.rowLadder s pic r w bytes allot) := by
  unfold Dev.rowLadder
  split
  · exact .refl d
  · rename_i x hx
    have hrate : ∀ e : Dev, e.rec? s = some x → Dev.FiguresKept e (e.setRec s (x.modPic pic fun q => { q with rateRows := true })) :=
      fun e he => .modRec he rfl
    refine ite_both (.refl d) (ite_both ?_ (ite_both (ite_both (hrate d hx) (.refl d)) (.refl d)))
    have hlog := ((hrate ((d.bump .marver0 0 fRC_ROW_CNT_EXHAUSTED).statBit .marver0 0 1) hx)).trans
      (Dev.rcLogAdd_figuresKept _ 4 s r x.rung w.rung pic)
    exact ite_both hlog (hlog.trans (Dev.stepUp_figuresKept _ s pic))

theorem Dev.writeParts_figuresKept (d : Dev) (l : List (Nat × Nat)) (a : Dev → Nat × Nat → Nat) (b : Nat × Nat → List Byte) :
    Dev.FiguresKept d (l.foldl (fun e p => e.writeDram (a e p) (b p)) d) :=
  Dev.Rewritten.figuresKept (List.foldlRecOn _ _ (motive := Dev.Rewritten d) ⟨_, rfl⟩ fun _ he _ _ => he.writeDram _ _)

/-- A unit's bytes are written and its ring entries made; its stream is stored with the figures it had. -/
theorem Dev.storeUnit_figuresKept {d e : Dev} (he : Dev.FiguresKept d e) {s : Nat} {x y : RecStream} (hx : d.rec? s = some x)
    (hy : y.figures = x.figures) (n tail ds : Nat) (r : Ring) : Dev.FiguresKept d ((((e.advanceTail n tail).setRing n r).setRec s y).unpark n ds) := by
  have hring := (he.trans (e.advanceTail_figuresKept n tail)).trans (Dev.setRing_figuresKept _ n r)
  exact (hring.trans (.setRec ((hring s).trans (by rw [hx, hy]; rfl)))).trans (Dev.unpark_figuresKept _ n ds)

theorem Dev.emitUnit_figuresKept (d : Dev) (s typ flags pic : Nat) (body : List Byte) :
    Dev.FiguresKept d (d.emitUnit s typ flags pic body).1 := by
  unfold Dev.emitUnit
  split
  · exact .refl d
  · rename_i x hx
    have hchunks := d.ensureChunks_figuresKept s ((List.range ((x.wAddr + (unitBytes typ flags s body).length - 1) / chunkBytes + 1 -
      x.wAddr / chunkBytes)).map (x.wAddr / chunkBytes + ·))
    dsimp only
    split
    · rename_i e he
      rw [he] at hchunks
      exact hchunks
    · rename_i e he
      rw [he] at hchunks
      split
      · exact hchunks
      · rename_i y hy
        dsimp only
        refine hchunks.trans (Dev.storeUnit_figuresKept (Dev.writeParts_figuresKept _ _ _ _) hy ?_ _ _ _ _)
        rfl

/-- What follows the emission of a row's unit: its tiles are counted, a late row noted, the ladder moved and the event told. -/
theorem Dev.rowDone_figuresKept (d : Dev) (s pic r : Nat) (w : RowSt) (late : Bool) (bytes allot k : Nat) : Dev.FiguresKept d
    (((if late = true then (((d.countEmitted w).bump .marver0 0 fRC_WAIT_CNT_LATE).statBit .marver0 0 3).rcLogAdd 6 s r 0 0 pic
      else d.countEmitted w).rowLadder s pic r w bytes allot).assertEvt k) := by
  have hcount := d.countEmitted_figuresKept w
  have hlate := ite_both (c := late = true) (hcount.trans (Dev.noted_figuresKept _ fRC_WAIT_CNT_LATE 3 6 s r 0 0 pic)) hcount
  exact (hlate.trans (Dev.rowLadder_figuresKept _ s pic r w bytes allot)).trans (.ofRecs (Dev.assertEvt_signals _ k).recs)

/-- A stream that was stored is found later with the figures it was stored with. -/
theorem Dev.FiguresKept.stored {d d' : Dev} {n : Nat} {y : RecStream} (h : Dev.FiguresKept (d.setRec n y) d') :
    ∃ z, d'.rec? n = some z ∧ z.figures = y.figures := by
  have hn := h n
  rw [Dev.setRec_rec] at hn
  exact Option.map_eq_some_iff.1 hn

/-- The unit of the next row leaves and counts once, by its row's kind. -/
theorem Dev.rowEmit_counts {d : Dev} {n r : Nat} {x : RecStream} {q : PicSt} (hx : d.rec? n = some x) (hn : x.nextRow = some (q, r))
    (hready : (q.row r).unitReady = true) (hhdr : q.hdr = true)
    (hemit : (d.emitUnit n 3 (if q.supply then 1 else 0) q.pic (rowBody q r)).2 = true) :
    ∃ z, (d.rowEmit n).rec? n = some z ∧ z.figures = (x.par, x.rowsAbs + (if (q.row r).closed = 2 then 1 else 0),
      x.rowsExh + (if (q.row r).closed ≠ 2 ∧ (q.row r).exhCause ≠ 0 then 1 else 0),
      x.rowsStr + (if (q.row r).closed ≠ 2 ∧ (q.row r).exhCause = 0 ∧ x.par.eT < (q.row r).bound then 1 else 0)) := by
  have hkept := d.emitUnit_figuresKept n 3 (if q.supply then 1 else 0) q.pic (rowBody q r) n
  rcases hunit : d.emitUnit n 3 (if q.supply then 1 else 0) q.pic (rowBody q r) with ⟨e, b⟩
  rw [hunit] at hemit hkept
  obtain rfl : b = true := hemit
  rw [hx] at hkept
  obtain ⟨y, hy, hfig⟩ := Option.map_eq_some_iff.1 hkept
  simp only [RecStream.figures, Prod.mk.injEq] at hfig
  obtain ⟨hpar, habs, hexh, hstr⟩ := hfig
  unfold Dev.rowEmit
  simp only [hx, hn]
  rw [if_neg (by simp [hready]), if_neg (by simp [hhdr])]
  simp only [hunit, hy]
  rw [← hpar, ← habs, ← hexh, ← hstr]
  exact Dev.FiguresKept.stored (Dev.rowDone_figuresKept _ _ _ _ _ _ _ _ _)

/-! ## Coding a row -/

/-- Settles O39: each command does what its own lemma says, and raises no fault; the digests that a commit and an emission write change no
stream. -/
theorem rowsAreGrantedCodedAndEmitted : Obligations.RowsAreGrantedCodedAndEmitted := by
  intro s n x hcalm hx d room
  have hraised := State.calm_iff.1 hcalm
  refine ⟨fun q r ht hq hroom => ?_, fun cl p k ks hr hp hk => ?_, fun q r k hq hk hstrips hlines htiles hattempt => ?_,
    fun p q r c hjob hq hclosed hlost hdone hok ht => ?_, fun q r hn hready hhdr hemit hcalm' => ?_⟩
  · obtain ⟨f, hf, hgrant⟩ := Dev.grantRow_grants hx ht hroom
    refine answers_calm (run_rowGrant n s) ?_ ?_ <;> simp only [hgrant]
    · exact hraised
    · refine ⟨_, q.modRow r f, Dev.setRec_rec _ _ _, RecStream.pic?_modRow hq r f, ?_⟩
      rw [q.row_modRow_same (RecStream.toGrant_row_lt ht)]
      exact ⟨(hf _).1, (hf _).2, rfl⟩
  · refine answers_calm (run_tileDispatch cl s) ?_ (Dev.dispatch_first hr hp hk)
    rw [Dev.dispatch_fault]
    exact hraised
  · have hcheck := Dev.checkpoint_counts hx hq hk hstrips hlines htiles hattempt
    refine answers_calm (run_stripCheckpoint n r k s) ?_ ?_ <;> simp only [hcheck]
    · exact hraised
    · exact Dev.setRec_rec _ _ _
  · have hjob' : (s.begin.enc p.val).job = some (n.val, q.pic, r, c) := hjob
    have hcoded := ((Dev.tileCommit_coded hraised hjob' hx hq hclosed hlost hdone hok ht).refreshMode).digestRow n q.pic r
    refine answers_calm (run_tileCommit p true s) ?_ ?_ <;> simp only [hjob']
    · exact hcoded.calm
    · exact ⟨(hcoded.commit s).idle, (hcoded.commit s).tile⟩
  · obtain ⟨_, hcore⟩ := d.digestRow_rewritten n q.pic r
    have hx' : (d.digestRow n q.pic r).rec? n = some x := by
      rw [Dev.rec?, hcore]
      exact hx
    obtain ⟨y, hy, hfig⟩ := Dev.rowEmit_counts hx' hn hready hhdr hemit
    simp only [RecStream.figures, Prod.mk.injEq] at hfig
    obtain ⟨_, hcounts⟩ := hfig
    refine answers_calm (run_tileRowEmit n s) ?_ ?_ <;> simp only [hx, Option.bind_some, hn]
    · exact State.calmFor_iff.1 hcalm'
    · exact ⟨y, hy, hcounts⟩

end Sys2Proof.Machine
end

section
namespace Sys2Proof.Machine

/-! ## What the registers and signals of a head leave alone -/

theorem State.commit_head (s : State) (d : Dev) (n : Nat) : (s.commit d).begin.head n = d.head n := rfl
theorem State.commit_rec (s : State) (d : Dev) (n : Nat) : (s.commit d).begin.rec? n = d.rec? n := rfl

theorem Dev.head_of_heads {d d' : Dev} (h : d'.core.heads = d.core.heads) (n : Nat) : d'.head n = d.head n := by simp only [Dev.head, h]

@[simp] theorem Dev.setHd_core (d : Dev) (h : Nat) (r : FieldRow) (v : Nat) : (d.setHd h r v).core = d.core := rfl

theorem Dev.gatherEvt_signals (d : Dev) (h : Nat) : Dev.Signals d (d.gatherEvt h) := Dev.assertEvt_signals d _
@[simp] theorem Dev.gatherEvt_fault (d : Dev) (h : Nat) : (d.gatherEvt h).core.fault = d.core.fault := (d.gatherEvt_signals h).fault

/-- `d'` has the heads and the fault collector of `d`. -/
structure Dev.HeadsKept (d d' : Dev) : Prop where
  heads : d'.core.heads = d.core.heads
  fault : d'.core.fault = d.core.fault

theorem Dev.HeadsKept.refl (d : Dev) : Dev.HeadsKept d d := ⟨rfl, rfl⟩
theorem Dev.HeadsKept.trans {a b c : Dev} (h : Dev.HeadsKept a b) (g : Dev.HeadsKept b c) : Dev.HeadsKept a c :=
  ⟨g.heads.trans h.heads, g.fault.trans h.fault⟩
theorem Dev.HeadsKept.ofCore {d d' : Dev} (h : d'.core = d.core) : Dev.HeadsKept d d' := ⟨by rw [h], by rw [h]⟩
theorem Dev.HeadsKept.setHd {d d' : Dev} (k : Dev.HeadsKept d d') (h : Nat) (r : FieldRow) (v : Nat) : Dev.HeadsKept d (d'.setHd h r v) :=
  k.trans (.ofCore rfl)
theorem Dev.HeadsKept.gtStat {d d' : Dev} (k : Dev.HeadsKept d d') (h b : Nat) : Dev.HeadsKept d (d'.gtStat h b) := k.trans (.ofCore rfl)
theorem Dev.HeadsKept.foldl {β : Type} (f : Dev → β → Dev) (hf : ∀ d b, Dev.HeadsKept d (f d b)) (l : List β) (d : Dev) :
    Dev.HeadsKept d (l.foldl f d) := List.foldlRecOn l f (.refl d) fun e he b _ => he.trans (hf e b)
theorem Dev.Signals.headsKept {d d' : Dev} (h : Dev.Signals d d') : Dev.HeadsKept d d' := ⟨h.heads, h.fault⟩
theorem Dev.HeadsKept.gatherEvt {d d' : Dev} (k : Dev.HeadsKept d d') (h : Nat) : Dev.HeadsKept d (d'.gatherEvt h) :=
  k.trans (d'.gatherEvt_signals h).headsKept
theorem Dev.HeadsKept.head {d d' : Dev} (h : Dev.HeadsKept d d') (n : Nat) : d'.head n = d.head n := Dev.head_of_heads h.heads n

/-! ## Frames that go out (R71, R72) -/

/-- A head whose frame went out under its TAG with this payload; `us` lists the frames that wait for an ACK. -/
def Head.sent (x : Head) (typ : Nat) (payload : List Byte) (us : List Unacked) : Head :=
  { x with tag := (x.tag + 1) % 256, lastFrame := frameOctets typ x.tag payload, unacked := us }

/-- A head whose queue has given up a frame. -/
def Head.dequeued (x : Head) (f : BcFrame) : Head := { x with queue := x.queue.erase f }

/-- A payload depends on the head's run, expected SEQ and delay alone. -/
theorem Dev.framePayload_setHead (d : Dev) (h : Nat) {y : Head} (f : BcFrame) (hrun : y.run = (d.head h).run)
    (hseq : y.expSeq = (d.head h).expSeq) (hdelay : y.delay = (d.head h).delay) :
    (d.setHead h y).framePayload h f = d.framePayload h f := by
  have hcarry : (d.setHead h y).carrying h = d.carrying h := by
    unfold Dev.carrying
    rw [Dev.setHead_head, hrun]
    rfl
  unfold Dev.framePayload
  dsimp only
  rw [hcarry, Dev.setHead_head, hseq, hdelay]
  rfl

theorem Dev.putFrame_core (d : Dev) (h : Nat) (f : BcFrame) :
    ∃ us, (d.putFrame h f).core = (d.setHead h ((d.head h).sent f.typ (d.framePayload h f) us)).core := by
  unfold Dev.putFrame
  exact ⟨_, ite_both (P := fun e : Dev => e.core = _) rfl rfl⟩

theorem Dev.frameDue_typ {d : Dev} {h typ : Nat} {f : BcFrame} (hf : d.frameDue h typ = some f) : f.typ = typ := by
  unfold Dev.frameDue at hf
  split at hf
  · cases hf
  dsimp only at hf
  split at hf
  · cases hf
  split at hf
  · split at hf
    · cases hf
      assumption
    · cases hf
  · cases hf

/-- The frame that is due leaves the queue and goes out. -/
theorem Dev.sendFrame_core {d : Dev} {h typ : Nat} {f : BcFrame} (hf : d.frameDue h typ = some f) :
    ∃ e us, (d.sendFrame h typ).core = (Dev.setHead e h
      (((d.head h).dequeued f).sent typ (d.framePayload h f) us)).core ∧
      e.core.fault = d.core.fault ∧ e.core.time = d.core.time := by
  obtain ⟨us, hput⟩ := (d.setHead h ((d.head h).dequeued f)).putFrame_core h f
  rw [Dev.framePayload_setHead d h (y := (d.head h).dequeued f) f rfl rfl rfl, Dev.setHead_head, Dev.frameDue_typ hf] at hput
  unfold Dev.sendFrame
  rw [hf]
  exact ⟨_, us, hput, rfl, rfl⟩

theorem Dev.sendFrame_fault {d : Dev} {h typ : Nat} {f : BcFrame} (hf : d.frameDue h typ = some f) :
    (d.sendFrame h typ).core.fault = d.core.fault := by
  obtain ⟨_, _, hcore, hfault, _⟩ := Dev.sendFrame_core hf
  rw [hcore]
  exact hfault

theorem Dev.sendFrame_free {d : Dev} {h typ : Nat} {f : BcFrame} (hf : d.frameDue h typ = some f) :
    (d.sendFrame h typ).free = d.free := by
  obtain ⟨_, _, hcore, _, htime⟩ := Dev.sendFrame_core hf
  rw [Dev.free, hcore]
  exact congrArg TimeSt.free htime

theorem Dev.sendFrame_head {d : Dev} {h typ : Nat} {f : BcFrame} (hf : d.frameDue h typ = some f) :
    ∃ us, (d.sendFrame h typ).head h = ((d.head h).dequeued f).sent typ (d.framePayload h f) us := by
  obtain ⟨e, us, hcore, _⟩ := Dev.sendFrame_core hf
  exact ⟨us, (Dev.head_of_heads (congrArg Core.heads hcore) h).trans (e.setHead_head h _)⟩

theorem Dev.sendTrain_due {d : Dev} {h : Nat} {f : BcFrame} (hf : d.frameDue h 8 = some f) :
    d.sendTrain h = (d.sendFrame h 8).setHead h { (d.sendFrame h 8).head h with trainAt := some d.free } := by
  unfold Dev.sendTrain
  rw [hf, ← Dev.sendFrame_free hf]

/-- TIME goes out once the delay is known and only frames of its own rank or below wait. -/
theorem Dev.sendTime_due {d : Dev} {h dl : Nat} (hdelay : (d.head h).delay = some dl) (hstate : d.hdState h ∈ [1, 2, 3, 4])
    (hrank : (d.head h).queue.all (fun f => decide (5 ≤ frameRank f.typ)) = true) : d.sendTime h = d.putFrame h ⟨4, [], none⟩ := by
  have hst : d.hdState h = 1 ∨ d.hdState h = 2 ∨ d.hdState h = 3 ∨ d.hdState h = 4 := by simpa using hstate
  have hnone : (d.head h).queue.any (fun f => decide (frameRank f.typ < 5)) = false := by
    simpa [List.any_eq_false] using hrank
  unfold Dev.sendTime
  refine if_neg ?_
  rw [hnone, hdelay]
  simp only [Option.isNone_some, Bool.false_eq_true, or_false, false_or]
  omega

/-- A frame not acknowledged goes out again under its own TAG. -/
theorem Dev.resendTimeout_again {d : Dev} {h tag : Nat} {u : Unacked} (hu : (d.head h).unacked.find? (fun u => u.tag = tag) = some u)
    (hfew : u.resends < 3) : d.resendTimeout h tag = d.setHead h { d.head h with
      lastFrame := frameOctets u.frame.typ u.tag u.frame.payload
      unacked := (d.head h).unacked.map fun v => if v.tag = tag then { v with resends := v.resends + 1 } else v } := by
  unfold Dev.resendTimeout
  simp only [hu]
  exact if_pos hfew

theorem answers_sendFrame {i : Instr} {s : State} {h typ : Nat} {f : BcFrame} (he : exec i s = s.run fun d => d.sendFrame h typ)
    (hcalm : s.core.fault.raised = []) (hf : s.begin.frameDue h typ = some f) : Answers i s fun t =>
      (t.begin.head h).queue = (s.begin.head h).queue.erase f ∧ (t.begin.head h).tag = ((s.begin.head h).tag + 1) % 256 ∧
      (t.begin.head h).lastFrame = frameOctets typ (s.begin.head h).tag (s.begin.framePayload h f) := by
  obtain ⟨us, hhead⟩ := Dev.sendFrame_head hf
  refine answers_calm he ((congrArg FaultSt.raised (Dev.sendFrame_fault hf)).trans hcalm) ?_
  rw [State.commit_head, hhead]
  exact ⟨rfl, rfl, rfl⟩

theorem answers_trainFrame {s : State} {h : Fin 1024} {f : BcFrame} (hcalm : s.core.fault.raised = [])
    (hf : s.begin.frameDue h.val 8 = some f) : Answers (.trainFrame h) s fun t => ∃ us, t.begin.head h.val =
      { ((s.begin.head h.val).dequeued f).sent 8 (s.begin.framePayload h.val f) us with
        trainAt := some s.core.time.free } := by
  obtain ⟨us, hhead⟩ := Dev.sendFrame_head hf
  refine answers_calm (run_trainFrame h s) ?_ ?_ <;> simp only [Dev.sendTrain_due hf]
  · exact (congrArg FaultSt.raised (Dev.sendFrame_fault hf)).trans hcalm
  · refine ⟨us, ?_⟩
    rw [State.commit_head, Dev.setHead_head, hhead]
    rfl

theorem Answers.imp {c : Instr} {s : State} {P Q : State → Prop} (h : Answers c s P) (hPQ : ∀ t, P t → Q t) : Answers c s Q := by
  obtain ⟨t, ht, hP⟩ := h
  exact ⟨t, ht, hPQ t hP⟩

/-- Settles O33: a frame that is due leaves by `sendFrame`, TRAIN is timed besides, and a resend changes no TAG. -/
theorem backChannelFramesGoOut : Obligations.BackChannelFramesGoOut := by
  intro s h tag hcalm
  have hraised := State.calm_iff.1 hcalm
  refine ⟨fun f hf => answers_sendFrame (run_replayFrame h s) hraised hf, fun f hf => answers_sendFrame (run_laneMapFrame h s) hraised hf,
    fun f hf => answers_sendFrame (run_triggerFrame h s) hraised hf, fun f hf => answers_sendFrame (run_hostCmdFrame h s) hraised hf,
    fun f hf => answers_sendFrame (run_challengeFrame h s) hraised hf, fun f hf => answers_sendFrame (run_admitFrame h s) hraised hf,
    fun f hf => (answers_trainFrame hraised hf).imp ?_, fun f hf => answers_sendFrame (run_ackFrame h s) hraised hf,
    fun f hf => (answers_trainFrame hraised hf).imp ?_, fun dl hdelay hstate hrank => ?_, fun u hu hfew => ?_⟩
  · rintro t ⟨us, hhead⟩
    rw [hhead]
    exact ⟨rfl, rfl, rfl⟩
  · rintro t ⟨us, hhead⟩
    rw [hhead]
  · obtain ⟨us, hcore⟩ := s.begin.putFrame_core h.val ⟨4, [], none⟩
    refine answers_calm (run_timeFrame h s) ?_ ?_ <;> simp only [Dev.sendTime_due hdelay hstate hrank]
    · rw [hcore]
      exact hraised
    · rw [State.commit_head, Dev.head_of_heads (congrArg Core.heads hcore), Dev.setHead_head]
      refine ⟨?_, rfl⟩
      simp only [Head.sent, Dev.framePayload, hdelay, Option.getD_some]
  · refine answers_calm (run_backchannelResendTimeout h tag s) ?_ ?_ <;> simp only [Dev.resendTimeout_again hu hfew]
    · exact hraised
    · rw [State.commit_head, Dev.setHead_head]
      exact ⟨rfl, rfl⟩

end Sys2Proof.Machine
end

section
namespace Sys2Proof.Machine

/-! ## The bits of a lane -/

/-- GT_LOCK_STAT, GT_LANE_FAIL and GT_LANE_ON of every bank may change in all their bits. -/
theorem laneFields_ok : ∀ b : Fin 32, ∀ r ∈ [fGT_LOCK_STAT_LOCKED, fGT_LANE_FAIL_FAILED, fGT_LANE_ON_ON], fieldOk .gather b.val r 0 = true := by decide

theorem Dev.laneBit_setLaneBit_on (d : Dev) {n : Nat} (hn : n < 1024) :
    (d.setLaneBit fGT_LOCK_STAT_LOCKED n true).laneBit fGT_LOCK_STAT_LOCKED n = true := by
  have hmod : n % 32 < 32 := Nat.mod_lt n (by decide)
  have hok := laneFields_ok ⟨bankOf n, by unfold bankOf; omega⟩ fGT_LOCK_STAT_LOCKED List.mem_cons_self
  unfold Dev.laneBit Dev.setLaneBit
  rw [Dev.get_set_same d _ _ _ _ _ hok, if_pos rfl, Nat.testBit_mod_two_pow, Nat.testBit_or, Nat.testBit_two_pow_self, Bool.or_true,
    Bool.and_true]
  exact decide_eq_true hmod

/-- GT_LANE_FAIL is another register than GT_LOCK_STAT. -/
theorem Dev.locked_setFailed (d : Dev) (n k : Nat) (b : Bool) :
    (d.setLaneBit fGT_LANE_FAIL_FAILED n b).laneBit fGT_LOCK_STAT_LOCKED k = d.laneBit fGT_LOCK_STAT_LOCKED k := by
  refine congrArg (·.testBit (k % 32)) (Dev.get_set_reg d _ _ _ _ _ _ _ _ _ ?_)
  simp only [fieldAddr, PageKind.page, fGT_LANE_FAIL_FAILED, fGT_LOCK_STAT_LOCKED]
  omega

/-! ## Block lock (R65) -/

/-- A lane reads locked and its fault level ends; one that carries nothing leaves GT_LANE_FAIL. -/
def Dev.lockShown (d : Dev) (n : Nat) : Dev :=
  let d := (d.setLaneBit fGT_LOCK_STAT_LOCKED n true).endLevel (366 + n)
  if d.lmap n fGT_LMAP_IN_USE = 1 ∧ d.lmap n fGT_LMAP_ROLE = 0 then d else d.setLaneBit fGT_LANE_FAIL_FAILED n false

theorem Dev.lockShown_core (d : Dev) (n : Nat) : (d.lockShown n).core = (d.endLevel (366 + n)).core :=
  ite_both (P := fun e : Dev => e.core = _) rfl rfl

theorem Dev.Over.lockShown {s : State} {d : Dev} (h : Dev.Over s d) (n : Nat) : Dev.Over s (d.lockShown n) := by
  have hlevel : Dev.Over s ((d.setLaneBit fGT_LOCK_STAT_LOCKED n true).endLevel (366 + n)) := (h.set _ _ _ _ _).of_eq rfl rfl rfl
  exact ite_both hlevel (hlevel.set _ _ _ _ _)

theorem Dev.lockShown_locked (d : Dev) {n : Nat} (hn : n < 1024) : (d.lockShown n).laneBit fGT_LOCK_STAT_LOCKED n = true :=
  ite_both (P := fun e : Dev => e.laneBit fGT_LOCK_STAT_LOCKED n = true) (d.laneBit_setLaneBit_on hn)
    ((Dev.locked_setFailed _ _ _ _).trans (d.laneBit_setLaneBit_on hn))

/-- A lane that is on gains lock; a bank that sleeps is woken first. -/
theorem Dev.lockGained_shows {d : Dev} {n : Nat} (hon : d.laneBit fGT_LANE_ON_ON n = true)
    (hheld : d.core.fault.heldDown.contains (63 + bankOf n) = false) :
    ∃ e, d.lockGained n = e.lockShown n ∧ Dev.Signals d e ∧ (d.domState (0x69 + bankOf n) = 0 → e = d) := by
  unfold Dev.lockGained
  rw [hon, hheld, if_neg (by decide)]
  exact ⟨_, rfl, .ite (.refl d) (d.wakeBy_signals _ _), fun hdom => if_pos hdom⟩

theorem Dev.lockLost_unused {d : Dev} {n : Nat} (hlock : d.laneBit fGT_LOCK_STAT_LOCKED n = true) (hfree : d.headOfLane n = none) :
    d.lockLost n = (d.setLaneBit fGT_LOCK_STAT_LOCKED n false).setLane n Lane.rest := by
  have hfree' : ((d.setLaneBit fGT_LOCK_STAT_LOCKED n false).setLane n Lane.rest).headOfLane n = none := hfree
  unfold Dev.lockLost
  rw [hlock, if_neg (by decide)]
  simp only [hfree']

theorem Dev.lockLost_unlocked {d : Dev} {n : Nat} (hlock : d.laneBit fGT_LOCK_STAT_LOCKED n = false) : d.lockLost n = d := by
  unfold Dev.lockLost
  rw [hlock]
  rfl

/-! ## ALIGN blocks (R66, R67) -/

/-- What an ALIGN block shows of a lane at this instant. -/
def Dev.seenLane (d : Dev) (n logical carry spares count bad : Nat) : Lane :=
  ⟨logical, carry, spares, count, d.free, if 16 < bad then (d.lane n).bad + 1 else 0, true⟩

/-- A lane whose ALIGN block is learned. -/
def Dev.aligned (d : Dev) (n logical carry spares count bad : Nat) : Dev :=
  (d.setLmap n fGT_LMAP_SYNC_ERR (min 255 (d.lmap n fGT_LMAP_SYNC_ERR + bad))).setLane n (d.seenLane n logical carry spares count bad)

/-- The lowest lane of a run that an ALIGN block of lane `n` completes. -/
def Dev.runStart (d : Dev) (n carry spares : Nat) : Option Nat :=
  ((List.range (carry + spares)).map fun k => n + k + 1 - (carry + spares)).find? fun a =>
    decide (n < a + (carry + spares) ∧ a ≤ n) && d.runAt a carry spares

/-- On a lane of no head the block is learned, and a run that it completes forms a head. -/
theorem Dev.alignBlock_unused {d : Dev} {n : Nat} (hlock : d.laneBit fGT_LOCK_STAT_LOCKED n = true) (hfree : d.headOfLane n = none)
    (logical carry spares count bad : Nat) : d.alignBlock n logical carry spares count bad =
      if carry = 0 ∨ 32 < carry + spares ∨ 2 < spares then d.aligned n logical carry spares count bad
      else match (d.aligned n logical carry spares count bad).runStart n carry spares with
        | some a => (d.aligned n logical carry spares count bad).learnRun a carry spares
        | none => d.aligned n logical carry spares count bad := by
  have hfree' : ∀ v l, ((d.setLmap n fGT_LMAP_SYNC_ERR v).setLane n l).headOfLane n = none := fun _ _ => hfree
  unfold Dev.alignBlock
  rw [hlock, if_neg (by decide)]
  simp only [hfree']
  rfl

/-- A run that has shown itself becomes a head, which is to be sent TRAIN. -/
theorem Dev.learnRun_forms (d : Dev) (a n s : Nat) : ∃ (e : Dev) (y : Head), d.learnRun a n s = e.setHead a y ∧ e.core = d.core ∧
    y.run = (List.range (n + s)).map (a + ·) ∧ y.queue = [⟨8, [1#8], none⟩] := by
  refine ⟨_, _, rfl, ?_, rfl, rfl⟩
  simp only [Dev.setHd_core]
  exact List.foldlRecOn _ _ (motive := fun e : Dev => e.core = d.core) rfl fun e he _ _ => he

theorem Dev.alignBlock_lane {d : Dev} {n : Nat} (hlock : d.laneBit fGT_LOCK_STAT_LOCKED n = true) (hfree : d.headOfLane n = none)
    (logical carry spares count bad : Nat) :
    (d.alignBlock n logical carry spares count bad).core.fault = d.core.fault ∧
      (d.alignBlock n logical carry spares count bad).lane n = d.seenLane n logical carry spares count bad := by
  have hseen : (d.aligned n logical carry spares count bad).lane n = d.seenLane n logical carry spares count bad := Dev.setLane_lane _ _ _
  rw [Dev.alignBlock_unused hlock hfree]
  split
  · exact ⟨rfl, hseen⟩
  split
  · rename_i a _
    obtain ⟨e, y, hform, hcore, _⟩ := (d.aligned n logical carry spares count bad).learnRun_forms a carry spares
    rw [hform, Dev.lane, Dev.setHead_core_fault, Dev.setHead_core_lanes, hcore]
    exact ⟨rfl, hseen⟩
  · exact ⟨rfl, hseen⟩

/-- A lane that shows itself as the one lane of a head is a run. -/
theorem Dev.runStart_single {d : Dev} {n count bad : Nat} (hfree : d.headOfLane n = none) :
    (d.aligned n 0 1 0 count bad).runStart n 1 0 = some n := by
  have hseen : (d.aligned n 0 1 0 count bad).lane n = d.seenLane n 0 1 0 count bad := Dev.setLane_lane _ _ _
  have hfree' : (d.aligned n 0 1 0 count bad).headOfLane n = none := hfree
  have hrun : (d.aligned n 0 1 0 count bad).runAt n 1 0 = true := by
    simp [Dev.runAt, Dev.runShown, List.range_succ, hseen, hfree', Dev.seenLane]
  simp [Dev.runStart, List.range_succ, hrun]

theorem Dev.alignBlock_single {d : Dev} {n : Nat} (hlock : d.laneBit fGT_LOCK_STAT_LOCKED n = true) (hfree : d.headOfLane n = none)
    (count bad : Nat) : ((d.alignBlock n 0 1 0 count bad).head n).run = [n] ∧
      ((d.alignBlock n 0 1 0 count bad).head n).queue = [⟨8, [1#8], none⟩] := by
  obtain ⟨e, y, hform, _, hrun, hqueue⟩ := (d.aligned n 0 1 0 count bad).learnRun_forms n 1 0
  rw [Dev.alignBlock_unused hlock hfree, if_neg (by decide), Dev.runStart_single hfree]
  dsimp only
  rw [hform, Dev.setHead_head, hrun, hqueue]
  exact ⟨rfl, rfl⟩

/-! ## A link that is lost (R79) -/

/-- A head whose lanes are gone: its run, its sequence, its delay and its frames are forgotten. -/
def Head.lost (x : Head) : Head :=
  { x with run := [], expSeq := none, gap := false, fails := 0, mapOut := false, replayOut := false,
           delay := none, trainAt := none, queue := [], unacked := [] }

/-- The lanes of a run, in use no more and not failed. -/
def Dev.runFreed (d : Dev) (run : List Nat) : Dev :=
  run.foldl (fun (d : Dev) n => (d.setLmap n fGT_LMAP_IN_USE 0).setLaneBit fGT_LANE_FAIL_FAILED n false) d

theorem Dev.runFreed_kept (d : Dev) (run : List Nat) : Dev.HeadsKept d (d.runFreed run) := by
  refine .foldl _ (fun e _ => ?_) _ _
  exact .ofCore rfl

/-- Besides the head's own loss, a lost link frees its lanes, fails its commands and tells of a head that was admitted. -/
theorem Dev.linkLost_loses {d : Dev} {h : Nat} (hrun : (d.head h).run ≠ []) (hstate : d.hdState h ≠ 5)
    (hlocks : (d.head h).run.all (fun k => !d.laneBit fGT_LOCK_STAT_LOCKED k) = true) :
    ∃ e, Dev.HeadsKept (e.setHead h (d.head h).lost) (d.linkLost h) ∧ Dev.HeadsKept d e := by
  have hany : (d.head h).run.any (fun k => d.laneBit fGT_LOCK_STAT_LOCKED k) = false := by
    simpa [List.any_eq_false] using hlocks
  unfold Dev.linkLost
  dsimp only
  rw [hany, if_neg (by simp [hrun, hstate])]
  refine ⟨d.runFreed (d.head h).run, ite_both (P := Dev.HeadsKept _) (.gatherEvt (.gtStat (.setHd ?_ _ _ _) _ _) _) (.setHd ?_ _ _ _),
    d.runFreed_kept _⟩ <;>
  · refine Dev.HeadsKept.foldl _ (fun e u => ?_) _ _
    split <;> exact ⟨rfl, rfl⟩

theorem Dev.linkLost_head {d : Dev} {h : Nat} (hrun : (d.head h).run ≠ []) (hstate : d.hdState h ≠ 5)
    (hlocks : (d.head h).run.all (fun k => !d.laneBit fGT_LOCK_STAT_LOCKED k) = true) :
    (d.linkLost h).core.fault = d.core.fault ∧ (d.linkLost h).head h = (d.head h).lost := by
  obtain ⟨e, hloses, hlanes⟩ := Dev.linkLost_loses hrun hstate hlocks
  exact ⟨hloses.fault.trans hlanes.fault, (hloses.head h).trans (e.setHead_head h _)⟩

/-! ## Wake patterns (R81) -/

theorem Dev.wakePattern_tells (d : Dev) (n : Nat) :
    Dev.HeadsKept d (d.wakePattern n) ∧ ((d.wakePattern n).evt (16 + bankOf n)).level = true := by
  have hcount : Dev.HeadsKept d ((d.bump .gather (bankOf n) fGT_WAKE_CNT_WAKES).gtStat n 5) := .ofCore rfl
  exact ⟨(hcount.trans (Dev.wakeBy_signals _ _ _).headsKept).trans (Dev.gatherEvt_signals _ _).headsKept, Dev.assertEvt_level _ _⟩

/-! ## The lanes -/

/-- Settles O34: a lane without a head is judged by itself, and what else the bank does is told by signals. -/
theorem lanesLockAlignAndFail : Obligations.LanesLockAlignAndFail := by
  intro s n logical carry spares count bad hcalm x seen
  have hraised := State.calm_iff.1 hcalm
  refine ⟨fun hon hheld => ?_, fun hlock hfree => ?_, fun hlock hfree => ?_, fun hlock hfree hl hc hs => ?_, fun hrun hstate hlocks => ?_, ?_⟩
  · obtain ⟨e, hshow, hsig, hawake⟩ := Dev.lockGained_shows hon hheld
    refine answers_calm (run_blockLockGained n s) ?_ ?_ <;> simp only [hshow]
    · rw [Dev.lockShown_core, Dev.endLevel_raised, hsig.fault]
      exact hraised
    · have hcore := e.lockShown_core n.val
      refine ⟨?_, ?_, fun hdom => ?_⟩
      · rw [show (s.commit (e.lockShown n.val)).begin.frec (366 + n.val) = (e.endLevel (366 + n.val)).frec (366 + n.val) from
          congrArg (fun c : Core => tget FaultRec.rest c.fault.recs (366 + n.val)) hcore]
        exact congrArg FaultRec.level (Dev.setFrec_frec _ _ _)
      · exact (congrArg Core.lanes hcore).trans hsig.lanes
      · obtain rfl := hawake hdom
        rw [Dev.laneBit, State.commit_get ((Dev.Over.begin s).lockShown n.val)]
        exact Dev.lockShown_locked _ n.isLt
  · refine answers_calm (run_blockLockLost n s) ?_ ?_ <;> simp only [Dev.lockLost_unused hlock hfree]
    · exact hraised
    · exact ⟨Dev.setLane_lane _ _ _, rfl⟩
  · obtain ⟨hfault, hlane⟩ := Dev.alignBlock_lane hlock hfree logical.toNat carry.toNat spares.toNat count.toNat bad
    exact answers_calm (run_align n logical carry spares count bad s) ((congrArg FaultSt.raised hfault).trans hraised) hlane
  · subst hl hc hs
    obtain ⟨hfault, _⟩ := Dev.alignBlock_lane hlock hfree 0 1 0 count.toNat bad
    exact answers_calm (run_align n 0 1 0 count bad s) ((congrArg FaultSt.raised hfault).trans hraised)
      (Dev.alignBlock_single hlock hfree count.toNat bad)
  · obtain ⟨hfault, hhead⟩ := Dev.linkLost_head hrun hstate hlocks
    exact answers_calm (run_linkLost n s) ((congrArg FaultSt.raised hfault).trans hraised) hhead
  · obtain ⟨hkept, hlevel⟩ := s.begin.wakePattern_tells n.val
    exact answers_calm (run_wakePattern n s) ((congrArg FaultSt.raised hkept.fault).trans hraised) ⟨hlevel, hkept.heads⟩

end Sys2Proof.Machine
end

section
namespace Sys2Proof.Machine

/-! ## Writes of a Gather page -/

/-- A Gather bank's place in the block base table. -/
def gatherInfo (b : Nat) : PageInfo := ⟨.gather, 0x14, b, 0x80 + b, 1, 0x69 + b⟩

theorem pageInfo_gather : ∀ b : Fin 32, pageInfo (0x80 + b.val) = some (gatherInfo b.val) := by decide

/-- GT_LANE_ON and GT_QREL are written directly. -/
theorem gather_plain : ∀ off ∈ [0x04C, 0x050], (regFields .gather off).isEmpty = false ∧ guardedAt .gather off = false ∧
    (hasAcc .gather off .rw || hasAcc .gather off .wo) = true := by decide

/-- What a write to GT_LANE_ON or GT_QREL does. -/
def Dev.gatherWrite (d : Dev) (b off : Nat) (v : Word) : Dev := if off = 0x04C then d.writeLaneOn b v else d.qrel b v

theorem Dev.writeAct_gather (d : Dev) (mst b page : Nat) {off : Nat} (hoff : off ∈ [0x04C, 0x050]) (v : Word) :
    d.writeAct mst (gatherInfo b).ofKind page off v = (d.gatherWrite b off v, true) := by
  have hoff' : off = 0x04C ∨ off = 0x050 := by simpa using hoff
  have hallowed : d.writeAllowed .gather off = true := rfl
  unfold Dev.writeAct
  rw [if_neg (by omega), if_neg (by omega), if_neg (by omega)]
  simp only [gatherInfo, PageInfo.ofKind, hallowed, Bool.not_true, Bool.false_eq_true, if_false]
  rcases hoff' with rfl | rfl <;> rfl

theorem Dev.busWrite_gather {s : State} {b : Fin 32} (ho : s.opens (0x80 + b.val) = true) (mst : Nat) {off : Nat} (hoff : off ∈ [0x04C, 0x050])
    (v : Word) : s.begin.busWrite mst ((0x80 + b.val) * 4096 + off) v = (s.begin.gatherWrite b.val off v).expirePend (0x80 + b.val) := by
  obtain ⟨hfields, hguard, hacc⟩ := gather_plain off hoff
  have hoff' : off = 0x04C ∨ off = 0x050 := by simpa using hoff
  rw [Dev.busWrite_open ho (pageInfo_gather b) (by omega) (by omega) hfields hguard (by omega) hacc, Dev.writeAct_gather _ _ _ _ hoff]

/-- A write of a Gather page that leaves the host port and the collector alone is all that the command does. -/
theorem answers_gather {i : Instr} {s : State} {b : Fin 32} {mst off : Nat} {v : Word} {e : Dev} {P : State → Prop}
    (he : exec i s = s.run fun d => d.busWrite mst ((0x80 + b.val) * 4096 + off) v) (ho : s.opens (0x80 + b.val) = true)
    (hoff : off ∈ [0x04C, 0x050]) (hw : s.begin.gatherWrite b.val off v = e)
    (hhost : e.core.host = s.core.host) (hfault : e.core.fault = s.core.fault) (hP : P (s.commit e)) : Answers i s P := by
  have o := State.opens_elim ho
  have heff : s.begin.busWrite mst ((0x80 + b.val) * 4096 + off) v = e := by
    rw [Dev.busWrite_gather ho mst hoff, hw]
    exact Dev.expirePend_none ((congrArg HostPort.guards hhost).trans o.noPair)
  refine answers_calm he ?_ ?_ <;> simp only [heff]
  · exact (congrArg FaultSt.raised hfault).trans o.calm
  · exact hP

/-! ## GT_LANE_ON (R65) -/

/-- Where no lane is locked, GT_LANE_ON takes its value and nothing else happens. -/
theorem Dev.writeLaneOn_unlocked {d : Dev} {bank : Nat} (hlock : d.get .gather bank fGT_LOCK_STAT_LOCKED = 0) (v : Word) :
    d.writeLaneOn bank v = d.set .gather bank fGT_LANE_ON_ON v.toNat := by
  have hkeep : (d.set .gather bank fGT_LANE_ON_ON v.toNat).get .gather bank fGT_LOCK_STAT_LOCKED = 0 := by
    refine (Dev.get_set_reg d _ _ _ _ _ _ _ _ _ ?_).trans hlock
    simp only [fieldAddr, PageKind.page, fGT_LOCK_STAT_LOCKED, fGT_LANE_ON_ON]
    omega
  refine List.foldlRecOn (motive := fun e : Dev => e = d.set .gather bank fGT_LANE_ON_ON v.toNat) _ _ rfl ?_
  rintro e rfl i hi
  have hbank : bankOf (32 * bank + i) = bank := by
    have := List.mem_range.1 hi
    unfold bankOf
    omega
  refine ite_both (P := fun e : Dev => e = _) rfl (Dev.lockLost_unlocked ?_)
  rw [Dev.laneBit, hbank, hkeep, Nat.zero_testBit]

/-! ## GT_QREL (Table 4.9 case 5) -/

/-- A head that is released: no HELLO answered, no SEQ expected, no frame queued or unacknowledged. -/
def Head.released (x : Head) : Head := { x with helloAt := none, expSeq := none, queue := [], unacked := [] }

/-- A head with no frame queued and no HELLO answered. -/
def Head.silent (x : Head) : Prop := x.queue = [] ∧ x.helloAt = none

/-- GT_QREL at one slot of the bank: where the word names it and it is quarantined, it is released. -/
def Dev.qrelSlot (d : Dev) (bank : Nat) (v : Word) (i : Nat) : Dev :=
  if v.getLsbD i ∧ d.hdState (bank * 32 + i) = 5 then
    (d.setHead (bank * 32 + i) (d.head (bank * 32 + i)).released).setHd (bank * 32 + i) fHD_STAT_STATE
      (if (d.head (bank * 32 + i)).run.any fun n => d.laneBit fGT_LOCK_STAT_LOCKED n then 1 else 0)
  else d

theorem Dev.qrel_slots (d : Dev) (bank : Nat) (v : Word) : d.qrel bank v = (List.range 32).foldl (fun (d : Dev) i => d.qrelSlot bank v i) d := rfl

section
variable (d : Dev) (bank : Nat) (v : Word) (i : Nat)

/-- What a release leaves alone. -/
theorem Dev.qrelSlot_frame : (d.qrelSlot bank v i).core.host = d.core.host ∧ (d.qrelSlot bank v i).core.fault = d.core.fault ∧
    (d.qrelSlot bank v i).core.lanes = d.core.lanes := by
  unfold Dev.qrelSlot
  split <;> exact ⟨rfl, rfl, rfl⟩

theorem Dev.qrelSlot_released (hv : v.getLsbD i = true) (hq : d.hdState (bank * 32 + i) = 5) :
    (d.qrelSlot bank v i).head (bank * 32 + i) = (d.head (bank * 32 + i)).released := by
  unfold Dev.qrelSlot
  rw [if_pos ⟨hv, hq⟩]
  exact Dev.setHead_head _ _ _

/-- A release of another slot leaves this slot's state and head alone. -/
theorem Dev.qrelSlot_other {k : Nat} (hk : k ≠ bank * 32 + i) :
    (d.qrelSlot bank v i).hdState k = d.hdState k ∧ (d.qrelSlot bank v i).head k = d.head k := by
  unfold Dev.qrelSlot
  split
  · refine ⟨?_, Dev.setHead_head_other d hk _⟩
    refine Dev.get_set_reg _ _ _ _ _ _ _ _ _ _ ?_
    simp only [fieldAddr, PageKind.page, fHD_STAT_STATE, bankOf]
    omega
  · exact ⟨rfl, rfl⟩

theorem Dev.qrelSlot_silent {k : Nat} (hs : (d.head k).silent) : ((d.qrelSlot bank v i).head k).silent := by
  by_cases hk : k = bank * 32 + i
  · subst hk
    by_cases hq : v.getLsbD i = true ∧ d.hdState (bank * 32 + i) = 5
    · rw [d.qrelSlot_released bank v i hq.1 hq.2]
      exact ⟨rfl, rfl⟩
    · rw [Dev.qrelSlot, if_neg hq]
      exact hs
  · rw [(d.qrelSlot_other bank v i hk).2]
    exact hs
end

theorem Dev.qrel_frame (d : Dev) (bank : Nat) (v : Word) : (d.qrel bank v).core.host = d.core.host ∧
    (d.qrel bank v).core.fault = d.core.fault ∧ (d.qrel bank v).core.lanes = d.core.lanes := by
  rw [Dev.qrel_slots]
  refine List.foldlRecOn (motive := fun e : Dev => e.core.host = d.core.host ∧ e.core.fault = d.core.fault ∧ e.core.lanes = d.core.lanes) _ _
    ⟨rfl, rfl, rfl⟩ fun e he i _ => ?_
  obtain ⟨hhost, hfault, hlanes⟩ := e.qrelSlot_frame bank v i
  obtain ⟨ghost, gfault, glanes⟩ := he
  exact ⟨hhost.trans ghost, hfault.trans gfault, hlanes.trans glanes⟩

/-- A quarantined slot that the word names is silent once GT_QREL has come to it. -/
theorem Dev.qrelSlots_silent (bank i : Nat) {v : Word} (hv : v.getLsbD i = true) (l : List Nat) (hi : i ∈ l) : ∀ d : Dev,
    d.hdState (bank * 32 + i) = 5 → ((l.foldl (fun (d : Dev) j => d.qrelSlot bank v j) d).head (bank * 32 + i)).silent := by
  induction l with
  | nil => cases hi
  | cons j l ih =>
    intro d hq
    rw [List.foldl_cons]
    by_cases hj : j = i
    · subst hj
      refine List.foldlRecOn (motive := fun e : Dev => (e.head (bank * 32 + j)).silent) _ _ ?_ fun e he k _ => e.qrelSlot_silent bank v k he
      rw [d.qrelSlot_released bank v j hv hq]
      exact ⟨rfl, rfl⟩
    · refine ih ((List.mem_cons.1 hi).resolve_left (Ne.symm hj)) _ ?_
      rw [(d.qrelSlot_other bank v j (by omega)).1]
      exact hq

/-- Settles O35: GT_QREL releases slot by slot, and GT_LANE_ON only stores where no lane was locked. -/
theorem gatherReleasesAndEnables : Obligations.GatherReleasesAndEnables := by
  intro s mst bank v ho
  refine ⟨fun i hi hv hq => ?_, fun hlock => ?_⟩
  · obtain ⟨hhost, hfault, hlanes⟩ := s.begin.qrel_frame bank.val v
    refine answers_gather (run_gtQrel mst bank v s) ho (by decide) rfl hhost hfault ?_
    obtain ⟨hqueue, hhello⟩ := Dev.qrelSlots_silent bank.val i hv (List.range 32) (List.mem_range.2 hi) s.begin hq
    rw [← Dev.qrel_slots] at hqueue hhello
    exact ⟨hqueue, hhello, hlanes⟩
  · refine answers_gather (run_gtLaneOn mst bank v s) ho (by decide) (Dev.writeLaneOn_unlocked hlock v) rfl rfl ⟨?_, rfl⟩
    rw [State.commit_get ((Dev.Over.begin s).set _ _ _ _ _)]
    exact Dev.get_set_fits _ _ _ _ _ _ (laneFields_ok bank _ (by decide)) v.isLt

end Sys2Proof.Machine
end

section
namespace Sys2Proof.Machine

/-! ## A head that is changed, and signals besides -/

/-- A command that changes one head, raises no fault and otherwise only signals leaves the head as it changed it. -/
theorem answers_setHead {i : Instr} {s : State} {f : Dev → Dev} {e : Dev} {h : Nat} {y : Head} {P : Head → Prop} (he : exec i s = s.run f)
    (hcalm : s.core.fault.raised = []) (hk : Dev.HeadsKept (e.setHead h y) (f s.begin)) (hf : e.core.fault = s.core.fault) (hP : P y) :
    Answers i s fun t => P (t.begin.head h) := by
  refine answers_calm he ((congrArg FaultSt.raised (hk.fault.trans hf)).trans hcalm) ?_
  rw [State.commit_head, hk.head, Dev.setHead_head]
  exact hP

/-- A quarantined head: only ACKs and the ADMIT with its cause are left to send. -/
def Head.quarantined (x : Head) (h cause : Nat) : Head :=
  { x with queue := (x.queue.filter fun f => f.typ = 9) ++ [⟨7, leBytes 1 cause ++ beBytes 2 h, none⟩], unacked := [] }

/-- Cause 5 alone is a fault of the bank. -/
theorem Dev.quarantine_kept (d : Dev) (h : Nat) {cause : Nat} (hc : cause ≠ 5) :
    Dev.HeadsKept (d.setHead h ((d.head h).quarantined h cause)) (d.quarantine h cause) := by
  unfold Dev.quarantine
  dsimp only
  rw [if_neg hc]
  refine .gatherEvt ?_ h
  exact .ofCore rfl

/-- An admitted head: both credits at their caps, no discard counted, the ADMIT of code 0 queued. -/
def Head.admitted (x : Head) (h : Nat) : Head :=
  { x with credS := 64 * sampleStep ((x.decl.map (·.rate)).getD 0), credM := 64 * ((x.decl.map (·.metaRate)).getD 0 * 51), discards := 0,
           queue := x.queue ++ [⟨7, leBytes 1 0 ++ beBytes 2 h, none⟩] }

theorem Dev.admitHead_kept (d : Dev) (h : Nat) : Dev.HeadsKept (d.setHead h ((d.head h).admitted h)) (d.admitHead h) := by
  unfold Dev.admitHead
  refine .gatherEvt ?_ h
  exact .ofCore rfl

/-! ## The expected SEQ (R77) -/

/-- A head whose expected packet arrived whole. -/
def Head.took (x : Head) (seq : Nat) : Head :=
  { x with expSeq := some ((seq + 1) % 65536), fails := 0, gap := false, replayOut := false, mapOut := false,
           queue := x.queue.filter fun f => f.typ ≠ 1 }

theorem Dev.seqCheck_inOrder {d : Dev} {h : Nat} {p : List Byte} (hcrc : pktCrcOk p = true) (hseq : (d.head h).expSeq = some (pktHdr p).seq) :
    d.seqCheck h p = (d.setHead h ((d.head h).took (pktHdr p).seq), true) := by
  have hdelta : ((pktHdr p).seq + 65536 - (pktHdr p).seq) % 65536 = 0 := by rw [Nat.add_sub_cancel_left]
  unfold Dev.seqCheck
  simp only [hseq, hcrc, hdelta]
  rfl

/-! ## HELLO (R73, R74) -/

/-- The head's declaration, its HELLO and the time of it are those of this packet, and no fault was raised. -/
structure Dev.HelloTaken (d : Dev) (h : Nat) (p : List Byte) (e : Dev) : Prop where
  fault : e.core.fault = d.core.fault
  decl : (e.head h).decl = some (parseHello (pktPayload p))
  hello : (e.head h).hello = p.take 16 ++ pktPayload p
  helloAt : (e.head h).helloAt = some d.free

section
variable {d e e' : Dev} {h : Nat} {p : List Byte} (t : Dev.HelloTaken d h p e)
include t

/-- A change of the head that keeps what the HELLO set. -/
theorem Dev.HelloTaken.setHead {y : Head} (hk : Dev.HeadsKept (e.setHead h y) e') (hdecl : y.decl = (e.head h).decl)
    (hhello : y.hello = (e.head h).hello) (hat : y.helloAt = (e.head h).helloAt) : Dev.HelloTaken d h p e' := by
  have hy : e'.head h = y := (hk.head h).trans (e.setHead_head h y)
  exact ⟨hk.fault.trans t.fault, by rw [hy, hdecl, t.decl], by rw [hy, hhello, t.hello], by rw [hy, hat, t.helloAt]⟩

theorem Dev.HelloTaken.quarantine {cause : Nat} (hc : cause ≠ 5) : Dev.HelloTaken d h p (e.quarantine h cause) :=
  t.setHead (e.quarantine_kept h hc) rfl rfl rfl

theorem Dev.HelloTaken.admitHead : Dev.HelloTaken d h p (e.admitHead h) := t.setHead (e.admitHead_kept h) rfl rfl rfl
end

/-- A head that has declared itself: the next SEQ is expected and the HELLO's ACK queued. -/
def Head.declared (x : Head) (p : List Byte) (now : Nat) : Head :=
  { x with expSeq := some (((pktHdr p).seq + 1) % 65536), gap := false, fails := 0, decl := some (parseHello (pktPayload p)),
           hello := p.take 16 ++ pktPayload p, helloAt := some now, queue := x.queue ++ [⟨9, beBytes 2 (pktHdr p).seq, none⟩] }

/-- The declaration is shown in the head's registers. -/
def Dev.declared (d : Dev) (h : Nat) (p : List Byte) : Dev :=
  let decl := parseHello (pktPayload p)
  let d := d.setHead h ((d.head h).declared p d.free)
  let d := (d.setHd h fHD_STAT_STATE 2).setHd h fHD_SERIAL_LO_SERIAL_LO decl.serial
  (d.setHd h fHD_SERIAL_HI_SERIAL_HI (decl.serial / 2 ^ 32)).setHd h fHD_RATE_SAMPLE_RATE decl.rate

/-- A challenge of R76 is sent to the head. -/
def Dev.challenge (d : Dev) (h : Nat) : Dev :=
  let x := d.head h
  let n := beBytes 32 (Config.nonce h x.nonces).toNat
  (d.setHead h { x with nonce := n, nonces := x.nonces + 1, queue := x.queue ++ [⟨6, n, none⟩] }).setHd h fHD_STAT_STATE 3

/-- The bank's policy judges a declaration (R74, R75). -/
def Dev.judgeHello (d : Dev) (h : Nat) (decl : HeadDecl) : Dev :=
  let pol := d.get .gather (bankOf h) fGT_CFG_POLICY
  if !(decl.ok (d.hd h fHD_STAT_CARRY) (d.hd h fHD_STAT_SPARES) && d.runOk h) then d.quarantine h 4
  else if pol = 0 then d.admitHead h
  else if pol = 1 then if d.core.allow.contains decl.serial then d.admitHead h else d.quarantine h 1
  else if d.get .gather (bankOf h) fGT_KEY_LOADED = 0 then d.quarantine h 7
  else d.challenge h

theorem Dev.takeHello_judges (d : Dev) (h : Nat) (p : List Byte) :
    d.takeHello h p = (d.declared h p).judgeHello h (parseHello (pktPayload p)) := rfl

theorem Dev.declared_taken (d : Dev) (h : Nat) (p : List Byte) : Dev.HelloTaken d h p (d.declared h p) := by
  have hhead : (d.declared h p).head h = (d.head h).declared p d.free := Dev.setHead_head d h _
  exact ⟨rfl, by rw [hhead]; rfl, by rw [hhead]; rfl, by rw [hhead]; rfl⟩

theorem Dev.HelloTaken.judged {d e : Dev} {h : Nat} {p : List Byte} (t : Dev.HelloTaken d h p e) (decl : HeadDecl) :
    Dev.HelloTaken d h p (e.judgeHello h decl) := by
  have hchallenge : Dev.HelloTaken d h p (e.challenge h) := t.setHead (.ofCore rfl) rfl rfl rfl
  exact ite_both (t.quarantine (by decide)) (ite_both t.admitHead (ite_both (ite_both t.admitHead (t.quarantine (by decide)))
    (ite_both (t.quarantine (by decide)) hchallenge)))

/-- A HELLO of a head in training is taken, unless one was answered in the last 10 ms. -/
theorem Dev.recvHello_takes {d : Dev} {h : Nat} {p : List Byte} (hcrc : pktCrcOk p = true) (hstate : d.hdState h = 1)
    (hdelay : (d.head h).delay.isSome = true) (hrun : (d.head h).run ≠ []) (hflags : (pktHdr p).flags % 64 = 0) (hresv : (pktHdr p).resv = 0)
    (hline : (pktHdr p).line = 0) (hoff : (pktHdr p).off = 0) (hdepth : (pktHdr p).depth = 0) (hcount : 28 ≤ (pktHdr p).count)
    (hlast : ∀ t, (d.head h).helloAt = some t → t + 10000000 ≤ d.free) : d.recvHello h p = d.takeHello h p := by
  have hwell : ¬ ((d.head h).delay.isNone = true ∨ (d.head h).run.isEmpty = true ∨ (pktHdr p).flags % 64 ≠ 0 ∨ (pktHdr p).resv ≠ 0 ∨
      (pktHdr p).line ≠ 0 ∨ (pktHdr p).off ≠ 0 ∨ (pktHdr p).depth ≠ 0 ∨ (pktHdr p).count < 28) := by
    simp [hrun, hflags, hresv, hline, hoff, hdepth, hcount, Option.isSome_iff_ne_none.1 hdelay]
  unfold Dev.recvHello
  simp only [hcrc, hstate]
  rw [if_neg (by decide), if_neg (by decide), if_neg hwell, if_neg (by decide)]
  split
  · rename_i t ht
    exact if_neg (Nat.not_lt.2 (hlast t ht))
  · rfl

/-! ## RESPONSE (R76) -/

section
variable {d : Dev} {h : Nat} {p : List Byte} (hcrc : pktCrcOk p = true) (hseq : (d.head h).expSeq = some (pktHdr p).seq)
include hcrc hseq

/-- A RESPONSE in order, of a head that is challenged, is compared with the tag of R76. -/
theorem Dev.recvResponse_compares (hplain : (pktHdr p).plain 32 = true) (hstate : d.hdState h = 3) :
    d.recvResponse h p = if pktPayload p = authTag (d.core.stageKey.getD []) (((d.head h).decl.map (·.serial)).getD 0) (d.head h).nonce (d.head h).hello
      then ((d.setHead h ((d.head h).took (pktHdr p).seq)).queueFrame h ⟨9, beBytes 2 (pktHdr p).seq, none⟩).admitHead h
      else (d.setHead h ((d.head h).took (pktHdr p).seq)).quarantine h 2 := by
  have hstate' : (d.setHead h ((d.head h).took (pktHdr p).seq)).hdState h = 3 := hstate
  unfold Dev.recvResponse
  simp only [Dev.seqCheck_inOrder hcrc hseq, hplain, hstate', Dev.setHead_head]
  rfl

/-- An ACK in order takes the frame it names from the list. -/
theorem Dev.recvAck_takes (hplain : (pktHdr p).plain 2 = true) (hstate : d.hdState h = 4) :
    ∃ (e : Dev) (y : Head), Dev.HeadsKept (e.setHead h y) (d.recvAck h p) ∧ e.core.fault = d.core.fault ∧
      y.unacked = (d.head h).unacked.filter fun u => u.tag ≠ fieldBe (pktPayload p) 0 1 := by
  have hstate' : (d.setHead h ((d.head h).took (pktHdr p).seq)).hdState h = 4 := hstate
  unfold Dev.recvAck
  simp only [Dev.seqCheck_inOrder hcrc hseq, hplain, hstate', Dev.setHead_head]
  rw [if_neg (by decide), if_neg (by decide)]
  refine ⟨d.setHead h ((d.head h).took (pktHdr p).seq), { (d.head h).took (pktHdr p).seq with
    unacked := (d.head h).unacked.filter fun u => u.tag ≠ fieldBe (pktPayload p) 0 1 }, ?_, rfl, rfl⟩
  split
  · split
    · exact ⟨rfl, rfl⟩
    · exact .refl _
  · exact .refl _
end

theorem Dev.recvEcho_times {d : Dev} {h a : Nat} {p : List Byte} (htrain : (d.head h).trainAt = some a) (hstate : d.hdState h = 1)
    (hcrc : pktCrcOk p = true) (hplain : (pktHdr p).plain 3 = true) : d.recvEcho h p = d.setHead h { d.head h with
      delay := some ((d.free - a - fieldBe (pktPayload p) 1 2) / 2), trainAt := none } := by
  unfold Dev.recvEcho
  simp only [htrain]
  exact if_pos ⟨hstate, hcrc, hplain⟩

/-- ACKs are not REPLAYs: taking a packet in order leaves them queued. -/
theorem Head.took_acks (x : Head) (seq : Nat) : (x.took seq).queue.filter (fun f => f.typ = 9) = x.queue.filter fun f => f.typ = 9 := by
  refine (List.filter_filter ..).trans (List.filter_congr fun f _ => ?_)
  by_cases h : f.typ = 9 <;> simp [h]

/-- Settles O36: HELLO, RESPONSE and ECHO change the head as `declared`, `admitted` and `quarantined` say, an ACK its list of frames. -/
theorem headsDeclareAndAreAdmitted : Obligations.HeadsDeclareAndAreAdmitted := by
  intro s h p hcalm x k inOrder
  have hraised := State.calm_iff.1 hcalm
  refine ⟨fun hcrc hstate hdelay hrun hflags hresv hline hoff hdepth hcount hlast => ?_, fun ⟨hcrc, hseq⟩ hplain hstate htag => ?_,
    fun ⟨hcrc, hseq⟩ hplain hstate htag => ?_, fun hstate => ?_, fun ⟨hcrc, hseq⟩ hplain hstate => ?_, fun a htrain hstate hcrc hplain => ?_⟩
  · obtain ⟨hfault, hdecl, hhello, hat⟩ := (s.begin.declared_taken h.val p).judged (parseHello (pktPayload p))
    refine answers_calm (run_hello h p s) ?_ ?_ <;>
      simp only [Dev.recvHello_takes hcrc hstate hdelay hrun hflags hresv hline hoff hdepth hcount hlast, Dev.takeHello_judges]
    · exact (congrArg FaultSt.raised hfault).trans hraised
    · exact ⟨hdecl, hhello, hat⟩
  · have heff := (Dev.recvResponse_compares hcrc hseq hplain hstate).trans (if_pos htag)
    have hkept := Dev.admitHead_kept ((s.begin.setHead h.val (x.took k.seq)).queueFrame h.val ⟨9, beBytes 2 k.seq, none⟩) h.val
    rw [← heff] at hkept
    refine answers_setHead (P := fun y => y.queue = _) (run_response h p s) hraised hkept rfl ?_
    simp only [Head.admitted, Dev.queueFrame, Dev.setHead_head, List.append_assoc]
    rfl
  · have heff := (Dev.recvResponse_compares hcrc hseq hplain hstate).trans (if_neg htag)
    have hkept := Dev.quarantine_kept (s.begin.setHead h.val (x.took k.seq)) h.val (cause := 2) (by decide)
    rw [← heff] at hkept
    refine answers_setHead (P := fun y => y.queue = _) (run_response h p s) hraised hkept rfl ?_
    rw [Dev.setHead_head, ← x.took_acks k.seq]
    rfl
  · have hkept := Dev.quarantine_kept s.begin h.val (cause := 3) (by decide)
    rw [← show s.begin.responseTimeout h.val = s.begin.quarantine h.val 3 from if_pos hstate] at hkept
    exact answers_setHead (P := fun y => y.queue = _) (run_responseTimeout h s) hraised hkept rfl rfl
  · obtain ⟨e, y, hkept, hfault, hunacked⟩ := Dev.recvAck_takes hcrc hseq hplain hstate
    exact answers_setHead (P := fun y => y.unacked = _) (run_ack h p s) hraised hkept hfault hunacked
  · have heff := Dev.recvEcho_times htrain hstate hcrc hplain
    exact answers_setHead (P := fun y => y = _) (e := s.begin) (run_echo h p s) hraised (.ofCore (congrArg Dev.core heff)) rfl rfl

end Sys2Proof.Machine
end

section
namespace Sys2Proof.Machine

/-! ## Pictures that begin (R68, R98) -/

theorem Dev.HeadsKept.commitAbsent (d : Dev) (x : RecStream) (q : PicSt) (r : Nat) : Dev.HeadsKept d (d.commitAbsent x q r) := by
  refine .foldl _ (fun e c => ?_) _ _
  split
  · exact .refl e
  · split
    · exact .refl e
    · exact ⟨rfl, rfl⟩

theorem Dev.HeadsKept.setSlot {d d' : Dev} (k : Dev.HeadsKept d d') (n : Nat) (x : Slot) : Dev.HeadsKept d (d'.setSlot n x) := k.trans ⟨rfl, rfl⟩

/-- A picture that begins, or is missing, changes its stream and tells the firmware. -/
theorem Dev.startPicture_kept (d : Dev) (n pic t0 t0Free : Nat) (est missing : Bool) :
    Dev.HeadsKept d (d.startPicture n pic t0 t0Free est missing) := by
  unfold Dev.startPicture
  split
  · exact .refl d
  cases missing
  · refine .gatherEvt (ite_both (P := Dev.HeadsKept d) ?_ ?_) _ <;> exact ⟨rfl, rfl⟩
  · refine .gatherEvt (ite_both (P := Dev.HeadsKept d) (.setSlot ?_ _ _) ?_) _ <;>
    · refine .trans ?_ (.foldl _ (fun e r => .commitAbsent e _ _ r) _ _)
      exact ⟨rfl, rfl⟩

theorem Dev.drainStream_kept (d : Dev) (n reason : Nat) : Dev.HeadsKept d (d.drainStream n reason) := by
  unfold Dev.drainStream
  refine ite_both (P := Dev.HeadsKept d) ?_ (.refl d)
  dsimp only
  split
  · refine .trans ?_ (Dev.assertEvt_signals _ _).headsKept
    exact ⟨rfl, rfl⟩
  · exact ⟨rfl, rfl⟩

/-- A picture boundary at most drains the stream. -/
theorem Dev.boundary_kept (d : Dev) (n t0 : Nat) : Dev.HeadsKept d (d.boundary n t0).1 := by
  unfold Dev.boundary
  dsimp only
  split
  · refine ite_both (P := fun b : Dev × Bool => Dev.HeadsKept d b.1) (d.drainStream_kept n 1) ?_
    split
    · exact d.drainStream_kept n _
    · exact .refl d
  · exact .refl d
  · exact .refl d

theorem Dev.beginRegion_kept (d : Dev) (h r pic t0 t0Free : Nat) (est : Bool) :
    Dev.HeadsKept (d.setHead h ((d.head h).setPic ⟨r, pic, t0, t0Free⟩)) (d.beginRegion h r pic t0 t0Free est) := by
  unfold Dev.beginRegion
  dsimp only
  split
  · exact .refl _
  · have hbound := Dev.boundary_kept (d.setHead h ((d.head h).setPic ⟨r, pic, t0, t0Free⟩))
    exact ite_both ((hbound _ _).trans (Dev.startPicture_kept _ _ _ _ _ _ _)) (hbound _ _)

theorem Head.regionPic_setPic (x : Head) (p : RegionPic) : (x.setPic p).regionPic p.region = some p := by
  have hnone : (x.pics.filter fun q => q.region ≠ p.region).find? (fun q => q.region = p.region) = none := by
    simp [List.find?_eq_none]
  simp only [Head.regionPic, Head.setPic, List.find?_append, hnone, Option.none_or]
  simp

/-- The first PSTART of a declared region begins its picture at this instant. -/
theorem Dev.recvPstart_first {d : Dev} {h r pic : Nat} (hstate : d.hdState h = 4)
    (hdecl : (((d.head h).decl.map (·.regions)).getD []).any (fun g => g.region = r) = true) (hnone : (d.head h).regionPic r = none) :
    d.recvPstart h r pic = d.beginRegion h r pic d.now d.free false := by
  unfold Dev.recvPstart
  dsimp only
  rw [if_neg (by simp [hstate, hdecl]), hnone]

/-! ## Police credits and discards (R80) -/

theorem tget_absent {α : Type} (d : α) {m : List (Nat × α)} {k : Nat} (h : k ∉ m.map (·.1)) : tget d m k = d := by
  unfold tget
  induction m with
  | nil => rfl
  | cons p m ih =>
    rw [List.map_cons, List.mem_cons, not_or] at h
    exact (if_neg (Ne.symm h.1)).trans (ih h.2)

/-- Head by head, the discards of the interval that ends are forgotten. -/
theorem Dev.clearDiscards (i : Nat) (l : List (Nat × Head)) : ∀ d : Dev, (d.head i).discards = 0 ∨ i ∈ l.map (·.1) →
    ((l.foldl (fun (d : Dev) p => d.setHead p.1 { d.head p.1 with discards := 0 }) d).head i).discards = 0 := by
  induction l with
  | nil => exact fun d hi => hi.resolve_right (by simp)
  | cons p l ih =>
    intro d hi
    refine ih _ ?_
    by_cases hp : i = p.1
    · subst hp
      exact .inl (by rw [Dev.setHead_head])
    · rw [Dev.setHead_head_other d hp]
      exact hi.imp_right fun hmem => (List.mem_cons.1 hmem).resolve_left hp

theorem Dev.hostileEnd_discards (d : Dev) (i : Nat) : (d.hostileEnd.head i).discards = 0 := by
  refine Dev.clearDiscards i _ d ?_
  by_cases hi : i ∈ d.core.heads.map (·.1)
  · exact .inr hi
  · exact .inl (by rw [Dev.head, tget_absent _ hi]; rfl)

/-- A head's credits after one step more. -/
def Head.credited (x : Head) : Head :=
  let st := sampleStep ((x.decl.map (·.rate)).getD 0)
  let ms := ((x.decl.map (·.metaRate)).getD 0) * 51
  { x with credS := min (x.credS + st) (64 * st), credM := min (x.credM + ms) (64 * ms) }

/-- The police credits of an admitted head grow. -/
def Dev.creditHead (d : Dev) (p : Nat × Head) : Dev := if d.hdState p.1 = 4 then d.setHead p.1 p.2.credited else d

theorem Dev.creditTick_heads (d : Dev) : d.creditTick = d.core.heads.foldl Dev.creditHead d := rfl

theorem Dev.creditHead_frame (d : Dev) (p : Nat × Head) (k : Nat) :
    (d.creditHead p).core.fault = d.core.fault ∧ (d.creditHead p).hdState k = d.hdState k :=
  ite_both (P := fun e : Dev => e.core.fault = d.core.fault ∧ e.hdState k = d.hdState k) ⟨rfl, rfl⟩ ⟨rfl, rfl⟩

theorem Dev.creditHead_other (d : Dev) {p : Nat × Head} {k : Nat} (hk : k ≠ p.1) : (d.creditHead p).head k = d.head k :=
  ite_both (P := fun e : Dev => e.head k = d.head k) (Dev.setHead_head_other d hk _) rfl

theorem Dev.creditHeads_other {k : Nat} {l : List (Nat × Head)} (hk : k ∉ l.map (·.1)) (d : Dev) :
    (l.foldl Dev.creditHead d).head k = d.head k :=
  List.foldlRecOn l _ (motive := fun e : Dev => e.head k = d.head k) rfl fun e he p hp =>
    (e.creditHead_other fun hkey : k = p.1 => hk (hkey ▸ List.mem_map_of_mem hp)).trans he

/-- Each admitted head of a table with one entry for each key is credited once. -/
theorem Dev.creditHeads_head {h : Nat} {x : Head} {l : List (Nat × Head)} (hkeys : (l.map (·.1)).Nodup) (hx : (h, x) ∈ l) :
    ∀ d : Dev, d.hdState h = 4 → (l.foldl Dev.creditHead d).head h = x.credited := by
  induction l with
  | nil => cases hx
  | cons p l ih =>
    intro d hstate
    obtain ⟨hp, hkeys'⟩ := List.nodup_cons.1 hkeys
    rcases List.mem_cons.1 hx with rfl | hmem
    · rw [List.foldl_cons, Dev.creditHeads_other hp, Dev.creditHead, if_pos hstate, Dev.setHead_head]
    · exact ih hkeys' hmem _ ((d.creditHead_frame p h).2.trans hstate)

theorem Dev.creditTick_head {d : Dev} {h : Nat} {x : Head} (hkeys : (d.core.heads.map (·.1)).Nodup) (hstate : d.hdState h = 4)
    (hx : d.core.heads.lookup h = some x) : d.creditTick.head h = x.credited := by
  obtain ⟨l, l', hl, _⟩ := List.lookup_eq_some_iff.1 hx
  rw [Dev.creditTick_heads]
  exact Dev.creditHeads_head hkeys (by simp [hl]) d hstate

theorem Dev.creditTick_fault (d : Dev) : d.creditTick.core.fault = d.core.fault := by
  rw [Dev.creditTick_heads]
  exact List.foldlRecOn _ _ (motive := fun e : Dev => e.core.fault = d.core.fault) rfl fun e he p _ => (e.creditHead_frame p 0).1.trans he

theorem Dev.hostileEnd_fault (d : Dev) : d.hostileEnd.core.fault = d.core.fault :=
  List.foldlRecOn _ _ (motive := fun e : Dev => e.core.fault = d.core.fault) rfl fun _ he _ _ => he

end Sys2Proof.Machine
end

section
namespace Sys2Proof.Machine

/-! ## What the link layer leaves of a packet's head (R77, R80) -/

/-- `d'` differs from `d` in its heads alone, and the head has the declaration and the pictures it had. -/
structure Dev.LinkStep (h : Nat) (d d' : Dev) : Prop where
  rest : ∃ hs, d' = { d with core := { d.core with heads := hs } }
  decl : (d'.head h).decl = (d.head h).decl
  pics : (d'.head h).pics = (d.head h).pics

theorem Dev.LinkStep.setHead (d : Dev) (h : Nat) {y : Head} (hdecl : y.decl = (d.head h).decl) (hpics : y.pics = (d.head h).pics) :
    Dev.LinkStep h d (d.setHead h y) := ⟨⟨_, rfl⟩, by rw [Dev.setHead_head, hdecl], by rw [Dev.setHead_head, hpics]⟩

theorem Dev.LinkStep.trans {h : Nat} {a b c : Dev} (k : Dev.LinkStep h a b) (g : Dev.LinkStep h b c) : Dev.LinkStep h a c := by
  obtain ⟨⟨_, rfl⟩, kdecl, kpics⟩ := k
  obtain ⟨⟨hs, rfl⟩, gdecl, gpics⟩ := g
  exact ⟨⟨hs, rfl⟩, gdecl.trans kdecl, gpics.trans kpics⟩

theorem Dev.LinkStep.fault {h : Nat} {d d' : Dev} (k : Dev.LinkStep h d d') : d'.core.fault = d.core.fault := by
  obtain ⟨⟨_, rfl⟩, _⟩ := k
  rfl

theorem Dev.LinkStep.recs {h : Nat} {d d' : Dev} (k : Dev.LinkStep h d d') : d'.core.recs = d.core.recs := by
  obtain ⟨⟨_, rfl⟩, _⟩ := k
  rfl

theorem Dev.LinkStep.now {h : Nat} {d d' : Dev} (k : Dev.LinkStep h d d') : d'.now = d.now := by
  obtain ⟨⟨_, rfl⟩, _⟩ := k
  rfl

/-- No row comes due by the link layer. -/
theorem Dev.LinkStep.early {h : Nat} {d d' : Dev} {x : RecStream} (k : Dev.LinkStep h d d')
    (hearly : ∀ z, x.firstOpen = some z → d.rowMoment x z.1 (z.1.row z.2) = none) :
    ∀ z, x.firstOpen = some z → d'.rowMoment x z.1 (z.1.row z.2) = none := by
  obtain ⟨⟨_, rfl⟩, _⟩ := k
  exact hearly

/-- A packet's region is declared and feeds a running stream, whose picture the packet may name. -/
structure Dev.Feeds (d : Dev) (h : Nat) (k : PktHdr) (g : RegionDecl) (n : Nat) (x : RecStream) : Prop where
  region : d.regionOf h k.region = some g
  stream : d.streamOf h k.region = some (n, x)
  stored : d.rec? n = some x
  running : (d.slot n).state = .running
  picture : d.pictureOk h k.region k.pic = true

theorem Dev.LinkStep.regionPic {h : Nat} {d d' : Dev} (k : Dev.LinkStep h d d') (r : Nat) : (d'.head h).regionPic r = (d.head h).regionPic r := by
  simp only [Head.regionPic, k.pics]

theorem Dev.LinkStep.streamOf {h : Nat} {d d' : Dev} (k : Dev.LinkStep h d d') (r : Nat) : d'.streamOf h r = d.streamOf h r := by
  obtain ⟨⟨_, rfl⟩, hdecl, _⟩ := k
  simp only [Dev.streamOf, hdecl]
  rfl

/-- The link layer changes nothing of what a packet feeds. -/
theorem Dev.LinkStep.feeds {h n : Nat} {d d' : Dev} {k : PktHdr} {g : RegionDecl} {x : RecStream} (t : Dev.LinkStep h d d')
    (f : Dev.Feeds d h k g n x) : Dev.Feeds d' h k g n x := by
  have hstream := t.streamOf k.region
  have hpic := t.regionPic k.region
  refine ⟨?_, hstream.trans f.stream, ?_, ?_, ?_⟩
  · rw [Dev.regionOf, t.decl]
    exact f.region
  · obtain ⟨⟨_, rfl⟩, _⟩ := t
    exact f.stored
  · obtain ⟨⟨_, rfl⟩, _⟩ := t
    exact f.running
  · rw [Dev.pictureOk, hpic, hstream]
    exact f.picture

section
variable {d : Dev} {h : Nat} {p : List Byte} (hcrc : pktCrcOk p = true) (hseq : (d.head h).expSeq = some (pktHdr p).seq)
  (hstate : d.hdState h = 4)
include hcrc hseq hstate

/-- A packet in order of an admitted head passes the link layer. -/
theorem Dev.linkCheck_inOrder : d.linkCheck h p = (d.setHead h ((d.head h).took (pktHdr p).seq), true) := by
  unfold Dev.linkCheck
  simp only [hstate, Dev.seqCheck_inOrder hcrc hseq]
  rfl
end

theorem Dev.police_sample {d : Dev} {h bits : Nat} (hcred : bits ≤ (d.head h).credS) :
    ∃ e, d.police h bits true false = (e, true) ∧ Dev.LinkStep h d e ∧ (e.head h).credS = (d.head h).credS - bits := by
  unfold Dev.police
  exact ⟨_, if_neg (Nat.not_lt.2 hcred), .setHead d h rfl rfl, by rw [Dev.setHead_head]⟩

theorem Dev.police_meta {d : Dev} {h bits : Nat} (hcred : bits * 50000 ≤ (d.head h).credM) :
    ∃ e, d.police h bits false false = (e, true) ∧ Dev.LinkStep h d e := by
  unfold Dev.police
  exact ⟨_, if_neg (Nat.not_lt.2 hcred), .setHead d h rfl rfl⟩

/-! ## META and MOTION (R155, R175) -/

section
variable {d : Dev} {h n : Nat} {p : List Byte} {g : RegionDecl} {x : RecStream} (hcrc : pktCrcOk p = true)
  (hseq : (d.head h).expSeq = some (pktHdr p).seq) (hstate : d.hdState h = 4) (hfirst : (pktHdr p).replayed = false)
  (hfeeds : Dev.Feeds d h (pktHdr p) g n x)
include hcrc hseq hstate hfirst hfeeds

/-- A META packet in order is queued as metadata for its region's stream. -/
theorem Dev.recvMeta_accepts (htyp : (pktHdr p).typ = 1) (hplain : (pktHdr p).plain (pktHdr p).count = true) (hsome : (pktHdr p).count ≠ 0)
    (hcount : (pktHdr p).count ≤ 4096) (hcred : 8 * (pktHdr p).count * 50000 ≤ (d.head h).credM) :
    ∃ e, Dev.LinkStep h d e ∧ d.recvMeta h p = e.queueMeta h (pktHdr p).region 1 (pktPayload p) := by
  have htook : Dev.LinkStep h d (d.setHead h ((d.head h).took (pktHdr p).seq)) := .setHead d h rfl rfl
  obtain ⟨hregion, _, _, _, hpicture⟩ := htook.feeds hfeeds
  obtain ⟨e, hpaid, hpay⟩ := Dev.police_meta (d := d.setHead h ((d.head h).took (pktHdr p).seq)) (h := h) (bits := 8 * (pktHdr p).count)
    (by rw [Dev.setHead_head]; exact hcred)
  unfold Dev.recvMeta
  rw [Dev.linkCheck_inOrder hcrc hseq hstate]
  dsimp only
  rw [if_neg (by decide), if_neg (by simp [htyp, hplain, hsome, hcount, hregion, hpicture]), hfirst, hpaid]
  exact ⟨e, htook.trans hpay, rfl⟩

/-- A MOTION packet of one record in order hands the record to its region's stream. -/
theorem Dev.recvMotion_accepts (htyp : (pktHdr p).typ = 2) (hplain : (pktHdr p).plain 16 = true) (hrec : motionOk (pktPayload p) = true)
    (hcred : 8 * 16 * 50000 ≤ (d.head h).credM) : ∃ e, Dev.LinkStep h d e ∧ d.recvMotion h p = e.motionRec h (pktPayload p) := by
  have htook : Dev.LinkStep h d (d.setHead h ((d.head h).took (pktHdr p).seq)) := .setHead d h rfl rfl
  obtain ⟨hregion, _, _, _, hpicture⟩ := htook.feeds hfeeds
  obtain ⟨e, hpaid, hpay⟩ := Dev.police_meta (d := d.setHead h ((d.head h).took (pktHdr p).seq)) (h := h) (bits := 8 * 16)
    (by rw [Dev.setHead_head]; exact hcred)
  have hcount : (pktHdr p).count = 16 := by
    simp only [PktHdr.plain, decide_eq_true_eq] at hplain
    exact hplain.2.2.2.2.2
  have hlen : (pktPayload p).length = 16 := by
    simp only [pktCrcOk, PktHdr.payLen, htyp, hcount, decide_eq_true_eq] at hcrc
    simp only [pktPayload, PktHdr.payLen, htyp, hcount, List.length_take, List.length_drop]
    have := hcrc.1
    simp only [Nat.reduceEqDiff, if_false] at this ⊢
    omega
  have hrecs : (List.range ((pktPayload p).length / 16)).map (fun i => ((pktPayload p).drop (16 * i)).take 16) = [pktPayload p] := by
    rw [hlen]
    exact congrArg ([·]) (List.take_of_length_le (Nat.le_of_eq hlen))
  unfold Dev.recvMotion
  rw [Dev.linkCheck_inOrder hcrc hseq hstate]
  dsimp only
  rw [hrecs, if_neg (by decide), if_neg (by simp [htyp, hplain, hcount, hregion, hpicture, hrec]), hfirst, hcount, hpaid]
  exact ⟨e, htook.trans hpay, rfl⟩
end

/-- A running stream that has not ended takes the metadata into its queue. -/
theorem Dev.queueMeta_queues {d : Dev} {h r n : Nat} {x : RecStream} (hstream : d.streamOf h r = some (n, x)) (hrun : (d.slot n).state = .running)
    (hopen : x.eosDone = false) (kind : Nat) (data : List Byte) : d.queueMeta h r kind data =
      (d.setRec n { x with metaQ := x.metaQ ++
        [⟨kind, (x.pics.filter fun q => !q.trailer).getLast?.map (·.pic), d.now, data, none⟩] }).gatherEvt h := by
  unfold Dev.queueMeta
  simp only [hstream, hrun, hopen]
  rfl

theorem Dev.gatherEvt_rec (d : Dev) (h n : Nat) : (d.gatherEvt h).rec? n = d.rec? n := by
  simp only [Dev.rec?, (d.gatherEvt_signals h).recs]

/-- In a table with rising keys, an entry changed in place is found where it was found before. -/
theorem find?_tset {α : Type} {P : Nat × α → Bool} {n : Nat} {x y : α} (hy : P (n, y) = true) : ∀ {m : List (Nat × α)}, rising m = true →
    m.find? P = some (n, x) → (tset m n y).find? P = some (n, y) := by
  intro m
  induction m with
  | nil => intro _ hx; cases hx
  | cons q m ih =>
    intro hm hx
    obtain ⟨a, w⟩ := q
    simp only [rising, Bool.and_eq_true, List.all_eq_true, decide_eq_true_eq] at hm
    obtain ⟨hlow, hm'⟩ := hm
    have hkey : a ≤ n := by
      rcases List.mem_cons.1 (List.mem_of_find?_eq_some hx) with heq | hmem
      · cases heq
        exact Nat.le_refl _
      · exact Nat.le_of_lt (hlow _ hmem)
    unfold tset Sparse.ins
    rw [if_neg (Nat.not_lt.2 hkey)]
    by_cases ha : n = a
    · rw [if_pos ha, List.find?_cons_of_pos hy]
    · rw [if_neg ha]
      by_cases hP : P (a, w) = true
      · rw [List.find?_cons_of_pos hP] at hx
        cases hx
        exact absurd rfl ha
      · rw [List.find?_cons_of_neg hP] at hx ⊢
        exact ih hm' hx

/-- A stream that is stored again with its head and region still is the region's stream. -/
theorem Dev.streamOf_setRec {d : Dev} {h r n : Nat} {x y : RecStream} (hrising : rising d.core.recs = true)
    (hstream : d.streamOf h r = some (n, x)) (hpar : y.par = x.par) (hhd : y.hd = x.hd) : (d.setRec n y).streamOf h r = some (n, y) := by
  refine find?_tset ?_ hrising hstream
  have hx := List.find?_some hstream
  rw [hpar, hhd]
  exact hx

/-- A stream with one motion record more. -/
def RecStream.withMotion (x : RecStream) (b : List Byte) : RecStream :=
  { x with motion := x.motion ++ [⟨fieldBe b 2 3, fieldBe b 5 1, ofTwos 16 (fieldBe b 6 2), ofTwos 16 (fieldBe b 8 2)⟩] }

/-- A motion record of the region's next picture is kept for GMV, and queued as metadata. -/
theorem Dev.motionRec_next {d : Dev} {h n : Nat} {b : List Byte} {x : RecStream} (hstream : d.streamOf h (fieldBe b 0 1) = some (n, x))
    (hnext : ∀ rp, (d.head h).regionPic (fieldBe b 0 1) = some rp → picAhead (fieldBe b 2 3) rp.pic = 1) :
    d.motionRec h b = (d.setRec n (x.withMotion b)).queueMeta h (fieldBe b 0 1) 2 b := by
  unfold Dev.motionRec
  cases hpic : (d.head h).regionPic (fieldBe b 0 1) with
  | none =>
    simp only [hstream, hpic]
    rfl
  | some rp =>
    have hahead := hnext rp hpic
    simp only [hstream, hpic, hahead]
    rfl

/-! ## SAMPLE (R87) -/

/-- Rows close only when their moment has come. -/
theorem Dev.closeRows_early {d : Dev} {n : Nat} {x : RecStream} (hx : d.rec? n = some x)
    (hearly : ∀ z, x.firstOpen = some z → d.rowMoment x z.1 (z.1.row z.2) = none) : d.closeRows n = d := by
  unfold Dev.closeRows
  simp only [hx]
  cases x.pics.foldl (fun a q => a + q.rows.length) 0 with
  | zero => rfl
  | succ m =>
    unfold Dev.closeDue
    simp only [hx]
    split
    · rfl
    · rename_i q r hopen
      have hmoment := hearly _ hopen
      simp only [hmoment]

/-- A picture is found by its number in a list whose pictures changed but kept their numbers. -/
theorem find?_map_pic {f : PicSt → PicSt} (hf : ∀ q, (f q).pic = q.pic) (l : List PicSt) (k : Nat) :
    (l.map f).find? (fun q => q.pic = k) = (l.find? fun q => q.pic = k).map f := by
  have hkey : ((fun q : PicSt => decide (q.pic = k)) ∘ f) = fun q => decide (q.pic = k) := by
    funext q
    rw [Function.comp_apply, hf]
  rw [List.find?_map, hkey]

/-- The holds of earlier rows begin; every picture stays in hand. -/
theorem Dev.startHolds_stores {d : Dev} {n : Nat} {x : RecStream} (hx : d.rec? n = some x) (p r : Nat) :
    ∃ y : RecStream, d.startHolds n p r = d.setRec n y ∧ y.decl = x.decl ∧ ∀ k q, x.pic? k = some q → ∃ q', y.pic? k = some q' := by
  unfold Dev.startHolds
  simp only [hx]
  refine ⟨_, rfl, rfl, fun k q hq => ⟨_, (find?_map_pic (fun q => ?_) _ _).trans (congrArg (Option.map _) hq)⟩⟩
  split <;> rfl

theorem Dev.reuseSlot_inside {d : Dev} {n i : Nat} {x : RecStream} (hx : d.rec? n = some x) (hi : i < x.decl.ringLines) : d.reuseSlot n i = d := by
  unfold Dev.reuseSlot
  simp only [hx]
  exact if_pos hi

/-- A line with the samples of one packet more. -/
def LineBuf.withSpan (l : LineBuf) (off : Nat) (vals : List Nat) : LineBuf := { l with spans := l.spans ++ [(off, vals)] }

/-- Samples that repeat none, of an open row whose lines stand in the ring, enter their line; the line is not whole with them. -/
theorem Dev.takeSamples_adds {d : Dev} {n h p line off : Nat} {vals : List Nat} {x : RecStream} {q : PicSt} (hx : d.rec? n = some x)
    (hearly : ∀ z, x.firstOpen = some z → d.rowMoment x z.1 (z.1.row z.2) = none) (hq : x.pic? p = some q)
    (hopen : (q.row (line / x.decl.geo.hT)).closed = 0) (hkept : (q.row (line / x.decl.geo.hT)).lost = false)
    (hpart : (q.line line).done = false)
    (hnew : ((q.line line).spans.any fun e => decide (off < e.1 + e.2.length ∧ e.1 < off + vals.length)) = false)
    (hring : q.idx * x.decl.h + line < x.decl.ringLines) (hmore : ((q.line line).withSpan off vals).values x.decl.w = none) :
    ∃ (e : Dev) (y : RecStream) (q' : PicSt), d.takeSamples n h p line off vals = e.setRec n y ∧ Dev.HeadsKept d e ∧ y.pic? p = some q' ∧
      q'.line line = (q.line line).withSpan off vals := by
  obtain ⟨y, hhold, hdecl, hpics⟩ := Dev.startHolds_stores hx p (line / x.decl.geo.hT)
  obtain ⟨q1, hq1⟩ := hpics p q hq
  have hreuse : ∀ b : Bool, (if b = true then (d.setRec n y).reuseSlot n (q.idx * x.decl.h + line) else d.setRec n y) = d.setRec n y := fun b =>
    ite_both (P := fun e : Dev => e = _) (Dev.reuseSlot_inside (Dev.setRec_rec d n y) (by rw [hdecl]; exact hring)) rfl
  unfold LineBuf.withSpan at hmore
  unfold Dev.takeSamples
  rw [Dev.closeRows_early hx hearly]
  simp only [hx, hq]
  rw [if_neg (by simp [hopen, hkept]), if_neg (by rw [hnew, hpart]; decide), hhold, hreuse]
  simp only [Dev.setRec_rec, hdecl, hmore]
  refine ⟨d.setRec n y, _, _, rfl, ⟨rfl, rfl⟩, RecStream.pic?_modPic_same hq1 (fun _ => rfl), tget_tset_same _ _ _ _⟩

theorem unpackBits_length (w : Nat) : ∀ (n : Nat) (bs : List Bool), (unpackBits w n bs).length = n
  | 0, _ => rfl
  | n + 1, bs => congrArg (· + 1) (unpackBits_length w n (bs.drop w))

/-- The picture under way needs no beginning. -/
theorem Dev.ensurePicture_begun {d : Dev} {h r : Nat} {rp : RegionPic} (hrp : (d.head h).regionPic r = some rp) (g : RegionDecl) :
    d.ensurePicture h r rp.pic g = d := by
  have hahead : picAhead rp.pic rp.pic = 0 := by rw [picAhead, Nat.add_sub_cancel_left, Nat.mod_self]
  unfold Dev.ensurePicture
  simp only [hrp, hahead]
  exact if_pos (.inl trivial)

/-- A SAMPLE packet in order takes its credit and hands its samples to the stream of its region. -/
theorem Dev.recvSample_accepts {d : Dev} {h n : Nat} {p : List Byte} {g : RegionDecl} {x : RecStream} {rp : RegionPic} (hcrc : pktCrcOk p = true)
    (hseq : (d.head h).expSeq = some (pktHdr p).seq) (hstate : d.hdState h = 4) (hfirst : (pktHdr p).replayed = false)
    (hfeeds : Dev.Feeds d h (pktHdr p) g n x) (htyp : (pktHdr p).typ = 0) (hflags : (pktHdr p).flags % 64 = 0) (hresv : (pktHdr p).resv = 0)
    (hdepth : (pktHdr p).depth = g.d) (hline : (pktHdr p).line < g.h) (hoff : (pktHdr p).off + (pktHdr p).count ≤ g.w) (hsome : (pktHdr p).count ≠ 0)
    (hcount : (pktHdr p).count ≤ 2048) (hsize : 256 ≤ (pktHdr p).count ∨ (pktHdr p).off + (pktHdr p).count = g.w)
    (hcred : (pktHdr p).count * g.d ≤ (d.head h).credS) (hrp : (d.head h).regionPic (pktHdr p).region = some rp) (hpic : rp.pic = (pktHdr p).pic)
    (hbegun : x.firstPic.isSome = true) :
    ∃ e, Dev.LinkStep h d e ∧ (e.head h).credS = (d.head h).credS - (pktHdr p).count * g.d ∧ d.recvSample h p =
      e.takeSamples n h (pktHdr p).pic (pktHdr p).line (pktHdr p).off (unpackBits g.d (pktHdr p).count (bitsOf (pktPayload p))) := by
  have htook : Dev.LinkStep h d (d.setHead h ((d.head h).took (pktHdr p).seq)) := .setHead d h rfl rfl
  obtain ⟨hregion, _, _, _, hpicture⟩ := htook.feeds hfeeds
  obtain ⟨e, hpaid, hpay, hcredit⟩ := Dev.police_sample (d := d.setHead h ((d.head h).took (pktHdr p).seq)) (h := h)
    (bits := (pktHdr p).count * g.d) (by rw [Dev.setHead_head]; exact hcred)
  have hlink := htook.trans hpay
  have hbegins : e.ensurePicture h (pktHdr p).region (pktHdr p).pic g = e := by
    rw [← hpic]
    exact Dev.ensurePicture_begun ((hlink.regionPic _).trans hrp) g
  refine ⟨e, hlink, hcredit.trans (by rw [Dev.setHead_head]; rfl), ?_⟩
  unfold Dev.recvSample
  rw [Dev.linkCheck_inOrder hcrc hseq hstate]
  dsimp only
  rw [if_neg (by decide)]
  simp only [hregion]
  rw [if_neg (by simp [htyp, hflags, hresv, hdepth, hsome, hpicture]; omega), hfirst, hpaid]
  dsimp only
  rw [if_neg (by decide), hbegins]
  simp only [(hlink.feeds hfeeds).stream]
  exact if_neg (by simp [Option.isSome_iff_ne_none.1 hbegun])

/-! ## The packets of an admitted head -/

/-- A step that stores a stream and tells the Gather page answers with the stream. -/
theorem answers_setRec {i : Instr} {s : State} {f : Dev → Dev} {e : Dev} {h n : Nat} {y : RecStream} {P : RecStream → Prop}
    (he : exec i s = s.run f) (hraised : s.core.fault.raised = []) (hstores : f s.begin = (e.setRec n y).gatherEvt h)
    (hfault : e.core.fault = s.core.fault) (hP : P y) : Answers i s fun t => ∃ y, t.begin.rec? n = some y ∧ P y := by
  refine answers_calm he ?_ ⟨y, ?_, hP⟩
  · rw [hstores, Dev.gatherEvt_fault]
    exact (congrArg FaultSt.raised hfault).trans hraised
  · rw [State.commit_rec, hstores, Dev.gatherEvt_rec, Dev.setRec_rec]

/-- Settles O37: the link layer lets a packet in order pass, its credit pays for it, and what follows is the stream's. -/
theorem packetsOfAdmittedHeads : Obligations.PacketsOfAdmittedHeads := by
  intro s h region picture p n x g hcalm d hd k inOrder feeds
  have hraised := State.calm_iff.1 hcalm
  refine ⟨fun hstate hdecl hnone => ?_, ?_, ?_, ?_, ?_, fun hkeys hstate hx => ?_⟩
  · have hkept := Dev.beginRegion_kept d h.val region.val picture.toNat d.now d.free false
    rw [← Dev.recvPstart_first hstate hdecl hnone] at hkept
    exact answers_setHead (P := fun y => y.regionPic region.val = _) (run_pstart h region picture s) hraised hkept rfl
      (Head.regionPic_setPic _ _)
  · rintro rp q ⟨hcrc, hseq, hstate, hfirst⟩ ⟨hregion, hstream, hrec, hrun, hpicOk⟩ htyp hflags hresv hdepth hline hoff hsome hcount hsize hcred hrp
      hpic hbegun hq hearly hopen hkept hpart hnew hring hmore
    obtain ⟨e, hlink, hcredit, heff⟩ := Dev.recvSample_accepts hcrc hseq hstate hfirst ⟨hregion, hstream, hrec, hrun, hpicOk⟩ htyp hflags hresv
      hdepth hline hoff hsome hcount hsize hcred hrp hpic hbegun
    have hsame := (unpackBits_length g.d k.count (bitsOf (pktPayload p))).symm
    have hx : e.rec? n = some x := (hlink.feeds (k := k) ⟨hregion, hstream, hrec, hrun, hpicOk⟩).stored
    have htakes : ∃ (e' : Dev) (y : RecStream) (q' : PicSt), d.recvSample h.val p = e'.setRec n y ∧ Dev.HeadsKept e e' ∧ y.pic? k.pic = some q' ∧
        q'.line k.line = (q.line k.line).withSpan k.off (unpackBits g.d k.count (bitsOf (pktPayload p))) := by
      rw [heff]
      exact Dev.takeSamples_adds hx (hlink.early hearly) hq hopen hkept hpart (hsame ▸ hnew) hring hmore
    obtain ⟨e', y, q', htake, htaken, hq', hspan⟩ := htakes
    refine answers_calm (run_sample h p s) ?_ ?_
    · rw [htake]
      exact (congrArg FaultSt.raised (htaken.fault.trans hlink.fault)).trans hraised
    · rw [htake]
      exact ⟨(congrArg Head.credS (htaken.head h.val)).trans hcredit, y, q', Dev.setRec_rec _ _ _, hq', by rw [hspan]; rfl⟩
  · rintro ⟨hcrc, hseq, hstate, hfirst⟩ ⟨hregion, hstream, hrec, hrun, hpicOk⟩ htyp hplain hsome hcount hcred hopen
    obtain ⟨e, hlink, heff⟩ := Dev.recvMeta_accepts hcrc hseq hstate hfirst ⟨hregion, hstream, hrec, hrun, hpicOk⟩ htyp hplain hsome hcount hcred
    have hfed := hlink.feeds (k := k) ⟨hregion, hstream, hrec, hrun, hpicOk⟩
    refine answers_setRec (run_metaPacket h p s) hraised
      (heff.trans (Dev.queueMeta_queues hfed.stream hfed.running hopen 1 (pktPayload p))) hlink.fault ?_
    rw [hlink.now]
  · rintro ⟨hcrc, hseq, hstate, hfirst⟩ ⟨hregion, hstream, hrec, hrun, hpicOk⟩ htyp hplain hrising hmotion hfield hcred hopen hnext
    obtain ⟨e, hlink, heff⟩ := Dev.recvMotion_accepts hcrc hseq hstate hfirst ⟨hregion, hstream, hrec, hrun, hpicOk⟩ htyp hplain hmotion hcred
    have hfed := hlink.feeds (k := k) ⟨hregion, hstream, hrec, hrun, hpicOk⟩
    have hsame : fieldBe (pktPayload p) 0 1 = (pktHdr p).region := hfield
    have hmotion := Dev.motionRec_next (hsame ▸ hfed.stream) (b := pktPayload p) (hsame ▸ fun rp hrp => hnext rp ((hlink.regionPic _).symm.trans hrp))
    have hkeep := Dev.streamOf_setRec (y := x.withMotion (pktPayload p)) (hlink.recs ▸ hrising) hfed.stream rfl rfl
    have hqueue := Dev.queueMeta_queues hkeep hfed.running hopen 2 (pktPayload p)
    rw [← hsame] at hqueue
    exact answers_setRec (run_motion h p s) hraised (heff.trans (hmotion.trans hqueue)) hlink.fault rfl
  · exact answers_calm (run_hostileIntervalEnd s) ((congrArg FaultSt.raised d.hostileEnd_fault).trans hraised) d.hostileEnd_discards
  · exact answers_calm (run_policeCreditTick s) ((congrArg FaultSt.raised d.creditTick_fault).trans hraised) (Dev.creditTick_head hkeys hstate hx)

end Sys2Proof.Machine
end

section
namespace Sys2Proof.Machine

/-! ## What a step of ingest leaves beside the stream it changes -/

/-- `d'` has the heads, the fault collector, the record streams, the slots and the time base of `d`. -/
structure Dev.IngestKept (d d' : Dev) : Prop extends Dev.HeadsKept d d' where
  recs : d'.core.recs = d.core.recs
  slots : d'.core.slots = d.core.slots
  time : d'.core.time = d.core.time

theorem Dev.IngestKept.refl (d : Dev) : Dev.IngestKept d d := ⟨.refl d, rfl, rfl, rfl⟩
theorem Dev.IngestKept.trans {a b c : Dev} (h : Dev.IngestKept a b) (g : Dev.IngestKept b c) : Dev.IngestKept a c :=
  ⟨h.toHeadsKept.trans g.toHeadsKept, g.recs.trans h.recs, g.slots.trans h.slots, g.time.trans h.time⟩
theorem Dev.IngestKept.ofCore {d d' : Dev} (h : d'.core = d.core) : Dev.IngestKept d d' := ⟨.ofCore h, by rw [h], by rw [h], by rw [h]⟩
theorem Dev.IngestKept.foldl {β : Type} (f : Dev → β → Dev) (hf : ∀ d b, Dev.IngestKept d (f d b)) (l : List β) (d : Dev) :
    Dev.IngestKept d (l.foldl f d) := List.foldlRecOn l f (.refl d) fun e he b _ => he.trans (hf e b)
theorem Dev.IngestKept.stream {d d' : Dev} (h : Dev.IngestKept d d') (n : Nat) : d'.rec? n = d.rec? n := by simp only [Dev.rec?, h.recs]
theorem Dev.IngestKept.free {d d' : Dev} (h : Dev.IngestKept d d') : d'.free = d.free := congrArg TimeSt.free h.time
theorem Dev.IngestKept.slot {d d' : Dev} (h : Dev.IngestKept d d') (n : Nat) : d'.slot n = d.slot n := by simp only [Dev.slot, h.slots]

theorem Dev.Signals.ingestKept {d d' : Dev} (h : Dev.Signals d d') : Dev.IngestKept d d' := by
  obtain ⟨_, _, _, hcore⟩ := h.core
  exact ⟨h.headsKept, by rw [hcore], by rw [hcore], by rw [hcore]⟩

/-- The same stream stored on both sides. -/
theorem Dev.IngestKept.setRec {d d' : Dev} (h : Dev.IngestKept d d') (n : Nat) (x : RecStream) :
    Dev.IngestKept (d.setRec n x) (d'.setRec n x) :=
  ⟨⟨h.heads, h.fault⟩, congrArg (fun recs => tset recs n x) h.recs, h.slots, h.time⟩

theorem Dev.commitAbsent_ingestKept (d : Dev) (x : RecStream) (q : PicSt) (r : Nat) : Dev.IngestKept d (d.commitAbsent x q r) := by
  refine .foldl _ (fun e c => ?_) _ _
  split
  · exact .refl e
  · split
    · exact .refl e
    · exact ⟨⟨rfl, rfl⟩, rfl, rfl, rfl⟩

/-! ## Rows that close (R99, R100) -/

/-- A row that closes at an instant: complete with cause 0, else absent with its cause. -/
def RowSt.shut (free cause : Nat) (w : RowSt) : RowSt :=
  if cause = 0 then { w with closed := 1, closedAt := free }
  else { w with closed := 2, cause := cause, closedAt := free, tiles := [], waiting := false }

/-- A stream with a row of one picture closed. -/
def RecStream.shutRow (x : RecStream) (p r free cause : Nat) : RecStream := x.modPic p fun q => q.modRow r (RowSt.shut free cause)

theorem RecStream.firstOpen_mem {x : RecStream} {q : PicSt} {r : Nat} (h : x.firstOpen = some (q, r)) : q ∈ x.pics ∧ r < q.rows.length := by
  obtain ⟨p, hp, hrow⟩ := List.exists_of_findSome?_eq_some h
  obtain ⟨k, hk, heq⟩ := Option.map_eq_some_iff.1 hrow
  cases heq
  exact ⟨hp, List.mem_range.1 (List.mem_of_find?_eq_some hk)⟩

/-- Rows counted once are not lost as more pictures are counted. -/
theorem acc_le_foldl_rows (l : List PicSt) : ∀ a : Nat, a ≤ l.foldl (fun a q => a + q.rows.length) a := by
  induction l with
  | nil => exact fun a => Nat.le_refl a
  | cons p l ih => exact fun a => Nat.le_trans (Nat.le_add_right a p.rows.length) (ih _)

/-- The count of all rows covers those of each picture. -/
theorem rows_le_foldl {q : PicSt} {l : List PicSt} (hq : q ∈ l) : ∀ a : Nat, q.rows.length ≤ l.foldl (fun a q => a + q.rows.length) a := by
  induction l with
  | nil => cases hq
  | cons p l ih =>
    intro a
    rcases List.mem_cons.1 hq with rfl | hmem
    · exact Nat.le_trans (Nat.le_add_left q.rows.length a) (acc_le_foldl_rows l _)
    · exact ih hmem _

/-- A stream with an open row has rows to close. -/
theorem RecStream.rows_pos {x : RecStream} {q : PicSt} {r : Nat} (h : x.firstOpen = some (q, r)) :
    0 < x.pics.foldl (fun a q => a + q.rows.length) 0 := by
  obtain ⟨hq, hr⟩ := RecStream.firstOpen_mem h
  exact Nat.lt_of_lt_of_le (Nat.zero_lt_of_lt hr) (rows_le_foldl hq 0)

/-- A row coded absent is closed with its cause; beside it the stream and the heads stay as they were. -/
theorem Dev.absentRow_shuts {d : Dev} {n p r c : Nat} {x : RecStream} {q : PicSt} (hx : d.rec? n = some x) (hq : x.pic? p = some q) (hc : c ≠ 0) :
    Dev.IngestKept (d.setRec n (x.shutRow p r d.free c)) (d.absentRow n p r c) := by
  have hshut : RowSt.shut d.free c = fun w => { w with closed := 2, cause := c, closedAt := d.free, tiles := [], waiting := false } :=
    funext fun w => if_neg hc
  unfold Dev.absentRow
  simp only [hx, hq]
  have hcount : Dev.IngestKept d ((d.bump .gather x.bank fGT_ABSENT_CNT_ROWS).bump .gather x.bank fGT_ABSENT_SMP_SAMPLES (q.row r).samples) :=
    .ofCore rfl
  have hkept := hcount.trans (Dev.commitAbsent_ingestKept _ x q r)
  rw [hkept.free, RecStream.shutRow, hshut]
  exact (hkept.setRec n _).trans (Dev.assertEvt_signals _ _).ingestKept

/-- Where the moment of the first open row has come, that row closes, and the rows after it are looked at. -/
theorem Dev.closeDue_closes {d : Dev} {n r c : Nat} {x : RecStream} {q : PicSt} (hx : d.rec? n = some x) (hopen : x.firstOpen = some (q, r))
    (hmoment : d.rowMoment x q (q.row r) = some c) (m : Nat) :
    ∃ e, Dev.closeDue n (m + 1) d = Dev.closeDue n m e ∧ Dev.IngestKept (d.setRec n (x.shutRow q.pic r d.free c)) e := by
  rw [Dev.closeDue]
  simp only [hx, hopen, hmoment]
  cases c with
  | zero => exact ⟨_, rfl, (Dev.assertEvt_signals _ _).ingestKept⟩
  | succ c =>
    obtain ⟨q', hq'⟩ : ∃ q', x.pic? q.pic = some q' :=
      Option.isSome_iff_exists.1 (List.find?_isSome.2 ⟨q, (RecStream.firstOpen_mem hopen).1, decide_eq_true rfl⟩)
    exact ⟨_, rfl, Dev.absentRow_shuts hx hq' (Nat.succ_ne_zero c)⟩

/-- No row closes while the moment of the first open one has not come. -/
theorem Dev.closeDue_early {d : Dev} {n : Nat} {x : RecStream} (hx : d.rec? n = some x)
    (hearly : ∀ z, x.firstOpen = some z → d.rowMoment x z.1 (z.1.row z.2) = none) (m : Nat) : Dev.closeDue n m d = d := by
  cases m with
  | zero => rfl
  | succ m =>
    rw [Dev.closeDue]
    simp only [hx]
    split
    · rfl
    · rename_i hopen
      simp only [hearly _ hopen]

/-- A hold lasts 70 µs at the least (R104). -/
theorem Dev.holdNs_ge (d : Dev) (bank : Nat) : 70000 ≤ d.holdNs bank := by
  unfold Dev.holdNs
  omega

/-- A row's moment has not come: it is not complete, its hold runs, and its picture's deadline lies ahead. -/
theorem Dev.rowMoment_early {d : Dev} {x : RecStream} {q : PicSt} {w : RowSt} (hdone : w.doneAt = none ∨ w.lost = true)
    (hhold : ∀ t, w.holdEnd = some t → d.free < t) (hpic : d.free < q.t0Free + x.decl.period + 70000) : d.rowMoment x q w = none := by
  have hopen : ¬ (w.doneAt.isSome ∧ !w.lost) := by
    rintro ⟨hsome, hkept⟩
    rcases hdone with hnone | hlost
    · simp [hnone] at hsome
    · simp [hlost] at hkept
  have hlong := d.holdNs_ge x.bank
  unfold Dev.rowMoment
  rw [if_neg hopen, if_neg (c := _ = true), if_neg (by omega)]
  cases hend : w.holdEnd with
  | none => exact Bool.false_ne_true
  | some t => simpa using hhold t hend

/-- The first open row closes when its moment has come, and no other where no later row is due. -/
theorem Dev.closeRows_one {d : Dev} {n r c : Nat} {x : RecStream} {q : PicSt} (hx : d.rec? n = some x) (hopen : x.firstOpen = some (q, r))
    (hmoment : d.rowMoment x q (q.row r) = some c)
    (hlater : ∀ z, (x.shutRow q.pic r d.free c).firstOpen = some z → ((z.1.row z.2).doneAt = none ∨ (z.1.row z.2).lost = true) ∧
      (∀ t, (z.1.row z.2).holdEnd = some t → d.free < t) ∧ d.free < z.1.t0Free + x.decl.period + 70000) :
    Dev.IngestKept (d.setRec n (x.shutRow q.pic r d.free c)) (d.closeRows n) := by
  obtain ⟨m, hm⟩ := Nat.exists_eq_add_one_of_ne_zero (Nat.ne_of_gt (RecStream.rows_pos hopen))
  obtain ⟨e, hcloses, hkept⟩ := Dev.closeDue_closes hx hopen hmoment m
  have hy : e.rec? n = some (x.shutRow q.pic r d.free c) := (hkept.stream n).trans (Dev.setRec_rec _ _ _)
  have hfree : e.free = d.free := hkept.free
  unfold Dev.closeRows
  simp only [hx]
  rw [hm, hcloses, Dev.closeDue_early hy fun z hz => ?_]
  · exact hkept
  · obtain ⟨hdone, hhold, hpic⟩ := hlater z hz
    exact Dev.rowMoment_early hdone (by rwa [hfree]) (by rwa [hfree])

/-! ## A picture that is missing (R102) -/

/-- A RUNNING stream that waits for no close, before the stop time, may begin a picture. -/
theorem Dev.boundary_running {d : Dev} {n : Nat} (hrun : (d.slot n).state = .running) (hpend : (d.slot n).closePend = none)
    (hstop : d.pastStop (d.slot n) = false) (t0 : Nat) : d.boundary n t0 = (d, true) := by
  unfold Dev.boundary
  simp only [hrun, hstop, hpend]
  rfl

/-- A RUNNING stream stays as it is while its picture's Gather page is told. -/
theorem Dev.IngestKept.begun {d e : Dev} (k : Dev.IngestKept d e) {n : Nat} (hrun : (d.slot n).state = .running) (h : Nat) :
    Dev.IngestKept d ((if (e.slot n).state = .armed then e.setSlot n { e.slot n with state := .running } else e).gatherEvt h) := by
  rw [if_neg (by rw [k.slot, hrun]; decide)]
  exact k.trans (Dev.gatherEvt_signals _ _).ingestKept

/-- A picture declared missing: its number and T0, every row absent with cause 3. -/
def PicSt.Missing (q : PicSt) (pic t0 : Nat) (est : Bool) : Prop :=
  q.pic = pic ∧ q.t0 = t0 ∧ q.est = est ∧ q.missing = true ∧ ∀ w ∈ q.rows, w.closed = 2 ∧ w.cause = 3

/-- A missing picture is the last of its stream. -/
theorem Dev.startPicture_missing {d : Dev} {n : Nat} {x : RecStream} (hx : d.rec? n = some x) (hrun : (d.slot n).state = .running)
    (pic t0 t0Free : Nat) (est : Bool) :
    ∃ y q, Dev.IngestKept (d.setRec n y) (d.startPicture n pic t0 t0Free est true) ∧ y.pics = x.pics ++ [q] ∧ q.Missing pic t0 est := by
  unfold Dev.startPicture
  rw [hx]
  refine ⟨?y, ?q, ?kept, ?joins, ?facts⟩
  case kept =>
    refine .begun (d := d.setRec n _) (.trans ?_ (.foldl _ (fun e r => Dev.commitAbsent_ingestKept e _ _ r) _ _)) hrun _
    exact ((Dev.Signals.bump _ _ _ _ _ _).trans (.bump _ _ _ _ _ _)).ingestKept
  case joins => rfl
  case facts =>
    refine ⟨rfl, rfl, rfl, rfl, fun w hw => ?_⟩
    rw [List.eq_of_mem_replicate hw]
    exact ⟨rfl, rfl⟩

/-- The stream's region has gone on to the picture one period after `rp`. -/
def Dev.regionMoved (d : Dev) (x : RecStream) (rp : RegionPic) : Dev :=
  d.setHead x.par.head ((d.head x.par.head).setPic
    ⟨x.par.region, picAdd rp.pic 1, rp.t0 + x.decl.period, rp.t0Free + x.decl.period⟩)

section
variable {d : Dev} {n : Nat} {x : RecStream} {rp : RegionPic} (hx : d.rec? n = some x)
  (hrp : (d.head x.par.head).regionPic x.par.region = some rp) (hrun : (d.slot n).state = .running) (hpend : (d.slot n).closePend = none)
  (hstop : d.pastStop (d.slot n) = false)
include hx hrp hrun hpend hstop

/-- Where the stream may begin a picture, the missing one begins at its region's next T0. -/
theorem Dev.declareMissing_begins : d.declareMissing n =
    (d.regionMoved x rp).startPicture n (picAdd rp.pic 1) (rp.t0 + x.decl.period) (rp.t0Free + x.decl.period) true true := by
  unfold Dev.declareMissing
  simp only [hx, hrp, Dev.boundary_running hrun hpend hstop]
  exact if_pos ⟨trivial, hrun⟩

/-- The missing picture joins the stream one period after the picture that its region has begun last. -/
theorem Dev.declareMissing_joins : ∃ y q, (d.declareMissing n).rec? n = some y ∧ (d.declareMissing n).core.fault = d.core.fault ∧
    y.pics = x.pics ++ [q] ∧ q.Missing (picAdd rp.pic 1) (rp.t0 + x.decl.period) true := by
  obtain ⟨y, q, hkept, hjoins⟩ := Dev.startPicture_missing (d := d.regionMoved x rp) hx hrun (picAdd rp.pic 1)
    (rp.t0 + x.decl.period) (rp.t0Free + x.decl.period) true
  rw [Dev.declareMissing_begins hx hrp hrun hpend hstop]
  exact ⟨y, q, (hkept.stream n).trans (Dev.setRec_rec _ _ _), hkept.fault, hjoins⟩

end

/-! ## Rows and pictures of a stream -/

/-- Settles O38: the first open row closes with its cause and the next is not due; a picture declared missing joins its stream absent. -/
theorem rowsCloseAndPicturesMiss : Obligations.RowsCloseAndPicturesMiss := by
  intro s n x hcalm hx d shut
  have hraised := State.calm_iff.1 hcalm
  refine ⟨?_, fun rp hrp hrun hpend hstop => ?_⟩
  · intro q r c hopen hmoment y hlater
    have hkept : Dev.IngestKept (d.setRec n.val y) (d.closeRows n.val) := Dev.closeRows_one hx hopen hmoment hlater
    have hcalm' : (d.closeRows n.val).core.fault.raised = [] := (congrArg FaultSt.raised hkept.fault).trans hraised
    have hclosed : (s.commit (d.closeRows n.val)).begin.rec? n.val = some y ∧ (s.commit (d.closeRows n.val)).core.heads = s.core.heads :=
      ⟨(hkept.stream n.val).trans (Dev.setRec_rec _ _ _), hkept.heads⟩
    exact ⟨answers_calm (run_holdExpiry n s) hcalm' hclosed, answers_calm (run_pictureDeadline n s) hcalm' hclosed⟩
  · obtain ⟨y, q, hy, hfault, hjoins⟩ := Dev.declareMissing_joins hx hrp hrun hpend hstop
    exact answers_calm (run_missingPicture n s) ((congrArg FaultSt.raised hfault).trans hraised) ⟨y, q, hy, hjoins⟩

end Sys2Proof.Machine
end

section
namespace Sys2Proof.Machine

/-! ## Walks that visit each entry once -/

/-- A walk over entries with distinct keys: what the other entries keep holds when the entry of a key is visited, and what its visit makes
true holds at the end. -/
theorem foldl_visits_once {δ β κ : Type} {step : δ → β → δ} {key : β → κ} {before after : δ → Prop} {b : β} {l : List β}
    (hkeys : (l.map key).Nodup) (hb : b ∈ l) (hbefore : ∀ d, ∀ c ∈ l, key c ≠ key b → before d → before (step d c))
    (hvisit : ∀ d, before d → after (step d b)) (hafter : ∀ d, ∀ c ∈ l, key c ≠ key b → after d → after (step d c)) {d : δ} (hd : before d) :
    after (l.foldl step d) := by
  obtain ⟨l₁, l₂, rfl⟩ := List.append_of_mem hb
  rw [List.map_append, List.map_cons, List.nodup_append, List.nodup_cons] at hkeys
  obtain ⟨-, ⟨hright, -⟩, hapart⟩ := hkeys
  have hreached : before (l₁.foldl step d) := List.foldlRecOn l₁ step hd fun e he c hc =>
    hbefore e c (List.mem_append_left _ hc) (hapart _ (List.mem_map_of_mem hc) _ List.mem_cons_self) he
  rw [List.foldl_append, List.foldl_cons]
  exact List.foldlRecOn l₂ step (hvisit _ hreached) fun e he c hc =>
    hafter e c (List.mem_append_right _ (List.mem_cons_of_mem _ hc)) (fun heq => hright (heq ▸ List.mem_map_of_mem hc)) he

/-- A table with rising keys has one entry for each key. -/
theorem rising_keys_nodup {α : Type} : ∀ {m : List (Nat × α)}, rising m = true → (m.map (·.1)).Nodup
  | [], _ => List.nodup_nil
  | p :: m, h => by
    simp only [rising, Bool.and_eq_true, List.all_eq_true, decide_eq_true_eq] at h
    obtain ⟨hlow, hm⟩ := h
    refine List.nodup_cons.2 ⟨fun hmem => ?_, rising_keys_nodup hm⟩
    obtain ⟨q, hq, hkey⟩ := List.mem_map.1 hmem
    exact Nat.lt_irrefl _ (hkey ▸ hlow q hq)

/-! ## The drain of a slot (R189) -/

/-- A stream's model after one slot. -/
def RecStream.drained (x : RecStream) : RecStream := { x with f := x.f - x.ds }

/-- A row of the stream waits for its grant. -/
def RecStream.rowWaits (x : RecStream) : Bool := x.pics.any fun q => q.rows.any fun w => w.waiting && decide (w.closed ≠ 2)

theorem RecStream.rowWaits_eq_false (x : RecStream) :
    x.rowWaits = false ↔ (x.pics.all fun q => q.rows.all fun w => !(w.waiting && decide (w.closed ≠ 2))) = true := by
  simp only [RecStream.rowWaits, ← List.not_any_eq_all_not, Bool.not_eq_true']

/-- The live record streams, in ascending slot. -/
def Dev.liveRecs (d : Dev) : List (Nat × RecStream) := d.core.recs.filter fun p => (d.slot p.1).state.live

/-- Every live stream's model drained. -/
def Dev.drainModels (d : Dev) : Dev := d.liveRecs.foldl (fun e p => e.setRec p.1 p.2.drained) d

/-- A slot is the drain of the models and a walk over the streams with a row that waits. -/
theorem Dev.drainTick_eq (d : Dev) :
    d.drainTick = d.liveRecs.foldl (fun e p => if p.2.rowWaits then e.grantRow p.1 else e) d.drainModels := rfl

theorem Dev.drainTick_noWait {d : Dev} (hwait : ∀ p ∈ d.core.recs, p.2.rowWaits = false) : d.drainTick = d.drainModels := by
  rw [Dev.drainTick_eq]
  refine List.foldlRecOn d.liveRecs _ (motive := fun e : Dev => e = d.drainModels) rfl fun e he p hp => ?_
  rw [hwait p (List.mem_filter.1 hp).1, if_neg Bool.false_ne_true]
  exact he

theorem Dev.drainModels_fault (d : Dev) : d.drainModels.core.fault = d.core.fault :=
  List.foldlRecOn _ _ (motive := fun e : Dev => e.core.fault = d.core.fault) rfl fun _ he _ _ => he

/-- The drain of a stream reaches its model once. -/
theorem Dev.drainModels_rec {d : Dev} {n : Nat} {x : RecStream} (hrising : rising d.core.recs = true) (hx : d.rec? n = some x)
    (hlive : (d.slot n).state.live = true) : d.drainModels.rec? n = some x.drained := by
  obtain ⟨l, l', hrecs, -⟩ := List.lookup_eq_some_iff.1 hx
  have hmem : (n, x) ∈ d.liveRecs := List.mem_filter.2 ⟨by simp [hrecs], hlive⟩
  have hkeys : (d.liveRecs.map (·.1)).Nodup := (rising_keys_nodup hrising).sublist (List.filter_sublist.map _)
  exact foldl_visits_once (before := fun _ => True) (after := fun e : Dev => e.rec? n = some x.drained) hkeys hmem
    (fun _ _ _ _ _ => trivial) (fun e _ => e.setRec_rec n x.drained)
    (fun e p _ hne he => (e.setRec_rec_other (Ne.symm hne) p.2.drained).trans he) trivial

/-! ## The restart credit of a slot (R199) -/

/-- A quadrant's credit after one slot. -/
def Dev.creditNext (d : Dev) (q : Nat) : Nat :=
  min (d.get .marver0 0 fRC_CREDIT_SAMPLES q + 4000 * d.encWorking q - cdiv (d.quadLoad q) 1000000) (2 ^ 24 - 1)

/-- One quadrant's credit filled. -/
def Dev.creditQuad (d : Dev) (q : Nat) : Dev := d.set .marver0 0 fRC_CREDIT_SAMPLES (d.creditNext q) q

theorem Dev.creditStep_eq (d : Dev) : d.creditStep = (List.range 4).foldl Dev.creditQuad d := rfl

theorem creditField_ok : ∀ q : Fin 4, fieldOk .marver0 0 fRC_CREDIT_SAMPLES q.val = true := by decide

theorem Dev.creditQuad_same (d : Dev) (q : Fin 4) : (d.creditQuad q.val).get .marver0 0 fRC_CREDIT_SAMPLES q.val = d.creditNext q.val :=
  Dev.get_set_fits d _ _ _ _ _ (creditField_ok q) (Nat.lt_of_le_of_lt (Nat.min_le_right _ _) (by decide))

theorem Dev.creditQuad_other (d : Dev) {p q : Nat} (h : p ≠ q) :
    (d.creditQuad p).get .marver0 0 fRC_CREDIT_SAMPLES q = d.get .marver0 0 fRC_CREDIT_SAMPLES q := by
  refine Dev.get_set_reg d _ _ _ _ _ _ _ _ _ ?_
  simp only [fieldAddr, fRC_CREDIT_SAMPLES]
  omega

theorem creditField_page {q : Nat} (h : q < 4) : fieldAddr .marver0 0 fRC_CREDIT_SAMPLES q / 4096 = 0x1C := by
  simp only [fieldAddr, PageKind.page, fRC_CREDIT_SAMPLES]
  omega

theorem Dev.creditQuad_touches (d : Dev) {q : Nat} (h : q < 4) : Dev.Touches [0x1C] d (d.creditQuad q) :=
  .set d _ _ _ _ _ (List.mem_singleton.2 (creditField_page h))

/-- Writes off the collector's last page withdraw no encode role and take no spare. -/
theorem Dev.Touches.encFor {ps : List Nat} {d d' : Dev} (h : Dev.Touches ps d d') (h7 : 7 ∉ ps) {p : Nat} (hp : p < 64) :
    d'.encFor p = d.encFor p := by
  have hget : ∀ (r : FieldRow) (n : Nat), r.off + r.stride * n < 4096 → d'.get .fault3 0 r n = d.get .fault3 0 r n := fun r n hr =>
    h.get _ _ _ _ (by rwa [show fieldAddr .fault3 0 r n / 4096 = 7 by simp only [fieldAddr, PageKind.page]; omega])
  have hspare : 0x40 + 4 * (p / 16) < 4096 := by omega
  unfold Dev.encFor
  dsimp only
  rw [hget fFC_WD_OTHER_QUAD 0 (by decide), hget fFC_ESPARE_IN_USE (p / 16) hspare, hget fFC_ESPARE_ROLE (p / 16) hspare,
    hget _ 0 (by split <;> decide)]

theorem Dev.Touches.encWorking {ps : List Nat} {d d' : Dev} (h : Dev.Touches ps d d') (h7 : 7 ∉ ps) {q : Nat} (hq : q < 4) :
    d'.encWorking q = d.encWorking q :=
  List.countP_congr fun i hi => by
    rw [h.encFor h7 (by have := List.mem_range.1 hi; omega)]

/-- A quadrant's credit leaves what another's will grow to. -/
theorem Dev.creditQuad_next (d : Dev) {p q : Nat} (hp : p < 4) (hq : q < 4) (h : p ≠ q) : (d.creditQuad p).creditNext q = d.creditNext q := by
  unfold Dev.creditNext
  rw [Dev.creditQuad_other d h, (d.creditQuad_touches hp).encWorking (by decide) hq]
  rfl

theorem Dev.creditStep_core (d : Dev) : d.creditStep.core = d.core :=
  List.foldlRecOn _ _ (motive := fun e : Dev => e.core = d.core) rfl fun _ he _ _ => he

theorem Dev.creditStep_touches (d : Dev) : Dev.Touches [0x1C] d d.creditStep :=
  .foldl Dev.creditQuad _ (fun e _ hq => e.creditQuad_touches (List.mem_range.1 hq)) d

/-- The slot fills each quadrant's credit once. -/
theorem Dev.creditStep_get (d : Dev) (q : Fin 4) : d.creditStep.get .marver0 0 fRC_CREDIT_SAMPLES q.val = d.creditNext q.val :=
  foldl_visits_once (key := id) (before := fun e : Dev => e.creditNext q.val = d.creditNext q.val)
    (after := fun e : Dev => e.get .marver0 0 fRC_CREDIT_SAMPLES q.val = d.creditNext q.val) (by decide) (List.mem_range.2 q.isLt)
    (fun e _ hp hne he => (e.creditQuad_next (List.mem_range.1 hp) q.isLt hne).trans he)
    (fun e he => (e.creditQuad_same q).trans he)
    (fun e _ _ hne he => (e.creditQuad_other hne).trans he) rfl

/-! ## The slots of Marver -/

/-- Settles O40: the drain reaches each live stream's model once, and the credit step each quadrant's credit. -/
theorem marverCountsItsSlots : Obligations.MarverCountsItsSlots := by
  intro s q hcalm
  have hraised := State.calm_iff.1 hcalm
  refine ⟨fun hrising hwait => ?_, ?_⟩
  · have hdrain : s.begin.drainTick = s.begin.drainModels :=
      Dev.drainTick_noWait fun p hp => p.2.rowWaits_eq_false.2 (List.all_eq_true.1 hwait p hp)
    refine answers_calm (run_mrmDrainTick s) ?_ fun n x hx hlive => ?_
    · rw [hdrain, Dev.drainModels_fault]
      exact hraised
    · rw [State.commit_rec, hdrain]
      exact Dev.drainModels_rec hrising hx hlive
  · refine answers_calm (run_restartCreditTick s) ?_ ⟨s.begin.creditStep_core, ?_⟩
    · rw [Dev.creditStep_core]
      exact hraised
    · rw [State.commit_get (s.begin.creditStep_touches.keeps s (Dev.Over.begin s))]
      exact s.begin.creditStep_get q

end Sys2Proof.Machine
end

section
namespace Sys2Proof.Machine

/-! ## Counters of the decode, proxy and network pages -/

/-- A counter that is added to reads the sum, and saturates at all ones. -/
theorem Dev.get_bump_same (d : Dev) (k : PageKind) (i : Nat) (r : FieldRow) (b n : Nat) (h : fieldOk k i r n = true) :
    (d.bump k i r b n).get k i r n = min (d.get k i r n + b) (2 ^ r.width - 1) :=
  d.get_set_fits k i r _ n h (by have := Nat.two_pow_pos r.width; omega)

/-- Fields at two offsets of one page lie in two registers. -/
theorem fieldAddr_ne (k : PageKind) (i : Nat) {r q : FieldRow} (h : q.off ≠ r.off) : fieldAddr k i q 0 ≠ fieldAddr k i r 0 := by
  simp only [fieldAddr, Nat.mul_zero, Nat.add_zero]
  omega

theorem Dev.get_set_offset (d : Dev) (k : PageKind) (i : Nat) {r q : FieldRow} (h : q.off ≠ r.off) (v : Nat) :
    (d.set k i r v).get k i q = d.get k i q := d.get_set_reg k k i i r q v 0 0 (fieldAddr_ne k i h)

theorem Dev.get_bump64_offset (d : Dev) (k : PageKind) (i : Nat) {lo hi q : FieldRow} (hlo : q.off ≠ lo.off) (hhi : q.off ≠ hi.off) (b : Nat) :
    (d.bump64 k i lo hi b).get k i q = d.get k i q :=
  (Dev.get_set_offset _ k i hhi _).trans (Dev.get_set_offset _ k i hlo _)

/-- The counters of a decode page, of an engine's page and of a network port's page may change. -/
theorem decCounters_ok : ∀ p : Fin 20, ∀ r ∈ [fDEC_TILE_CNT_TILES, fDEC_PIC_CNT_PICTURES], fieldOk .dec p.val r 0 = true := by decide
theorem netFrames_ok : ∀ n : Fin 2, fieldOk .net n.val fNET_TX_FRAMES_FRAMES 0 = true := by decide
theorem proxyPackets_ok : ∀ e : Fin 4, fieldOk .proxy e.val fPX_PKT_CNT_PACKETS 0 = true := by decide

/-! ## A decode tile ends (R207) -/

theorem Dev.decGiveBack_core (d : Dev) (p : Nat) : (d.decGiveBack p).core = d.core :=
  ite_both (P := fun e : Dev => e.core = d.core) rfl
    (ite_both (P := fun e : Dev => e.core = d.core) (ite_both (P := fun e : Dev => e.core = d.core) rfl rfl) rfl)

theorem Dev.refreshMode_touches {ps : List Nat} (h0 : 0 ∈ ps) (d : Dev) : Dev.Touches ps d d.refreshMode :=
  have hset : ∀ (e : Dev) (r : FieldRow) (v : Nat), r.off + r.stride * 0 < 4096 → Dev.Touches ps e (e.set .device 0 r v) := fun e r v hr =>
    .set e _ _ _ _ _ (by
      rw [show fieldAddr .device 0 r 0 / 4096 = 0 by simp only [fieldAddr, PageKind.page]; omega]
      exact h0)
  have hbits := (hset d fDEV_MODE_EXCHANGE _ (by decide)).trans (hset _ fDEV_MODE_DEGRADED _ (by decide))
  ite_both hbits ((hbits.trans (hset _ fDEV_MODE_MODE _ (by decide))).trans (.stat _ _ _ h0))

/-- A spare that gives its role back writes the collector's last page and the mode. -/
theorem Dev.decGiveBack_touches (d : Dev) {p : Nat} (hp : p < 20) : Dev.Touches [0, 7] d (d.decGiveBack p) := by
  have hspare : ∀ (e : Dev) (r : FieldRow), r.off + r.stride * (p - 16) < 4096 → Dev.Touches [0, 7] e (e.set .fault3 0 r 0 (p - 16)) := fun e r hr =>
    .set e _ _ _ _ _ (by
      rw [show fieldAddr .fault3 0 r (p - 16) / 4096 = 7 by simp only [fieldAddr, PageKind.page]; omega]
      decide)
  refine ite_both (.refl _ d) (ite_both (P := Dev.Touches [0, 7] d) ?_ (.refl _ d))
  exact ((hspare d fFC_DSPARE_IN_USE (by simp only [fFC_DSPARE_IN_USE]; omega)).trans
    (hspare _ fFC_DSPARE_ROLE (by simp only [fFC_DSPARE_ROLE]; omega))).trans (Dev.refreshMode_touches (by decide) _)

/-- A pipeline without its tile. -/
def Dev.decFreed (d : Dev) (pipe : Nat) : Dev :=
  ((d.setDecp pipe { d.decp pipe with job := none }).set .dec pipe fMC_STAT_BUSY 0).decGiveBack pipe

theorem Dev.decFreed_core (d : Dev) (pipe : Nat) : (d.decFreed pipe).core = (d.setDecp pipe { d.decp pipe with job := none }).core :=
  Dev.decGiveBack_core _ pipe

theorem Dev.decFreed_tiles (d : Dev) (pipe : Fin 20) : (d.decFreed pipe.val).get .dec pipe.val fDEC_TILE_CNT_TILES = d.get .dec pipe.val fDEC_TILE_CNT_TILES := by
  refine (Dev.Touches.get (Dev.decGiveBack_touches _ pipe.isLt) _ _ _ _ ?_).trans (Dev.get_set_offset _ _ _ (by decide) _)
  simp only [fieldAddr, PageKind.page, fDEC_TILE_CNT_TILES, List.mem_cons, List.not_mem_nil, or_false]
  omega

/-- A reconstructed tile in the counts of its pipeline. -/
def Dev.countDecTile (d : Dev) (pipe samples : Nat) : Dev :=
  ((d.bump .dec pipe fDEC_TILE_CNT_TILES).bump .dec pipe fMC_COMMIT_CNT_TILES).bump64 .dec pipe fDEC_SMP_LO_SAMPLES_LO fDEC_SMP_HI_SAMPLES_HI samples

theorem Dev.countDecTile_tiles (d : Dev) (pipe : Fin 20) (samples : Nat) :
    (d.countDecTile pipe.val samples).get .dec pipe.val fDEC_TILE_CNT_TILES = min (d.get .dec pipe.val fDEC_TILE_CNT_TILES + 1) (2 ^ 32 - 1) :=
  calc (d.countDecTile pipe.val samples).get .dec pipe.val fDEC_TILE_CNT_TILES
    _ = ((d.bump .dec pipe.val fDEC_TILE_CNT_TILES).bump .dec pipe.val fMC_COMMIT_CNT_TILES).get .dec pipe.val fDEC_TILE_CNT_TILES :=
        Dev.get_bump64_offset _ _ _ (by decide) (by decide) _
    _ = (d.bump .dec pipe.val fDEC_TILE_CNT_TILES).get .dec pipe.val fDEC_TILE_CNT_TILES := Dev.get_set_offset _ _ _ (by decide) _
    _ = min (d.get .dec pipe.val fDEC_TILE_CNT_TILES + 1) (2 ^ 32 - 1) :=
        d.get_bump_same _ _ _ 1 0 (decCounters_ok pipe _ (by decide))

/-- What the stream holds of a tile that ended: its samples, or its damage. -/
def Dev.holdDecTile (d : Dev) (n pipe : Nat) (x : DecStream) (r c : Nat) : TileDec → Dev
  | .error (cause, det) => d.setDec n (x.modTile r c fun t => { t with stage := 3, cause := cause, detail := det })
  | .ok (out, pus) =>
    let y := x.modTile r c fun t => { t with stage := 2, out := out, pus := pus }
    (d.countDecTile pipe (x.hdr.geo.wReal c * x.hdr.geo.hReal r)).setDec n { y with cur := y.cur.map fun p => { p with pipe := pipe } }

theorem Dev.holdDecTile_decp (d : Dev) (n pipe : Nat) (x : DecStream) (r c : Nat) (t : TileDec) :
    (d.holdDecTile n pipe x r c t).core.decp = d.core.decp := by
  cases t <;> rfl

theorem Dev.decTileDone_holds {d : Dev} {n pipe r c : Nat} {x : DecStream} {p : DecPic} (hx : d.dec? n = some x) (hcur : x.cur = some p)
    (hjob : (d.decp pipe).job = some (n, p.hdr.pic, r, c)) :
    d.decTileDone pipe = (((d.decFreed pipe).holdDecTile n pipe x r c (x.tile p r c)).decSettle n).decDeal := by
  have hx' : (d.decFreed pipe).dec? n = some x := by
    rw [Dev.dec?, Dev.decFreed_core]
    exact hx
  unfold Dev.decFreed at hx' ⊢
  unfold Dev.decTileDone
  simp only [hjob, hx', hcur]
  rw [if_neg (not_not_intro rfl)]
  cases x.tile p r c <;> rfl

/-! ## A decoded picture is complete (R208) -/

/-- A stream whose picture in hand went to its outputs as `o`. -/
def DecStream.handedOut (x : DecStream) (o : DecOut) (ovf : Nat) : DecStream :=
  { x with refSet := [], cur := none, done := x.done + 1, lastPic := o.pic, outs := x.outs ++ [o], ovf := ovf }

/-- The pipeline that reports a picture: the one that completed its last tile, else the lowest that works. -/
def Dev.decReporter (d : Dev) (p : DecPic) : Nat := if (p.rows.any fun w => !w.tiles.isEmpty) then p.pipe else d.lowDec

/-- A picture in the counts, told to the firmware. -/
def Dev.countDecPic (d : Dev) (q : Nat) : Dev :=
  ((d.bump .dec q fDEC_PIC_CNT_PICTURES).assertEvt (64 + q)).lower .memctl 0 fRP_OVF_USED_NOW 0

theorem Dev.countDecPic_pictures {d : Dev} (hentering : d.core.lehr.entering = []) {q : Nat} (hq : q < 20) :
    (d.countDecPic q).get .dec q fDEC_PIC_CNT_PICTURES = min (d.get .dec q fDEC_PIC_CNT_PICTURES + 1) (2 ^ 32 - 1) := by
  have htold := Dev.assertEvt_tells (ps := [1, 0xB, 0x4A]) (by decide) (by decide) (d.bump .dec q fDEC_PIC_CNT_PICTURES) (64 + q) (by omega) hentering
  have htouch : Dev.Touches [1, 0xB, 0x4A] (d.bump .dec q fDEC_PIC_CNT_PICTURES) (d.countDecPic q) := htold.touches.trans (.set _ _ _ _ _ _ (by decide))
  refine (htouch.get .dec q fDEC_PIC_CNT_PICTURES 0 ?_).trans (d.get_bump_same _ _ _ 1 0 (decCounters_ok ⟨q, hq⟩ _ (by decide)))
  simp only [fieldAddr, PageKind.page, fDEC_PIC_CNT_PICTURES, List.mem_cons, List.not_mem_nil, or_false]
  omega

/-- With one picture waiting already, two or more wait once another is added. -/
theorem unreleased_append_ne_one {l : List DecOut} {o : DecOut} (h : (l.any fun o => !o.released) = true) (ho : o.released = false) :
    ((l ++ [o]).filter fun e => !e.released).length ≠ 1 := by
  obtain ⟨e, he, hrel⟩ := List.any_eq_true.1 h
  have hpos : 0 < (l.filter fun e => !e.released).length := List.length_pos_of_mem (List.mem_filter.2 ⟨he, hrel⟩)
  simp only [List.filter_append, List.length_append, List.filter_cons, ho, Bool.not_false, if_true, List.filter_nil, List.length_singleton]
  omega

theorem Dev.decPictureDone_hands {d : Dev} {n : Nat} {x : DecStream} {p : DecPic} (hx : d.dec? n = some x) (hcur : x.cur = some p)
    (hlive : (d.slot n).state.live = true) (hdmg : x.dmg = none) (htrailer : p.trailer ≠ []) (htiles : p.tilesDone = true)
    (hintra : x.hdr.coding ≠ 1) (hverify : x.par.verify = false) (hpace : x.par.pace = true) (hearlier : (x.outs.any fun o => !o.released) = true)
    (hshown : picAhead p.hdr.pic x.par.first < 2 ^ 23) :
    ∃ o ovf, o.pic = p.hdr.pic ∧ d.decPictureDone n = ((d.countDecPic (d.decReporter p)).setDec n (x.handedOut o ovf)).decRun n := by
  unfold Dev.decPictureDone
  simp only [hx, hcur]
  rw [if_neg (by simp [hlive, hdmg, htrailer, htiles])]
  simp only [hintra, hverify, hpace, hshown, if_false, false_and, decide_true, Bool.not_false, Bool.and_self, Bool.not_true]
  simp only [if_true, Bool.false_eq_true, if_false]
  rw [if_neg fun h => unreleased_append_ne_one hearlier rfl h.2]
  exact ⟨_, _, rfl, rfl⟩

/-! ## A paced picture is released (R208) -/

/-- A stream whose picture `pic` is released at `free`. -/
def DecStream.release (x : DecStream) (pic free : Nat) : DecStream :=
  { x with lastRel := pic, outs := x.outs.map fun p => if p.pic = pic then { p with released := true, relAt := free } else p }

theorem Dev.pacedRelease_releases {d : Dev} {n : Nat} {x : DecStream} {o : DecOut} (hx : d.dec? n = some x)
    (ho : (x.outs.find? fun o => !o.released) = some o) (hpace : x.par.pace = true) (hlive : (d.slot n).state.live = true)
    (hdue : x.releaseAt o.pic ≤ d.now) :
    d.pacedRelease n = ((d.setDec n (x.release o.pic d.free)).decSweep n).decRun n := by
  unfold Dev.pacedRelease
  simp only [hx, ho]
  rw [if_pos ⟨hpace, hlive, hdue⟩]
  unfold Dev.releasePic
  simp only [hx, ho]
  rfl

/-! ## Proxy streams: slices and pictures (R222, R224) -/

/-- What a proxy stream has in hand and how many pictures it has begun. -/
def ProxyStream.hand (x : ProxyStream) : Option ProxyPic × Nat := (x.cur, x.nPic)

/-- The fault collector stands, and so does what proxy `n` has in hand. -/
structure Dev.HandKept (n : Nat) (d d' : Dev) : Prop where
  fault : d'.core.fault = d.core.fault
  hand : (d'.proxy? n).map ProxyStream.hand = (d.proxy? n).map ProxyStream.hand

theorem Dev.HandKept.refl (n : Nat) (d : Dev) : Dev.HandKept n d d := ⟨rfl, rfl⟩
theorem Dev.HandKept.trans {n : Nat} {a b c : Dev} (h : Dev.HandKept n a b) (g : Dev.HandKept n b c) : Dev.HandKept n a c :=
  ⟨g.fault.trans h.fault, g.hand.trans h.hand⟩
theorem Dev.HandKept.ofCore {n : Nat} {d d' : Dev} (h : d'.core = d.core) : Dev.HandKept n d d' := ⟨by rw [h], by rw [Dev.proxy?, h, Dev.proxy?]⟩
theorem Dev.HandKept.setProxy {n : Nat} {d : Dev} {x y : ProxyStream} (hx : d.proxy? n = some x) (hy : y.hand = x.hand) :
    Dev.HandKept n d (d.setProxy n y) := ⟨rfl, by rw [Dev.setProxy_proxy, hx, Option.map_some, Option.map_some, hy]⟩

/-- Packets that are queued, or dropped while the link is down, leave what the proxy has in hand. -/
theorem Dev.sendRtp_handKept (d : Dev) (n t0 : Nat) (pls : List (List Byte)) (mark : Bool) (doneAt : Option Nat) :
    Dev.HandKept n d (d.sendRtp n t0 pls mark doneAt) := by
  refine List.foldlRecOn _ _ (motive := Dev.HandKept n d) (.refl n d) fun e he a _ => he.trans ?_
  dsimp only
  split
  · exact .refl n e
  · rename_i x hx
    have hput : ∀ y : ProxyStream, y.hand = x.hand → Dev.HandKept n e (e.setProxy n y) := fun y hy => .setProxy hx hy
    exact ite_both (hput _ rfl) ((hput { x with seq := (x.seq + 1) % 65536, ipId := (x.ipId + 1) % 65536 } rfl).trans (.ofCore rfl))

/-- A slice that is not its picture's last is coded and its packets are sent. -/
theorem Dev.proxySlice_counts {d : Dev} {n : Nat} {x : ProxyStream} {q : ProxyPic} (hx : d.proxy? n = some x) (hcur : x.cur = some q)
    (hlive : (d.slot n).state.live = true) (hmore : q.slices + 1 < x.par.slices) :
    Dev.HandKept n (d.setProxy n { x with cur := some { q with slices := q.slices + 1 } }) (d.proxySlice n) := by
  unfold Dev.proxySlice
  simp only [hx, hcur]
  rw [if_neg (by simp [hlive])]
  have hlast : ¬ q.slices + 1 = x.par.slices := by omega
  simp only [hlast, if_false]
  exact Dev.sendRtp_handKept _ _ _ _ _ _

/-- A source picture that is to be coded is taken in hand: its engine's counts change, and the stream is stored with it. -/
theorem Dev.proxyPicture_takes {d : Dev} {n : Nat} {x : ProxyStream} {v : SrcPic} {f : Nat → Nat → Nat} (hx : d.proxy? n = some x)
    (hcur : x.cur = none) (hrun : (d.slot n).state = .running) (hnext : d.nextSrcPic n x = some (v, f)) (hlive : v.live = true)
    (hdiv : x.nSrc % x.par.picDiv = 0) :
    ∃ (e : Dev) (z : ProxyStream) (w : ProxyPic), d.proxyPicture n = e.setProxy n z ∧ e.core.fault = d.core.fault ∧ z.cur = some w ∧
      w.num = x.nPic ∧ w.src = v.pic ∧ w.slices = 0 ∧ z.nPic = x.nPic + 1 ∧ z.nSrc = x.nSrc + 1 ∧ z.srcLast = some v.pic := by
  unfold Dev.proxyPicture
  simp only [hx, hnext, hlive, if_true, Nat.add_sub_cancel]
  rw [if_neg (by simp [hcur, hrun]), if_neg (not_not_intro hdiv)]
  refine ⟨_, _, _, rfl, ?_, rfl, rfl, rfl, rfl, rfl, rfl, rfl⟩
  rw [Dev.bump_core]
  exact ite_both (P := fun e : Dev => e.core.fault = d.core.fault) rfl (ite_both (P := fun e : Dev => e.core.fault = d.core.fault) rfl rfl)

/-! ## Packets and reports that leave (R224, R227) -/

/-- A frame leaves network port `net` and is counted. -/
def Dev.netSent (d : Dev) (net : Nat) (frame : List Byte) : Dev :=
  (d.setNet net { d.net net with lastFrame := frame }).bump .net net fNET_TX_FRAMES_FRAMES

theorem Dev.netSent_frame (d : Dev) (net : Nat) (frame : List Byte) : ((d.netSent net frame).net net).lastFrame = frame :=
  congrArg NetPort.lastFrame (Dev.setNet_net d net _)

theorem Dev.netSent_frames (d : Dev) {net : Nat} (hnet : net < 2) (frame : List Byte) :
    (d.netSent net frame).get .net net fNET_TX_FRAMES_FRAMES = min (d.get .net net fNET_TX_FRAMES_FRAMES + 1) (2 ^ 32 - 1) :=
  Dev.get_bump_same _ _ _ _ 1 0 (netFrames_ok ⟨net, hnet⟩)

theorem Dev.netSent_touches (d : Dev) (net : Nat) (frame : List Byte) : Dev.Touches [9 + net] d (d.netSent net frame) := by
  refine Dev.Touches.trans (b := d.setNet net { d.net net with lastFrame := frame }) (.ofCore rfl rfl rfl) (.bump _ _ _ _ _ _ ?_)
  simp only [fieldAddr, PageKind.page, fNET_TX_FRAMES_FRAMES, List.mem_singleton]
  omega

theorem Dev.rtcpReport_sends {d : Dev} {n : Nat} {x : ProxyStream} (hx : d.proxy? n = some x) (hrun : (d.slot n).state = .running)
    (hms : d.get .proxy x.engine fPX_CFG_RTCP_MS ≠ 0) (hup : d.netUp x.par.net = true) :
    ∃ frame, d.rtcpReport n = (d.netSent x.par.net frame).setProxy n { x with ipId := (x.ipId + 1) % 65536 } := by
  unfold Dev.rtcpReport
  simp only [hx]
  rw [if_neg (by simp [hrun, hms, hup])]
  exact ⟨_, rfl⟩

/-- A packet in the counts of its engine. -/
def Dev.countPacket (d : Dev) (engine bytes : Nat) : Dev :=
  (d.bump .proxy engine fPX_PKT_CNT_PACKETS).bump64 .proxy engine fPX_BYTES_LO_BYTES_LO fPX_BYTES_HI_BYTES_HI bytes

theorem Dev.countPacket_packets (d : Dev) {engine : Nat} (he : engine < 4) (bytes : Nat) :
    (d.countPacket engine bytes).get .proxy engine fPX_PKT_CNT_PACKETS = min (d.get .proxy engine fPX_PKT_CNT_PACKETS + 1) (2 ^ 32 - 1) :=
  (Dev.get_bump64_offset _ _ _ (by decide) (by decide) _).trans (d.get_bump_same _ _ _ 1 0 (proxyPackets_ok ⟨engine, he⟩))

theorem Dev.countPacket_touches (d : Dev) (engine bytes : Nat) : Dev.Touches [0x50 + engine] d (d.countPacket engine bytes) := by
  have hpage : ∀ r : FieldRow, r.off < 4096 → fieldAddr .proxy engine r 0 / 4096 ∈ [0x50 + engine] := fun r hr => by
    simp only [fieldAddr, PageKind.page, List.mem_singleton]
    omega
  exact (Dev.Touches.bump _ _ _ _ _ _ (hpage _ (by decide))).trans
    ((Dev.Touches.set _ _ _ _ _ _ (hpage _ (by decide))).trans (.set _ _ _ _ _ _ (hpage _ (by decide))))

/-- A packet of a proxy leaves its port: the engine counts it, and the frame goes out. -/
def Dev.packetSent (d : Dev) (x : ProxyStream) (v : ProxyPkt) : Dev :=
  (d.countPacket x.engine v.bytes.length).netSent x.par.net v.bytes

theorem Dev.Over.setProxy {s : State} {d : Dev} (h : Dev.Over s d) (n : Nat) (x : ProxyStream) : Dev.Over s (d.setProxy n x) := h.of_eq rfl rfl rfl
theorem Dev.Over.packetSent {s : State} {d : Dev} (h : Dev.Over s d) (x : ProxyStream) (v : ProxyPkt) : Dev.Over s (d.packetSent x v) :=
  (Dev.netSent_touches _ _ _).keeps s ((d.countPacket_touches _ _).keeps s h)

theorem Dev.packetSent_frames (d : Dev) {x : ProxyStream} (hnet : x.par.net < 2) (v : ProxyPkt) :
    (d.packetSent x v).get .net x.par.net fNET_TX_FRAMES_FRAMES = min (d.get .net x.par.net fNET_TX_FRAMES_FRAMES + 1) (2 ^ 32 - 1) := by
  refine (Dev.netSent_frames _ hnet _).trans ?_
  rw [(d.countPacket_touches x.engine v.bytes.length).get]
  simp only [fieldAddr, PageKind.page, fNET_TX_FRAMES_FRAMES, List.mem_singleton]
  omega

theorem Dev.packetSent_packets (d : Dev) {x : ProxyStream} (hnet : x.par.net < 2) (hengine : x.engine < 4) (v : ProxyPkt) :
    (d.packetSent x v).get .proxy x.engine fPX_PKT_CNT_PACKETS = min (d.get .proxy x.engine fPX_PKT_CNT_PACKETS + 1) (2 ^ 32 - 1) := by
  refine ((Dev.netSent_touches _ _ _).get _ _ _ _ ?_).trans (d.countPacket_packets hengine _)
  simp only [fieldAddr, PageKind.page, fPX_PKT_CNT_PACKETS, List.mem_singleton]
  omega

/-- A queued packet that is not its picture's last leaves. -/
theorem Dev.proxyLeaves_sends {d : Dev} {n : Nat} {x : ProxyStream} {v : ProxyPkt} {rest : List ProxyPkt} (hx : d.proxy? n = some x)
    (hqueue : x.queue = v :: rest) (hlast : v.last = none) (hup : d.netUp x.par.net = true) :
    d.proxyLeaves n = (d.setProxy n { x with queue := rest, bytes := x.bytes + v.bytes.length }).packetSent x v := by
  unfold Dev.proxyLeaves
  simp only [hx, hqueue, hlast]
  rw [if_neg (by simp [hup])]
  rfl

/-! ## Decode and proxy streams at work -/

theorem State.commit_proxy (s : State) (d : Dev) (n : Nat) : (s.commit d).begin.proxy? n = d.proxy? n := rfl
theorem State.commit_net (s : State) (d : Dev) (n : Nat) : (s.commit d).begin.net n = d.net n := rfl

/-- Settles O50: each command does what its own lemma says, and the commands of a proxy raise no fault. -/
theorem decodedPicturesAndProxyPacketsGoOut : Obligations.DecodedPicturesAndProxyPacketsGoOut := by
  intro s slot pipe x p r c y hcalm d n k q
  have hraised := State.calm_iff.1 hcalm
  refine ⟨fun hx hcur hjob hcalm' => ?_, fun hx hcur hlive hdmg htrailer htiles hintra hverify hpace hearlier hshown hq hentering hcalm' => ?_,
    fun o hx ho hpace hlive hdue hcalm' => ?_, fun v hy hcur hlive hmore => ?_, fun v f hy hcur hrun hnext hlive hdiv => ?_,
    fun hy hrun hms hnet hup => ?_, fun v rest hy hqueue hlast hnet hengine hup => ?_⟩
  · refine answers_calm (run_decodeTileDone pipe s) (State.calmFor_iff.1 hcalm') ⟨_, congrArg s.commit (Dev.decTileDone_holds hx hcur hjob), ?_, ?_⟩
    · rw [Dev.decp, Dev.holdDecTile_decp, Dev.decFreed_core]
      exact congrArg Pipe.job (Dev.setDecp_decp _ _ _)
    · cases x.tile p r c with
      | error a => exact Dev.setDec_dec _ _ _
      | ok a =>
        refine ⟨?_, ((d.decFreed pipe.val).countDecTile_tiles pipe _).trans (by rw [Dev.decFreed_tiles])⟩
        simp only [Dev.holdDecTile, Dev.setDec_dec, Option.map_some, Option.map_map]
        rfl
  · obtain ⟨o, ovf, ho, hdone⟩ := Dev.decPictureDone_hands hx hcur hlive hdmg htrailer htiles hintra hverify hpace hearlier hshown
    refine answers_calm (run_decodePictureComplete slot s) (State.calmFor_iff.1 hcalm')
      ⟨_, _, congrArg s.commit hdone, Dev.setDec_dec _ _ _, rfl, rfl, rfl, ho, ?_, Dev.countDecPic_pictures hentering hq⟩
    rw [DecStream.handedOut, List.map_append, List.map_singleton, ho]
  · exact answers_calm (run_pacedRelease slot s) (State.calmFor_iff.1 hcalm')
      ⟨_, congrArg s.commit (Dev.pacedRelease_releases hx ho hpace hlive hdue), Dev.setDec_dec _ _ _⟩
  · have hkept := Dev.proxySlice_counts hy hcur hlive hmore
    have hhand := hkept.hand
    rw [Dev.setProxy_proxy] at hhand
    obtain ⟨z, hz, hhand⟩ := Option.map_eq_some_iff.1 hhand
    simp only [ProxyStream.hand, Prod.mk.injEq] at hhand
    exact answers_calm (run_proxySliceComplete slot s) ((congrArg FaultSt.raised hkept.fault).trans hraised) ⟨z, hz, hhand⟩
  · obtain ⟨e, z, w, htakes, hfault, hpic⟩ := Dev.proxyPicture_takes hy hcur hrun hnext hlive hdiv
    refine answers_calm (run_proxyPictureStart slot s) ?_ ⟨z, w, ?_, hpic⟩
    · rw [htakes]
      exact (congrArg FaultSt.raised hfault).trans hraised
    · rw [State.commit_proxy, htakes]
      exact Dev.setProxy_proxy _ _ _
  · obtain ⟨frame, hsends⟩ := Dev.rtcpReport_sends hy hrun hms hup
    have htouch : Dev.Touches [9 + y.par.net] d (d.rtcpReport k) :=
      hsends ▸ (d.netSent_touches y.par.net frame).trans (.ofCore rfl rfl rfl)
    refine answers_calm (run_rtcpSenderReport slot s) ?_ ⟨?_, ?_⟩
    · rw [hsends]
      exact hraised
    · rw [State.commit_proxy, hsends]
      exact Dev.setProxy_proxy _ _ _
    · rw [State.commit_get (htouch.keeps s (.begin s)), hsends]
      exact d.netSent_frames hnet frame
  · have hsends := Dev.proxyLeaves_sends hy hqueue hlast hup
    have hover : Dev.Over s (d.proxyLeaves k) := hsends ▸ ((Dev.Over.begin s).setProxy k _).packetSent y v
    refine answers_calm (run_proxyPacketLeavesPort slot s) ?_ ⟨?_, ?_, ?_, ?_⟩
    · rw [hsends]
      exact hraised
    · rw [State.commit_proxy, hsends]
      exact Dev.setProxy_proxy d k _
    · rw [State.commit_net, hsends]
      exact Dev.netSent_frame _ _ _
    · rw [State.commit_get hover, hsends]
      exact Dev.packetSent_frames _ hnet v
    · rw [State.commit_get hover, hsends]
      exact Dev.packetSent_packets _ hnet hengine v

end Sys2Proof.Machine
end

section
namespace Sys2Proof.Machine

/-! ## Commands that order something of a stream (Table 12.3) -/

theorem Dev.cmdSetIngest_live {d : Dev} {c : MbxCmd} {x : RecStream} (hx : d.rec? (argF c.words 2 10 0) = some x)
    (hlive : (d.slot (argF c.words 2 10 0)).state.live = true) (hok : (ingParams c.words).ok (x.decl.cfa / 16) = true) (m : Nat) :
    d.cmdSetIngest m c = (d.setRec (argF c.words 2 10 0) { x with ingNext := some (ingParams c.words) }).finishCmd m c.id 0 := by
  unfold Dev.cmdSetIngest
  simp only [hx, hlive, hok, Bool.not_true, Bool.false_eq_true, if_false]

/-- RESULT of FORCE_I: the picture after the stream's last one, or none while no picture has begun. -/
def RecStream.forcedPic (x : RecStream) : Word := match x.lastPic with
  | some p => BitVec.ofNat 32 (picAdd p.1 1)
  | none => 0x80000000#32

theorem Dev.cmdForceI_open {d : Dev} {c : MbxCmd} {x : RecStream} (hx : d.rec? (argF c.words 2 10 0) = some x)
    (hstate : (d.slot (argF c.words 2 10 0)).state = .armed ∨ (d.slot (argF c.words 2 10 0)).state = .running) (m : Nat) :
    d.cmdForceI m c = (d.setRec (argF c.words 2 10 0) { x with forceI := true }).finishCmd m c.id 0 x.forcedPic := by
  unfold Dev.cmdForceI RecStream.forcedPic
  simp only [hx, if_pos hstate]
  cases x.lastPic <;> rfl

theorem Dev.cmdForceIdr_live {d : Dev} {c : MbxCmd} {x : ProxyStream} (h1280 : 1280 ≤ argF c.words 2 10 0) (h1536 : argF c.words 2 10 0 < 1536)
    (hx : d.proxy? (argF c.words 2 10 0) = some x) (hlive : (d.slot (argF c.words 2 10 0)).state.live = true) (m : Nat) :
    d.cmdForceIdr m c = (d.setProxy (argF c.words 2 10 0) { x with forceIdr := true }).finishCmd m c.id 0 := by
  unfold Dev.cmdForceIdr
  simp only [hx, hlive, if_true]
  exact if_neg (by omega)

theorem Dev.cmdHostMeta_live {d : Dev} {c : MbxCmd} {x : RecStream} (h1024 : argF c.words 2 10 0 < 1024) (hsome : argF c.words 5 31 0 ≠ 0)
    (hsize : argF c.words 5 31 0 ≤ 4096) (hx : d.rec? (argF c.words 2 10 0) = some x)
    (hlive : (d.slot (argF c.words 2 10 0)).state.live = true) (m : Nat) (data : List Byte) :
    d.cmdHostMeta m (some data) c =
      (d.queueMeta x.par.head x.par.region 3 ((List.range (argF c.words 5 31 0)).map fun i => data.getD i 0)).finishCmd m c.id 0 := by
  unfold Dev.cmdHostMeta
  simp only [hx, hlive, if_true]
  exact if_neg (by omega)

/-! ## HEAD_CMD waits for its ACK (R239) -/

/-- The bytes of a HOST_CMD frame: the first octets of the command's parameter words. -/
def headCmdBytes (ws : List Word) : List Byte := ((List.range 12).flatMap fun i => leBytes 4 (argF ws (3 + i) 31 0)).take (argF ws 2 21 16)

theorem headCmdBytes_length {ws : List Word} (h : argF ws 2 21 16 ≤ 48) : (headCmdBytes ws).length = argF ws 2 21 16 := by
  unfold headCmdBytes
  rw [List.length_take, flatMap_leBytes_length, List.length_range]
  exact Nat.min_eq_left h

/-- A command that is held waits in its mailbox, its words as they were. -/
theorem Dev.holdCmd_waits {d : Dev} {m : Nat} {c : MbxCmd} (hc : c ∈ (d.mbx m).cmds) :
    { c with stage := .waiting } ∈ ((d.holdCmd m c.id).mbx m).cmds := by
  simp only [Dev.holdCmd, Dev.setMbx_mbx, List.mem_map]
  exact ⟨c, hc, if_pos rfl⟩

theorem Dev.cmdHeadCmd_admitted {d : Dev} {c : MbxCmd} (hsome : argF c.words 2 21 16 ≠ 0) (hsize : argF c.words 2 21 16 ≤ 48)
    (hstate : d.hdState (argF c.words 2 9 0) = 4) (m : Nat) :
    d.cmdHeadCmd m c = (d.holdCmd m c.id).queueFrame (argF c.words 2 9 0) ⟨5, headCmdBytes c.words, some (m, c.id)⟩ := by
  unfold Dev.cmdHeadCmd
  dsimp only
  rw [if_neg (by omega), if_neg (not_not_intro hstate)]
  rfl

theorem Dev.queueFrame_queue (d : Dev) (h : Nat) (f : BcFrame) : ((d.queueFrame h f).head h).queue = (d.head h).queue ++ [f] :=
  congrArg Head.queue (Dev.setHead_head d h _)

/-- Settles O23: each command is one update of its stream or head, and all but HEAD_CMD finish with it. -/
theorem streamAndHeadOrders : Obligations.StreamAndHeadOrders := by
  intro s m c hcalm n
  have hraised := State.calm_iff.1 hcalm
  refine ⟨fun x hc hx hlive hok => ?_, fun x hc hx hstate => ?_, fun x hc h1280 h1536 hx hlive => ?_,
    fun x data hc h1024 hsome hsize hx hstream hrun hopen => ?_, fun hc hsome hsize hstate => ?_⟩
  · exact answers_withCmd (run_setIngest m s) hc (Dev.cmdSetIngest_live hx hlive hok m.val) hraised
      ⟨State.commit_done hc rfl 0 0 0, Dev.setRec_rec _ _ _⟩
  · exact answers_withCmd (run_forceI m s) hc (Dev.cmdForceI_open hx hstate m.val) hraised
      ⟨State.commit_done hc rfl 0 x.forcedPic 0, Dev.setRec_rec _ _ _⟩
  · exact answers_withCmd (run_forceIdr m s) hc (Dev.cmdForceIdr_live h1280 h1536 hx hlive m.val) hraised
      ⟨State.commit_done hc rfl 0 0 0, Dev.setProxy_proxy _ _ _⟩
  · have hmeta := Dev.cmdHostMeta_live h1024 hsome hsize hx (by rw [hrun]; rfl) m.val data
    rw [Dev.queueMeta_queues hstream hrun hopen] at hmeta
    refine answers_withCmd (run_hostMeta m (some data) s) hc hmeta ?_ ⟨State.commit_done hc (Dev.gatherEvt_signals _ _).host 0 0 0,
      _, _, (Dev.gatherEvt_rec _ _ _).trans (Dev.setRec_rec _ _ _), rfl, rfl, rfl⟩
    rw [Dev.finishCmd_core_fault, Dev.gatherEvt_fault]
    exact hraised
  · refine answers_withCmd (run_headCmd m s) hc (Dev.cmdHeadCmd_admitted hsome hsize hstate m.val) hraised
      ⟨Dev.holdCmd_waits (Dev.readyCmd_mem hc), _, Dev.queueFrame_queue _ _ _, rfl, headCmdBytes_length hsize, rfl⟩

end Sys2Proof.Machine
end

section
namespace Sys2Proof.Machine

/-! ## Orders and commit points (R233) -/

theorem latchOrder_orders (e : Pipe) (o : Nat) : (latchOrder e o).orders = if e.orders.contains o then e.orders else e.orders ++ [o] :=
  apply_ite Pipe.orders _ _ _

/-- A commit point takes every order, where order 0 is not among them. -/
theorem Dev.takeOrders_all {d : Dev} {p : Nat} (h : (d.enc p).orders.contains 0 = false) :
    d.takeOrders p = d.setEnc p { d.enc p with orders := [] } := by
  unfold Dev.takeOrders
  dsimp only
  rw [h]
  rfl

theorem State.commit_enc (s : State) (d : Dev) (p : Nat) : (s.commit d).begin.enc p = d.enc p := rfl
theorem State.commit_decp (s : State) (d : Dev) (p : Nat) : (s.commit d).begin.decp p = d.decp p := rfl

theorem run_pipelineOrder_enc (p : Fin 68) (o : Fin 5) (s : State) :
    exec (.pipelineOrder false p o) s = s.run fun d => d.setEnc p.val (latchOrder (d.enc p.val) o.val) := rfl

theorem run_pipelineOrder_dec {p : Fin 68} (hp : p.val < 20) (o : Fin 5) (s : State) :
    exec (.pipelineOrder true p o) s = s.run fun d => d.setDecp p.val (latchOrder (d.decp p.val) o.val) := by
  rw [run_pipelineOrder]
  simp only [if_true, if_pos hp]

theorem run_commitPoint_enc (p : Fin 68) (gap : BitVec 12) (s : State) :
    exec (.commitPoint false p gap) s = s.run fun d => (d.raiseMax .enc p.val fMC_GAP_MAX (min 2048 gap.toNat)).takeOrders p.val := rfl

theorem run_commitPoint_dec {p : Fin 68} (hp : p.val < 20) (gap : BitVec 12) (s : State) : exec (.commitPoint true p gap) s =
    s.run fun d => (d.raiseMax .dec p.val fMC_GAP_MAX (min 2048 gap.toNat)).setDecp p.val { d.decp p.val with orders := [] } := by
  rw [run_commitPoint]
  simp only [if_true, if_pos hp]
  rfl

/-! ## Machine checks (R234) -/

theorem run_machineCheck_enc (p : Fin 68) (ua : BitVec 13) (gr : BitVec 8) (s : State) :
    exec (.machineCheck false p ua gr) s = s.run fun d => d.encMachineCheck p.val ua.toNat gr.toNat := rfl

theorem run_machineCheck_dec (p : Fin 20) (h : 20 ≤ 68) (ua : BitVec 13) (gr : BitVec 8) (s : State) :
    exec (.machineCheck true (p.castLE h) ua gr) s = s.run fun d => d.decMachineCheck p.val ua.toNat gr.toNat := by
  rw [run_machineCheck]
  simp only [if_true, Fin.val_castLE, if_pos p.isLt]

/-- A command whose effect changes of the fault collector only that one event of a known source waits: the event is counted. -/
theorem answers_raising {i : Instr} {s : State} {f : Dev → Dev} {x : Dev} {e : FaultEvent} {P : State → Prop} (he : exec i s = s.run f)
    (hx : f s.begin = x) (hk : s.knows e.src = true) (hp : e.path = false) (hf : x.core.fault = { s.core.fault with raised := [e] })
    (hP : ∀ d, Dev.Collected x d → (d.frec e.src).total = min ((s.begin.frec e.src).total + 1) (2 ^ 32 - 1) → P (s.commit d)) :
    Answers i s P := by
  subst hx
  obtain ⟨_, _, hstate, hrails, _, _⟩ := State.knows_elim hk
  have hfrec : (f s.begin).frec e.src = s.begin.frec e.src := by
    rw [Dev.frec, hf]
    rfl
  refine answers_known he hk hp (by rw [hf]) (by rw [hf]) ?_ ?_ fun d hd _ htotal => hP d hd ?_
  · rw [hfrec]
    exact hstate
  · rw [hfrec]
    exact hrails
  · rw [htotal, hfrec]

/-- Neither what the collector records nor a signal touches a pipeline. -/
theorem Dev.Collected.pipes {d d' : Dev} (h : Dev.Collected d d') : d'.core.encs = d.core.encs ∧ d'.core.decp = d.core.decp := by
  obtain ⟨_, _, _, _, e⟩ := h.core
  rw [e]
  exact ⟨rfl, rfl⟩

theorem Dev.Signals.pipes {d d' : Dev} (h : Dev.Signals d d') : d'.core.encs = d.core.encs ∧ d'.core.decp = d.core.decp := h.collected.pipes

theorem Dev.freePipe_job (d : Dev) (p : Nat) : ((d.freePipe p).enc p).job = none := congrArg Pipe.job (Dev.setEnc_enc d p _)

/-- A pipeline whose tile is handed on has none, and no fault is raised. -/
theorem Dev.handTile_frees (d : Dev) (p : Nat) : ((d.handTile p).enc p).job = none ∧ (d.handTile p).core.fault = d.core.fault := by
  unfold Dev.handTile
  split
  · exact ⟨‹_›, rfl⟩
  · dsimp only
    split
    · exact ⟨d.freePipe_job p, rfl⟩
    · exact ⟨d.freePipe_job p, rfl⟩

/-- What a machine check writes on its pipeline's page: its count, status bit `bit`, and the record of the first one. -/
def Dev.mchkRecorded (d : Dev) (k : PageKind) (p bit uaddr groups : Nat) : Dev :=
  let e := (d.bump k p fMC_MCHK_CNT_MCHK).statBit k p bit
  if e.get k p fMC_MCHK_REC_VALID = 1 then e
  else ((e.set k p fMC_MCHK_REC_VALID 1).set k p fMC_MCHK_REC_GROUPS groups).set k p fMC_MCHK_REC_ADDR uaddr

theorem Dev.mchkRecorded_core (d : Dev) (k : PageKind) (p bit uaddr groups : Nat) : (d.mchkRecorded k p bit uaddr groups).core = d.core :=
  ite_both (P := fun e : Dev => e.core = d.core) rfl rfl

/-- The fault event of a machine check. -/
def mchkEvent (src mst uaddr groups : Nat) : FaultEvent := ⟨src, mst, 3, groups, uaddr, false⟩

/-- A machine check up to what becomes of the tile: the page is written and the event raised. -/
def Dev.mchkRaised (d : Dev) (k : PageKind) (p bit src mst uaddr groups : Nat) : Dev :=
  (d.mchkRecorded k p bit uaddr groups).raise src mst 3 groups uaddr

theorem Dev.mchkRaised_fault {d : Dev} (hcalm : d.core.fault.raised = []) (k : PageKind) (p bit src mst uaddr groups : Nat) :
    (d.mchkRaised k p bit src mst uaddr groups).core.fault = { d.core.fault with raised := [mchkEvent src mst uaddr groups] } := by
  simp only [Dev.mchkRaised, Dev.raise, Dev.modFault_core_fault, Dev.mchkRecorded_core, hcalm]
  rfl

theorem Dev.mchkRaised_decp (d : Dev) (k : PageKind) (p bit src mst uaddr groups : Nat) :
    (d.mchkRaised k p bit src mst uaddr groups).core.decp = d.core.decp := by
  rw [Dev.mchkRaised, Dev.raise_core_decp, Dev.mchkRecorded_core]

/-- An encode pipeline that checks hands its tile on, and its cluster's source asserts. -/
theorem Dev.encMachineCheck_enabled {d : Dev} {p : Nat} (h : d.enabled (0xA0 + p) = true) (uaddr groups : Nat) :
    d.encMachineCheck p uaddr groups = ((d.mchkRaised .enc p 9 (1454 + 3 * p) (0x300 + p) uaddr groups).handTile p).assertEvt
      (48 + (if p < 64 then p / 4 else 4 * (p - 64))) := by
  unfold Dev.encMachineCheck
  rw [if_neg (by simp [h])]
  rfl

/-- A decode pipeline without a tile has none to hand on. -/
theorem Dev.decMachineCheck_idle {d : Dev} {p : Nat} (h : d.enabled (0xF0 + p) = true) (hjob : (d.decp p).job = none) (uaddr groups : Nat) :
    d.decMachineCheck p uaddr groups = (d.mchkRaised .dec p 4 (1658 + 3 * p) (0x400 + p) uaddr groups).assertEvt (64 + p) := by
  have hidle : ((d.mchkRaised .dec p 4 (1658 + 3 * p) (0x400 + p) uaddr groups).decp p).job = none := by
    rw [Dev.decp, Dev.mchkRaised_decp]
    exact hjob
  unfold Dev.mchkRaised Dev.mchkRecorded at hidle ⊢
  unfold Dev.decMachineCheck
  rw [if_neg (by simp [h])]
  dsimp only at hidle ⊢
  rw [hidle]

/-- Settles O41: orders are one update of their pipeline, and a machine check raises one event beside what it does to the pipeline. -/
theorem ordersAndMachineChecks : Obligations.OrdersAndMachineChecks := by
  intro s p pd o gap ua gr hcalm
  have hraised := State.calm_iff.1 hcalm
  refine ⟨?_, fun hp => ?_, fun hp => ?_, fun h0 => ?_, fun hk hen => ?_, fun hk hen hjob => ?_⟩
  · refine answers_calm (run_pipelineOrder_enc p o s) hraised ?_
    rw [State.commit_enc, Dev.setEnc_enc, latchOrder_orders]
  · refine answers_calm (run_pipelineOrder_dec hp o s) hraised ?_
    rw [State.commit_decp, Dev.setDecp_decp, latchOrder_orders]
  · refine answers_calm (run_commitPoint_dec hp gap s) hraised ?_
    rw [State.commit_decp, Dev.setDecp_decp]
  · have htake := Dev.takeOrders_all (d := s.begin.raiseMax .enc p.val fMC_GAP_MAX (min 2048 gap.toNat)) h0
    refine answers_calm (run_commitPoint_enc p gap s) ?_ ?_ <;> simp only [htake]
    · exact hraised
    · exact Dev.setEnc_enc _ _ _
  · obtain ⟨hfreed, hfault⟩ := Dev.handTile_frees (s.begin.mchkRaised .enc p.val 9 (1454 + 3 * p.val) (0x300 + p.val) ua.toNat gr.toNat) p.val
    rw [Dev.mchkRaised_fault hraised] at hfault
    refine answers_raising (e := mchkEvent _ _ _ _) (run_machineCheck_enc p ua gr s) (Dev.encMachineCheck_enabled hen ua.toNat gr.toNat) hk rfl
      ((Dev.assertEvt_signals _ _).fault.trans hfault) fun d hd htotal => ⟨?_, htotal⟩
    rw [State.commit_enc, Dev.enc, hd.pipes.1, (Dev.assertEvt_signals _ _).pipes.1]
    exact hfreed
  · refine answers_raising (e := mchkEvent _ _ _ _) (run_machineCheck_dec pd (by decide) ua gr s)
      (Dev.decMachineCheck_idle hen hjob ua.toNat gr.toNat) hk rfl
      ((Dev.assertEvt_signals _ _).fault.trans (Dev.mchkRaised_fault hraised _ _ _ _ _ _ _)) fun d hd htotal => ⟨htotal, ?_⟩
    rw [State.commit_core, hd.pipes.2, (Dev.assertEvt_signals _ _).pipes.2, Dev.mchkRaised_decp]
    rfl

end Sys2Proof.Machine
end

section
namespace Sys2Proof.Machine

/-! ## Rings in the next state -/

theorem State.commit_ring (s : State) (d : Dev) (n : Nat) : (s.commit d).begin.ring n = d.ring n := rfl

theorem Dev.ring_of_rings {d d' : Dev} (h : d'.core.rings = d.core.rings) (n : Nat) : d'.ring n = d.ring n := by
  simp only [Dev.ring, h]

theorem Dev.Collected.ring {d d' : Dev} (h : Dev.Collected d d') (n : Nat) : d'.ring n = d.ring n := by
  obtain ⟨_, _, _, _, e⟩ := h.core
  exact Dev.ring_of_rings (by rw [e]) n

/-- A write of an open page that leaves the host port and the collector alone is all that the command does. -/
theorem answers_written {i : Instr} {s : State} {f : Dev → Dev} {page : Nat} {e : Dev} {P : State → Prop} (he : exec i s = s.run f)
    (ho : s.opens page = true) (hf : f s.begin = e.expirePend page) (hb : Dev.Beside s.begin e) (hP : P (s.commit e)) : Answers i s P := by
  have o := State.opens_elim ho
  rw [Dev.expirePend_none ((congrArg HostPort.guards hb.host).trans o.noPair)] at hf
  refine answers_calm he ?_ ?_ <;> rw [hf]
  · exact (congrArg FaultSt.raised hb.fault).trans o.calm
  · exact hP

theorem Dev.Beside.store (d : Dev) (k : PageKind) (off a : Nat) (v : Word) : Dev.Beside d (d.store k off a v) := ⟨rfl, rfl, rfl, rfl⟩

/-! ## Leases (R252) -/

/-- A ring leased to a tag at a value of FREE. -/
def Ring.leasedTo (r : Ring) (tag free : Nat) : Ring :=
  { r with leaseOwner := tag, leaseAt := free, abandoned := r.abandoned.filter (· ≠ tag) }

/-- A ring whose lease is broken by expiry. -/
def Ring.broken (r : Ring) : Ring :=
  { r with leaseOwner := 0xFFFF, abandoned := r.leaseOwner :: r.abandoned.filter (· ≠ r.leaseOwner) }

theorem Dev.lease_beside (d : Dev) (n tag : Nat) : Dev.Beside d (d.lease n tag) := .ite (.setRing d _ _) (.refl d)

/-- The asker gets the lease of a leased ring that nobody holds, and no other. -/
theorem Dev.lease_ring (d : Dev) (n tag : Nat) : (d.lease n tag).ring n =
    if (d.ring n).leased = true ∧ (d.ring n).leaseOwner = 0xFFFF then (d.ring n).leasedTo tag d.free else d.ring n :=
  (apply_ite (fun e : Dev => e.ring n) _ _ _).trans (congrArg (fun r => ite _ r (d.ring n)) (d.setRing_ring n _))

/-- The fault event of a lease that is broken. -/
def leaseEvent (holder addr : Nat) : FaultEvent := ⟨1804, 0x700, 5, holder, addr, false⟩

/-- A lease held for 100 µs is broken: one event is raised, besides registers. -/
theorem Dev.leaseExpire_due {d : Dev} {n : Nat} (howner : (d.ring n).leaseOwner ≠ 0xFFFF) (hdue : (d.ring n).leaseAt + 100000 ≤ d.free) :
    d.leaseExpire n = (((d.setRing n (d.ring n).broken).bump .queue0 0 fQU_LEASE_CNT_EXPIRED).statBit .queue0 0 0).raise 1804 0x700 5
      (d.ring n).leaseOwner := if_pos ⟨howner, hdue⟩

theorem Dev.leaseExpire_kept {d : Dev} {n : Nat} (h : (d.ring n).leaseOwner = 0xFFFF ∨ d.free < (d.ring n).leaseAt + 100000) :
    d.leaseExpire n = d := if_neg fun ⟨howner, hdue⟩ => h.elim howner (Nat.not_lt.2 hdue)

theorem Dev.leaseExpire_fault {d : Dev} {n : Nat} (hcalm : d.core.fault.raised = []) (howner : (d.ring n).leaseOwner ≠ 0xFFFF)
    (hdue : (d.ring n).leaseAt + 100000 ≤ d.free) :
    ∃ addr, (d.leaseExpire n).core.fault = { d.core.fault with raised := [leaseEvent (d.ring n).leaseOwner addr] } := by
  rw [Dev.leaseExpire_due howner hdue]
  simp only [Dev.raise, Dev.modFault_core_fault, Dev.statBit_core, Dev.bump_core, Dev.setRing_core_fault, hcalm]
  exact ⟨_, rfl⟩

theorem Dev.leaseExpire_ring {d : Dev} {n : Nat} (howner : (d.ring n).leaseOwner ≠ 0xFFFF) (hdue : (d.ring n).leaseAt + 100000 ≤ d.free) :
    (d.leaseExpire n).ring n = (d.ring n).broken := by
  rw [Dev.leaseExpire_due howner hdue]
  exact d.setRing_ring n _

/-! ## TAIL and HEAD (R249) -/

/-- A ring after a TAIL advance: entries are published at a value of FREE, and a lease has ended. -/
def Ring.published (r : Ring) (tail free : Nat) : Ring :=
  { r with leaseOwner := if r.leased then 0xFFFF else r.leaseOwner, tail := tail % 65536, nonEmptyAt := if r.occ = 0 then free else r.nonEmptyAt }

/-- While the ring has room, TAIL publishes. -/
theorem Dev.advanceTail_room {d : Dev} {n tail : Nat} (h : (tail + 65536 - (d.ring n).head) % 65536 ≤ 2 ^ (d.ring n).sizeLog2) :
    d.advanceTail n tail = d.setRing n { d.ring n with
      tail := tail % 65536, nonEmptyAt := if (d.ring n).occ = 0 then d.free else (d.ring n).nonEmptyAt } := if_neg (Nat.not_lt.2 h)

/-- While the ring holds the entries, HEAD returns them. -/
theorem Dev.advanceHead_held {d : Dev} {n head : Nat} (h : (head + 65536 - (d.ring n).head) % 65536 ≤ (d.ring n).occ) :
    d.advanceHead n head = d.setRing n { d.ring n with head := head % 65536, lastHead := d.free } := if_neg (Nat.not_lt.2 h)

/-- A producer that may advance TAIL of a ring with room publishes, and its lease ends. -/
theorem Dev.tailBy_publishes {d : Dev} {n tag tail : Nat} (hen : (d.ring n).en = true)
    (hlease : (d.ring n).leaseOwner = 0xFFFF ∨ d.free < (d.ring n).leaseAt + 100000)
    (hholder : (d.ring n).leased = true → (d.ring n).leaseOwner = tag)
    (hroom : (tail + 65536 - (d.ring n).head) % 65536 ≤ 2 ^ (d.ring n).sizeLog2) :
    (d.tailBy n tag tail).ring n = (d.ring n).published tail d.free ∧ Dev.Beside d (d.tailBy n tag tail) := by
  unfold Dev.tailBy
  dsimp only
  rw [Dev.leaseExpire_kept hlease, if_neg (by simp [hen])]
  cases hleased : (d.ring n).leased with
  | false =>
    rw [if_neg Bool.false_ne_true, Dev.advanceTail_room hroom]
    refine ⟨(d.setRing_ring n _).trans ?_, .setRing d n _⟩
    simp [Ring.published, hleased]
  | true =>
    rw [if_pos rfl, if_pos (hholder hleased), Dev.advanceTail_room (by rw [d.setRing_ring]; exact hroom)]
    refine ⟨(Dev.setRing_ring _ n _).trans ?_, (Dev.Beside.setRing d n _).trans (.setRing _ n _)⟩
    rw [d.setRing_ring]
    simp [Ring.published, Ring.occ, hleased]
    rfl

/-! ## Doorbells of descriptor rings (R254) -/

/-- A doorbell page's place in the block base table. -/
def queueDbInfo (k : Nat) : PageInfo := ⟨.queueDb, 0xD, k + 1, 0x20, 16, 0xC3⟩

theorem pageInfo_queueDb : ∀ k : Fin 8, pageInfo (0x21 + k.val) = some (queueDbInfo k.val) := by decide

theorem queueDb_plain {j : Nat} (hj : j < 512) : regFields .queueDb (0x040 + 4 * j) = [fQU_DB_TAIL] := by
  have hcov : fQU_DB_TAIL.covers (0x040 + 4 * j) = true := by
    refine decide_eq_true ?_
    simp only [fQU_DB_TAIL]
    omega
  unfold regFields
  rw [if_neg (by omega), if_neg (by simp)]
  exact List.filter_cons_of_pos hcov

/-- A doorbell stores its value and advances TAIL of its ring as the host. -/
theorem Dev.writeAct_queueDb (d : Dev) (mst k page j : Nat) (v : Word) : ∃ a,
    d.writeAct mst (queueDbInfo k).ofKind page (0x040 + 4 * j) v =
      ((d.store .queueDb (0x040 + 4 * j) a v).tailBy (8192 + (512 * k + j)) 0x1000 (v.toNat % 65536), true) := by
  refine ⟨hdrAddr page (0x040 + 4 * j), ?_⟩
  have hring : (0x040 + 4 * j - 0x040) / 4 = j := by omega
  have hallowed : d.writeAllowed .queueDb (0x040 + 4 * j) = true := rfl
  unfold Dev.writeAct
  rw [if_neg (by omega), if_neg (by omega), if_neg (by omega)]
  simp only [queueDbInfo, PageInfo.ofKind, hallowed, hring, Bool.not_true, Bool.false_eq_true, if_false, Nat.add_sub_cancel]
  rfl

theorem Dev.busWrite_queueDb {s : State} {i : Fin 4096} (ho : s.opens (0x21 + i.val / 512) = true) (mst : Nat) (v : Word) : ∃ a,
    s.begin.busWrite mst (fieldAddr .queueDb (i.val / 512) fQU_DB_TAIL (i.val % 512)) v =
      ((s.begin.store .queueDb (0x040 + 4 * (i.val % 512)) a v).tailBy (8192 + i.val) 0x1000 (v.toNat % 65536)).expirePend
        (0x21 + i.val / 512) := by
  have hi := i.isLt
  have hfields := queueDb_plain (Nat.mod_lt i.val (by decide : 0 < 512))
  have haddr : fieldAddr .queueDb (i.val / 512) fQU_DB_TAIL (i.val % 512) = (0x21 + i.val / 512) * 4096 + (0x040 + 4 * (i.val % 512)) := by
    simp only [fieldAddr, PageKind.page, fQU_DB_TAIL]
    omega
  have hsome : (regFields .queueDb (0x040 + 4 * (i.val % 512))).isEmpty = false := by
    rw [hfields]
    rfl
  have hguard : guardedAt .queueDb (0x040 + 4 * (i.val % 512)) = false := by
    rw [guardedAt, hfields]
    exact Bool.and_false _
  have hacc : (hasAcc .queueDb (0x040 + 4 * (i.val % 512)) .rw || hasAcc .queueDb (0x040 + 4 * (i.val % 512)) .wo) = true := by
    simp only [hasAcc, hfields]
    rfl
  obtain ⟨a, ha⟩ := s.begin.writeAct_queueDb mst (i.val / 512) (0x21 + i.val / 512) (i.val % 512) v
  refine ⟨a, ?_⟩
  rw [haddr, Dev.busWrite_open ho (pageInfo_queueDb ⟨i.val / 512, by omega⟩) (by omega) (by omega) hsome hguard (by omega) hacc, ha,
    Nat.div_add_mod]

/-! ## QU_RCFG (R254) -/

/-- The first page of the queue engine in the block base table. -/
def queue0Info : PageInfo := ⟨.queue0, 0xD, 0, 0x20, 16, 0xC3⟩

theorem pageInfo_queue0 : pageInfo 0x20 = some queue0Info := by decide

theorem quRcfg_guarded : (regFields .queue0 0x054).isEmpty = false ∧ guardedAt .queue0 0x054 = true ∧
    (regFields .queue0 (0x054 + 0x800)).isEmpty = true := by decide

/-- The ring that QU_RBASE and a value of QU_RCFG describe. -/
def Dev.descRing (d : Dev) (v : Word) : Ring :=
  { Ring.rest with
    base := d.get .queue0 0 fQU_RBASE_LO_ADDR_LO * 256 + d.get .queue0 0 fQU_RBASE_HI_ADDR_HI * 2 ^ 32,
    sizeLog2 := max 4 (fQU_RCFG_SIZE_LOG2.ext v), en := true, hostMem := true, owner := 0x1000,
    hist := (d.ring (d.get .queue0 0 fQU_RSEL_RING)).hist }

theorem Dev.ringConfig_enables {d : Dev} {v : Word} (hok : d.ringConfigOk v = true) (hen : fQU_RCFG_EN.ext v = 1) :
    d.ringConfig v = d.setRing (d.get .queue0 0 fQU_RSEL_RING) (d.descRing v) := by
  unfold Dev.ringConfig
  exact (if_pos hok).trans (if_pos hen)

theorem Dev.writeAct_quRcfg {d : Dev} {v : Word} (hok : d.ringConfigOk v = true) (mst : Nat) :
    d.writeAct mst queue0Info.ofKind 0x20 0x054 v = ((d.ringConfig v).store .queue0 0x054 (hdrAddr 0x20 0x054) v, true) :=
  if_pos hok

theorem Dev.busPair_quRcfg {s : State} (ho : s.opens 0x20 = true) {v : Word} (hok : s.begin.ringConfigOk v = true) (mst : Nat) :
    s.begin.busPair mst 0x20054 v = ((s.begin.ringConfig v).store .queue0 0x054 (hdrAddr 0x20 0x054) v).expirePend 0x20 := by
  obtain ⟨hfields, hguard, hcomp⟩ := quRcfg_guarded
  rw [show 0x20054 = 0x20 * 4096 + 0x054 by rfl,
    Dev.busPair_open ho pageInfo_queue0 (by decide) (by decide) (by decide) hfields hguard hcomp, Dev.writeAct_quRcfg hok]

/-- Settles O42: each command is one update of its ring, and a broken lease raises one event beside it. -/
theorem ringsAdvanceUnderLeases : Obligations.RingsAdvanceUnderLeases := by
  intro s n tag v mst i w hcalm
  have hraised := State.calm_iff.1 hcalm
  refine ⟨?_, fun hk howner hdue => ?_, fun hen hlease hholder hroom => ?_, fun hen hheld => ?_, fun ho hen hfree howner hroom => ?_,
    fun ho hok hen => ?_⟩
  · refine answers_calm (run_leaseRequest n tag s) ((congrArg FaultSt.raised (s.begin.lease_beside n tag.toNat).fault).trans hraised) ?_
    exact s.begin.lease_ring n tag.toNat
  · obtain ⟨addr, hfault⟩ := Dev.leaseExpire_fault hraised howner hdue
    refine answers_raising (e := leaseEvent _ addr) (run_leaseExpiry n s) rfl hk rfl hfault fun d hd htotal => ?_
    rw [State.commit_ring, hd.ring, Dev.leaseExpire_ring howner hdue]
    exact ⟨rfl, List.mem_cons_self, htotal⟩
  · obtain ⟨hring, hbeside⟩ := Dev.tailBy_publishes hen hlease hholder hroom
    refine answers_calm (run_ringTailAdvance n tag v s) ((congrArg FaultSt.raised hbeside.fault).trans hraised) ?_
    rw [State.commit_ring, hring]
    exact ⟨Nat.mod_eq_of_lt v.isLt, rfl, fun hl => if_pos hl⟩
  · have heff := Dev.advanceHead_held hheld
    refine answers_calm (run_ringHeadAdvance n v s) ?_ ?_ <;> simp only [if_pos hen, heff]
    · exact hraised
    · rw [State.commit_ring, Dev.setRing_ring, Nat.mod_eq_of_lt v.isLt]
  · obtain ⟨a, ha⟩ := Dev.busWrite_queueDb ho mst.val w
    obtain ⟨hring, hbeside⟩ := Dev.tailBy_publishes (d := s.begin.store .queueDb (0x040 + 4 * (i.val % 512)) a w) (tag := 0x1000)
      hen (.inl howner) (fun hl => absurd (hfree.symm.trans hl) Bool.false_ne_true) hroom
    refine answers_written (run_quDb mst i w s) ho ha ((Dev.Beside.store _ _ _ _ _).trans hbeside) ?_
    rw [State.commit_ring, hring]
    exact Nat.mod_mod w.toNat 65536
  · refine answers_written (run_quRcfg mst w s) ho (Dev.busPair_quRcfg ho hok mst.val) ?_ ?_ <;> rw [Dev.ringConfig_enables hok hen]
    · exact (Dev.Beside.setRing _ _ _).trans (.store _ _ _ _ _)
    · have hring : ((s.begin.setRing (s.begin.get .queue0 0 fQU_RSEL_RING) (s.begin.descRing w)).store .queue0 0x054 (hdrAddr 0x20 0x054) w).ring
          (s.begin.get .queue0 0 fQU_RSEL_RING) = s.begin.descRing w := s.begin.setRing_ring _ _
      dsimp only
      rw [State.commit_ring, hring]
      exact ⟨rfl, rfl, rfl, rfl, rfl⟩

end Sys2Proof.Machine
end

section
namespace Sys2Proof.Machine

/-! ## The calendar wheel (R258) -/

/-- A table finds what its lookup finds. -/
theorem tget_of_lookup {α : Type} (d : α) {m : List (Nat × α)} {k : Nat} {v : α} (h : m.lookup k = some v) : tget d m k = v := by
  induction m with
  | nil => cases h
  | cons p m ih =>
    obtain ⟨a, w⟩ := p
    rw [List.lookup_cons] at h
    by_cases ha : a = k
    · subst ha
      rw [beq_self_eq_true] at h
      exact (if_pos rfl).trans (Option.some.inj h)
    · rw [beq_false_of_ne (Ne.symm ha)] at h
      exact (if_neg ha).trans (ih h)

theorem mem_of_lookup {α : Type} {m : List (Nat × α)} {k : Nat} {v : α} (h : m.lookup k = some v) : (k, v) ∈ m := by
  obtain ⟨l, l', rfl, -⟩ := List.lookup_eq_some_iff.1 h
  exact List.mem_append_right l List.mem_cons_self

/-- A ring whose slot is reached is stored again, and nothing else changes. -/
theorem Dev.ringReached_sets (d : Dev) (n : Nat) : ∃ r, d.ringReached n = d.setRing n r := by
  unfold Dev.ringReached
  refine ite_both (P := fun e : Dev => ∃ r, e = d.setRing n r) ⟨_, rfl⟩ ?_
  split
  · exact ⟨_, rfl⟩
  · exact ite_both (P := fun e : Dev => ∃ r, e = d.setRing n r) ⟨_, rfl⟩ ⟨_, rfl⟩

/-- An active ring that has left the wheel with a drain rate. -/
def Ring.ready (r : Ring) (ds : Nat) : Prop := r.active = true ∧ r.inCal = false ∧ r.parked = false ∧ r.dsUsed = ds

/-- With something to release and a D_s published before this microsecond, the ring takes it up and becomes active. -/
theorem Dev.ringReached_ready {d : Dev} {n : Nat} {x : RecStream} (hx : d.rec? (n - 12288) = some x) (hcarry : (d.ring n).carryUs = 0)
    (hpiece : x.nextPiece ≠ 0) (hds : x.ds ≠ 0) (hat : x.dsAt / 1000 ≠ d.nowUs) : ((d.ringReached n).ring n).ready x.ds := by
  unfold Dev.ringReached
  simp only [hcarry, hx, hat, hpiece, hds, decide_false, Bool.false_and, Bool.false_eq_true, if_false, ne_eq, not_true_eq_false, or_self,
    Dev.setRing_ring]
  refine ⟨rfl, rfl, rfl, ?_⟩
  dsimp only
  split
  · exact Eq.symm ‹_›
  · rfl

/-- The wheel comes to one entry of the rings' table. -/
def Dev.wheelStep (d : Dev) (p : Nat × Ring) : Dev := if p.2.inCal ∧ p.2.slot = d.nowUs % 4096 then d.ringReached p.1 else d

theorem Dev.calendarSlot_eq (d : Dev) : d.calendarSlot = d.core.rings.foldl Dev.wheelStep d := rfl

theorem Dev.wheelStep_sets (d : Dev) (p : Nat × Ring) : d.wheelStep p = d ∨ ∃ r, d.wheelStep p = d.setRing p.1 r :=
  ite_both (P := fun e : Dev => e = d ∨ ∃ r, e = d.setRing p.1 r) (.inr (d.ringReached_sets p.1)) (.inl rfl)

/-- Beside its ring the wheel changes nothing. -/
theorem Dev.wheelStep_beside (d : Dev) (p : Nat × Ring) : Dev.Beside d (d.wheelStep p) ∧ (d.wheelStep p).core.time = d.core.time ∧
    (d.wheelStep p).core.recs = d.core.recs ∧ ∀ n, n ≠ p.1 → (d.wheelStep p).ring n = d.ring n := by
  rcases d.wheelStep_sets p with h | ⟨r, h⟩ <;> rw [h]
  · exact ⟨.refl d, rfl, rfl, fun _ _ => rfl⟩
  · exact ⟨.setRing d _ r, rfl, rfl, fun _ hn => d.setRing_ring_other hn r⟩

theorem Dev.calendarSlot_beside (d : Dev) : Dev.Beside d d.calendarSlot :=
  .foldl Dev.wheelStep (fun e p => (e.wheelStep_beside p).1) d.core.rings d

theorem Dev.calendarSlot_ready {d : Dev} {n : Nat} {r : Ring} {x : RecStream} (hrising : rising d.core.rings = true)
    (hr : d.core.rings.lookup n = some r) (hx : d.rec? (n - 12288) = some x) (hin : r.inCal = true) (hslot : r.slot = d.nowUs % 4096)
    (hcarry : r.carryUs = 0) (hpiece : x.nextPiece ≠ 0) (hds : x.ds ≠ 0) (hat : x.dsAt / 1000 ≠ d.nowUs) :
    (d.calendarSlot.ring n).ready x.ds := by
  rw [Dev.calendarSlot_eq]
  refine foldl_visits_once (before := fun e : Dev => e.core.time = d.core.time ∧ e.core.recs = d.core.recs ∧ e.ring n = r)
    (after := fun e : Dev => (e.ring n).ready x.ds) (rising_keys_nodup hrising) (mem_of_lookup hr) (fun e p _ hne he => ?_) (fun e he => ?_)
    (fun e p _ hne he => ?_) ⟨rfl, rfl, tget_of_lookup _ hr⟩
  · obtain ⟨htime, hrecs, hring⟩ := he
    obtain ⟨-, gtime, grecs, gring⟩ := e.wheelStep_beside p
    exact ⟨gtime.trans htime, grecs.trans hrecs, (gring n (Ne.symm hne)).trans hring⟩
  · obtain ⟨htime, hrecs, hring⟩ := he
    have hnow : e.nowUs = d.nowUs := by simp only [Dev.nowUs, Dev.free, htime]
    rw [Dev.wheelStep, if_pos ⟨hin, by rw [hnow]; exact hslot⟩]
    exact Dev.ringReached_ready ((congrArg (List.lookup (n - 12288)) hrecs).trans hx) (hring ▸ hcarry) hpiece hds (hnow ▸ hat)
  · rw [(e.wheelStep_beside p).2.2.2 n (Ne.symm hne)]
    exact he

/-! ## Depth and delay (R259) -/

/-- The sample of a ring at a value of FREE: its delay and its depth. -/
def Ring.sample (r : Ring) (free : Nat) : Nat × Nat :=
  (if r.occ = 0 then 0 else min 65535 ((free - max r.lastHead r.nonEmptyAt) / 1000), r.occ)

/-- A ring with its newest sample. -/
def Ring.sampled (r : Ring) (free : Nat) : Ring := { r with hist := (r.sample free :: r.hist).take 32 }

/-- One ring is sampled, and a delay above the limit is shown. -/
def Dev.sampleRing (warn : Nat) (d : Dev) (p : Nat × Ring) : Dev :=
  let e := d.setRing p.1 (p.2.sampled d.free)
  if warn ≠ 0 ∧ warn < (p.2.sample d.free).1 then
    (if e.get .queue0 0 fQU_WARN_VALID = 1 then e else (e.set .queue0 0 fQU_WARN_VALID 1).set .queue0 0 fQU_WARN_RING p.1).statBit .queue0 0 2
  else e

theorem Dev.ringSample_eq (d : Dev) :
    d.ringSample = d.core.rings.foldl (Dev.sampleRing (d.get .queue0 0 fQU_CFG_DELAY_WARN_US)) d := rfl

theorem Dev.sampleRing_core (warn : Nat) (d : Dev) (p : Nat × Ring) :
    (d.sampleRing warn p).core = (d.setRing p.1 (p.2.sampled d.free)).core :=
  ite_both (P := fun e : Dev => e.core = (d.setRing p.1 (p.2.sampled d.free)).core)
    (ite_both (P := fun e : Dev => (e.statBit .queue0 0 2).core = (d.setRing p.1 (p.2.sampled d.free)).core) rfl rfl) rfl

theorem Dev.sampleRing_beside (warn : Nat) (d : Dev) (p : Nat × Ring) : Dev.Beside d (d.sampleRing warn p) :=
  ⟨by rw [d.sampleRing_core]; rfl, by rw [d.sampleRing_core]; rfl, by rw [d.sampleRing_core]; rfl, by rw [d.sampleRing_core]; rfl⟩

theorem Dev.ringSample_beside (d : Dev) : Dev.Beside d d.ringSample := .foldl _ (Dev.sampleRing_beside _) d.core.rings d

theorem Dev.ringSample_ring {d : Dev} {n : Nat} {r : Ring} (hrising : rising d.core.rings = true) (hr : d.core.rings.lookup n = some r) :
    d.ringSample.ring n = r.sampled d.free := by
  have htime : ∀ (warn : Nat) (e : Dev) (p : Nat × Ring), (e.sampleRing warn p).free = e.free := fun warn e p =>
    (congrArg (fun c : Core => c.time.free) (e.sampleRing_core warn p)).trans rfl
  have hring : ∀ (warn : Nat) (e : Dev) (p : Nat × Ring), (e.sampleRing warn p).ring n = (e.setRing p.1 (p.2.sampled e.free)).ring n :=
    fun warn e p => Dev.ring_of_rings (congrArg Core.rings (e.sampleRing_core warn p)) n
  rw [Dev.ringSample_eq]
  refine foldl_visits_once (before := fun e : Dev => e.free = d.free) (after := fun e : Dev => e.ring n = r.sampled d.free)
    (rising_keys_nodup hrising) (mem_of_lookup hr) (fun e p _ _ he => (htime _ e p).trans he) (fun e he => ?_) (fun e p _ hne he => ?_) rfl
  · rw [hring, Dev.setRing_ring, he]
  · rw [hring, e.setRing_ring_other (Ne.symm hne), he]

end Sys2Proof.Machine
end

section
namespace Sys2Proof.Machine

/-! ## What a release keeps (R257, R275) -/

/-- The schedulers' places and the collector stand, and the stream has released no less. -/
structure Dev.Advances (s : Nat) (d d' : Dev) : Prop where
  drr : d'.core.drr = d.core.drr
  fault : d'.core.fault = d.core.fault
  rel : ∀ x, d.rec? s = some x → ∃ y, d'.rec? s = some y ∧ x.relAddr ≤ y.relAddr

theorem Dev.Advances.refl (s : Nat) (d : Dev) : Dev.Advances s d d := ⟨rfl, rfl, fun x hx => ⟨x, hx, Nat.le_refl _⟩⟩

theorem Dev.Advances.trans {s : Nat} {a b c : Dev} (h : Dev.Advances s a b) (g : Dev.Advances s b c) : Dev.Advances s a c := by
  refine ⟨g.drr.trans h.drr, g.fault.trans h.fault, fun x hx => ?_⟩
  obtain ⟨y, hy, hxy⟩ := h.rel x hx
  obtain ⟨z, hz, hyz⟩ := g.rel y hy
  exact ⟨z, hz, Nat.le_trans hxy hyz⟩

/-- An update beside the streams, the schedulers and the collector. -/
theorem Dev.Advances.ofCore {s : Nat} {d d' : Dev} (hr : d'.core.recs = d.core.recs) (hd : d'.core.drr = d.core.drr)
    (hf : d'.core.fault = d.core.fault) : Dev.Advances s d d' :=
  ⟨hd, hf, fun x hx => ⟨x, (congrArg (List.lookup s) hr).trans hx, Nat.le_refl _⟩⟩

theorem Dev.Advances.setRing (s : Nat) (d : Dev) (n : Nat) (r : Ring) : Dev.Advances s d (d.setRing n r) := .ofCore rfl rfl rfl

theorem Dev.Advances.setRec {s : Nat} {d : Dev} {x y : RecStream} (hx : d.rec? s = some x) (h : x.relAddr ≤ y.relAddr) :
    Dev.Advances s d (d.setRec s y) := by
  refine ⟨rfl, rfl, fun z hz => ⟨y, d.setRec_rec s y, ?_⟩⟩
  cases hx.symm.trans hz
  exact h

/-! ## One piece is released -/

theorem le_roundUp (a : Nat) : a ≤ roundUp a pieceBytes := by
  unfold roundUp cdiv pieceBytes
  omega

/-- A piece that is released moves the stream's release address behind it. -/
theorem Dev.releaseOne_rec (d : Dev) (s b : Nat) (x : RecStream) :
    ∃ y, (d.releaseOne s b x).rec? s = some y ∧ y.relAddr = roundUp (x.relAddr + b) pieceBytes := by
  unfold Dev.releaseOne
  exact ite_both (P := fun e : Dev => ∃ y, e.rec? s = some y ∧ y.relAddr = roundUp (x.relAddr + b) pieceBytes)
    ⟨_, Dev.setRec_rec _ s _, rfl⟩ ⟨_, Dev.setRec_rec _ s _, rfl⟩

theorem Dev.releaseOne_advances {d : Dev} {s b : Nat} {x : RecStream} (hx : d.rec? s = some x) :
    Dev.Advances s d (d.releaseOne s b x) := by
  have hframe : (d.releaseOne s b x).core.drr = d.core.drr ∧ (d.releaseOne s b x).core.fault = d.core.fault :=
    ite_both (P := fun e : Dev => e.core.drr = d.core.drr ∧ e.core.fault = d.core.fault) ⟨rfl, rfl⟩ ⟨rfl, rfl⟩
  obtain ⟨y, hy, hrel⟩ := d.releaseOne_rec s b x
  refine ⟨hframe.1, hframe.2, fun z hz => ⟨y, hy, ?_⟩⟩
  cases hx.symm.trans hz
  rw [hrel]
  exact Nat.le_trans (Nat.le_add_right _ _) (le_roundUp _)

theorem Dev.paceAfter_advances (s : Nat) (d : Dev) (n b : Nat) : Dev.Advances s d (d.paceAfter n b) := by
  unfold Dev.paceAfter Dev.enterWheel
  exact ite_both (ite_both (.ofCore rfl rfl rfl) (ite_both (.ofCore rfl rfl rfl) (.setRing s d _ _))) (.refl s d)

/-! ## Pieces are released and issued -/

theorem Dev.releaseRun_advances (s : Nat) : ∀ (k : Nat) (d : Dev), Dev.Advances s d (Dev.releaseRun s k d)
  | 0, d => .refl s d
  | k + 1, d => by
    unfold Dev.releaseRun
    split
    · exact .refl s d
    · rename_i x hx
      refine ite_both (.setRing s d _ _) (ite_both (.refl s d) ?_)
      exact ((Dev.releaseOne_advances hx).trans (Dev.paceAfter_advances s _ _ _)).trans (Dev.releaseRun_advances s k _)

/-- A piece that fits the deficit and the allowance is released before what follows. -/
theorem Dev.releaseRun_fits {d : Dev} {s : Nat} {x : RecStream} (hx : d.rec? s = some x) (hpiece : x.nextPiece ≠ 0)
    (hfits : (x.nextPiece : Int) ≤ (d.ring (12288 + s)).deficit) (hallow : d.allowance x x.nextPiece = true) (k : Nat) :
    Dev.releaseRun s (k + 1) d = Dev.releaseRun s k ((d.releaseOne s x.nextPiece x).paceAfter (12288 + s) x.nextPiece) := by
  have hgo : ¬ ((d.ring (12288 + s)).deficit < (x.nextPiece : Int) ∨ (!d.allowance x x.nextPiece) = true) := by
    rw [hallow]
    exact fun h => h.elim (Int.not_lt.2 hfits) Bool.false_ne_true
  rw [Dev.releaseRun, hx]
  exact (if_neg hpiece).trans (if_neg hgo)

theorem Dev.acquire_advances (s : Nat) (d : Dev) (h tag : Nat) : Dev.Advances s d (d.acquire h tag) :=
  ite_both (.ofCore rfl rfl rfl) (.ofCore rfl rfl rfl)

theorem Dev.submit_advances (s : Nat) (d : Dev) (m pair : Nat) : Dev.Advances s d (d.submit m pair) := .setRing s d _ _

theorem Dev.issueRun_advances (s : Nat) : ∀ (k : Nat) (d : Dev), Dev.Advances s d (Dev.issueRun s k d)
  | 0, d => .refl s d
  | k + 1, d => by
    unfold Dev.issueRun
    split
    · exact .refl s d
    · rename_i x hx
      split
      · refine ite_both (.refl s d) ?_
        dsimp only
        split
        · refine Dev.Advances.trans (.setRec hx ?_) ((Dev.acquire_advances s _ _ _).trans
            ((Dev.submit_advances s _ _ _).trans (Dev.issueRun_advances s k _)))
          exact Nat.le_refl _
        · exact .refl s d
      · exact .refl s d

theorem Dev.issuePieces_advances (s : Nat) (d : Dev) : Dev.Advances s d (d.issuePieces s) := by
  unfold Dev.issuePieces
  split
  · exact .refl s d
  · rename_i x _
    refine (Dev.issueRun_advances s (x.pieces.length + 1) d).trans ?_
    split
    · exact ite_both (.ofCore rfl rfl rfl) (.refl s _)
    · exact .refl s _

/-! ## A visit of an output's scheduler (R257) -/

/-- The active rings of an output. -/
def Dev.activeRings (d : Dev) (o : Nat) : List Nat :=
  (d.core.rings.filter fun p => decide (12288 ≤ p.1 ∧ p.1 < 13824) && decide (p.2.output = o) && d.ringActive p.1 p.2).map (·.1)

/-- The next active ring of an output behind the one it visited last. -/
def Dev.nextActive (d : Dev) (o : Nat) : Option Nat := (d.activeRings o).find? fun n => decide ((d.core.drr.lookup o).getD 0 < n)

/-- The scheduler stands at the ring, which has its quantum. -/
def Dev.visited (d : Dev) (o n : Nat) : Dev :=
  Dev.setRing { d with core := { d.core with drr := tset d.core.drr o n } } n
    { d.ring n with deficit := (d.ring n).deficit + ((d.ring n).quantum * 4096 : Nat) }

theorem Dev.visited_ring (d : Dev) (o n : Nat) : (d.visited o n).ring n =
    { d.ring n with deficit := (d.ring n).deficit + ((d.ring n).quantum * 4096 : Nat) } := Dev.setRing_ring _ n _

/-- After its run a ring that is on the wheel again is not active. -/
def Dev.visitEnded (d : Dev) (n : Nat) : Dev := d.setRing n { d.ring n with active := (d.ring n).active && !(d.ring n).inCal }

theorem Dev.drrVisit_next {d : Dev} {o n : Nat} (h : d.nextActive o = some n) : ∃ k, d.drrVisit o =
    ((Dev.releaseRun (n - 12288) (k + 1) (d.visited o n)).visitEnded n).issuePieces (n - 12288) := by
  refine ⟨((d.visited o n).ring n).deficit.toNat / pieceBytes + 2, ?_⟩
  unfold Dev.nextActive Dev.activeRings at h
  unfold Dev.drrVisit
  dsimp only
  rw [h]
  rfl

/-- The visit releases the piece that fits, and leaves the scheduler at the ring. -/
theorem Dev.drrVisit_releases {d : Dev} {o s : Nat} {x : RecStream} (hnext : d.nextActive o = some (12288 + s)) (hx : d.rec? s = some x)
    (hpiece : x.nextPiece ≠ 0)
    (hfits : (x.nextPiece : Int) ≤ (d.ring (12288 + s)).deficit + ((d.ring (12288 + s)).quantum * 4096 : Nat))
    (hallow : d.allowance x x.nextPiece = true) :
    (d.drrVisit o).core.drr.lookup o = some (12288 + s) ∧ (d.drrVisit o).core.fault = d.core.fault ∧
      ∃ y, (d.drrVisit o).rec? s = some y ∧ roundUp (x.relAddr + x.nextPiece) pieceBytes ≤ y.relAddr := by
  obtain ⟨k, hvisit⟩ := Dev.drrVisit_next hnext
  have hrun := Dev.releaseRun_fits (d := d.visited o (12288 + s)) hx hpiece (by rw [d.visited_ring]; exact hfits) hallow k
  rw [Nat.add_sub_cancel_left, hrun] at hvisit
  obtain ⟨y, hy, hrel⟩ := (d.visited o (12288 + s)).releaseOne_rec s x.nextPiece x
  have hrest : Dev.Advances s ((d.visited o (12288 + s)).releaseOne s x.nextPiece x) (d.drrVisit o) := by
    rw [hvisit]
    exact (((Dev.paceAfter_advances s _ _ _).trans (Dev.releaseRun_advances s k _)).trans (.setRing s _ _ _)).trans
      (Dev.issuePieces_advances s _)
  have hall := (Dev.releaseOne_advances (b := x.nextPiece) (d := d.visited o (12288 + s)) hx).trans hrest
  obtain ⟨z, hz, hyz⟩ := hrest.rel y hy
  exact ⟨by rw [hall.drr]; exact lookup_tset_same _ _ _, hall.fault, z, hz, hrel ▸ hyz⟩

/-! ## Cullet's chunks (R261 to R263) -/

/-- A large chunk charged to a tag's quota, with its first hold. -/
def Cullet.granted (c : Cullet) (k tag cls : Nat) : Cullet :=
  { c with chunks := tset c.chunks (largeHandle k) ⟨tag, true, cls⟩, holds := c.holds ++ [(largeHandle k, tag)] }

/-- The large chunk is in use. -/
def Cullet.uses (c : Cullet) (k : Nat) : Bool := c.chunks.any fun p => p.1 = largeHandle k

/-- The free large chunks. -/
def Dev.freeList (d : Dev) : List Nat := (List.range d.largeCount).filter fun k => !d.core.cullet.uses k

theorem Dev.mem_freeList {d : Dev} {k : Nat} : k ∈ d.freeList ↔ k < d.largeCount ∧ d.core.cullet.uses k = false := by
  simp only [Dev.freeList, List.mem_filter, List.mem_range, Bool.not_eq_true']

/-- The choice among free chunks falls on one of them. -/
theorem getElem?_mod_length {α : Type} {l : List α} (h : l ≠ []) (i : Nat) : ∃ a ∈ l, l[i % l.length]? = some a :=
  have hi := Nat.mod_lt i (List.length_pos_iff.2 h)
  ⟨l[i % l.length], List.getElem_mem hi, List.getElem?_eq_getElem hi⟩

/-- A tag below its quota gets a free large chunk. -/
theorem Dev.allocChunk_quota {d : Dev} {i tag cls : Nat} (hi : i < d.largeCount) (hfree : d.core.cullet.uses i = false)
    (hholds : d.core.cullet.holds.length < 65536) (hquota : d.core.cullet.held tag < d.core.cullet.quota tag) :
    ∃ k, k < d.largeCount ∧ d.core.cullet.uses k = false ∧ (d.allocChunk tag cls true).1 = d.setCullet (d.core.cullet.granted k tag cls) := by
  obtain ⟨k, hk, hpick⟩ := getElem?_mod_length (List.ne_nil_of_mem (Dev.mem_freeList.2 ⟨hi, hfree⟩))
    (Config.chunkPick d.free d.core.cullet.chunks.length)
  obtain ⟨hlt, hunused⟩ := Dev.mem_freeList.1 hk
  refine ⟨k, hlt, hunused, ?_⟩
  unfold Dev.freeList Cullet.uses at hpick
  unfold Dev.allocChunk
  simp only [hquota, hholds, decide_true, Bool.and_true, true_or, and_self, if_true, hpick]
  rfl

/-- A chunk whose last hold is released is freed, and the firmware is told. -/
theorem Dev.releaseHold_last {d : Dev} {h tag : Nat} (hheld : d.core.cullet.holds.contains (h, tag) = true)
    (hlast : ((d.core.cullet.holds.erase (h, tag)).any fun p => p.1 = h) = false) :
    d.releaseHold h tag = (d.setCullet { d.core.cullet with
      holds := d.core.cullet.holds.erase (h, tag), chunks := d.core.cullet.chunks.filter fun p => p.1 ≠ h }).assertEvt 114 := by
  unfold Dev.releaseHold
  exact (if_pos hheld).trans (if_neg (by rw [hlast]; exact Bool.false_ne_true))

/-- Settles O44: the wheel and the sample come to each ring once, a visit's first piece is released before what only adds to it, and
Cullet's chunks change as its own lemmas say. -/
theorem wheelReleasesAndCulletCounts : Obligations.WheelReleasesAndCulletCounts := by
  intro s n r x o tag cls h hcalm
  have hraised := State.calm_iff.1 hcalm
  refine ⟨fun hrising hr hx hin hslot hcarry hpiece hds hat => ?_, fun hnext hx hn hpiece hfits hallow => ?_, fun hrising hr => ?_,
    fun i hi hfree hholds hquota => ?_, fun hheld hlast => ?_⟩
  · refine answers_calm (run_calendarSlot s) ((congrArg FaultSt.raised s.begin.calendarSlot_beside.fault).trans hraised) ?_
    exact Dev.calendarSlot_ready hrising hr hx hin hslot hcarry hpiece hds hat
  · obtain ⟨k, rfl⟩ := Nat.exists_eq_add_of_le hn
    rw [Nat.add_sub_cancel_left] at hx ⊢
    obtain ⟨hdrr, hfault, hrel⟩ := Dev.drrVisit_releases (d := s.begin) (o := o.val) hnext hx hpiece hfits hallow
    exact answers_calm (run_pieceRelease o s) ((congrArg FaultSt.raised hfault).trans hraised) ⟨hdrr, hrel⟩
  · refine answers_calm (run_ringSample s) ((congrArg FaultSt.raised s.begin.ringSample_beside.fault).trans hraised) ?_
    rw [State.commit_ring, Dev.ringSample_ring hrising hr]
    rfl
  · obtain ⟨k, hk, hunused, heff⟩ := Dev.allocChunk_quota (cls := cls.val) hi hfree hholds hquota
    refine answers_calm (run_chunkAllocate tag cls true s) ?_ ⟨k, hk, hunused, ?_⟩ <;> rw [heff]
    · exact hraised
    · rfl
  · have heff := Dev.releaseHold_last (d := s.begin) hheld hlast
    have hsig := Dev.assertEvt_signals (s.begin.setCullet { s.core.cullet with
      holds := s.core.cullet.holds.erase (h.toNat, tag.toNat), chunks := s.core.cullet.chunks.filter fun p => p.1 ≠ h.toNat }) 114
    refine answers_calm (run_chunkRelease h tag s) ?_ ⟨?_, ?_⟩ <;> rw [heff]
    · exact (congrArg FaultSt.raised hsig.fault).trans hraised
    · exact Dev.assertEvt_level _ 114
    · exact hsig.cullet

end Sys2Proof.Machine
end

section
namespace Sys2Proof.Machine

/-! ## Commands of a mailbox that are held before they act (R285, R287) -/

theorem State.commit_mag (s : State) (d : Dev) (m : Nat) : (s.commit d).begin.mag m = d.mag m := rfl

section
variable {s : State} {e : Dev} {m op : Nat} {c : MbxCmd} (hc : s.begin.readyCmd m op = some c)
  (hh : e.core.host = (s.begin.holdCmd m c.id).core.host)
include hc hh

/-- The command waits in the next state, where what follows its hold leaves the mailboxes alone. -/
theorem State.commit_waits : (s.commit e).waits m c := by
  show _ ∈ (e.mbx m).cmds
  rw [Dev.mbx_of_host hh]
  exact Dev.holdCmd_waits (Dev.readyCmd_mem hc)

/-- A held command that finishes is done, its words as they were. -/
theorem State.commit_heldDone (st : Nat) (r0 r1 : Word) : (s.commit (e.finishCmd m c.id st r0 r1)).done m c st r0 r1 :=
  Dev.finishCmd_done e m { c with stage := .waiting } (State.commit_waits hc hh) st r0 r1

end

/-- A held command whose effect ends by finishing it, with the mailboxes and the collector as they were. -/
theorem answers_heldDone {i : Instr} {s : State} {m op : Nat} {f : Dev → MbxCmd → Dev} {c : MbxCmd} {e : Dev} {st : Nat} {r0 : Word}
    (he : exec i s = s.run fun d => d.withCmd m op f) (hc : s.begin.readyCmd m op = some c) (hcalm : s.calm = true)
    (hf : f s.begin c = e.finishCmd m c.id st r0) (hh : e.core.host = (s.begin.holdCmd m c.id).core.host)
    (hfault : e.core.fault = s.core.fault) : Answers i s fun t => t.done m c st r0 0 :=
  answers_withCmd he hc hf ((congrArg FaultSt.raised hfault).trans (State.calm_iff.1 hcalm)) (State.commit_heldDone hc hh st r0 0)

/-- A mailbox command whose effect is known to raise nothing. -/
theorem answers_calmCmd {i : Instr} {s : State} {m op : Nat} {f : Dev → MbxCmd → Dev} {c : MbxCmd} {e : Dev} {P : State → Prop}
    (he : exec i s = s.run fun d => d.withCmd m op f) (hc : s.begin.readyCmd m op = some c) (hcalm : s.calmFor (fun d => d.withCmd m op f) = true)
    (hf : f s.begin c = e) (hP : P (s.commit e)) : Answers i s P := by
  have hr := State.calmFor_iff.1 hcalm
  rw [Dev.withCmd, hc] at hr
  exact answers_withCmd he hc hf (hf ▸ hr) hP

/-- A mailbox command waits on a port for the work of its kind: 1 a mount, 2 a seal, 3 a flush. -/
def Dev.addWaiter (d : Dev) (m : Nat) (w : Nat × Nat × Nat) : Dev := d.setMag m { d.mag m with waiters := (d.mag m).waiters ++ [w] }

theorem Dev.addWaiter_waiters (d : Dev) (m : Nat) (w : Nat × Nat × Nat) : ((d.addWaiter m w).mag m).waiters = (d.mag m).waiters ++ [w] :=
  congrArg MagPort.waiters (Dev.setMag_mag d m _)

/-! ## MAG_MOUNT and MAG_UNMOUNT -/

section
variable {d : Dev} {mb : Nat} {c : MbxCmd}

theorem Dev.cmdMagMount_absent (hp : d.get .mag (argF c.words 2 2 0) fMAG_STAT_PRESENT = 0) :
    d.cmdMagMount mb c = (d.holdCmd mb c.id).finishCmd mb c.id 5 := if_pos hp

theorem Dev.cmdMagMount_mounted (hp : d.get .mag (argF c.words 2 2 0) fMAG_STAT_PRESENT = 1)
    (hst : d.get .mag (argF c.words 2 2 0) fMAG_STAT_STATE = 4) (hinit : argF c.words 2 8 8 = 0) :
    d.cmdMagMount mb c = (d.holdCmd mb c.id).finishCmd mb c.id 0 (d.mountResult (argF c.words 2 2 0)) := by
  unfold Dev.cmdMagMount
  rw [hinit]
  exact (if_neg fun h => Nat.one_ne_zero (hp.symm.trans h)).trans (if_pos hst)

/-- While the port mounts already, the command joins those that wait for it. -/
theorem Dev.cmdMagMount_mounting (hp : d.get .mag (argF c.words 2 2 0) fMAG_STAT_PRESENT = 1)
    (hst : d.get .mag (argF c.words 2 2 0) fMAG_STAT_STATE = 1 ∨ d.get .mag (argF c.words 2 2 0) fMAG_STAT_STATE = 2 ∨
      d.get .mag (argF c.words 2 2 0) fMAG_STAT_STATE = 3) :
    d.cmdMagMount mb c = (d.holdCmd mb c.id).setMag (argF c.words 2 2 0) { d.mag (argF c.words 2 2 0) with
      waiters := (d.mag (argF c.words 2 2 0)).waiters ++ [(1, mb, c.id)], init := decide (argF c.words 2 8 8 = 1) } := by
  have hbusy : d.get .mag (argF c.words 2 2 0) fMAG_STAT_STATE ≠ 4 ∧ d.get .mag (argF c.words 2 2 0) fMAG_STAT_STATE ≠ 7 := by omega
  exact (if_neg fun h => Nat.one_ne_zero (hp.symm.trans h)).trans ((if_neg hbusy.1).trans ((if_neg hbusy.2).trans (if_pos hst)))

theorem Dev.cmdMagUnmount_sealed (hst : d.get .mag (argF c.words 2 2 0) fMAG_STAT_STATE = 7) :
    d.cmdMagUnmount mb c = (d.holdCmd mb c.id).finishCmd mb c.id 0 := if_pos hst

theorem Dev.cmdMagUnmount_unmounted (h7 : d.get .mag (argF c.words 2 2 0) fMAG_STAT_STATE ≠ 7)
    (h4 : d.get .mag (argF c.words 2 2 0) fMAG_STAT_STATE ≠ 4) : d.cmdMagUnmount mb c = (d.holdCmd mb c.id).finishCmd mb c.id 5 :=
  (if_neg h7).trans (if_pos h4)

theorem Dev.cmdMagUnmount_mounted (h4 : d.get .mag (argF c.words 2 2 0) fMAG_STAT_STATE = 4) :
    d.cmdMagUnmount mb c = if d.portBusy (argF c.words 2 2 0) = true then (d.holdCmd mb c.id).finishCmd mb c.id 4
      else ((d.holdCmd mb c.id).addWaiter (argF c.words 2 2 0) (2, mb, c.id)).sealVol (argF c.words 2 2 0) :=
  (if_neg (by rw [show Dev.get (Dev.holdCmd _ _ _) _ _ _ = 4 from h4]; decide)).trans (if_neg (not_not_intro h4))

/-! ## MAG_SWAP -/

theorem Dev.cmdMagSwap_refused (h : d.get .mag (argF c.words 2 2 0) fMAG_STAT_STATE ≠ 4 ∨ argF c.words 2 2 0 = argF c.words 2 6 4 ∨ d.exchanging = true) :
    d.cmdMagSwap mb c = (d.holdCmd mb c.id).finishCmd mb c.id 5 :=
  if_pos (h.imp_right fun h => .inr (.inr (h.imp_right .inl)))

/-- The planned exchange of MAG_SWAP stands: its source, its target, the counts and fields of MAG_XCHG, and the mode. -/
def Dev.swapOpened (d : Dev) (c : Nat × Nat) (m n : Nat) : Dev :=
  let e := d.setMag m { d.mag m with swapTo := some n, swapCmd := some c, swapped := 0 }
  let e := ((e.bump .mag m fMAG_XCHG_COUNT).set .mag m fMAG_XCHG_STREAMS (min 255 (d.portLive m).length)).set .mag m fMAG_XCHG_OUTCOME 0
  let e := ((e.set .mag m fMAG_XCHG_TARGET n).statBit .mag m 6).set .mag n fMAG_CFG_ROLE 0
  (e.setExchange (some ⟨m, d.portLive m, some n, 3, d.free, false⟩)).refreshMode

theorem Dev.cmdMagSwap_begins (hm : d.get .mag (argF c.words 2 2 0) fMAG_STAT_STATE = 4) (hn : d.get .mag (argF c.words 2 6 4) fMAG_STAT_STATE = 4)
    (hrole : d.role (argF c.words 2 6 4) = 1) (hne : argF c.words 2 2 0 ≠ argF c.words 2 6 4) (hidle : d.exchanging = false)
    (hmounted : d.mounted (argF c.words 2 6 4) = true) :
    d.cmdMagSwap mb c = ((d.portLive (argF c.words 2 2 0)).foldl (fun (d : Dev) k => d.swapStream k)
      (((d.holdCmd mb c.id).swapOpened (mb, c.id) (argF c.words 2 2 0) (argF c.words 2 6 4)).markSwap (d.portLive (argF c.words 2 2 0)))).swapDone := by
  refine if_neg ?_
  rintro (h | h | h | h | h | h)
  · exact h hm
  · exact h hn
  · exact h hrole
  · exact hne h
  · exact Bool.false_ne_true (hidle.symm.trans h)
  · exact Bool.false_ne_true ((congrArg not hmounted).symm.trans h)

/-- DEV_MODE is registers alone. -/
theorem Dev.refreshMode_core (d : Dev) : d.refreshMode.core = d.core := ite_both (P := fun e : Dev => e.core = d.core) rfl rfl

theorem Dev.swapOpened_exchange (d : Dev) (c : Nat × Nat) (m n : Nat) :
    (d.swapOpened c m n).core.exchange = some ⟨m, d.portLive m, some n, 3, d.free, false⟩ :=
  congrArg Core.exchange (Dev.refreshMode_core _)

theorem Dev.swapOpened_mag (d : Dev) (c : Nat × Nat) (m n : Nat) :
    (d.swapOpened c m n).mag m = { d.mag m with swapTo := some n, swapCmd := some c, swapped := 0 } := by
  show tget MagPort.rest (d.swapOpened c m n).core.mags m = _
  rw [show (d.swapOpened c m n).core.mags = _ from congrArg Core.mags (Dev.refreshMode_core _)]
  exact Dev.setMag_mag d m _

/-! ## MAG_FLUSH -/

theorem Dev.cmdMagFlush_unmounted (h4 : d.get .mag (argF c.words 2 2 0) fMAG_STAT_STATE ≠ 4) :
    d.cmdMagFlush mb c = (d.holdCmd mb c.id).finishCmd mb c.id 5 := if_pos h4

theorem Dev.cmdMagFlush_mounted (h4 : d.get .mag (argF c.words 2 2 0) fMAG_STAT_STATE = 4) :
    d.cmdMagFlush mb c = (((d.holdCmd mb c.id).addWaiter (argF c.words 2 2 0) (3, mb, c.id)).flushPort (argF c.words 2 2 0)).flushCheck (argF c.words 2 2 0) :=
  if_neg (not_not_intro h4)

/-- With no record stream there is nothing to flush, and the commands that wait for it finish. -/
theorem Dev.flushPort_unused (h : d.core.recs = []) (m : Nat) : (d.flushPort m).flushCheck m = d.finishWaiters m 3 0 := by
  have hnone : d.portStreams m = [] := by rw [Dev.portStreams, h]; rfl
  have hflush : d.flushPort m = d := by rw [Dev.flushPort, Dev.portLive, hnone]; rfl
  rw [hflush, Dev.flushCheck, hnone]
  rfl

/-- Commands of one kind that wait alone on their port finish. -/
theorem Dev.finishWaiters_only {m kind id : Nat} (h : (d.mag m).waiters = [(kind, mb, id)]) (status : Nat) (r0 : Word) :
    d.finishWaiters m kind status r0 = (d.setMag m { d.mag m with waiters := [] }).finishCmd mb id status r0 := by
  simp [Dev.finishWaiters, h]

/-- MAG_FLUSH finishes at once where no stream records and nothing else waits on the port. -/
theorem Dev.cmdMagFlush_idle (h4 : d.get .mag (argF c.words 2 2 0) fMAG_STAT_STATE = 4) (hrecs : d.core.recs = [])
    (hnone : (d.mag (argF c.words 2 2 0)).waiters = []) :
    ∃ x, d.cmdMagFlush mb c = (((d.holdCmd mb c.id).addWaiter (argF c.words 2 2 0) (3, mb, c.id)).setMag (argF c.words 2 2 0) x).finishCmd mb c.id 0 := by
  have hone := (Dev.addWaiter_waiters (d.holdCmd mb c.id) (argF c.words 2 2 0) (3, mb, c.id)).trans (congrArg (· ++ [_]) hnone)
  have hrecs' : ((d.holdCmd mb c.id).addWaiter (argF c.words 2 2 0) (3, mb, c.id)).core.recs = [] := hrecs
  rw [Dev.cmdMagFlush_mounted h4]
  generalize (d.holdCmd mb c.id).addWaiter (argF c.words 2 2 0) (3, mb, c.id) = e at hone hrecs' ⊢
  exact ⟨_, (Dev.flushPort_unused hrecs' _).trans (Dev.finishWaiters_only hone 0 0)⟩

/-! ## MAG_LOG and MAG_IDENT -/

theorem Dev.cmdMagLog_up (hlog : argF c.words 2 15 8 = 1 ∨ argF c.words 2 15 8 = 2) (hup : d.adminUp (argF c.words 2 2 0) = true) :
    d.cmdMagLog mb c = (d.holdCmd mb c.id).adminIssue (argF c.words 2 2 0)
      [⟨2, argF c.words 2 15 8, 11, some (mb, c.id), arg64 c.words 3, argF c.words 5 31 0⟩] :=
  (if_neg (by omega)).trans (if_pos hup)

theorem Dev.cmdMagLog_down (hlog : argF c.words 2 15 8 = 1 ∨ argF c.words 2 15 8 = 2) (hdown : d.adminUp (argF c.words 2 2 0) = false) :
    d.cmdMagLog mb c = (d.holdCmd mb c.id).finishCmd mb c.id 5 :=
  (if_neg (by omega)).trans (if_neg fun h => Bool.false_ne_true (hdown.symm.trans h))

theorem Dev.cmdMagIdent_up (hup : d.adminUp (argF c.words 2 2 0) = true) :
    d.cmdMagIdent mb c = (d.holdCmd mb c.id).adminIssue (argF c.words 2 2 0)
      [⟨6, argF c.words 2 9 8, 12, some (mb, c.id), arg64 c.words 3, 4096⟩] := if_pos hup

theorem Dev.cmdMagIdent_down (hdown : d.adminUp (argF c.words 2 2 0) = false) :
    d.cmdMagIdent mb c = (d.holdCmd mb c.id).finishCmd mb c.id 5 := if_neg fun h => Bool.false_ne_true (hdown.symm.trans h)

end

/-- Submitting entries changes rings alone. -/
theorem Dev.submitAll_rings (m : Nat) (ops : List AdminOp) : ∀ d : Dev, ∃ rings,
    ops.foldl (fun (d : Dev) _ => d.submit m 0) d = { d with core := { d.core with rings := rings } } := by
  induction ops with
  | nil => exact fun d => ⟨_, rfl⟩
  | cons _ ops ih => exact fun d => (ih (d.submit m 0)).imp fun _ h => h

/-- Admin commands join their port's queue; rings apart, nothing else changes. -/
theorem Dev.adminIssue_rings (d : Dev) (m : Nat) (ops : List AdminOp) : ∃ (e : Dev) (rings : List (Nat × Ring)),
    e = d.setMag m { d.mag m with admin := (d.mag m).admin ++ ops } ∧ d.adminIssue m ops = { e with core := { e.core with rings := rings } } :=
  (Dev.submitAll_rings m ops _).imp' (fun _ => _) fun rings h => ⟨rings, rfl, h⟩

theorem Dev.adminIssue_mag (d : Dev) (m : Nat) (ops : List AdminOp) : (d.adminIssue m ops).mag m = { d.mag m with admin := (d.mag m).admin ++ ops } := by
  obtain ⟨e, rings, rfl, h⟩ := d.adminIssue_rings m ops
  rw [h]
  exact Dev.setMag_mag d m _

/-- The admin command that a mailbox command sends stands last in its port's queue, and the mailbox command waits for it. -/
theorem answers_adminSent {i : Instr} {s : State} {m op p o arg host len : Nat} {f : Dev → MbxCmd → Dev} {c : MbxCmd} {a : AdminOp}
    (he : exec i s = s.run fun d => d.withCmd m op f) (hc : s.begin.readyCmd m op = some c) (hcalm : s.calm = true)
    (hf : f s.begin c = (s.begin.holdCmd m c.id).adminIssue p [a]) (ho : a.opcode = o) (harg : a.arg = arg) (hcmd : a.cmd = some (m, c.id))
    (hhost : a.host = host) (hlen : a.len = len) :
    Answers i s fun t => t.waits m c ∧ ∃ a, (t.begin.mag p).admin = (s.begin.mag p).admin ++ [a] ∧ a.opcode = o ∧ a.arg = arg ∧
      a.cmd = some (m, c.id) ∧ a.host = host ∧ a.len = len := by
  have hmag := (s.begin.holdCmd m c.id).adminIssue_mag p [a]
  obtain ⟨e, rings, rfl, hrings⟩ := (s.begin.holdCmd m c.id).adminIssue_rings p [a]
  refine answers_withCmd he hc hf ?_ ⟨State.commit_waits hc ?_, a, congrArg MagPort.admin hmag, ho, harg, hcmd, hhost, hlen⟩ <;> rw [hrings]
  · exact State.calm_iff.1 hcalm
  · rfl

/-- Settles O48: a command that its port does not allow, or that has nothing left to do, finishes; another waits in its mailbox and on the
port, beside what it began. -/
theorem magazineCommandsActOnTheirPort : Obligations.MagazineCommandsActOnTheirPort := by
  intro s mb c hcalm d p q st present asks sends
  have hraised := State.calm_iff.1 hcalm
  refine ⟨fun hc => ⟨fun hp => ?_, fun hp hst hinit => ?_, fun hp hst => ?_⟩, fun hc => ⟨fun h7 => ?_, fun h7 h4 => ?_, fun h4 hbusy => ?_, fun h4 hidle hcalm' => ?_⟩,
    fun hc => ⟨fun href => ?_, fun hp hq hrole hne hidle hmounted hcalm' => ?_⟩, fun hc => ⟨fun h4 => ?_, fun h4 hrecs hnone => ?_, fun h4 hcalm' => ?_⟩,
    fun hc hlog => ⟨fun hup => ?_, fun hdown => ?_⟩, fun hc => ⟨fun hup => ?_, fun hdown => ?_⟩⟩
  · exact answers_heldDone (run_magMount mb s) hc hcalm (Dev.cmdMagMount_absent hp) rfl rfl
  · exact answers_heldDone (run_magMount mb s) hc hcalm (Dev.cmdMagMount_mounted hp hst hinit) rfl rfl
  · refine answers_withCmd (run_magMount mb s) hc (Dev.cmdMagMount_mounting hp hst) hraised ⟨⟨State.commit_waits hc rfl, ?_⟩, ?_⟩ <;>
      rw [State.commit_mag, Dev.setMag_mag]
  · exact answers_heldDone (run_magUnmount mb s) hc hcalm (Dev.cmdMagUnmount_sealed h7) rfl rfl
  · exact answers_heldDone (run_magUnmount mb s) hc hcalm (Dev.cmdMagUnmount_unmounted h7 h4) rfl rfl
  · exact answers_heldDone (run_magUnmount mb s) hc hcalm ((Dev.cmdMagUnmount_mounted h4).trans (if_pos hbusy)) rfl rfl
  · have hseal := (Dev.cmdMagUnmount_mounted (mb := mb.val) h4).trans (if_neg fun h => Bool.false_ne_true (hidle.symm.trans h))
    refine answers_calmCmd (run_magUnmount mb s) hc hcalm' hseal ⟨_, rfl, State.commit_waits hc rfl, Dev.addWaiter_waiters _ _ _⟩
  · exact answers_heldDone (run_magSwap mb s) hc hcalm (Dev.cmdMagSwap_refused href) rfl rfl
  · refine answers_calmCmd (run_magSwap mb s) hc hcalm' (Dev.cmdMagSwap_begins hp hq hrole hne hidle hmounted)
      ⟨_, rfl, Dev.swapOpened_exchange _ _ _ _, ?_, ?_⟩ <;> rw [Dev.swapOpened_mag]
  · exact answers_heldDone (run_magFlush mb s) hc hcalm (Dev.cmdMagFlush_unmounted h4) rfl rfl
  · obtain ⟨x, hflush⟩ := Dev.cmdMagFlush_idle (mb := mb.val) h4 hrecs hnone
    exact answers_heldDone (run_magFlush mb s) hc hcalm hflush rfl rfl
  · exact answers_calmCmd (run_magFlush mb s) hc hcalm' (Dev.cmdMagFlush_mounted h4) ⟨_, rfl, State.commit_waits hc rfl, Dev.addWaiter_waiters _ _ _⟩
  · exact answers_adminSent (run_magLog mb s) hc hcalm (Dev.cmdMagLog_up hlog hup) rfl rfl rfl rfl rfl
  · exact answers_heldDone (run_magLog mb s) hc hcalm (Dev.cmdMagLog_down hlog hdown) rfl rfl
  · exact answers_adminSent (run_magIdent mb s) hc hcalm (Dev.cmdMagIdent_up hup) rfl rfl rfl rfl rfl
  · exact answers_heldDone (run_magIdent mb s) hc hcalm (Dev.cmdMagIdent_down hdown) rfl rfl

end Sys2Proof.Machine
end

section
namespace Sys2Proof.Machine

/-! ## The fields of a magazine port (Table 14.3) -/

/-- The fields of a port that its steps read and write. -/
def portFields : List FieldRow :=
  [fMAG_STAT_STATE, fMAG_STAT_CAUSE, fMAG_STAT_SPEED, fMAG_STAT_WIDTH, fMAG_STAT_PRESENT, fMAG_STAT_QPAIRS, fMAG_CFG_AUTO_MOUNT]

theorem portFields_ok : ∀ m : Fin 8, ∀ q ∈ portFields, fieldOk .mag m.val q 0 = true := by decide

theorem portFields_off : ∀ q ∈ portFields, 0x40 ≤ q.off ∧ q.off < 4096 := by decide

/-- Two fields share no bit: they lie in two registers of a page, or apart in one. -/
def FieldRow.apart (r q : FieldRow) : Bool := decide (q.off ≠ r.off ∨ q.lo + q.width ≤ r.lo ∨ r.lo + r.width ≤ q.lo)

theorem fieldAddr_mag (m : Nat) (q : FieldRow) : fieldAddr .mag m q 0 = (0x30 + m) * 4096 + q.off := by
  simp [fieldAddr, PageKind.page]

section
variable (d : Dev) (m : Fin 8) {q : FieldRow} (hq : q ∈ portFields)
include hq

theorem Dev.get_setMag_own (v : Nat) : (d.set .mag m.val q v).get .mag m.val q = v % 2 ^ q.width :=
  d.get_set_same .mag m.val q v 0 (portFields_ok m q hq)

/-- A field that is written leaves the others of its port as they were. -/
theorem Dev.get_setMag_apart {r : FieldRow} (h : r.apart q = true) (v : Nat) : (d.set .mag m.val r v).get .mag m.val q = d.get .mag m.val q := by
  by_cases ho : q.off = r.off
  · have hbits := (of_decide_eq_true h).resolve_left (not_not_intro ho)
    exact d.get_set_beside .mag m.val r q v 0 (by rw [fieldAddr_mag, fieldAddr_mag, ho]) hbits (portFields_ok m q hq)
  · exact d.get_set_offset .mag m.val ho v

theorem Dev.get_statBit_mag (b : Nat) : (d.statBit .mag m.val b).get .mag m.val q = d.get .mag m.val q := by
  have hoff := portFields_off q hq
  simp only [Dev.get]
  refine congrArg q.ext (Dev.reg_setReg_other d ?_ _)
  rw [fieldAddr_mag]
  show _ ≠ (0x30 + m.val) * 4096 + 0x00C
  omega

/-- The counts of outstanding commands lie in a register of their own. -/
theorem Dev.get_refreshOutst (k : Nat) : (d.refreshOutst k).get .mag m.val q = d.get .mag m.val q := by
  have hoff : ∀ q ∈ portFields, q.off ≠ 0x58 ∧ q.off < 4096 := by decide
  have haddr : ∀ r : FieldRow, r.off = 0x58 → fieldAddr .mag m.val q 0 ≠ fieldAddr .mag k r 0 := by
    intro r hr
    have := hoff q hq
    rw [fieldAddr_mag, fieldAddr_mag, hr]
    omega
  unfold Dev.refreshOutst
  dsimp only
  rw [Dev.get_set_reg _ _ _ _ _ _ _ _ _ _ (haddr fMAG_OUTST_READS rfl), Dev.get_set_reg _ _ _ _ _ _ _ _ _ _ (haddr fMAG_OUTST_WRITES rfl)]

theorem Dev.get_assertEvt_mag {n : Nat} (hn : n < 256) (he : d.core.lehr.entering = []) :
    (d.assertEvt n).get .mag m.val q = d.get .mag m.val q := by
  have hoff := portFields_off q hq
  refine (Dev.assertEvt_tells (ps := [1, 0xB]) (by decide) (by decide) d n hn he).touches.get _ _ _ _ ?_
  have hpage : fieldAddr .mag m.val q 0 / 4096 = 0x30 + m.val := by
    rw [fieldAddr_mag]
    omega
  rw [hpage]
  simp only [List.mem_cons, List.not_mem_nil, or_false]
  omega

end

theorem Dev.assertEvt_mag (d : Dev) (n m : Nat) : (d.assertEvt n).mag m = d.mag m := by
  simp only [Dev.mag, (Dev.assertEvt_signals d n).mags]

theorem Dev.magState_core (d : Dev) (m st cause : Nat) : (d.magState m st cause).core = d.core := rfl

/-- STATE and CAUSE of a port after they are set; its other fields stand. -/
theorem Dev.magState_state (d : Dev) (m : Fin 8) {st : Nat} (h : st < 16) (cause : Nat) : (d.magState m.val st cause).get .mag m.val fMAG_STAT_STATE = st :=
  (Dev.get_setMag_apart _ m (by decide) (by decide) _).trans ((d.get_setMag_own m (by decide) st).trans (Nat.mod_eq_of_lt h))

theorem Dev.magState_cause (d : Dev) (m : Fin 8) (st : Nat) {cause : Nat} (h : cause < 16) : (d.magState m.val st cause).get .mag m.val fMAG_STAT_CAUSE = cause :=
  (Dev.get_setMag_own _ m (by decide) cause).trans (Nat.mod_eq_of_lt h)

theorem Dev.magState_other (d : Dev) (m : Fin 8) {q : FieldRow} (hq : q ∈ portFields) (hst : fMAG_STAT_STATE.apart q = true)
    (hcause : fMAG_STAT_CAUSE.apart q = true) (st cause : Nat) : (d.magState m.val st cause).get .mag m.val q = d.get .mag m.val q :=
  (Dev.get_setMag_apart _ m hq hcause _).trans (d.get_setMag_apart m hq hst _)

/-! ## Steps of a port: no fault is raised, and no entry into a low-power state begins -/

/-- What a step of a magazine port keeps. -/
structure Dev.PortStep (d d' : Dev) : Prop where
  fault : d'.core.fault = d.core.fault
  still : d.core.lehr.entering = [] → d'.core.lehr.entering = []
  keeps : d.core.lehr.entering = [] → ∀ s, Dev.Over s d → Dev.Over s d'

theorem Dev.PortStep.trans {a b c : Dev} (h : Dev.PortStep a b) (g : Dev.PortStep b c) : Dev.PortStep a c :=
  ⟨g.fault.trans h.fault, fun he => g.still (h.still he), fun he s hs => g.keeps (h.still he) s (h.keeps he s hs)⟩
theorem Dev.PortStep.refl (d : Dev) : Dev.PortStep d d := ⟨rfl, id, fun _ _ h => h⟩
theorem Dev.PortStep.set (d : Dev) (k : PageKind) (i : Nat) (r : FieldRow) (v n : Nat) : Dev.PortStep d (d.set k i r v n) :=
  ⟨rfl, id, fun _ _ h => h.set _ _ _ _ _⟩
theorem Dev.PortStep.statBit (d : Dev) (k : PageKind) (i b : Nat) : Dev.PortStep d (d.statBit k i b) := ⟨rfl, id, fun _ _ h => h.stat _ _⟩
/-- An update of the core that leaves the collector and Lehr's moves alone. -/
theorem Dev.PortStep.ofCore {d d' : Dev} (hf : d'.core.fault = d.core.fault) (hl : d'.core.lehr = d.core.lehr) (hr : d'.regs = d.regs)
    (hd : d'.dram = d.dram) (hh : d'.hostMem = d.hostMem) : Dev.PortStep d d' :=
  ⟨hf, fun h => by rw [hl, h], fun _ _ h => h.of_eq hr (by rw [hd]) (by rw [hh])⟩
theorem Dev.PortStep.setMag (d : Dev) (m : Nat) (x : MagPort) : Dev.PortStep d (d.setMag m x) := .ofCore rfl rfl rfl rfl rfl
theorem Dev.PortStep.assertEvt (d : Dev) {n : Nat} (hn : n < 256) : Dev.PortStep d (d.assertEvt n) :=
  ⟨(Dev.assertEvt_signals d n).fault,
    fun h => (Dev.assertEvt_tells (ps := [1, 0xB]) (by decide) (by decide) d n hn h).still,
    fun h => (Dev.assertEvt_tells (ps := [1, 0xB]) (by decide) (by decide) d n hn h).touches.keeps⟩
theorem Dev.PortStep.magState (d : Dev) (m st cause : Nat) : Dev.PortStep d (d.magState m st cause) := (Dev.PortStep.set d _ _ _ _ _).trans (.set _ _ _ _ _ _)
theorem Dev.PortStep.refreshOutst (d : Dev) (m : Nat) : Dev.PortStep d (d.refreshOutst m) := (Dev.PortStep.set d _ _ _ _ _).trans (.set _ _ _ _ _ _)

/-- A command whose effect is a step of a port answers what the step leaves, and every field reads as it stood at its end. -/
theorem answers_portStep {i : Instr} {s : State} {f : Dev → Dev} {e : Dev} {P : State → Prop} (he : exec i s = s.run f) (hf : f s.begin = e)
    (hcalm : s.calm = true) (hent : s.core.lehr.entering = []) (hstep : Dev.PortStep s.begin e)
    (hP : (∀ k i r n, (s.commit e).begin.get k i r n = e.get k i r n) → P (s.commit e)) : Answers i s P := by
  subst hf
  exact answers_calm he ((congrArg FaultSt.raised hstep.fault).trans (State.calm_iff.1 hcalm))
    (hP (State.commit_get (hstep.keeps hent s (Dev.Over.begin s))))

/-! ## A port with nothing under way -/

/-- Of two writes of an entry the second counts. -/
theorem tset_tset {α : Type} (t : List (Nat × α)) (k : Nat) (v w : α) : tset (tset t k v) k w = tset t k w := by
  unfold tset
  induction t with
  | nil => simp [Sparse.ins]
  | cons p t ih => by_cases hlt : k < p.1 <;> by_cases heq : k = p.1 <;> simp [Sparse.ins, hlt, heq, ih]

@[simp] theorem Dev.setMag_setMag (d : Dev) (m : Nat) (x y : MagPort) : (d.setMag m x).setMag m y = d.setMag m y := by
  simp only [Dev.setMag, tset_tset]

theorem Dev.clearIos_none {d : Dev} {m : Nat} (h : (d.mag m).ios = []) : d.clearIos m = d.setMag m { d.mag m with ios := [] } := by
  unfold Dev.clearIos
  dsimp only
  rw [h]
  rfl

theorem Dev.finishWaiters_none {d : Dev} {m : Nat} (h : (d.mag m).waiters = []) (kind status : Nat) (r0 : Word) :
    d.finishWaiters m kind status r0 = d.setMag m { d.mag m with waiters := [] } := by
  unfold Dev.finishWaiters
  dsimp only
  rw [h]
  rfl

/-! ## Presence and the steps up to link-up (R270, R271, Table 14.3) -/

/-- Mounting begins on a port with no command outstanding: power to the slot, PERST_N held, STATE 1. -/
theorem Dev.mountStart_starts {d : Dev} {m : Fin 8} (hios : (d.mag m.val).ios = []) :
    Dev.PortStep d (d.mountStart m.val) ∧ (d.mountStart m.val).core.evts = d.core.evts ∧
      (d.mountStart m.val).get .mag m.val fMAG_STAT_STATE = 1 ∧
      (d.mountStart m.val).get .mag m.val fMAG_STAT_PRESENT = d.get .mag m.val fMAG_STAT_PRESENT ∧
      ((d.mountStart m.val).mag m.val).pwren = true ∧ ((d.mountStart m.val).mag m.val).perstN = false := by
  obtain ⟨e, hpower, hcore, hregs⟩ : ∃ e : Dev, d.mountStart m.val = ((e.magState m.val 1 0).set .mag m.val fMAG_STAT_QPAIRS 0).set .mag m.val fMAG_LAT_MAX_US 0 ∧
      (∃ x : MagPort, x.pwren = true ∧ x.perstN = false ∧ e = (d.setMag m.val { d.mag m.val with ios := [] }).setMag m.val x) ∧ e.regs = d.regs := by
    unfold Dev.mountStart
    rw [Dev.clearIos_none hios]
    exact ⟨_, rfl, ⟨_, rfl, rfl, rfl⟩, rfl⟩
  obtain ⟨x, hp, hq, rfl⟩ := hcore
  rw [hpower]
  refine ⟨?_, rfl, ?_, ?_, (congrArg MagPort.pwren (Dev.setMag_mag _ _ _)).trans hp, (congrArg MagPort.perstN (Dev.setMag_mag _ _ _)).trans hq⟩
  · exact (((Dev.PortStep.setMag _ _ _).trans (.setMag _ _ _)).trans (.magState _ _ _ _)).trans ((Dev.PortStep.set _ _ _ _ _ _).trans (.set _ _ _ _ _ _))
  · exact (Dev.get_setMag_apart _ m (by decide) (by decide) _).trans ((Dev.get_setMag_apart _ m (by decide) (by decide) _).trans
      (Dev.magState_state _ m (by decide) 0))
  · exact (Dev.get_setMag_apart _ m (by decide) (by decide) _).trans ((Dev.get_setMag_apart _ m (by decide) (by decide) _).trans
      (Dev.magState_other _ m (by decide) (by decide) (by decide) 1 0))

/-- PRESENT follows the pin. -/
def Dev.presenceSet (d : Dev) (m : Nat) (present : Bool) : Dev := (d.set .mag m fMAG_STAT_PRESENT (if present then 1 else 0)).statBit .mag m 0

/-- PRESENT follows the pin, and the presence source of the port asserts. -/
def Dev.presenceTold (d : Dev) (m : Nat) (present : Bool) : Dev := (d.presenceSet m present).assertEvt (96 + m)

section
variable (d : Dev) (m : Fin 8) (present : Bool)

theorem Dev.presenceTold_step : Dev.PortStep d (d.presenceTold m.val present) :=
  ((Dev.PortStep.set d _ _ _ _ _).trans (.statBit _ _ _ _)).trans (.assertEvt _ (by omega))

theorem Dev.presenceTold_mag : (d.presenceTold m.val present).mag m.val = d.mag m.val := Dev.assertEvt_mag _ _ _

theorem Dev.presenceTold_exchange : (d.presenceTold m.val present).core.exchange = d.core.exchange := by
  obtain ⟨_, _, _, h⟩ := (Dev.assertEvt_signals (d.presenceSet m.val present) (96 + m.val)).core
  rw [Dev.presenceTold, h]
  rfl

variable {d} (hent : d.core.lehr.entering = [])
include hent

theorem Dev.presenceTold_present : (d.presenceTold m.val present).get .mag m.val fMAG_STAT_PRESENT = if present then 1 else 0 := by
  rw [Dev.presenceTold, Dev.get_assertEvt_mag (d.presenceSet m.val present) m (by decide) (by omega) hent, Dev.presenceSet,
    Dev.get_statBit_mag _ m (by decide), Dev.get_setMag_own _ m (by decide)]
  cases present <;> rfl

theorem Dev.presenceTold_other {q : FieldRow} (hq : q ∈ portFields) (h : fMAG_STAT_PRESENT.apart q = true) :
    (d.presenceTold m.val present).get .mag m.val q = d.get .mag m.val q := by
  rw [Dev.presenceTold, Dev.get_assertEvt_mag (d.presenceSet m.val present) m hq (by omega) hent, Dev.presenceSet,
    Dev.get_statBit_mag _ m hq, Dev.get_setMag_apart _ m hq h]

omit hent in
theorem Dev.presence_seats (hp : d.get .mag m.val fMAG_STAT_PRESENT = 0) : d.presence m.val true =
    if (d.presenceTold m.val true).get .mag m.val fMAG_CFG_AUTO_MOUNT = 1 ∧ ((d.presenceTold m.val true).core.exchange.all fun e => e.from_ ≠ m.val) = true then
      (d.presenceTold m.val true).mountStart m.val
    else (d.presenceTold m.val true).setMag m.val { (d.presenceTold m.val true).mag m.val with presentAt := some (d.presenceTold m.val true).free } :=
  (if_neg (by rw [hp]; decide)).trans (if_pos rfl)

theorem Dev.presence_waits (hp : d.get .mag m.val fMAG_STAT_PRESENT = 0) (hauto : d.get .mag m.val fMAG_CFG_AUTO_MOUNT = 0) :
    d.presence m.val true = (d.presenceTold m.val true).setMag m.val { d.mag m.val with presentAt := some d.free } := by
  have hauto' := (Dev.presenceTold_other m true hent (q := fMAG_CFG_AUTO_MOUNT) (by decide) (by decide)).trans hauto
  have hfree : (d.presenceTold m.val true).free = d.free := congrArg TimeSt.free (Dev.assertEvt_signals _ _).time
  rw [Dev.presence_seats m hp, if_neg fun h => Nat.zero_ne_one (hauto'.symm.trans h.1), Dev.presenceTold_mag, hfree]

theorem Dev.presence_mounts (hp : d.get .mag m.val fMAG_STAT_PRESENT = 0) (hauto : d.get .mag m.val fMAG_CFG_AUTO_MOUNT = 1)
    (hidle : d.core.exchange = none) : d.presence m.val true = (d.presenceTold m.val true).mountStart m.val := by
  have hauto' := (Dev.presenceTold_other m true hent (q := fMAG_CFG_AUTO_MOUNT) (by decide) (by decide)).trans hauto
  have hidle' := (d.presenceTold_exchange m true).trans hidle
  rw [Dev.presence_seats m hp, if_pos ⟨hauto', by rw [hidle']; rfl⟩]

theorem Dev.presence_leaves (hp : d.get .mag m.val fMAG_STAT_PRESENT = 1) (hst : d.get .mag m.val fMAG_STAT_STATE = 0 ∨ d.get .mag m.val fMAG_STAT_STATE = 6) :
    d.presence m.val false = d.presenceTold m.val false := by
  have hst' := Dev.presenceTold_other m false hent (q := fMAG_STAT_STATE) (by decide) (by decide)
  refine (if_neg (by rw [hp]; decide)).trans ?_
  exact (if_neg Bool.false_ne_true).trans (if_pos (hst.imp hst'.trans hst'.trans))

end

/-! ## PERST_N, the link and the controller (Table 14.3), and refusals (Table 14.4) -/

theorem Dev.perstRelease_due {d : Dev} {m at_ : Nat} (hat : (d.mag m).presentAt = some at_) (hdue : at_ + 100000000 ≤ d.free)
    (hst : d.get .mag m fMAG_STAT_STATE = 1) :
    d.perstRelease m = (d.setMag m { d.mag m with perstN := true, presentAt := some d.free }).magState m 2 0 := by
  unfold Dev.perstRelease
  rw [hat]
  exact if_pos ⟨hst, hdue⟩

theorem Dev.magLinkTimeout_due {d : Dev} {m at_ : Nat} (hat : (d.mag m).presentAt = some at_) (hdue : at_ + 100000000 ≤ d.free)
    (hst : d.get .mag m fMAG_STAT_STATE = 2) : d.magLinkTimeout m = d.refuseMag m 1 := by
  unfold Dev.magLinkTimeout
  rw [hat]
  exact if_pos ⟨hst, hdue⟩

/-- The link trains with its speed and width, and the controller is awaited. -/
theorem Dev.magLinkUp_trains {d : Dev} {m : Fin 8} (hst : d.get .mag m.val fMAG_STAT_STATE = 2) (sp wd : Fin 8) :
    Dev.PortStep d (d.magLinkUp m.val sp.val wd.val) ∧ (d.magLinkUp m.val sp.val wd.val).get .mag m.val fMAG_STAT_STATE = 3 ∧
      (d.magLinkUp m.val sp.val wd.val).get .mag m.val fMAG_STAT_SPEED = sp.val ∧
      (d.magLinkUp m.val sp.val wd.val).get .mag m.val fMAG_STAT_WIDTH = wd.val := by
  rw [Dev.magLinkUp, if_pos hst]
  refine ⟨((Dev.PortStep.set _ _ _ _ _ _).trans (.set _ _ _ _ _ _)).trans (.magState _ _ _ _), Dev.magState_state _ m (by decide) 0, ?_, ?_⟩ <;>
    rw [Dev.magState_other _ m (by decide) (by decide) (by decide)]
  · rw [Dev.get_setMag_apart _ m (by decide) (by decide), Dev.get_setMag_own _ m (by decide)]
    exact Nat.mod_eq_of_lt (show sp.val < 16 by omega)
  · rw [Dev.get_setMag_own _ m (by decide)]
    exact Nat.mod_eq_of_lt wd.isLt

/-- The controller of a port without admin commands is ready: the commands of a mount are issued. -/
theorem Dev.magReady_issues {d : Dev} {m : Nat} (hst : d.get .mag m fMAG_STAT_STATE = 3) (hpairs : d.get .mag m fMAG_STAT_QPAIRS = 0)
    (hadmin : (d.mag m).admin = []) (mqes mpsmin : Nat) :
    d.magReady m mqes mpsmin = (d.setMag m { d.mag m with mqes := mqes, mpsmin := mpsmin, vwc := false }).mountAdmin m :=
  if_pos ⟨hst, hpairs, by rw [hadmin]; rfl⟩

theorem Dev.mountAdmin_mag (d : Dev) (m : Nat) : ∃ ops, ops.map AdminOp.purpose = [1, 2, 3, 4, 10, 6, 5] ∧
    (d.mountAdmin m).mag m = { d.mag m with admin := (d.mag m).admin ++ ops } := ⟨_, rfl, Dev.adminIssue_mag d m _⟩

theorem Dev.PortStep.adminIssue (d : Dev) (m : Nat) (ops : List AdminOp) : Dev.PortStep d (d.adminIssue m ops) := by
  obtain ⟨e, rings, rfl, h⟩ := d.adminIssue_rings m ops
  rw [h]
  exact .ofCore rfl rfl rfl rfl rfl

theorem Dev.magReadyTimeout_due {d : Dev} {m : Nat} (hst : d.get .mag m fMAG_STAT_STATE = 3) (hpairs : d.get .mag m fMAG_STAT_QPAIRS = 0)
    (hadmin : (d.mag m).admin = []) : d.magReadyTimeout m = d.refuseMag m 2 :=
  if_pos ⟨hst, hpairs, by rw [hadmin]; rfl⟩

/-- The registers of a refused port, with the port's commands still waiting. -/
def Dev.refusalSet (d : Dev) (m cause : Nat) : Dev := ((d.magState m 5 cause).refreshOutst m).statBit .mag m 2

/-- A refused magazine: STATE 5 with its cause, no volume, and the port's event asserts. -/
theorem Dev.refuseMag_refuses {d : Dev} {m : Fin 8} {cause : Nat} (hios : (d.mag m.val).ios = []) (hwait : (d.mag m.val).waiters = []) (hc : cause < 16) :
    ∃ e : Dev, d.refuseMag m.val cause = e.assertEvt (88 + m.val) ∧ Dev.PortStep d e ∧ (e.mag m.val).vol = none ∧
      e.get .mag m.val fMAG_STAT_STATE = 5 ∧ e.get .mag m.val fMAG_STAT_CAUSE = cause := by
  obtain ⟨e, x, r0, hrefuse, he, hvol, hnone⟩ : ∃ (e : Dev) (x : MagPort) (r0 : Word), d.refuseMag m.val cause =
      ((e.refusalSet m.val cause).finishWaiters m.val 1 0 r0).assertEvt (88 + m.val) ∧
      e = (d.setMag m.val { d.mag m.val with ios := [] }).setMag m.val x ∧ x.vol = none ∧ x.waiters = [] := by
    unfold Dev.refuseMag
    rw [Dev.clearIos_none hios]
    exact ⟨_, _, _, rfl, rfl, rfl, hwait⟩
  have hmag : (e.refusalSet m.val cause).mag m.val = x := by
    rw [he]
    exact Dev.setMag_mag _ _ _
  have hset : Dev.PortStep d (e.refusalSet m.val cause) := by
    rw [he]
    exact ((Dev.PortStep.setMag _ _ _).trans (.setMag _ _ _)).trans (((Dev.PortStep.magState _ _ _ _).trans (.refreshOutst _ _)).trans (.statBit _ _ _ _))
  rw [Dev.finishWaiters_none (by rw [hmag]; exact hnone), hmag] at hrefuse
  refine ⟨_, hrefuse, hset.trans (.setMag _ _ _), (congrArg MagPort.vol (Dev.setMag_mag _ _ _)).trans hvol, ?_, ?_⟩
  · refine (Dev.get_statBit_mag _ m (by decide) 2).trans ?_
    rw [Dev.get_refreshOutst _ m (by decide), Dev.magState_state _ m (by decide)]
  · refine (Dev.get_statBit_mag _ m (by decide) 2).trans ?_
    rw [Dev.get_refreshOutst _ m (by decide), Dev.magState_cause _ m _ hc]

/-! ## A magazine whose link is down (R281) -/

theorem Dev.portStreams_none {d : Dev} (h : d.core.recs = []) (m : Nat) : d.portStreams m = [] := by
  rw [Dev.portStreams, h]
  rfl

theorem Dev.get_of_regs {d e : Dev} (h : e.regs = d.regs) (k : PageKind) (i : Nat) (r : FieldRow) (n : Nat) : e.get k i r n = d.get k i r n := by
  simp only [Dev.get, Dev.reg, h]

section
variable {d : Dev} {m : Fin 8} (hios : (d.mag m.val).ios = []) (hadmin : (d.mag m.val).admin = []) (hwait : (d.mag m.val).waiters = [])
  (hswap : (d.mag m.val).swapCmd = none) (hrecs : d.core.recs = []) (hdecs : d.core.decs = [])
include hios hadmin hwait hswap hrecs hdecs

/-- A port on which nothing is under way has no command to finish and no chunk or read to give up: its own state goes, with its quota. -/
theorem Dev.dropPort_idle : ∃ g e : Dev, d.dropPort m.val = ((e.refreshOutst m.val).statBit .mag m.val 3).assertEvt (88 + m.val) ∧
    e.regs = ((g.magState m.val 6 0).set .mag m.val fMAG_STAT_QPAIRS 0).regs ∧ Dev.PortStep d g ∧
    Dev.PortStep ((g.magState m.val 6 0).set .mag m.val fMAG_STAT_QPAIRS 0) e ∧ e.core.recs = [] ∧ e.core.exchange = d.core.exchange ∧
    (e.mag m.val).pwren = false ∧ (e.mag m.val).vol = none := by
  unfold Dev.dropPort
  simp only [Dev.finishWaiters_none, Dev.clearIos_none, Dev.setMag_mag, Dev.setMag_setMag, hios, hadmin, hwait, hswap, List.foldl_nil, Dev.magState_core, Dev.dropQuota,
    Dev.setCullet_core_recs, Dev.setCullet_core_decs, Dev.set_core, Dev.setMag_core_recs, Dev.setMag_core_decs, hrecs, hdecs, List.filter_nil]
  exact ⟨_, _, rfl, rfl, .ofCore rfl rfl rfl rfl rfl, .ofCore rfl rfl rfl rfl rfl, rfl, rfl, congrArg MagPort.pwren (Dev.setMag_mag _ _ _),
    congrArg MagPort.vol (Dev.setMag_mag _ _ _)⟩

/-- The port is removed: STATE 6 without power, volume or queue pairs, and its event asserts. -/
theorem Dev.dropPort_drops : ∃ e : Dev, d.dropPort m.val = e.assertEvt (88 + m.val) ∧ Dev.PortStep d e ∧ e.core.recs = [] ∧
    e.core.exchange = d.core.exchange ∧ (e.mag m.val).pwren = false ∧ (e.mag m.val).vol = none ∧
    e.get .mag m.val fMAG_STAT_STATE = 6 ∧ e.get .mag m.val fMAG_STAT_QPAIRS = 0 := by
  obtain ⟨g, e, hdrop, hregs, hg, he, hnone, hexch, hpower, hvol⟩ := Dev.dropPort_idle hios hadmin hwait hswap hrecs hdecs
  have hcleared := (Dev.PortStep.magState g m.val 6 0).trans (.set _ .mag m.val fMAG_STAT_QPAIRS 0 0)
  have hstep := ((hg.trans hcleared).trans he).trans ((Dev.PortStep.refreshOutst e m.val).trans (.statBit _ .mag m.val 3))
  refine ⟨_, hdrop, hstep, hnone, hexch, hpower, hvol, ?_, ?_⟩ <;>
    rw [Dev.get_statBit_mag _ m (by decide), Dev.get_refreshOutst _ m (by decide), Dev.get_of_regs hregs]
  · rw [Dev.get_setMag_apart _ m (by decide) (by decide), Dev.magState_state _ m (by decide)]
  · exact Dev.get_setMag_own _ m (by decide) 0

end

/-- With no exchange running and no stream, nothing follows a removal. -/
theorem Dev.removePort_unused {d : Dev} {m : Nat} (hretry : (d.mag m).retrying = false) {e : Dev} (hdrop : d.dropPort m = e)
    (hrecs : e.core.recs = []) (hidle : e.core.exchange = none) : d.removePort m = e := by
  unfold Dev.removePort Dev.afterRemoval
  rw [hretry, hdrop, if_neg Bool.false_ne_true, hidle]
  exact if_pos (by rw [Dev.portLive, Dev.portStreams_none hrecs]; rfl)

/-! ## Every port in turn -/

/-- The ports one after another: what port `m` does, with what the other ports leave of it before and after. -/
theorem foldl_ports {f : Dev → Nat → Dev} {I : Dev → Prop} {R : Dev → Dev → Prop} (m : Fin 8) (hrefl : ∀ d, R d d)
    (htrans : ∀ a b c, R a b → R b c → R a c) (hI : ∀ d k, I d → I (f d k)) (hR : ∀ d k, I d → k < 8 → k ≠ m.val → R d (f d k)) {d : Dev} (hd : I d) :
    ∃ b, I b ∧ R d b ∧ R (f b m.val) ((List.range 8).foldl f d) := by
  have hrun : ∀ (l : List Nat), (∀ k ∈ l, k < 8 ∧ k ≠ m.val) → ∀ d, I d → I (l.foldl f d) ∧ R d (l.foldl f d) := by
    intro l
    induction l with
    | nil => exact fun _ d hd => ⟨hd, hrefl d⟩
    | cons k l ih =>
      intro hl d hd
      obtain ⟨hk, hne⟩ := hl k List.mem_cons_self
      obtain ⟨hi, hr⟩ := ih (fun j hj => hl j (List.mem_cons_of_mem _ hj)) (f d k) (hI d k hd)
      exact ⟨hi, htrans _ _ _ (hR d k hd hk hne) hr⟩
  obtain ⟨l₁, l₂, hl⟩ := List.append_of_mem (List.mem_range.2 m.isLt)
  have hnodup : (l₁ ++ m.val :: l₂).Nodup := hl ▸ List.nodup_range
  have hlt : ∀ k ∈ l₁ ++ m.val :: l₂, k < 8 := fun k hk => List.mem_range.1 (hl ▸ hk)
  obtain ⟨_, hright, hdisj⟩ := List.nodup_append.1 hnodup
  have h₁ : ∀ k ∈ l₁, k < 8 ∧ k ≠ m.val := fun k hk => ⟨hlt k (List.mem_append_left _ hk), hdisj k hk _ List.mem_cons_self⟩
  have h₂ : ∀ k ∈ l₂, k < 8 ∧ k ≠ m.val := fun k hk =>
    ⟨hlt k (List.mem_append_right _ (List.mem_cons_of_mem _ hk)), fun h => (List.nodup_cons.1 hright).1 (h ▸ hk)⟩
  rw [hl, List.foldl_append, List.foldl_cons]
  obtain ⟨hi, hr⟩ := hrun l₁ h₁ d hd
  exact ⟨_, hi, hr, (hrun l₂ h₂ _ (hI _ _ hi)).2⟩

/-- What the other ports leave of port `m`: its state, its page and its published pace. -/
structure Dev.KeepsPort (m : Nat) (d d' : Dev) : Prop where
  step : Dev.PortStep d d'
  mag : d'.mag m = d.mag m
  page : ∀ a, a / 4096 = 0x30 + m → d'.reg a = d.reg a
  pace : d'.get .marver1 0 fRC_PACE_MBPS m = d.get .marver1 0 fRC_PACE_MBPS m

theorem Dev.KeepsPort.refl (m : Nat) (d : Dev) : Dev.KeepsPort m d d := ⟨.refl d, rfl, fun _ _ => rfl, rfl⟩
theorem Dev.KeepsPort.trans {m : Nat} {a b c : Dev} (h : Dev.KeepsPort m a b) (g : Dev.KeepsPort m b c) : Dev.KeepsPort m a c :=
  ⟨h.step.trans g.step, g.mag.trans h.mag, fun k hk => (g.page k hk).trans (h.page k hk), g.pace.trans h.pace⟩

theorem Dev.KeepsPort.get {m : Nat} {d d' : Dev} (h : Dev.KeepsPort m d d') {q : FieldRow} (hq : q.off < 4096) : d'.get .mag m q = d.get .mag m q := by
  simp only [Dev.get]
  refine congrArg q.ext (h.page _ ?_)
  rw [fieldAddr_mag]
  omega

/-! ## The SMART poll (R273) -/

/-- One port's part of the poll: a mounted magazine's log and temperature are asked for. -/
def Dev.smartPort (d : Dev) (m : Nat) : Dev :=
  if d.get .mag m fMAG_STAT_STATE = 4 then d.adminIssue m [⟨2, 2, 9, none, 0, 512⟩, ⟨10, 4, 10, none, 0, 0⟩] else d

theorem Dev.smartPoll_eq (d : Dev) : d.smartPoll = (List.range 8).foldl Dev.smartPort d := rfl

theorem Dev.smartPort_step (d : Dev) (m : Nat) : Dev.PortStep d (d.smartPort m) := ite_both (P := Dev.PortStep d) (.adminIssue _ _ _) (.refl d)

theorem Dev.smartPort_other (d : Dev) {m k : Nat} (h : k ≠ m) : Dev.KeepsPort m d (d.smartPort k) := by
  refine ite_both (P := Dev.KeepsPort m d) ?_ (.refl m d)
  obtain ⟨e, rings, rfl, hissue⟩ := d.adminIssue_rings k [⟨2, 2, 9, none, 0, 512⟩, ⟨10, 4, 10, none, 0, 0⟩]
  have hstep := Dev.PortStep.adminIssue d k [⟨2, 2, 9, none, 0, 512⟩, ⟨10, 4, 10, none, 0, 0⟩]
  rw [hissue] at hstep ⊢
  exact ⟨hstep, Dev.setMag_mag_other d h.symm _, fun _ _ => rfl, rfl⟩

/-- Every port's admin queue after a poll. -/
theorem Dev.smartPoll_admin (d : Dev) (m : Fin 8) : Dev.PortStep d d.smartPoll ∧ (d.smartPoll.mag m.val).admin = (d.mag m.val).admin ++
    if d.get .mag m.val fMAG_STAT_STATE = 4 then [⟨2, 2, 9, none, 0, 512⟩, ⟨10, 4, 10, none, 0, 0⟩] else [] := by
  obtain ⟨b, -, hbefore, hafter⟩ := foldl_ports (f := Dev.smartPort) (I := fun _ => True) m (Dev.KeepsPort.refl m.val) (fun _ _ _ => .trans)
    (fun _ _ _ => trivial) (fun d k _ _ h => d.smartPort_other h) (d := d) trivial
  rw [Dev.smartPoll_eq]
  refine ⟨(hbefore.step.trans (b.smartPort_step m.val)).trans hafter.step, ?_⟩
  rw [hafter.mag, ← hbefore.get (by decide), ← hbefore.mag]
  unfold Dev.smartPort
  split
  · rw [Dev.adminIssue_mag]
  · exact (List.append_nil _).symm

end Sys2Proof.Machine
end

section
namespace Sys2Proof.Machine

/-! ## The published pace (R278) of ports without streams -/

/-- No stream records, reads, is hosted or is served. -/
structure Dev.Unused (d : Dev) : Prop where
  recs : d.core.recs = []
  decs : d.core.decs = []
  hosted : d.core.hosted = []
  served : d.core.served = []

/-- `d'` differs from `d` in what the publication of port `k`'s pace writes: the port's own state and page, its rates on Marver's page, Cullet. -/
structure Dev.Publishes (k : Nat) (d d' : Dev) : Prop where
  step : Dev.PortStep d d'
  unused : d.Unused → d'.Unused
  mag : ∀ m, m ≠ k → d'.mag m = d.mag m
  regs : ∀ a, a / 4096 ≠ 0x30 + k → ¬ (0x1D040 + 16 * k ≤ a ∧ a < 0x1D050 + 16 * k) → d'.reg a = d.reg a

theorem fieldAddr_rate (k : Nat) {r : FieldRow} (hs : r.stride = 16) : fieldAddr .marver1 0 r k = 0x1D000 + r.off + 16 * k := by
  simp [fieldAddr, PageKind.page, hs]

section
variable {k : Nat}

theorem Dev.Publishes.refl (d : Dev) : Dev.Publishes k d d := ⟨.refl d, id, fun _ _ => rfl, fun _ _ _ => rfl⟩
theorem Dev.Publishes.trans {a b c : Dev} (h : Dev.Publishes k a b) (g : Dev.Publishes k b c) : Dev.Publishes k a c :=
  ⟨h.step.trans g.step, fun hu => g.unused (h.unused hu), fun m hm => (g.mag m hm).trans (h.mag m hm),
    fun a h1 h2 => (g.regs a h1 h2).trans (h.regs a h1 h2)⟩
theorem Dev.Publishes.ite {p : Prop} [Decidable p] {d a b : Dev} (ha : Dev.Publishes k d a) (hb : Dev.Publishes k d b) :
    Dev.Publishes k d (if p then a else b) := ite_both ha hb
theorem Dev.Publishes.setMag (d : Dev) (x : MagPort) : Dev.Publishes k d (d.setMag k x) :=
  ⟨.setMag d k x, fun h => ⟨h.recs, h.decs, h.hosted, h.served⟩, fun _ hm => Dev.setMag_mag_other d hm x, fun _ _ _ => rfl⟩
theorem Dev.Publishes.setCullet (d : Dev) (c : Cullet) : Dev.Publishes k d (d.setCullet c) :=
  ⟨.ofCore rfl rfl rfl rfl rfl, fun h => ⟨h.recs, h.decs, h.hosted, h.served⟩, fun _ _ => rfl, fun _ _ _ => rfl⟩

/-- A field of the port's own page. -/
theorem Dev.Publishes.setOwn (d : Dev) {r : FieldRow} (hr : r.off < 4096) (v : Nat) : Dev.Publishes k d (d.set .mag k r v) := by
  refine ⟨.set d _ _ _ _ _, fun h => ⟨h.recs, h.decs, h.hosted, h.served⟩, fun _ _ => rfl, fun a hpage _ => Dev.reg_setReg_other d ?_ _⟩
  rintro rfl
  rw [fieldAddr_mag] at hpage
  omega

/-- One of the port's rates. -/
theorem Dev.Publishes.setRate (d : Dev) {r : FieldRow} (hs : r.stride = 16) (hlo : 0x40 ≤ r.off) (hhi : r.off < 0x50) (v : Nat) :
    Dev.Publishes k d (d.set .marver1 0 r v k) := by
  refine ⟨.set d _ _ _ _ _, fun h => ⟨h.recs, h.decs, h.hosted, h.served⟩, fun _ _ => rfl, fun a _ hrate => Dev.reg_setReg_other d ?_ _⟩
  rintro rfl
  rw [fieldAddr_rate k hs] at hrate
  omega

/-- Another port keeps its state, its page and its pace. -/
theorem Dev.Publishes.keeps {d d' : Dev} (h : Dev.Publishes k d d') {m : Nat} (hk : k < 8) (hm : m < 8) (hne : k ≠ m) : Dev.KeepsPort m d d' := by
  refine ⟨h.step, h.mag m hne.symm, fun a ha => h.regs a (by omega) (by omega), ?_⟩
  have haddr : fieldAddr .marver1 0 fRC_PACE_MBPS m = 0x1D040 + 16 * m := fieldAddr_rate m rfl
  simp only [Dev.get]
  exact congrArg _ (h.regs _ (by omega) (by omega))

end

/-! ### What follows a pace that is set -/

/-- Streams and shortness follow the pace of a port. -/
def Dev.paceFollowed (d : Dev) (k : Nat) : Dev := (d.recomputeDs k).refreshShort k

/-- A port's pace is set, on Marver's page and its own. -/
def Dev.paceSet (d : Dev) (k r own : Nat) : Dev := (d.set .marver1 0 fRC_PACE_MBPS r k).set .mag k fMAG_PACE_MBPS own

/-- A port without streams is not short. -/
theorem Dev.paceFollowed_unused {d : Dev} (hu : d.Unused) (k : Nat) :
    d.paceFollowed k = d ∨ d.paceFollowed k = (d.set .marver1 0 fRC_PORT_SHORT 0 k).setMag k { d.mag k with shortAt := none } := by
  have hds : d.recomputeDs k = d := by
    unfold Dev.recomputeDs
    rw [Dev.portStreams_none hu.recs]
    rfl
  rw [Dev.paceFollowed, hds]
  unfold Dev.refreshShort
  rw [Dev.portStreams_none hu.recs]
  dsimp only
  split
  · exact .inl rfl
  · exact .inr rfl

theorem Dev.paceFollowed_publishes {d : Dev} (hu : d.Unused) (k : Nat) : Dev.Publishes k d (d.paceFollowed k) := by
  rcases d.paceFollowed_unused hu k with h | h <;> rw [h]
  · exact .refl d
  · exact (Dev.Publishes.setRate d (r := fRC_PORT_SHORT) rfl (by decide) (by decide) 0).trans (.setMag _ _)

theorem Dev.paceSet_publishes (d : Dev) (k r own : Nat) : Dev.Publishes k d (d.paceSet k r own) :=
  (Dev.Publishes.setRate d (r := fRC_PACE_MBPS) rfl (by decide) (by decide) r).trans (.setOwn _ (by decide) own)

theorem paceField_ok : ∀ m : Fin 8, fieldOk .marver1 0 fRC_PACE_MBPS m.val = true := by decide

/-- The pace reads as it was set, whatever of the port follows it. -/
theorem Dev.paceSet_pace {d : Dev} (hu : d.Unused) (m : Fin 8) (r own : Nat) :
    ((d.paceSet m.val r own).paceFollowed m.val).get .marver1 0 fRC_PACE_MBPS m.val = r % 2 ^ fRC_PACE_MBPS.width := by
  have hown : (d.paceSet m.val r own).get .marver1 0 fRC_PACE_MBPS m.val = r % 2 ^ fRC_PACE_MBPS.width := by
    refine (Dev.get_set_reg _ _ _ _ _ _ _ _ _ _ ?_).trans (d.get_set_same _ _ _ r _ (paceField_ok m))
    rw [fieldAddr_rate m.val rfl, fieldAddr_mag]
    simp only [fRC_PACE_MBPS, fMAG_PACE_MBPS]
    omega
  rcases (d.paceSet m.val r own).paceFollowed_unused ((d.paceSet_publishes m.val r own).unused hu) m.val with h | h <;> rw [h]
  · exact hown
  · refine (Dev.get_set_reg _ _ _ _ _ _ _ _ _ _ ?_).trans hown
    rw [fieldAddr_rate m.val rfl, fieldAddr_rate m.val rfl]
    simp only [fRC_PACE_MBPS, fRC_PORT_SHORT]
    omega

/-! ### The publication of one port -/

/-- The counts that come before the pace: milliseconds spent short, and READ_MBPS. -/
def Dev.paceCounted (d : Dev) (k : Nat) : Dev :=
  (if d.get .marver1 0 fRC_PORT_SHORT k = 1 then d.bump .marver1 0 fRC_SHORTCNT_MS 1 k else d).set .mag k fMAG_READ_MBPS (d.readSum k 4096)

/-- The port has its in-flight allowance. -/
def Dev.paceAllowed (d : Dev) (k : Nat) : Dev :=
  if d.core.cullet.quota (magTag k) = 0 then (d.grantQuota (magTag k) (d.get .cullet0 0 fCU_INFLIGHT_CHUNKS)).getD d else d

/-- The port has its allowance, and a ROLE 0 port has judged its window. -/
def Dev.paceJudged (d : Dev) (k : Nat) : Dev :=
  if (d.paceAllowed k).role k = 0 then (d.paceAllowed k).paceWindow k (d.baseOf k) else d.paceAllowed k

/-- The pace of a mounted port that drains: 0 but for ROLE 0, and there the computed pace or the measured one. -/
def Dev.paceOf (d : Dev) (k rd role : Nat) : Nat :=
  if role ≠ 0 then 0 else let p := d.paceWith k rd
    match (d.mag k).measured with
    | some q => min p q
    | none => p

theorem Dev.publishPort_unmounted {d : Dev} {k : Nat} (h4 : (d.paceCounted k).get .mag k fMAG_STAT_STATE ≠ 4) :
    d.publishPort k = ((d.paceCounted k).paceSet k 0 0).paceFollowed k := if_pos h4

theorem Dev.publishPort_stopped {d : Dev} {k : Nat} (h4 : (d.paceCounted k).get .mag k fMAG_STAT_STATE = 4)
    (hstop : ((d.paceCounted k).mag k).stopped = true) : d.publishPort k = d.paceCounted k := (if_neg (not_not_intro h4)).trans (if_pos hstop)

theorem Dev.publishPort_drains {d : Dev} {k : Nat} (h4 : (d.paceCounted k).get .mag k fMAG_STAT_STATE = 4)
    (hstop : ((d.paceCounted k).mag k).stopped = false) : ∃ own, d.publishPort k =
      (((d.paceCounted k).paceJudged k).paceSet k
        (((d.paceCounted k).paceJudged k).paceOf k (d.readSum k 4096) (((d.paceCounted k).paceAllowed k).role k)) own).paceFollowed k := by
  unfold Dev.paceCounted at h4 hstop
  unfold Dev.publishPort
  dsimp only
  rw [if_neg (not_not_intro h4), if_neg (by rw [hstop]; exact Bool.false_ne_true)]
  unfold Dev.paceJudged Dev.paceOf Dev.paceSet Dev.paceFollowed Dev.paceAllowed Dev.paceCounted
  exact ⟨_, rfl⟩

/-! ### What each part of a publication leaves -/

section
variable (d : Dev) (k : Nat)

theorem Dev.paceCounted_publishes : Dev.Publishes k d (d.paceCounted k) :=
  (Dev.Publishes.ite (.setRate d rfl (by decide) (by decide) _) (.refl d)).trans (.setOwn _ (by decide) _)

theorem Dev.paceCounted_mag (m : Nat) : (d.paceCounted k).mag m = d.mag m := ite_both (P := fun e : Dev => e.mag m = d.mag m) rfl rfl

/-- The counts are not among the port's settings and states. -/
theorem Dev.paceCounted_get {q : FieldRow} (hlt : q.off < 4096) (hne : q.off ≠ fMAG_READ_MBPS.off) (hk : k < 8) :
    (d.paceCounted k).get .mag k q = d.get .mag k q := by
  refine (Dev.get_set_offset _ .mag k hne _).trans (ite_both (P := fun e : Dev => e.get .mag k q = d.get .mag k q) ?_ rfl)
  refine Dev.get_set_reg _ _ _ _ _ _ _ _ _ _ ?_
  rw [fieldAddr_mag, fieldAddr_rate k rfl]
  simp only [fRC_SHORTCNT_MS]
  omega

/-- The allowance is granted in Cullet alone. -/
theorem Dev.paceAllowed_cullet : ∃ c, d.paceAllowed k = d.setCullet c := by
  unfold Dev.paceAllowed Dev.grantQuota
  split
  · split
    · exact ⟨_, rfl⟩
    · exact ⟨d.core.cullet, rfl⟩
  · exact ⟨d.core.cullet, rfl⟩

theorem Dev.paceAllowed_publishes : Dev.Publishes k d (d.paceAllowed k) := by
  obtain ⟨c, h⟩ := d.paceAllowed_cullet k
  rw [h]
  exact .setCullet d c

theorem Dev.paceAllowed_mag : (d.paceAllowed k).mag k = d.mag k := by
  obtain ⟨c, h⟩ := d.paceAllowed_cullet k
  rw [h]
  rfl

theorem Dev.paceAllowed_get (p : PageKind) (i n : Nat) (r : FieldRow) : (d.paceAllowed k).get p i r n = d.get p i r n := by
  obtain ⟨c, h⟩ := d.paceAllowed_cullet k
  rw [h]
  rfl

/-- A window is judged in the port's own state; without streams no rate is measured in it. -/
theorem Dev.paceWindow_mag (base : Nat) : ∃ y, d.paceWindow k base = d.setMag k y ∧
    (d.Unused → (d.mag k).measured = none → (d.mag k).blocked = 0 → y.measured = none) := by
  unfold Dev.paceWindow
  dsimp only
  split
  · exact ⟨_, rfl, fun _ hm _ => hm⟩
  · refine ⟨_, rfl, fun hu hm hb => ?_⟩
    have hwait : d.waitsAllowance k = false := by
      rw [Dev.waitsAllowance, Dev.portStreams_none hu.recs]
      rfl
    simp [hwait, hm, hb]

theorem Dev.paceJudged_publishes : Dev.Publishes k d (d.paceJudged k) := by
  obtain ⟨y, hy, -⟩ := (d.paceAllowed k).paceWindow_mag k (d.baseOf k)
  refine (d.paceAllowed_publishes k).trans (ite_both (P := Dev.Publishes k (d.paceAllowed k)) ?_ (.refl _))
  rw [hy]
  exact .setMag _ y

theorem Dev.paceJudged_get (p : PageKind) (i n : Nat) (r : FieldRow) : (d.paceJudged k).get p i r n = d.get p i r n := by
  obtain ⟨y, hy, -⟩ := (d.paceAllowed k).paceWindow_mag k (d.baseOf k)
  refine (ite_both (P := fun e : Dev => e.get p i r n = (d.paceAllowed k).get p i r n) ?_ rfl).trans (d.paceAllowed_get k p i n r)
  rw [hy]
  rfl

theorem Dev.paceJudged_measured (hu : d.Unused) (hm : (d.mag k).measured = none) (hb : (d.mag k).blocked = 0) : ((d.paceJudged k).mag k).measured = none := by
  have hmag := d.paceAllowed_mag k
  obtain ⟨y, hy, hnone⟩ := (d.paceAllowed k).paceWindow_mag k (d.baseOf k)
  refine ite_both (P := fun e : Dev => (e.mag k).measured = none) ?_ (by rw [hmag, hm])
  rw [hy, Dev.setMag_mag]
  exact hnone ((d.paceAllowed_publishes k).unused hu) (by rw [hmag, hm]) (by rw [hmag, hb])

theorem Dev.readSum_unused {d : Dev} (hu : d.Unused) (m s : Nat) : d.readSum m s = 0 := by
  rw [Dev.readSum, hu.decs, hu.served]
  rfl

/-- Without reads the pace is the base rate. -/
theorem Dev.paceWith_none : d.paceWith k 0 = d.baseOf k := by simp [Dev.paceWith]

theorem Dev.publishPort_publishes {d : Dev} (hu : d.Unused) : Dev.Publishes k d (d.publishPort k) := by
  have hc := d.paceCounted_publishes k
  have hset : ∀ {e : Dev} (r own : Nat), Dev.Publishes k d e → Dev.Publishes k d ((e.paceSet k r own).paceFollowed k) := by
    intro e r own he
    have hs := he.trans (e.paceSet_publishes k r own)
    exact hs.trans (Dev.paceFollowed_publishes (hs.unused hu) k)
  by_cases h4 : (d.paceCounted k).get .mag k fMAG_STAT_STATE = 4
  · cases hstop : ((d.paceCounted k).mag k).stopped with
    | true => rwa [Dev.publishPort_stopped h4 hstop]
    | false =>
      obtain ⟨own, h⟩ := Dev.publishPort_drains h4 hstop
      rw [h]
      exact hset _ _ (hc.trans (Dev.paceJudged_publishes _ k))
  · rw [Dev.publishPort_unmounted h4]
    exact hset _ _ hc

end

/-- The published pace of a port without streams or reads: 0 unless it is mounted and of ROLE 0, and there its base rate while none was measured. -/
def Dev.PaceRule (d : Dev) (m r : Nat) : Prop :=
  (d.get .mag m fMAG_STAT_STATE ≠ 4 → r = 0) ∧ (d.get .mag m fMAG_STAT_STATE = 4 → (d.mag m).stopped = false → d.role m ≠ 0 → r = 0) ∧
    (d.get .mag m fMAG_STAT_STATE = 4 → (d.mag m).stopped = false → d.role m = 0 → (d.mag m).measured = none → (d.mag m).blocked = 0 →
      r = d.baseOf m % 2 ^ fRC_PACE_MBPS.width)

/-- The rule speaks of the port's state and page alone. -/
theorem Dev.PaceRule.of_same {d e : Dev} {m r : Nat} (hmag : e.mag m = d.mag m)
    (hget : ∀ q : FieldRow, q.off < 4096 → q.off ≠ fMAG_READ_MBPS.off → e.get .mag m q = d.get .mag m q) (h : e.PaceRule m r) : d.PaceRule m r := by
  unfold Dev.PaceRule Dev.role Dev.baseOf at h ⊢
  rwa [hmag, hget fMAG_STAT_STATE (by decide) (by decide), hget fMAG_CFG_ROLE (by decide) (by decide), hget fMAG_STAT_WIDTH (by decide) (by decide),
    hget fMAG_STAT_SPEED (by decide) (by decide), hget fMAG_CFG_PACE_10M (by decide) (by decide)] at h

theorem Dev.publishPort_pace {d : Dev} (hu : d.Unused) (m : Fin 8) :
    (d.paceCounted m.val).PaceRule m.val ((d.publishPort m.val).get .marver1 0 fRC_PACE_MBPS m.val) := by
  have hc := (d.paceCounted_publishes m.val).unused hu
  by_cases h4 : (d.paceCounted m.val).get .mag m.val fMAG_STAT_STATE = 4
  · refine ⟨fun h => absurd h4 h, fun _ hstop hrole => ?_, fun _ hstop hrole hm hb => ?_⟩ <;>
      obtain ⟨own, h⟩ := Dev.publishPort_drains h4 hstop <;>
      rw [h, Dev.paceSet_pace ((Dev.paceJudged_publishes _ m.val).unused hc), Dev.role, Dev.paceAllowed_get, ← Dev.role]
    · rw [Dev.paceOf, if_pos hrole]
      rfl
    · have hbase : ((d.paceCounted m.val).paceJudged m.val).baseOf m.val = (d.paceCounted m.val).baseOf m.val := by
        simp only [Dev.baseOf, Dev.paceJudged_get]
      rw [Dev.paceOf, if_neg (not_not_intro hrole), Dev.paceJudged_measured _ m.val hc hm hb, Dev.readSum_unused hu, ← hbase, Dev.paceWith_none]
  · refine ⟨fun _ => ?_, fun h => absurd h h4, fun h => absurd h h4⟩
    rw [Dev.publishPort_unmounted h4, Dev.paceSet_pace hc]
    rfl

/-! ### Every port -/

/-- One port's part of the publication: its pace, then the writes and reads that it lets go. -/
def Dev.paceVisit (d : Dev) (k : Nat) : Dev := ((d.publishPort k).issuePort k).pumpReads k

theorem Dev.pacePublish_eq (d : Dev) : d.pacePublish = (List.range 8).foldl Dev.paceVisit d := rfl

/-- Without streams there is nothing to issue. -/
theorem Dev.issuePort_unused {d : Dev} (hu : d.Unused) (k : Nat) : d.issuePort k = d.refreshOutst k := by
  unfold Dev.issuePort
  rw [hu.recs]
  dsimp only [List.filter_nil, List.foldl_nil]
  rw [hu.hosted]
  rfl

theorem Dev.pumpReads_none {d : Dev} (h : d.core.decs = []) (k : Nat) : d.pumpReads k = d := by
  unfold Dev.pumpReads
  rw [h]
  rfl

section
variable {d : Dev} (hu : d.Unused)
include hu

theorem Dev.paceVisit_unused (k : Nat) : d.paceVisit k = (d.publishPort k).refreshOutst k := by
  have hu' := (Dev.publishPort_publishes k hu).unused hu
  rw [Dev.paceVisit, Dev.issuePort_unused hu' k]
  exact Dev.pumpReads_none (d := (d.publishPort k).refreshOutst k) hu'.decs k

theorem Dev.paceVisit_publishes (k : Nat) : Dev.Publishes k d (d.paceVisit k) := by
  rw [Dev.paceVisit_unused hu]
  exact (Dev.publishPort_publishes k hu).trans ((Dev.Publishes.setOwn _ (by decide) _).trans (.setOwn _ (by decide) _))

theorem Dev.paceVisit_pace (m : Fin 8) : (d.paceCounted m.val).PaceRule m.val ((d.paceVisit m.val).get .marver1 0 fRC_PACE_MBPS m.val) := by
  have hreg : ∀ (e : Dev) (r : FieldRow) (v : Nat), r.off = 0x58 → (e.set .mag m.val r v).get .marver1 0 fRC_PACE_MBPS m.val = e.get .marver1 0 fRC_PACE_MBPS m.val := by
    intro e r v hr
    refine Dev.get_set_reg _ _ _ _ _ _ _ _ _ _ ?_
    rw [fieldAddr_rate m.val rfl, fieldAddr_mag, hr]
    simp only [fRC_PACE_MBPS]
    omega
  have houtst : (d.paceVisit m.val).get .marver1 0 fRC_PACE_MBPS m.val = (d.publishPort m.val).get .marver1 0 fRC_PACE_MBPS m.val := by
    rw [Dev.paceVisit_unused hu]
    exact (hreg _ fMAG_OUTST_READS _ rfl).trans (hreg _ fMAG_OUTST_WRITES _ rfl)
  rw [houtst]
  exact Dev.publishPort_pace hu m

/-- Each port's pace after a publication follows the rule of the port as it stood before. -/
theorem Dev.pacePublish_pace (m : Fin 8) : Dev.PortStep d d.pacePublish ∧ d.PaceRule m.val (d.pacePublish.get .marver1 0 fRC_PACE_MBPS m.val) := by
  obtain ⟨b, hb, hbefore, hafter⟩ := foldl_ports (f := Dev.paceVisit) (I := Dev.Unused) m (Dev.KeepsPort.refl m.val) (fun _ _ _ => .trans)
    (fun d k h => (Dev.paceVisit_publishes h k).unused h) (fun d k h hk hne => (Dev.paceVisit_publishes h k).keeps hk m.isLt hne) hu
  rw [Dev.pacePublish_eq]
  refine ⟨(hbefore.step.trans (Dev.paceVisit_publishes hb m.val).step).trans hafter.step, ?_⟩
  rw [hafter.pace]
  refine .of_same ((b.paceCounted_mag m.val m.val).trans hbefore.mag) (fun q hlt hne => ?_) (Dev.paceVisit_pace hb m)
  exact (b.paceCounted_get m.val hlt hne m.isLt).trans (hbefore.get hlt)

end

end Sys2Proof.Machine
end

section
namespace Sys2Proof.Machine

/-! ## Magazine ports: presence, mounting, link down, polls, pace and shortness (R269 to R273, R278, R281, R191) -/

/-- A port that has stayed short for SHORT_MS and does not fit: the first stream to close, and then the others in order until it fits. -/
theorem Dev.portShortOver_closes {d : Dev} {m at_ k : Nat} {ks : List Nat} (hat : (d.mag m).shortAt = some at_)
    (hshort : d.get .marver1 0 fRC_PORT_SHORT m = 1) (hstop : (d.mag m).stopped = false) (hms : d.get .marver0 0 fRC_CFG2_SHORT_MS ≠ 0)
    (hdue : at_ + d.get .marver0 0 fRC_CFG2_SHORT_MS * 1000000 ≤ d.free)
    (horder : d.closeOrder ((d.portLive m).filter fun i => decide ((d.slot i).state ≠ .draining)) = k :: ks) (hfits : d.portFits m = false)
    (hrun : (d.slot k).state = .running) (hpend : (d.slot k).closePend = none) :
    d.portShortOver m = Dev.closeShort m ks (d.setSlot k { d.slot k with closePend := some 3 }) := by
  have hlater : d.closeLater k 3 = d.setSlot k { d.slot k with closePend := some 3 } := by
    unfold Dev.closeLater
    dsimp only
    rw [hrun, hpend]
    rfl
  unfold Dev.portShortOver
  rw [hat]
  dsimp only
  rw [if_pos ⟨hshort, by rw [hstop]; rfl, hms, hdue⟩, horder, Dev.closeShort, hfits, hlater]
  exact if_neg Bool.false_ne_true

/-- A magazine whose link goes down, with nothing under way on its port: STATE 6 without power, volume or queue pairs, and its event asserts. -/
theorem Dev.removePort_told {d : Dev} {m : Fin 8} (hios : (d.mag m.val).ios = []) (hadmin : (d.mag m.val).admin = []) (hwait : (d.mag m.val).waiters = [])
    (hswap : (d.mag m.val).swapCmd = none) (hretry : (d.mag m.val).retrying = false) (hidle : d.core.exchange = none) (hrecs : d.core.recs = [])
    (hdecs : d.core.decs = []) : ∃ e : Dev, (d.assertEvt (88 + m.val)).removePort m.val = e.assertEvt (88 + m.val) ∧
      Dev.PortStep d e ∧ (e.mag m.val).pwren = false ∧ (e.mag m.val).vol = none ∧
      e.get .mag m.val fMAG_STAT_STATE = 6 ∧ e.get .mag m.val fMAG_STAT_QPAIRS = 0 := by
  have htold : Dev.PortStep d (d.assertEvt (88 + m.val)) := .assertEvt d (by omega)
  obtain ⟨_, _, _, hcore⟩ := (Dev.assertEvt_signals d (88 + m.val)).core
  have hmag := Dev.assertEvt_mag d (88 + m.val) m.val
  generalize d.assertEvt (88 + m.val) = g at htold hcore hmag ⊢
  obtain ⟨e, hdrop, hstep, hnone, hexch, hpower, hvol, hstate, hpairs⟩ := Dev.dropPort_drops (d := g) (m := m) (by rw [hmag, hios]) (by rw [hmag, hadmin])
    (by rw [hmag, hwait]) (by rw [hmag, hswap]) (by rw [hcore]; exact hrecs) (by rw [hcore]; exact hdecs)
  obtain ⟨_, _, _, hcore'⟩ := (Dev.assertEvt_signals e (88 + m.val)).core
  refine ⟨e, Dev.removePort_unused (by rw [hmag, hretry]) hdrop (by rw [hcore']; exact hnone) ?_, htold.trans hstep, hpower, hvol, hstate, hpairs⟩
  rw [hcore']
  show e.core.exchange = none
  rw [hexch, hcore]
  exact hidle

/-- A refusal tells its cause in a port's registers and by its event. -/
theorem answers_refused {i : Instr} {s : State} {f : Dev → Dev} {m : Fin 8} {cause : Nat} (he : exec i s = s.run f)
    (hf : f s.begin = s.begin.refuseMag m.val cause) (hcalm : s.calm = true) (hent : s.core.lehr.entering = [])
    (hios : (s.begin.mag m.val).ios = []) (hwait : (s.begin.mag m.val).waiters = []) (hc : cause < 16) :
    Answers i s fun t => t.begin.get .mag m.val fMAG_STAT_STATE = 5 ∧ t.begin.get .mag m.val fMAG_STAT_CAUSE = cause ∧
      (t.begin.mag m.val).vol = none ∧ (t.begin.evt (88 + m.val)).level = true := by
  obtain ⟨e, hrefuse, hstep, hvol, hstate, hcause⟩ := Dev.refuseMag_refuses hios hwait hc
  have hent' := hstep.still hent
  refine answers_portStep he (hf.trans hrefuse) hcalm hent (hstep.trans (.assertEvt e (by omega))) fun hget => ⟨?_, ?_, ?_, Dev.assertEvt_level _ _⟩
  · rw [hget, e.get_assertEvt_mag m (by decide) (by omega) hent', hstate]
  · rw [hget, e.get_assertEvt_mag m (by decide) (by omega) hent', hcause]
  · rw [State.commit_mag, Dev.assertEvt_mag, hvol]

/-- Settles O46, each command by the rule of its step; the ports that a poll or a publication visits before and after leave a port as it stands. -/
theorem magazinesComeGoAndPace : Obligations.MagazinesComeGoAndPace := by
  intro s m sp wd mqes mps hcalm hent d x st bare told refused seen
  refine ⟨fun hp => ⟨fun hauto => ?_, fun hauto hidle hbare => ?_⟩, fun hp hst => ?_, fun at_ hat hdue => ⟨fun hst => ?_, fun hst hbare => ?_⟩, fun hst => ?_,
    fun hst hpairs hadmin => ⟨?_, fun hbare => ?_⟩, fun h0 h6 hbare hretry hidle hrecs hdecs => ?_, ?_, ?_, fun hrecs hdecs hhosted hserved => ?_,
    fun at_ k ks hat hshort hstop hms hdue horder hfits hrun hpend hcalm' => ?_⟩
  · refine answers_portStep (run_magPresenceChange m true s) (Dev.presence_waits m hent hp hauto) hcalm hent
      ((d.presenceTold_step m true).trans (.setMag _ _ _)) fun hget => ⟨⟨?_, Dev.assertEvt_level _ _⟩, ?_⟩
    · exact (hget _ _ _ _).trans (Dev.presenceTold_present m true hent)
    · rw [State.commit_mag, Dev.setMag_mag]
  · obtain ⟨hios, -, -, -⟩ := hbare
    obtain ⟨hstep, hevts, hstate, hpresent, hpower, hreset⟩ := Dev.mountStart_starts (d := d.presenceTold m.val true) (m := m) (by rw [d.presenceTold_mag]; exact hios)
    refine answers_portStep (run_magPresenceChange m true s) (Dev.presence_mounts m hent hp hauto hidle) hcalm hent
      ((d.presenceTold_step m true).trans hstep) fun hget => ⟨⟨?_, ?_⟩, (hget _ _ _ _).trans hstate, hpower, hreset⟩
    · exact (hget _ _ _ _).trans (hpresent.trans (Dev.presenceTold_present m true hent))
    · show (((d.presenceTold m.val true).mountStart m.val).evt (96 + m.val)).level = true
      rw [Dev.evt, hevts, ← Dev.evt]
      exact Dev.assertEvt_level _ _
  · exact answers_portStep (run_magPresenceChange m false s) (Dev.presence_leaves m hent hp hst) hcalm hent (d.presenceTold_step m false)
      fun hget => ⟨(hget _ _ _ _).trans (Dev.presenceTold_present m false hent), Dev.assertEvt_level _ _⟩
  · refine answers_portStep (run_magPerstRelease m s) (Dev.perstRelease_due hat hdue hst) hcalm hent ((Dev.PortStep.setMag _ _ _).trans (.magState _ _ _ _))
      fun hget => ⟨?_, (hget _ _ _ _).trans (Dev.magState_state _ m (by decide) 0)⟩
    exact congrArg MagPort.perstN (Dev.setMag_mag _ _ _)
  · obtain ⟨hios, -, hwait, -⟩ := hbare
    exact answers_refused (run_magLinkTimeout m s) (Dev.magLinkTimeout_due hat hdue hst) hcalm hent hios hwait (by decide)
  · obtain ⟨hstep, hstate, hspeed, hwidth⟩ := Dev.magLinkUp_trains hst sp wd
    exact answers_portStep (run_magLinkUp m sp wd s) rfl hcalm hent hstep
      fun hget => ⟨(hget _ _ _ _).trans hstate, (hget _ _ _ _).trans hspeed, (hget _ _ _ _).trans hwidth⟩
  · have hissue := Dev.magReady_issues hst hpairs hadmin mqes.toNat mps.toNat
    refine answers_portStep (run_magReady m mqes mps s) hissue hcalm hent ((Dev.PortStep.setMag _ _ _).trans (.adminIssue _ _ _)) fun _ => ?_
    obtain ⟨ops, hops, hmag⟩ := Dev.mountAdmin_mag (d.setMag m.val { x with mqes := mqes.toNat, mpsmin := mps.toNat, vwc := false }) m.val
    dsimp only
    rw [State.commit_mag, hmag, Dev.setMag_mag]
    exact ⟨rfl, rfl, by rw [hadmin]; exact hops⟩
  · obtain ⟨hios, -, hwait, -⟩ := hbare
    exact answers_refused (run_magReadyTimeout m s) (Dev.magReadyTimeout_due hst hpairs hadmin) hcalm hent hios hwait (by decide)
  · obtain ⟨hios, hadmin, hwait, hswap⟩ := hbare
    obtain ⟨e, hremove, hstep, hpower, hvol, hstate, hpairs⟩ := Dev.removePort_told hios hadmin hwait hswap hretry hidle hrecs hdecs
    have hent' := hstep.still hent
    refine answers_portStep (run_magLinkDown m s) ((if_neg (not_or.2 ⟨h0, h6⟩)).trans hremove) hcalm hent (hstep.trans (.assertEvt e (by omega)))
      fun hget => ⟨?_, ?_, ?_, ?_, Dev.assertEvt_level _ _⟩
    · rw [hget, e.get_assertEvt_mag m (by decide) (by omega) hent', hstate]
    · rw [hget, e.get_assertEvt_mag m (by decide) (by omega) hent', hpairs]
    · rw [State.commit_mag, Dev.assertEvt_mag, hpower]
    · rw [State.commit_mag, Dev.assertEvt_mag, hvol]
  · exact answers_portStep (run_pcieCompletionTimeout m s) rfl hcalm hent (.assertEvt d (by omega)) fun _ => Dev.assertEvt_level _ _
  · obtain ⟨hstep, hadmin⟩ := d.smartPoll_admin m
    exact answers_portStep (run_smartPoll s) rfl hcalm hent hstep fun _ => hadmin
  · obtain ⟨hstep, hpace⟩ := Dev.pacePublish_pace (d := d) ⟨hrecs, hdecs, hhosted, hserved⟩ m
    refine answers_portStep (run_pacePublish s) rfl hcalm hent hstep fun hget => ?_
    dsimp only
    rw [hget]
    exact hpace
  · have hclose := Dev.portShortOver_closes hat hshort hstop hms hdue horder hfits hrun hpend
    exact answers_calm (run_portShortTimeout m s) (State.calmFor_iff.1 hcalm') (congrArg s.commit hclose)

end Sys2Proof.Machine
end

section
namespace Sys2Proof.Machine

/-! ## A tick of FREE (R321) -/

/-- Settles O2: with no command waiting a step is `idleTick`, which asks for the reference alone. -/
theorem emptyQueueLetsOneTickPass : Obligations.EmptyQueueLetsOneTickPass := by
  intro s hq
  have hstep : step s = .next (idleTick s) := by
    unfold step
    rw [hq]
  exact ⟨fun hp => hstep.trans (congrArg _ (if_pos hp)), fun hp => hstep.trans (congrArg _ (if_neg (by simp [hp])))⟩

/-! ## The reading (R322) -/

/-- The reading of the time base before it is taken modulo 2^96. -/
def TimeSt.total (t : TimeSt) : Int := t.offset + ((t.free : Int) - t.freeR) * t.rate

theorem Dev.reading_total (d : Dev) : (d.reading : Int) = d.core.time.total % 2 ^ 96 := Int.toNat_of_nonneg (Int.emod_nonneg _ (by decide))

theorem Dev.reading_lt (d : Dev) : d.reading < 2 ^ 96 := by
  have hlt := Int.emod_lt_of_pos d.core.time.total (b := 2 ^ 96) (by decide)
  rw [← d.reading_total] at hlt
  exact_mod_cast hlt

/-- The nanoseconds of the reading fill two words. -/
theorem Dev.now_lt (d : Dev) : d.now < 2 ^ 64 := by
  have := d.reading_lt
  unfold Dev.now
  omega

/-! ## Rates and steps (R322, R323) -/

/-- A new rate counts from here on: OFFSET takes what has passed, and FREE_R the tick. -/
def TimeSt.withRate (t : TimeSt) (r : Nat) : TimeSt := { t with offset := t.total, freeR := t.free, rate := clampRate r }

/-- OFFSET moved by a step. -/
def TimeSt.stepped (t : TimeSt) (by_ : Int) : TimeSt := { t with offset := t.offset + by_ }

theorem TimeSt.withRate_total (t : TimeSt) (r : Nat) : (t.withRate r).total = t.total := by
  simp [TimeSt.total, TimeSt.withRate]

theorem TimeSt.stepped_total (t : TimeSt) (by_ : Int) : (t.stepped by_).total = t.total + by_ := by
  simp only [TimeSt.total, TimeSt.stepped]
  omega

theorem Dev.setRate_time (d : Dev) (r : Nat) : (d.setRate r).core.time = d.core.time.withRate r := rfl
theorem Dev.setRate_beside (d : Dev) (r : Nat) : Dev.Beside d (d.setRate r) := ⟨rfl, rfl, rfl, rfl⟩
theorem Dev.stepTime_time (d : Dev) (by_ : Int) : (d.stepTime by_).core.time = d.core.time.stepped by_ := rfl
theorem Dev.stepTime_beside (d : Dev) (by_ : Int) : Dev.Beside d (d.stepTime by_) := ⟨rfl, rfl, rfl, rfl⟩

/-- The reading goes on from where it stands when the rate changes. -/
theorem Dev.setRate_reading (d : Dev) (r : Nat) : (d.setRate r).reading = d.reading := by
  have h : ((d.setRate r).reading : Int) = d.reading := by
    rw [Dev.reading_total, Dev.setRate_time, TimeSt.withRate_total, Dev.reading_total]
  exact_mod_cast h

/-- A step by the distance to a value sets the reading to it. -/
theorem Dev.stepTime_reaches (d : Dev) {v : Nat} (hv : v < 2 ^ 96) : (d.stepTime ((v : Int) - d.reading)).reading = v := by
  have hto := (d.stepTime ((v : Int) - d.reading)).reading_total
  rw [Dev.stepTime_time, TimeSt.stepped_total] at hto
  have hfrom := d.reading_total
  omega

/-! ## TM_APPLY (R323) -/

/-- The time page's place in the block base table. -/
def timeInfo : PageInfo := ⟨.time, 6, 0, 8, 1, 0xC9⟩

theorem pageInfo_time : pageInfo 8 = some timeInfo := by decide

/-- TM_APPLY is written through a guarded pair. -/
theorem tmApply_guarded : (regFields .time 0x068).isEmpty = false ∧ guardedAt .time 0x068 = true ∧
    (regFields .time (0x068 + 0x800)).isEmpty = true := by decide

/-- The device after a value stands in TM_APPLY. -/
def Dev.applyStored (d : Dev) (v : Word) : Dev := d.store .time 0x068 (hdrAddr 8 0x068) v

/-- TM_APPLY is another register than any field at another offset. -/
theorem Dev.applyStored_get (d : Dev) (v : Word) {r : FieldRow} (h : r.off ≠ 0x068) : (d.applyStored v).get .time 0 r = d.get .time 0 r := by
  refine congrArg r.ext (d.reg_setReg_other ?_ _)
  rw [show hdrAddr 8 0x068 = 0x8068 by decide]
  simp only [fieldAddr, PageKind.page]
  omega

theorem Dev.applyStored_tmSet (d : Dev) (v : Word) : (d.applyStored v).tmSet = d.tmSet := by
  unfold Dev.tmSet
  rw [Dev.applyStored_get _ _ (by decide), Dev.applyStored_get _ _ (by decide), Dev.applyStored_get _ _ (by decide)]

theorem Dev.tmSet_lt (d : Dev) : d.tmSet < 2 ^ 96 := by
  have hlo : d.get .time 0 fTM_SET_LO_SET < 2 ^ 32 := FieldRow.ext_lt _ _
  have hhi : d.get .time 0 fTM_SET_HI_SET < 2 ^ 32 := FieldRow.ext_lt _ _
  have hfrac : d.get .time 0 fTM_SET_FRAC_SET < 2 ^ 32 := FieldRow.ext_lt _ _
  unfold Dev.tmSet
  omega

/-- A guarded pair on TM_APPLY of an open time page applies its value. -/
theorem Dev.busPair_tmApply {s : State} (ho : s.opens 8 = true) (mst : Nat) (v : Word) :
    s.begin.busPair mst 0x8068 v = ((s.begin.applyStored v).tmApply v).expirePend 8 := by
  obtain ⟨hfields, hguard, hcomp⟩ := tmApply_guarded
  exact Dev.busPair_open (off := 0x068) ho pageInfo_time (by decide) (by decide) (by decide) hfields hguard hcomp mst v

/-- What a pair on TM_APPLY does beside storing its value, where that leaves the host port and the collector alone, is all that happens. -/
theorem answers_tmApply {i : Instr} {s : State} {mst : Nat} {v : Word} {e : Dev} {P : State → Prop}
    (he : exec i s = s.run fun d => d.busPair mst 0x8068 v) (ho : s.opens 8 = true) (hf : (s.begin.applyStored v).tmApply v = e)
    (hb : Dev.Beside (s.begin.applyStored v) e) (hP : P (s.commit e)) : Answers i s P :=
  answers_written he ho ((Dev.busPair_tmApply ho mst v).trans (congrArg (Dev.expirePend · 8) hf))
    ((Dev.Beside.store s.begin .time 0x068 _ v).trans hb) hP

theorem Dev.tmApply_rate (d : Dev) {v : Word} (hrate : fTM_APPLY_RATE_EN.ext v = 1) (hofs : fTM_APPLY_OFS.ext v = 0) :
    d.tmApply v = d.setRate (d.get .time 0 fTM_RATE_INT_INT * 2 ^ 32 + d.get .time 0 fTM_RATE_FRAC_FRAC) := by
  unfold Dev.tmApply
  rw [if_pos hrate, hofs]
  rfl

theorem Dev.tmApply_add (d : Dev) {v : Word} (hrate : fTM_APPLY_RATE_EN.ext v = 0) (hofs : fTM_APPLY_OFS.ext v = 1) :
    d.tmApply v = d.stepTime (ofTwos 96 d.tmSet) := by
  unfold Dev.tmApply
  rw [if_neg (by omega), hofs]
  rfl

theorem Dev.tmApply_set (d : Dev) {v : Word} (hrate : fTM_APPLY_RATE_EN.ext v = 0) (hofs : fTM_APPLY_OFS.ext v = 2) :
    d.tmApply v = d.stepTime ((d.tmSet : Int) - d.reading) := by
  unfold Dev.tmApply
  rw [if_neg (by omega), hofs]
  rfl

/-- OFS and RATE_EN lie beside each other in TM_APPLY. -/
theorem tmApply_ofs (v : Word) {k : Nat} (hk : k < 4) : fTM_APPLY_OFS.ext (fTM_APPLY_OFS.ins v k) = k ∧
    fTM_APPLY_RATE_EN.ext (fTM_APPLY_OFS.ins v k) = fTM_APPLY_RATE_EN.ext v :=
  ⟨(FieldRow.ext_ins_same _ (by decide) v k).trans (Nat.mod_eq_of_lt hk), FieldRow.ext_ins_other _ _ (by decide) v k⟩

theorem tmApply_rateEn (v : Word) : fTM_APPLY_RATE_EN.ext (fTM_APPLY_RATE_EN.ins v 1) = 1 ∧
    fTM_APPLY_OFS.ext (fTM_APPLY_RATE_EN.ins v 1) = fTM_APPLY_OFS.ext v :=
  ⟨FieldRow.ext_ins_same _ (by decide) v 1, FieldRow.ext_ins_other _ _ (by decide) v 1⟩

/-- Settles O29: OFS alone is changed in the value written, and both steps move OFFSET alone. -/
theorem timeStepsThroughApply : Obligations.TimeStepsThroughApply := by
  intro s mst v ho
  refine ⟨fun hrate => ?_, fun hrate => ?_⟩
  · obtain ⟨hofs, hkept⟩ := tmApply_ofs v (k := 1) (by decide)
    refine answers_tmApply (run_timeStepAdd mst v s) ho (Dev.tmApply_add _ (hkept.trans hrate) hofs) (Dev.stepTime_beside _ _) ?_
    rw [Dev.applyStored_tmSet]
    rfl
  · obtain ⟨hofs, hkept⟩ := tmApply_ofs v (k := 2) (by decide)
    refine answers_tmApply (run_timeSetAbsolute mst v s) ho (Dev.tmApply_set _ (hkept.trans hrate) hofs) (Dev.stepTime_beside _ _) ⟨?_, rfl⟩
    rw [Dev.applyStored_tmSet]
    exact Dev.stepTime_reaches _ s.begin.tmSet_lt

/-! ## Reads of an open page -/

/-- An open page that is read answers. -/
theorem State.reads_answers {s : State} {page : Nat} (h : s.reads page = true) :
    ¬ ((s.begin.bootGate = true ∧ (!bootPage page) = true) ∨ s.begin.domState (pageDom page) = 2) := by
  obtain ⟨_, hgate, hon, _⟩ := State.reads_elim h
  rw [hon]
  rintro (⟨hboot, hpage⟩ | hoff)
  · simp [hboot, hpage] at hgate
  · cases hoff

/-- A read of an open page returns the register and does what the read does. -/
theorem Dev.readThen_open {s : State} {a : Nat} (h : s.reads (a / 4096) = true) (f : Dev → Dev) :
    s.begin.readThen a f = (f s.begin).answer [s.begin.readReg a] := by
  unfold Dev.readThen
  rw [if_neg (State.reads_answers h)]
  dsimp only
  rw [Dev.touchPage_idle h]

/-- A read of a counter's low word keeps its upper word. -/
theorem Dev.latchRead_open {s : State} {a : Nat} (h : s.reads (a / 4096) = true) (hi : Nat) (w : Word) :
    s.begin.latchRead a [(hi, w)] = (s.begin.modHost fun x => { x with latched := tset x.latched hi w }).answer [s.begin.readReg a] := by
  unfold Dev.latchRead
  rw [if_neg (State.reads_answers h)]
  dsimp only
  rw [Dev.touchPage_idle h]
  rfl

/-- TM_NOW_LO shows the low word of the nanoseconds. -/
theorem Dev.readReg_now {s : State} (h : s.reads 8 = true) : s.begin.readReg 0x8040 = BitVec.ofNat 32 s.begin.now := by
  have hview : s.begin.ownView timeInfo 8 0x040 = BitVec.ofNat 32 (s.begin.now % 2 ^ 32) := rfl
  unfold Dev.readReg
  rw [if_neg fun hg => State.reads_answers h (.inl hg)]
  simp only [show (0x8040 / 4 * 4) / 4096 = 8 from rfl, show (0x8040 / 4 * 4) % 4096 = 0x040 from rfl, pageInfo_time]
  rw [if_neg (by decide), show s.begin.domState timeInfo.dom = 0 from rfl, if_neg (by decide), if_pos (by decide), hview]
  exact BitVec.eq_of_toNat_eq (by simp)

theorem Dev.Over.answer {s : State} {d : Dev} (h : Dev.Over s d) (ws : List Word) : Dev.Over s (d.answer ws) := h.modHost _

/-- The fields that a read latches on the time page may change. -/
theorem timeLatches_ok : ∀ r ∈ [fTM_NOW_HI_NS_HI, fTM_NOW_FRAC_FRAC, fTM_FREE_HI_FREE_HI], fieldOk .time 0 r 0 = true := by decide

/-- TM_NOW_HI and TM_NOW_FRAC as a read of TM_NOW_LO latches them. -/
def Dev.nowLatched (d : Dev) : Dev :=
  (d.set .time 0 fTM_NOW_HI_NS_HI (d.now / 2 ^ 32 % 2 ^ 32)).set .time 0 fTM_NOW_FRAC_FRAC (d.reading % 2 ^ 32)

theorem Dev.nowLatched_hi (d : Dev) : d.nowLatched.get .time 0 fTM_NOW_HI_NS_HI = d.now / 2 ^ 32 := by
  have hlt := d.now_lt
  have hset := d.get_set_fits _ _ _ (d.now / 2 ^ 32 % 2 ^ 32) 0 (timeLatches_ok fTM_NOW_HI_NS_HI (by decide)) (Nat.mod_lt _ (by decide))
  exact (Dev.get_set_offset _ _ _ (by decide) _).trans (hset.trans (Nat.mod_eq_of_lt (by omega)))

theorem Dev.nowLatched_frac (d : Dev) : d.nowLatched.get .time 0 fTM_NOW_FRAC_FRAC = d.reading % 2 ^ 32 :=
  Dev.get_set_fits _ _ _ _ _ 0 (timeLatches_ok _ (by decide)) (Nat.mod_lt _ (by decide))

/-- Settles O28: OFFSET takes what the reading has gained when the rate changes, and what is read and latched comes from one reading. -/
theorem timeBaseReadingFollowsRate : Obligations.TimeBaseReadingFollowsRate := by
  intro s mst v tm rate
  refine ⟨s.begin.reading_total, rfl, fun ho hofs => ?_, fun hr => ?_⟩
  · obtain ⟨hrate, hkept⟩ := tmApply_rateEn v
    refine answers_tmApply (run_timeRateInstall mst v s) ho (Dev.tmApply_rate _ hrate (hkept.trans hofs)) (Dev.setRate_beside _ _)
      ⟨?_, Dev.setRate_reading _ _⟩
    rw [Dev.applyStored_get _ _ (by decide), Dev.applyStored_get _ _ (by decide)]
    rfl
  · have hread := Dev.readThen_open (a := 0x8040) hr Dev.nowLatched
    rw [Dev.readReg_now hr] at hread
    have hover : Dev.Over s (s.begin.nowLatched.answer [BitVec.ofNat 32 s.begin.now]) := (((Dev.Over.begin s).set _ _ _ _ _).set _ _ _ _ _).answer _
    refine answers_calm (run_tmNowRead s) ?_ ?_ <;> rw [show s.begin.readNow = _ from hread]
    · exact (State.reads_elim hr).1
    · exact ⟨rfl, (State.commit_get hover _ _ _ _).trans s.begin.nowLatched_hi, (State.commit_get hover _ _ _ _).trans s.begin.nowLatched_frac, rfl⟩

/-! ## Reads that latch upper words (R187, R203, R217, R229, R321, R353) -/

/-- A read that latches one upper word returns the low word. -/
theorem answers_latchRead {i : Instr} {s : State} {lo hi : Nat} (he : exec i s = s.run fun d => d.latchRead lo [(hi, d.reg hi)])
    (hr : s.reads (lo / 4096) = true) : Answers i s fun t =>
      t.core.host.rdata = [s.begin.readReg lo] ∧ t.core.host.latched.lookup hi = some (s.begin.reg hi) := by
  refine answers_calm he ?_ ?_ <;> simp only [Dev.latchRead_open hr]
  · exact (State.reads_elim hr).1
  · exact ⟨rfl, lookup_tset_same _ _ _⟩

/-- TM_FREE_HI as a read of TM_FREE_LO latches it. -/
def Dev.freeLatched (d : Dev) : Dev := d.set .time 0 fTM_FREE_HI_FREE_HI (d.free / 2 ^ 32)

theorem Dev.freeLatched_hi {d : Dev} (h : d.free < 2 ^ 64) : d.freeLatched.get .time 0 fTM_FREE_HI_FREE_HI = d.free / 2 ^ 32 :=
  d.get_set_fits _ _ _ _ 0 (timeLatches_ok _ (by decide)) (show d.free / 2 ^ 32 < 2 ^ 32 by omega)

/-- The oldest entry of the rate controller's log leaves it, its second word latched. -/
def Dev.logTaken (d : Dev) (e : Word × Word) (es : List (Word × Word)) : Dev :=
  { d.set .marver0 0 fRC_LOG1_PICTURE (fRC_LOG1_PICTURE.ext e.2) with core := { d.core with rcLog := es } }

theorem Dev.logTaken_picture (d : Dev) (e : Word × Word) (es : List (Word × Word)) :
    (d.logTaken e es).get .marver0 0 fRC_LOG1_PICTURE = fRC_LOG1_PICTURE.ext e.2 :=
  d.get_set_fits _ _ _ _ 0 (by decide) (FieldRow.ext_lt _ _)

theorem Dev.readLog_open {s : State} (h : s.reads 0x1C = true) {e : Word × Word} {es : List (Word × Word)} (hlog : s.core.rcLog = e :: es) :
    s.begin.readLog = (s.begin.logTaken e es).answer [s.begin.readReg 0x1C04C] := by
  unfold Dev.readLog
  rw [Dev.readThen_open h, State.begin_core, hlog]
  rfl

/-- Settles O30: four reads latch their upper word by `latchRead`, the reads of FREE and of the log by a register of their own. -/
theorem readsLatchUpperWords : Obligations.ReadsLatchUpperWords := by
  intro s pe pd px pr latched
  refine ⟨fun hr hfree => ?_, fun e es hr hlog => ?_, fun hr => answers_latchRead (run_encTbytesRead pe s) hr,
    fun hr => answers_latchRead (run_decSmpRead pd s) hr, fun hr => answers_latchRead (run_pxBytesRead px s) hr,
    fun hr => answers_latchRead (run_prTxRead pr s) hr⟩
  · have hread := Dev.readThen_open (a := 0x804C) hr Dev.freeLatched
    have hover : Dev.Over s (s.begin.freeLatched.answer [s.begin.readReg 0x804C]) := ((Dev.Over.begin s).set _ _ _ _ _).answer _
    refine answers_calm (run_tmFreeRead s) ?_ ?_ <;> rw [show s.begin.readFree = _ from hread]
    · exact (State.reads_elim hr).1
    · exact ⟨rfl, (State.commit_get hover _ _ _ _).trans (Dev.freeLatched_hi hfree), rfl⟩
  · have hover : Dev.Over s ((s.begin.logTaken e es).answer [s.begin.readReg 0x1C04C]) :=
      (((Dev.Over.begin s).set _ _ _ _ _).of_eq (d' := s.begin.logTaken e es) rfl rfl rfl).answer _
    refine answers_calm (run_rcLog0Read s) ?_ ?_ <;> simp only [Dev.readLog_open hr hlog]
    · exact (State.reads_elim hr).1
    · exact ⟨rfl, (State.commit_get hover _ _ _ _).trans (s.begin.logTaken_picture e es)⟩

end Sys2Proof.Machine
end

section
namespace Sys2Proof.Machine

/-! ## Time and network commands (Table 17.4) -/

theorem argF_lt (ws : List Word) (i hi lo : Nat) : argF ws i hi lo < 2 ^ (hi + 1 - lo) := Nat.mod_lt _ (Nat.two_pow_pos _)

theorem arg64_lt (ws : List Word) (i : Nat) : arg64 ws i < 2 ^ 64 := by
  have hlo := argF_lt ws i 31 0
  have hhi := argF_lt ws (i + 1) 31 0
  unfold arg64
  omega

theorem PtpRole.ofCode_disabled {n : Nat} : PtpRole.ofCode n = .disabled ↔ n = 0 := by
  unfold PtpRole.ofCode
  split
  · simp [*]
  · split
    · simp [*]
    · split <;> simp [*]

/-- A port as the parameters of PTP_CONFIG set it, in the state that its role and its link allow. -/
def NetPort.configured (x : NetPort) (ws : List Word) (up : Bool) : NetPort :=
  let r := PtpRole.ofCode (argF ws 2 3 1)
  { x with
    role := r, domain := argF ws 2 15 8, intervals := (List.range 4).map fun i => ofTwos 4 (argF ws 2 (19 + 4 * i) (16 + 4 * i)),
    prio := [argF ws 3 15 8, argF ws 3 7 0], timeout := argF ws 3 19 16, addr := (List.range 4).map fun i => argF ws (4 + i) 31 0,
    state := if r = .disabled then .disabled else if up then .listening else .faulty }

/-- A role that follows a master is for the gang's time root alone (R349). -/
theorem Dev.cmdPtpConfig_allowed {d : Dev} {c : MbxCmd} (hrole : argF c.words 2 3 1 ≤ 3)
    (hroot : argF c.words 2 3 1 = 1 ∨ argF c.words 2 3 1 = 3 → d.isRoot = true) (m : Nat) :
    d.cmdPtpConfig m c = (d.setNet (argF c.words 2 0 0) ((d.net (argF c.words 2 0 0)).configured c.words (d.netUp (argF c.words 2 0 0)))).finishCmd
      m c.id 0 := by
  unfold Dev.cmdPtpConfig
  rw [if_neg (Nat.not_lt.2 hrole), if_neg fun ⟨hfollows, hnot⟩ => by simp [hroot hfollows] at hnot]
  rfl

/-- A port follows a master, which then sets the time (R331). -/
def Dev.follows (d : Dev) : Bool := (List.range 2).any fun n => decide ((d.net n).state = .slave ∨ (d.net n).state = .uncalibrated)

/-- The value of TIME_SET, in units of 2^-32 ns. -/
def timeSetValue (ws : List Word) : Nat := arg64 ws 3 * 2 ^ 32 + argF ws 5 31 0

theorem timeSetValue_lt (ws : List Word) : timeSetValue ws < 2 ^ 96 := by
  have hns := arg64_lt ws 3
  have hfrac := argF_lt ws 5 31 0
  unfold timeSetValue
  omega

theorem Dev.cmdTimeSet_add {d : Dev} {c : MbxCmd} (hfree : d.follows = false) (hofs : argF c.words 2 1 0 = 1) (m : Nat) :
    d.cmdTimeSet m c = (d.stepTime (ofTwos 96 (timeSetValue c.words))).finishCmd m c.id 0 := by
  unfold Dev.follows at hfree
  unfold Dev.cmdTimeSet
  simp only [hofs, hfree, Bool.false_eq_true, if_false, if_true]
  rfl

theorem Dev.cmdTimeSet_set {d : Dev} {c : MbxCmd} (hfree : d.follows = false) (hofs : argF c.words 2 1 0 = 2) (m : Nat) :
    d.cmdTimeSet m c = (d.stepTime ((timeSetValue c.words : Int) - d.reading)).finishCmd m c.id 0 := by
  unfold Dev.follows at hfree
  unfold Dev.cmdTimeSet
  simp only [hofs, hfree, Bool.false_eq_true, if_false]
  rfl

/-- The schedule that TRIG_SCHED's parameters give. -/
def schedOf (ws : List Word) : TrigSched :=
  ⟨argF ws 2 31 16, arg64 ws 3, argF ws 5 31 0, argF ws 6 31 0, argF ws 7 23 0, argF ws 8 31 0, 0⟩

theorem Dev.cmdTrigSched_admitted {d : Dev} {c : MbxCmd} (hnum : argF c.words 5 31 0 ≠ 0) (hden : argF c.words 6 31 0 ≠ 0)
    (hstate : d.hdState (argF c.words 2 9 0) = 4) (m : Nat) :
    d.cmdTrigSched m c = (d.modTime fun x => { x with trigs := tset x.trigs (argF c.words 2 9 0) (schedOf c.words) }).finishCmd m c.id 0 := by
  unfold Dev.cmdTrigSched
  dsimp only
  rw [if_neg (by simp [hnum, hden]), if_neg (not_not_intro hstate)]
  rfl

/-! ### TM_TC (R332) -/

/-- TM_TC as TC_CONFIG's parameters set it. -/
def Dev.tcSet (d : Dev) (ws : List Word) : Dev :=
  let e := (d.set .time 0 fTM_TC_DF (argF ws 2 0 0)).set .time 0 fTM_TC_UTC_SRC (argF ws 2 1 1)
  let e := (e.set .time 0 fTM_TC_UTC_OFS (argF ws 2 15 8)).set .time 0 fTM_TC_LOCAL_MIN (argF ws 2 31 16)
  e.set .time 0 fTM_TC_FALLBACK (if argF ws 3 7 0 < 64 then argF ws 3 7 0 else 24)

theorem Dev.cmdTcConfig_sets (d : Dev) (m : Nat) (c : MbxCmd) : d.cmdTcConfig m c = (d.tcSet c.words).finishCmd m c.id 0 := rfl

theorem Dev.Over.tcSet {s : State} {d : Dev} (h : Dev.Over s d) (ws : List Word) : Dev.Over s (d.tcSet ws) :=
  ((((h.set _ _ _ _ _).set _ _ _ _ _).set _ _ _ _ _).set _ _ _ _ _).set _ _ _ _ _

theorem Dev.tcSet_src (d : Dev) (ws : List Word) : (d.tcSet ws).get .time 0 fTM_TC_UTC_SRC = argF ws 2 1 1 := by
  refine (Dev.get_set_beside _ .time 0 fTM_TC_FALLBACK fTM_TC_UTC_SRC _ 0 rfl (by decide) (by decide)).trans ?_
  refine (Dev.get_set_beside _ .time 0 fTM_TC_LOCAL_MIN fTM_TC_UTC_SRC _ 0 rfl (by decide) (by decide)).trans ?_
  refine (Dev.get_set_beside _ .time 0 fTM_TC_UTC_OFS fTM_TC_UTC_SRC _ 0 rfl (by decide) (by decide)).trans ?_
  exact Dev.get_set_fits _ .time 0 fTM_TC_UTC_SRC _ 0 (by decide) (argF_lt ws 2 1 1)

theorem Dev.tcSet_ofs (d : Dev) (ws : List Word) : (d.tcSet ws).get .time 0 fTM_TC_UTC_OFS = argF ws 2 15 8 := by
  refine (Dev.get_set_beside _ .time 0 fTM_TC_FALLBACK fTM_TC_UTC_OFS _ 0 rfl (by decide) (by decide)).trans ?_
  refine (Dev.get_set_beside _ .time 0 fTM_TC_LOCAL_MIN fTM_TC_UTC_OFS _ 0 rfl (by decide) (by decide)).trans ?_
  exact Dev.get_set_fits _ .time 0 fTM_TC_UTC_OFS _ 0 (by decide) (argF_lt ws 2 15 8)

/-- Settles O21: each command is one update of its port, of the time base or of TM_TC, and finishes with it. -/
theorem timeAndNetworkCommands : Obligations.TimeAndNetworkCommands := by
  intro s m c hcalm n role h v free
  have hraised := State.calm_iff.1 hcalm
  refine ⟨fun hc hrole hroot => ?_, fun hc hfree hofs => ?_, fun hc hfree hofs => ?_, fun hc hnum hden hstate => ?_, fun hc => ?_, fun hc => ?_⟩
  · refine answers_withCmd (run_ptpConfig m s) hc (Dev.cmdPtpConfig_allowed hrole hroot m.val) hraised ⟨State.commit_done hc rfl 0 0 0, ?_⟩
    have hport : ((s.commit ((s.begin.setNet n ((s.begin.net n).configured c.words (s.begin.netUp n))).finishCmd m.val c.id 0)).begin.net n) =
        (s.begin.net n).configured c.words (s.begin.netUp n) := Dev.setNet_net _ _ _
    rw [hport]
    refine ⟨rfl, rfl, ?_⟩
    simp only [NetPort.configured, PtpRole.ofCode_disabled, role]
  · exact answers_withCmd (run_timeSet m s) hc (Dev.cmdTimeSet_add hfree hofs m.val) hraised ⟨State.commit_done hc rfl 0 0 0, rfl⟩
  · exact answers_withCmd (run_timeSet m s) hc (Dev.cmdTimeSet_set hfree hofs m.val) hraised
      ⟨State.commit_done hc rfl 0 0 0, s.begin.stepTime_reaches (timeSetValue_lt c.words)⟩
  · exact answers_withCmd (run_trigSched m s) hc (Dev.cmdTrigSched_admitted hnum hden hstate m.val) hraised
      ⟨State.commit_done hc rfl 0 0 0, lookup_tset_same _ _ _⟩
  · refine answers_withCmd (run_trigCancel m s) hc rfl hraised ⟨State.commit_done hc rfl 0 0 0, fun p hp => ?_⟩
    exact of_decide_eq_true (List.mem_filter.1 hp).2
  · have hget := State.commit_get ((Dev.Over.begin s).tcSet c.words) .time 0
    exact answers_withCmd (run_tcConfig m s) hc (s.begin.cmdTcConfig_sets m.val c) hraised
      ⟨State.commit_done hc rfl 0 0 0, (hget _ 0).trans (s.begin.tcSet_src _), (hget _ 0).trans (s.begin.tcSet_ofs _)⟩

end Sys2Proof.Machine
end

section
namespace Sys2Proof.Machine

/-! ## The reference (R324) -/

/-- The time base without its reference: FREE stands still, and TM_STAT tells. -/
def Dev.refStopped (d : Dev) : Dev := ((d.modTime fun t => { t with refPresent := false }).set .time 0 fTM_STAT_VALID 0).statBit .time 0 4

theorem Dev.refLost_present {d : Dev} (h : d.core.time.refPresent = true) : d.refLost = d.refStopped.raiseLevel 1806 := if_pos h

/-- The event of a level cause that begins to hold. -/
def levelEvent (src detail addr : Nat) : FaultEvent := ⟨src, 0xC00, 5, detail, addr, false⟩

/-- A level cause that begins to hold raises one event of its source. -/
theorem Dev.raiseLevel_raises {d : Dev} (hcalm : d.core.fault.raised = []) (src : Nat) :
    ∃ detail addr, (d.raiseLevel src).core.fault.raised = [levelEvent src detail addr] := by
  simp only [Dev.raiseLevel, Dev.raise, Dev.modFault_core_fault, Dev.setFrec_raised, hcalm]
  exact ⟨_, _, rfl⟩

theorem Dev.raiseLevel_frec (d : Dev) (src : Nat) : (d.raiseLevel src).frec src = { d.frec src with level := true } := d.setFrec_frec src _

theorem Dev.Collected.time {d d' : Dev} (h : Dev.Collected d d') : d'.core.time = d.core.time := by
  obtain ⟨_, _, _, _, e⟩ := h.core
  rw [e]

/-- A reference that is lost stops the time base, and its source stays in fault state. -/
theorem answers_refclkLoss {s : State} (hk : s.knows 1806 = true) (hpresent : s.core.time.refPresent = true) : Answers .refclkLoss s fun t =>
    t.core.time = { s.core.time with refPresent := false } ∧ (t.begin.frec 1806).state = true := by
  obtain ⟨hcalm, _, hstate, hrails, _, _⟩ := State.knows_elim hk
  have hlost : s.begin.refLost = _ := Dev.refLost_present hpresent
  have hfrec : s.begin.refLost.frec 1806 = { s.begin.frec 1806 with level := true } := by
    rw [hlost]
    exact s.begin.refStopped.raiseLevel_frec 1806
  obtain ⟨detail, addr, hraised⟩ := s.begin.refStopped.raiseLevel_raises hcalm 1806
  rw [← hlost] at hraised
  refine answers_known (e := levelEvent 1806 detail addr) (run_refclkLoss s) hk rfl hraised (by rw [hlost]; rfl)
    ((congrArg FaultRec.state hfrec).trans hstate) ((congrArg FaultRec.railsEq hfrec).trans hrails) fun d hd hfault _ => ⟨?_, hfault⟩
  rw [State.commit_core, hd.time, hlost]
  rfl

/-- The reference is back: FREE runs, TM_STAT.VALID reads 1, and the level of the fault source ends. -/
theorem answers_refclkReturn {s : State} (hraised : s.core.fault.raised = []) : Answers .refclkReturn s fun t =>
    t.core.time = { s.core.time with refPresent := true } ∧ t.begin.get .time 0 fTM_STAT_VALID = 1 ∧ (t.begin.frec 1806).level = false := by
  have hover : Dev.Over s s.begin.refBack :=
    (((Dev.Over.begin s).of_eq (d' := s.begin.modTime fun t => { t with refPresent := true }) rfl rfl rfl).set .time 0 fTM_STAT_VALID 1 0).of_eq rfl rfl rfl
  refine answers_calm (run_refclkReturn s) hraised ⟨rfl, ?_, congrArg FaultRec.level (Dev.setFrec_frec _ 1806 _)⟩
  exact (State.commit_get hover _ _ _ _).trans (Dev.get_set_fits _ .time 0 fTM_STAT_VALID 1 0 (by decide) (by decide))

/-! ## Stamps and TIME_PPS_OUT (R326, R327) -/

/-- The time base with a stamp of an edge behind the others; of a full FIFO the oldest leaves. -/
def TimeSt.stamped (t : TimeSt) (src : Nat) (rising : Bool) (reading : Nat) : TimeSt :=
  { t with
    stamps := (if 256 ≤ t.stamps.length then t.stamps.drop 1 else t.stamps) ++ [stampWords src rising t.stampSeq reading],
    stampSeq := (t.stampSeq + 1) % 65536 }

/-- An edge of a selected source enters the stamp FIFO; what else happens is counted and signalled. -/
theorem Dev.stampPin_stamps {d : Dev} {src : Nat} (h : (d.get .time 0 fTM_STAMP_EN_SRC).testBit src = true) (rising : Bool) :
    (d.stampPin src rising).core.time = d.core.time.stamped src rising d.reading ∧ (d.stampPin src rising).core.fault = d.core.fault := by
  unfold Dev.stampPin
  rw [if_pos h]
  dsimp only
  rw [(Dev.requestLine_signals _ 1).time, (Dev.requestLine_signals _ 1).fault]
  by_cases hfull : 256 ≤ d.core.time.stamps.length
  · simp only [TimeSt.stamped, if_pos hfull]
    exact ⟨rfl, rfl⟩
  · simp only [TimeSt.stamped, if_neg hfull]
    exact ⟨rfl, rfl⟩

theorem Dev.ppsRise_due {d : Dev} (hen : d.get .time 0 fTM_PPS_OUT_EN = 1) (hpresent : d.core.time.refPresent = true) (hwhole : d.now % 1000000000 = 0) :
    d.ppsRise = d.modTime fun t => { t with pps := some (t.free, max 1 (d.get .time 0 fTM_PPS_WIDTH_US)) } := if_pos ⟨hen, hpresent, hwhole⟩

/-! ## Head triggers (R333, R334) -/

/-- The frame of a schedule's next trigger. -/
def TrigSched.frame (g : TrigSched) : BcFrame := ⟨3, beBytes 8 (g.at_ g.k) ++ beBytes 2 g.mask ++ beBytes 3 (picAdd g.picFirst g.k), none⟩

/-- The schedule of a head moves on to its next trigger. -/
def TimeSt.nextTrigger (t : TimeSt) (h : Nat) (g : TrigSched) : TimeSt :=
  { t with trigs := tset (t.trigs.filter fun p => p.1 ≠ h) h { g with k := g.k + 1 } }

/-- The schedules are no part of the reading. -/
theorem Dev.modTime_trigs_now (d : Dev) (l : List (Nat × TrigSched)) : (d.modTime fun t => { t with trigs := l }).now = d.now := rfl

/-- A trigger inside LEAD whose time has not passed, and that is not the last: its frame is queued, and Gather's source asserts. -/
theorem Dev.triggerDue_sends {d : Dev} {h : Nat} {g : TrigSched} (hg : d.core.time.trigs.lookup h = some g) (hmore : g.count = 0 ∨ g.k + 1 < g.count)
    (hlater : d.now < g.at_ g.k) (hlead : g.at_ g.k ≤ d.now + d.leadNs) :
    d.triggerDue h = (((d.modTime fun t => t.nextTrigger h g).queueFrame h g.frame).bump .time 0 fTM_TRIG_CNT_SENT).assertEvt 112 := by
  unfold Dev.triggerDue
  simp only [hg]
  rw [if_neg (Nat.not_lt.2 hlead)]
  simp only [if_pos hmore]
  rw [Dev.modTime_trigs_now, if_neg (Nat.not_le.2 hlater)]
  rfl

/-- Settles O31: the reference, a stamp, TIME_PPS_OUT and a trigger each change the time base as their own lemma says. -/
theorem referenceStampsAndTriggers : Obligations.ReferenceStampsAndTriggers := by
  intro s src rising h hcalm
  have hraised := State.calm_iff.1 hcalm
  refine ⟨answers_refclkLoss, answers_refclkReturn hraised, fun hsel => ?_, fun hen hpresent hwhole => ?_, fun g hg hmore hlater hlead => ?_⟩
  · obtain ⟨htime, hfault⟩ := Dev.stampPin_stamps (d := s.begin) hsel rising
    refine answers_calm (run_pinStamp src rising s) ((congrArg FaultSt.raised hfault).trans hraised) ?_
    rw [State.commit_core, htime]
    exact ⟨rfl, rfl⟩
  · have hrise := Dev.ppsRise_due (d := s.begin) hen hpresent hwhole
    refine answers_calm (run_ppsOut s) ?_ ?_ <;> simp only [hrise]
    · exact hraised
    · rfl
  · have hsends := Dev.triggerDue_sends (d := s.begin) hg hmore hlater hlead
    have hsig := (((s.begin.modTime fun t => t.nextTrigger h.val g).queueFrame h.val g.frame).bump .time 0 fTM_TRIG_CNT_SENT).assertEvt_signals 112
    refine answers_calm (run_triggerDue h s) ?_ ?_ <;> simp only [hsends]
    · exact (congrArg FaultSt.raised hsig.fault).trans hraised
    · refine ⟨?_, ?_, Dev.assertEvt_level _ _⟩
      · rw [State.commit_head, Dev.head_of_heads hsig.heads]
        exact Dev.queueFrame_queue _ _ _
      · rw [State.commit_core, hsig.time]
        exact lookup_tset_same _ _ _

end Sys2Proof.Machine
end

section
namespace Sys2Proof.Machine

/-! ## Ports in the next state -/

/-- `d'` has the ports and the fault collector of `d`. -/
structure Dev.PortsKept (d d' : Dev) : Prop where
  nets : d'.core.nets = d.core.nets
  fault : d'.core.fault = d.core.fault

theorem Dev.PortsKept.refl (d : Dev) : Dev.PortsKept d d := ⟨rfl, rfl⟩
theorem Dev.PortsKept.trans {a b c : Dev} (h : Dev.PortsKept a b) (g : Dev.PortsKept b c) : Dev.PortsKept a c :=
  ⟨g.nets.trans h.nets, g.fault.trans h.fault⟩
theorem Dev.PortsKept.ite {p : Prop} [Decidable p] {d a b : Dev} (ha : Dev.PortsKept d a) (hb : Dev.PortsKept d b) :
    Dev.PortsKept d (if p then a else b) := ite_both ha hb
theorem Dev.PortsKept.net {d d' : Dev} (h : Dev.PortsKept d d') (n : Nat) : d'.net n = d.net n := by simp only [Dev.net, h.nets]
theorem Dev.Signals.portsKept {d d' : Dev} (h : Dev.Signals d d') : Dev.PortsKept d d' := ⟨h.nets, h.fault⟩

/-- A command that changes one port, raises no fault and otherwise only signals leaves the port as it changed it. -/
theorem answers_setNet {i : Instr} {s : State} {f : Dev → Dev} (n : Nat) (y : NetPort) {e : Dev} {P : State → Prop} (he : exec i s = s.run f)
    (hcalm : s.core.fault.raised = []) (hf : f s.begin = e) (hk : Dev.PortsKept (s.begin.setNet n y) e)
    (hP : (s.commit e).begin.net n = y → P (s.commit e)) : Answers i s P := by
  subst hf
  exact answers_calm he ((congrArg FaultSt.raised hk.fault).trans hcalm) (hP ((hk.net n).trans (s.begin.setNet_net n y)))

/-! ## Frames received (R326, R329) -/

/-- The counts of frames that a port drops lie in NET_RX_DROP. -/
theorem netDrops_ok : ∀ n : Fin 2, ∀ r ∈ [fNET_RX_DROP_FILTER, fNET_RX_DROP_OVERRUN],
    r.width = 16 ∧ r.off = 0x05C ∧ fieldOk .net n.val r 0 = true := by decide

/-- A dropped frame in a counter of its port, and in the port's status. -/
def Dev.frameDropped (d : Dev) (n : Nat) (r : FieldRow) : Dev := (d.bump .net n r).statBit .net n 1

theorem Dev.frameDropped_count (d : Dev) (n : Fin 2) {r : FieldRow} (hr : r ∈ [fNET_RX_DROP_FILTER, fNET_RX_DROP_OVERRUN]) :
    (d.frameDropped n.val r).get .net n.val r = min (d.get .net n.val r + 1) (2 ^ 16 - 1) := by
  obtain ⟨hwidth, hoff, hok⟩ := netDrops_ok n r hr
  have hstat : fieldAddr .net n.val r 0 ≠ (PageKind.net.page n.val) * 4096 + 0x00C := by
    simp only [fieldAddr, hoff]
    omega
  have hbump := d.get_bump_same .net n.val r 1 0 hok
  rw [hwidth] at hbump
  exact (congrArg r.ext (Dev.reg_setReg_other _ hstat _)).trans hbump

/-- A frame that is dropped changes nothing but its count and the port's status. -/
theorem answers_dropped {s : State} {n : Fin 2} {f : List Byte} {r : FieldRow} (hraised : s.core.fault.raised = [])
    (hr : r ∈ [fNET_RX_DROP_FILTER, fNET_RX_DROP_OVERRUN]) (hdrop : s.begin.ethReceive n.val f = s.begin.frameDropped n.val r) :
    Answers (.ethFrameReceive n f) s fun t =>
      t.core = s.core ∧ t.begin.get .net n.val r = min (s.begin.get .net n.val r + 1) (2 ^ 16 - 1) := by
  have hover : Dev.Over s (s.begin.frameDropped n.val r) := ((Dev.Over.begin s).bump _ _ _ _ _).stat _ _
  refine answers_calm (run_ethFrameReceive n f s) ?_ ?_ <;> simp only [hdrop]
  · exact hraised
  · exact ⟨rfl, (State.commit_get hover _ _ _ _).trans (s.begin.frameDropped_count n hr)⟩

/-- A frame that enters the receive FIFO is counted and signalled. -/
def Dev.frameTold (d : Dev) (n : Nat) : Dev := ((d.bump .net n fNET_RX_PTP_FRAMES).requestLine (2 + n)).assertEvt (110 + n)

theorem Dev.frameTold_signals (d : Dev) (n : Nat) : Dev.Signals d (d.frameTold n) :=
  (Dev.Signals.bump d _ _ _ _ _).trans ((Dev.requestLine_signals _ _).trans (Dev.assertEvt_signals _ _))

theorem Dev.ethReceive_filtered {d : Dev} {n : Nat} {f : List Byte} (hup : d.netUp n = true) (hpart : d.ptpPart n f = none) :
    d.ethReceive n f = d.frameDropped n fNET_RX_DROP_FILTER := by
  unfold Dev.ethReceive
  rw [if_neg (by simp [hup]), hpart]
  rfl

section
variable {d : Dev} {n : Nat} {f p : List Byte} (hup : d.netUp n = true) (hpart : d.ptpPart n f = some p)
  (htype : peerDelayMsg (fieldBe p 0 1 % 16) = false)
include hup hpart htype

theorem Dev.ethReceive_overruns (hfull : Config.ptpFifoDepth ≤ (d.net n).rx.length) : d.ethReceive n f = d.frameDropped n fNET_RX_DROP_OVERRUN := by
  unfold Dev.ethReceive
  rw [if_neg (by simp [hup]), hpart]
  dsimp only
  rw [htype, if_neg (by decide), if_pos hfull]
  rfl

theorem Dev.ethReceive_accepts (hroom : (d.net n).rx.length < Config.ptpFifoDepth) :
    d.ethReceive n f = (d.setNet n { d.net n with rx := (d.net n).rx ++ [(p, d.rxStamp n)] }).frameTold n := by
  unfold Dev.ethReceive
  rw [if_neg (by simp [hup]), hpart]
  dsimp only
  rw [htype, if_neg (by decide), if_neg (Nat.not_le.2 hroom)]
  rfl

end

/-! ## Frames sent and PTP intervals (R326, R329 to R331) -/

/-- A port whose first queued frame has gone out, stamped where it is an event message. -/
def NetPort.sent (x : NetPort) (typ : Nat) (g : List Byte) (rest : List (Nat × List Byte)) (stamp : Nat) : NetPort :=
  { x with tx := rest, lastFrame := g, txStamps := if typ ≤ 1 then x.txStamps ++ [(typ, stamp)] else x.txStamps }

theorem Dev.ptpTransmit_sends {d : Dev} {n typ : Nat} {g : List Byte} {rest : List (Nat × List Byte)} (hup : d.netUp n = true)
    (htx : (d.net n).tx = (typ, g) :: rest) : Dev.PortsKept (d.setNet n ((d.net n).sent typ g rest (d.txStamp n))) (d.ptpTransmit n) := by
  have hsent : Dev.PortsKept (d.setNet n ((d.net n).sent typ g rest (d.txStamp n)))
      ((d.setNet n ((d.net n).sent typ g rest (d.txStamp n))).bump .net n fNET_TX_FRAMES_FRAMES) := ⟨rfl, rfl⟩
  unfold Dev.ptpTransmit
  simp only [htx]
  rw [if_neg (by simp [hup])]
  exact .ite (hsent.trans ((Dev.requestLine_signals _ _).trans (Dev.assertEvt_signals _ _)).portsKept) hsent

theorem Dev.ptpDue_sync {d : Dev} {n : Nat} (hup : d.netUp n = true) (hrun : d.gafRuns 0 = true) (hmaster : (d.net n).state = .master) :
    d.ptpDue n 0 = d.ptpQueue n 0 := by
  unfold Dev.ptpDue
  dsimp only
  rw [if_neg (by simp [hup, hrun]), if_pos ⟨hmaster, .inl rfl⟩]

/-- The state of a port that has lost its master. -/
def PtpRole.alone : PtpRole → PtpState
  | .disabled => .disabled
  | .slaveOnly => .listening
  | _ => .master

theorem Dev.announceLost_slave {d : Dev} {n : Nat} (h : (d.net n).state = .slave) :
    d.announceLost n = d.setNet n { d.net n with state := (d.net n).role.alone } := by
  unfold Dev.announceLost
  simp only [h]
  cases (d.net n).role <;> rfl

/-! ## A link that goes down (R328) -/

/-- A port whose link is down: nothing is queued. -/
def NetPort.unlinked (x : NetPort) : NetPort := { x with tx := [], state := if x.role = .disabled then .disabled else .faulty }

/-- The proxy streams of a port lose the packets they had queued. -/
def Dev.proxyUnlinked (n : Nat) (d : Dev) (p : Nat × ProxyStream) : Dev :=
  if p.2.par.net = n ∧ !p.2.queue.isEmpty then
    ((d.setProxy p.1 { p.2 with queue := [] }).bump .proxy p.2.engine fPX_NET_DROP_PACKETS p.2.queue.length).statBit .proxy p.2.engine 3
  else d

theorem Dev.proxiesUnlinked_kept (n : Nat) (l : List (Nat × ProxyStream)) (d : Dev) : Dev.PortsKept d (l.foldl (Dev.proxyUnlinked n) d) :=
  List.foldlRecOn l _ (.refl d) fun _ he _ _ => he.trans (.ite ⟨rfl, rfl⟩ (.refl _))

/-- A link that was up: the port and its proxies lose what they had queued, and the port's source asserts. -/
theorem Dev.netLink_down {d : Dev} {n : Nat} (hup : d.netUp n = true) :
    ∃ e, d.netLink n false = e.assertEvt (110 + n) ∧ Dev.PortsKept (d.setNet n (d.net n).unlinked) e := by
  unfold Dev.netLink
  dsimp only
  rw [if_neg (by simp [hup])]
  refine ⟨_, rfl, ?_⟩
  rw [if_neg (by decide)]
  refine Dev.PortsKept.trans ?_ (Dev.proxiesUnlinked_kept n _ _)
  exact ⟨rfl, rfl⟩

/-- Settles O32: each happening is one change of its port, besides counters and signals; a frame that is dropped changes its count alone. -/
theorem networkPortsFollowFrames : Obligations.NetworkPortsFollowFrames := by
  intro s n f hcalm x
  have hraised := State.calm_iff.1 hcalm
  refine ⟨fun p hup hpart htype => ?_, fun hup hpart => ?_, fun typ g rest hup htx => ?_, fun hup hrun hmaster => ?_, fun hslave => ?_, fun hup => ?_⟩
  · by_cases hroom : x.rx.length < Config.ptpFifoDepth
    · simp only [if_pos hroom]
      exact answers_setNet n.val { x with rx := x.rx ++ [(p, s.begin.rxStamp n.val)] } (run_ethFrameReceive n f s) hraised
        (Dev.ethReceive_accepts hup hpart htype hroom) (Dev.frameTold_signals _ _).portsKept fun hnet => ⟨congrArg NetPort.rx hnet, Dev.assertEvt_level _ _⟩
    · simp only [if_neg hroom]
      exact answers_dropped hraised (by decide) (Dev.ethReceive_overruns hup hpart htype (Nat.not_lt.1 hroom))
  · exact answers_dropped hraised (by decide) (Dev.ethReceive_filtered hup hpart)
  · refine answers_setNet n.val _ (run_ptpFrameTransmit n s) hraised rfl (Dev.ptpTransmit_sends hup htx) fun hnet => ?_
    rw [hnet]
    exact ⟨rfl, rfl, rfl⟩
  · exact answers_setNet n.val { x with tx := x.tx ++ [(0, Config.ptpFrame n.val 0 s.begin.free)] } (run_ptpMessageDue n 0 s) hraised
      (Dev.ptpDue_sync hup hrun hmaster) (.refl _) fun hnet => congrArg NetPort.tx hnet
  · refine answers_setNet n.val { x with state := x.role.alone } (run_announceReceiptTimeout n s) hraised (Dev.announceLost_slave hslave) (.refl _)
      fun hnet => (congrArg NetPort.state hnet).trans ?_
    cases x.role <;> rfl
  · obtain ⟨e, hdown, hkept⟩ := Dev.netLink_down (d := s.begin) hup
    exact answers_setNet n.val x.unlinked (run_netLinkChange n false s) hraised hdown (hkept.trans (Dev.assertEvt_signals _ _).portsKept) fun hnet =>
      ⟨congrArg NetPort.tx hnet, congrArg NetPort.state hnet, Dev.assertEvt_level _ _⟩

end Sys2Proof.Machine
end

section
namespace Sys2Proof.Machine

/-! ## PEER_ACCEPT and PEER_REFUSE (R351, Table 18.6) -/

theorem State.commit_peer (s : State) (d : Dev) (p : Nat) : (s.commit d).begin.peer p = d.peer p := rfl

/-- The acceptances of a peer port without the one of a kind and slot. -/
def PeerPort.acceptsBut (x : PeerPort) (kind slot : Nat) : List PeerAccept := x.accepts.filter fun b => !(decide (b.kind = kind ∧ b.slot = slot))

/-- A command that leaves the acceptances of a peer port as `l`, and is carried out. -/
theorem answers_accepts {i : Instr} {s : State} {m op p : Nat} {f : Dev → MbxCmd → Dev} {c : MbxCmd} {l : List PeerAccept}
    (he : exec i s = s.run fun d => d.withCmd m op f) (hc : s.begin.readyCmd m op = some c) (hcalm : s.calm = true)
    (hf : f s.begin c = (s.begin.setPeer p { s.begin.peer p with accepts := l }).finishCmd m c.id 0) :
    Answers i s fun t => t.done m c 0 0 0 ∧ (t.begin.peer p).accepts = l :=
  answers_withCmd he hc hf (State.calm_iff.1 hcalm) ⟨State.commit_done hc rfl 0 0 0, congrArg PeerPort.accepts (Dev.setPeer_peer _ p _)⟩

section
variable {d : Dev} {m : Nat} {c : MbxCmd} (hport : argF c.words 2 1 0 ≠ 3)
include hport

theorem Dev.cmdPeerAccept_up (hup : d.peerUp (argF c.words 2 1 0) = true) :
    d.cmdPeerAccept m c = (d.setPeer (argF c.words 2 1 0) { d.peer (argF c.words 2 1 0) with
      accepts := (d.peer (argF c.words 2 1 0)).acceptsBut (argF c.words 2 4 4) (argF c.words 2 31 16) ++
        [⟨argF c.words 2 4 4, argF c.words 2 31 16, argF c.words 3 13 0⟩] }).finishCmd m c.id 0 := by
  unfold Dev.cmdPeerAccept
  rw [if_neg hport, if_neg (by simp [hup])]
  rfl

theorem Dev.cmdPeerRefuse_port :
    d.cmdPeerRefuse m c = (d.setPeer (argF c.words 2 1 0) { d.peer (argF c.words 2 1 0) with
      accepts := (d.peer (argF c.words 2 1 0)).acceptsBut (argF c.words 2 4 4) (argF c.words 2 31 16) }).finishCmd m c.id 0 := by
  unfold Dev.cmdPeerRefuse
  rw [if_neg hport]
  rfl

end

/-! ## The admission holder takes a forwarded command (R236) -/

/-- An entry of a table whose every entry is changed, where the change keeps the entry at rest. -/
theorem tget_map {α : Type} {f : α → α} {r : α} (hf : f r = r) (t : List (Nat × α)) (k : Nat) :
    tget r (t.map fun p => (p.1, f p.2)) k = f (tget r t k) := by
  unfold tget
  induction t with
  | nil => exact hf.symm
  | cons p t ih =>
    simp only [List.map_cons, Sparse.get]
    split
    · rfl
    · exact ih

/-- A command that waits forwarded, and is of the id, has the new stage. -/
def MbxCmd.restaged (id : Nat) (st : CmdStage) (c : MbxCmd) : MbxCmd := if c.id = id ∧ c.stage = .forwarded then { c with stage := st } else c

theorem Dev.restage_cmds (d : Dev) (id : Nat) (st : CmdStage) (m : Nat) :
    ((d.restage id st).mbx m).cmds = (d.mbx m).cmds.map (MbxCmd.restaged id st) :=
  congrArg Mailbox.cmds (tget_map (f := fun x : Mailbox => { x with cmds := x.cmds.map (MbxCmd.restaged id st) }) rfl _ m)

/-- The oldest forwarded command is out of the queue and ready in its mailbox. -/
def Dev.oldestTaken (d : Dev) (id : Nat) (rest : List Nat) : Dev := (d.modHost fun h => { h with fwdQueue := rest }).restage id .ready

/-- Besides, the holder's doorbell is released when no other command waits. -/
theorem Dev.forwardTaken_takes {d : Dev} {id g : Nat} {rest : List Nat} (hq : d.core.host.fwdQueue = id :: rest) (hg : d.holder = some g) :
    Dev.Signals (d.oldestTaken id rest) d.forwardTaken := by
  unfold Dev.forwardTaken
  simp only [hq, hg]
  exact .ite (Dev.releaseEvt_signals _ _) (.refl _)

theorem Dev.oldestTaken_ready {d : Dev} {m id : Nat} {c : MbxCmd} (hc : c ∈ (d.mbx m).cmds) (hid : c.id = id) (hst : c.stage = .forwarded)
    (rest : List Nat) : { c with stage := .ready } ∈ ((d.oldestTaken id rest).mbx m).cmds := by
  rw [Dev.oldestTaken, Dev.restage_cmds]
  exact List.mem_map.2 ⟨c, hc, if_pos ⟨hid, hst⟩⟩

/-- Settles O24: each command is one update of the acceptances, and of a forwarded command the queue and the stage change. -/
theorem peerAcceptancesAndForwardedCommands : Obligations.PeerAcceptancesAndForwardedCommands := by
  intro s m c hcalm p kept
  refine ⟨fun hc hp hup => ?_, fun hc hp => ?_, fun m g id rest c hq hg hc hid hst => ?_⟩
  · exact answers_accepts (run_peerAccept m s) hc hcalm (Dev.cmdPeerAccept_up hp hup)
  · exact answers_accepts (run_peerRefuse m s) hc hcalm (Dev.cmdPeerRefuse_port hp)
  · have hsig := Dev.forwardTaken_takes (d := s.begin) hq hg
    refine answers_calm (run_admissionForward s) ((congrArg FaultSt.raised hsig.fault).trans (State.calm_iff.1 hcalm)) ⟨?_, ?_⟩
    · exact congrArg HostPort.fwdQueue hsig.host
    · rw [State.commit_mbx, Dev.mbx_of_host hsig.host]
      exact Dev.oldestTaken_ready hc hid hst rest

end Sys2Proof.Machine
end

section
namespace Sys2Proof.Machine

/-! ## The fields of a page beside what is written on it -/

/-- A field that is written leaves those of its page that share no bit with it. -/
theorem Dev.get_set_apart (d : Dev) (k : PageKind) (i : Nat) {r q : FieldRow} (hok : fieldOk k i q 0 = true) (h : r.apart q = true) (v : Nat) :
    (d.set k i r v).get k i q = d.get k i q := by
  by_cases ho : q.off = r.off
  · have hbits := (of_decide_eq_true h).resolve_left (not_not_intro ho)
    exact d.get_set_beside k i r q v 0 (by simp [fieldAddr, ho]) hbits hok
  · exact d.get_set_offset k i ho v

theorem Dev.get_statBit_apart (d : Dev) (k : PageKind) (i b : Nat) {q : FieldRow} (h : q.off ≠ 0x00C) : (d.statBit k i b).get k i q = d.get k i q := by
  refine congrArg q.ext (Dev.reg_setReg_other d ?_ _)
  simp only [fieldAddr]
  omega

/-- An event source that asserts writes the pages of Lehr and of the event controller alone. -/
theorem Dev.get_assertEvt_apart {d : Dev} (hstill : d.core.lehr.entering = []) {n : Nat} (hn : n < 256) {k : PageKind} {i : Nat}
    (hpage : k.page i ∉ [1, 0xB]) {q : FieldRow} (hoff : q.off < 4096) : (d.assertEvt n).get k i q = d.get k i q := by
  refine (Dev.assertEvt_tells (ps := [1, 0xB]) (by decide) (by decide) d n hn hstill).touches.get _ _ _ _ ?_
  rw [show fieldAddr k i q 0 / 4096 = k.page i by simp only [fieldAddr]; omega]
  exact hpage

/-! ## The fields of a peer link (Table 18.8) -/

/-- The fields of a peer port that a step of its link reads and writes. -/
def linkFields : List FieldRow := [fPR_STAT_STATE, fPR_STAT_PARTNER, fPR_STAT_LOCKED, fPR_ERR_CNT_NAKS, fPR_ERR_CNT_LOSSES, fPR_TIME_OFS_NS]

theorem linkFields_ok : ∀ p : Fin 3, ∀ q ∈ linkFields, fieldOk .peer p.val q 0 = true := by decide

theorem linkFields_off : ∀ q ∈ linkFields, 0x40 ≤ q.off ∧ q.off < 4096 := by decide

theorem fieldAddr_peer (p : Nat) (q : FieldRow) : fieldAddr .peer p q 0 = (0x38 + p) * 4096 + q.off := by
  simp [fieldAddr, PageKind.page]

section
variable (d : Dev) (p : Fin 3) {q : FieldRow} (hq : q ∈ linkFields)
include hq

theorem Dev.get_setLink_own (v : Nat) : (d.set .peer p.val q v).get .peer p.val q = v % 2 ^ q.width :=
  d.get_set_same .peer p.val q v 0 (linkFields_ok p q hq)

/-- A field that is written leaves the others of its link as they were. -/
theorem Dev.get_setLink_apart {r : FieldRow} (h : r.apart q = true) (v : Nat) : (d.set .peer p.val r v).get .peer p.val q = d.get .peer p.val q :=
  d.get_set_apart .peer p.val (linkFields_ok p q hq) h v

theorem Dev.get_bumpLink_own : (d.bump .peer p.val q).get .peer p.val q = min (d.get .peer p.val q + 1) (2 ^ q.width - 1) :=
  d.get_bump_same .peer p.val q 1 0 (linkFields_ok p q hq)

theorem Dev.get_bumpLink_apart {r : FieldRow} (h : r.apart q = true) : (d.bump .peer p.val r).get .peer p.val q = d.get .peer p.val q :=
  d.get_setLink_apart p hq h _

/-- PR_GANG is a register of its own, on every peer page. -/
theorem Dev.get_setGang_link {r : FieldRow} (hr : r.off = 0x48) (v : Nat) : (d.setGang r v).get .peer p.val q = d.get .peer p.val q := by
  have hoff : ∀ q ∈ linkFields, q.off ≠ 0x48 ∧ q.off < 4096 := by decide
  have haddr : ∀ k : Nat, fieldAddr .peer p.val q 0 ≠ fieldAddr .peer k r 0 := by
    intro k
    have := hoff q hq
    rw [fieldAddr_peer, fieldAddr_peer, hr]
    omega
  exact List.foldlRecOn (List.range 3) _ (motive := fun e : Dev => e.get .peer p.val q = d.get .peer p.val q) rfl fun e he k _ =>
    (e.get_set_reg .peer .peer k p.val r q v 0 0 (haddr k)).trans he

end

theorem Dev.peer_of_peers {d d' : Dev} (h : d'.core.peers = d.core.peers) (p : Nat) : d'.peer p = d.peer p := by simp only [Dev.peer, h]

/-- What happens to a link is told: a status bit of its page, and its event source. -/
def Dev.linkEvt (d : Dev) (p b : Nat) : Dev := (d.statBit .peer p b).assertEvt (104 + p)

theorem Dev.linkEvt_signals (d : Dev) (p b : Nat) : Dev.Signals d (d.linkEvt p b) := (Dev.Signals.statBit d _ _ _).trans (Dev.assertEvt_signals _ _)

theorem Dev.linkEvt_peer (d : Dev) (p b q : Nat) : (d.linkEvt p b).peer q = d.peer q := Dev.peer_of_peers (d.linkEvt_signals p b).peers q

theorem Dev.get_linkEvt {d : Dev} (hstill : d.core.lehr.entering = []) (p : Fin 3) (b : Nat) {q : FieldRow} (hq : q ∈ linkFields) :
    (d.linkEvt p.val b).get .peer p.val q = d.get .peer p.val q := by
  obtain ⟨hlow, hhigh⟩ := linkFields_off q hq
  have hpage : ∀ p : Fin 3, PageKind.peer.page p.val ∉ [1, 0xB] := by decide
  exact (Dev.get_assertEvt_apart (d := d.statBit .peer p.val b) hstill (by omega) (hpage p) hhigh).trans (d.get_statBit_apart .peer p.val b (by omega))

theorem Dev.linkEvt_step (d : Dev) (p : Fin 3) (b : Nat) : Dev.PortStep d (d.linkEvt p.val b) :=
  (Dev.PortStep.statBit d _ _ _).trans (.assertEvt _ (by omega))

theorem Dev.PortStep.setPeer (d : Dev) (p : Nat) (x : PeerPort) : Dev.PortStep d (d.setPeer p x) := .ofCore rfl rfl rfl rfl rfl
theorem Dev.PortStep.bump (d : Dev) (k : PageKind) (i : Nat) (r : FieldRow) (b n : Nat) : Dev.PortStep d (d.bump k i r b n) := .set d _ _ _ _ _

theorem Dev.peerUp_iff {d : Dev} {p : Nat} : d.peerUp p = true ↔ d.get .peer p fPR_STAT_STATE = 2 := decide_eq_true_iff

/-! ## Control messages (Table 18.3) -/

/-- The bytes of a control message: its kind and its operands. -/
def controlMsg (kind : Nat) (args : List Nat) : List Byte := (kind :: args).flatMap fun n => leBytes 8 n

/-- Of a list that keeps its last `k` entries the last stays. -/
theorem getLast?_keep {α : Type} (l : List α) (x : α) {k : Nat} (hk : 0 < k) : ((l ++ [x]).drop ((l ++ [x]).length - k)).getLast? = some x := by
  have hsize : (l ++ [x]).length = l.length + 1 := List.length_append
  rw [List.getLast?_drop, if_neg (by omega), List.getLast?_concat]

/-- The message that a port says is the last that it sent. -/
theorem Dev.peerSay_last (d : Dev) (p kind : Nat) (args : List Nat) : ((d.peerSay p kind args).peer p).sent.getLast? = some (controlMsg kind args) := by
  unfold Dev.peerSay
  rw [Dev.setPeer_peer]
  exact getLast?_keep _ _ (by decide)

theorem Dev.peerSay_rest (d : Dev) (p kind : Nat) (args : List Nat) : ∃ sent, (d.peerSay p kind args).peer p = { d.peer p with sent := sent } := by
  unfold Dev.peerSay
  rw [Dev.setPeer_peer]
  exact ⟨_, rfl⟩

theorem Dev.peerSay_other (d : Dev) {p q : Nat} (h : q ≠ p) (kind : Nat) (args : List Nat) : (d.peerSay p kind args).peer q = d.peer q :=
  d.setPeer_peer_other h _

theorem Dev.peerSay_step (d : Dev) (p kind : Nat) (args : List Nat) : Dev.PortStep d (d.peerSay p kind args) := .setPeer d _ _

/-- One message on every link that is up. -/
def Dev.tellPeers (d : Dev) (kind : Nat) (args : Dev → List Nat) : Dev := d.upPeers.foldl (fun e q => e.peerSay q kind (args e)) d

theorem Dev.tellPeers_step (d : Dev) (kind : Nat) (args : Dev → List Nat) : Dev.PortStep d (d.tellPeers kind args) :=
  List.foldlRecOn _ _ (motive := Dev.PortStep d) (.refl d) fun _ he _ _ => he.trans (Dev.peerSay_step _ _ _ _)

/-- The last message that a port sent. -/
def Dev.lastSaid (d : Dev) (p : Nat) : Option (List Byte) := (d.peer p).sent.getLast?

theorem Dev.peerSay_keepsLast (d : Dev) {p q : Nat} (h : q ≠ p) (kind : Nat) (args : List Nat) : (d.peerSay p kind args).lastSaid q = d.lastSaid q :=
  congrArg (fun x : PeerPort => x.sent.getLast?) (d.peerSay_other h kind args)

/-- Each of the ports `l` says a message whose operands no message changes: it is the last of port `p`, where `p` is one of them or had said it
last already. -/
theorem Dev.sayAll_last {kind p : Nat} {args : Dev → List Nat} (hargs : ∀ e q, args (e.peerSay q kind (args e)) = args e) :
    ∀ (l : List Nat) (d : Dev), p ∈ l ∨ d.lastSaid p = some (controlMsg kind (args d)) →
      (l.foldl (fun e q => e.peerSay q kind (args e)) d).lastSaid p = some (controlMsg kind (args d)) := by
  intro l
  induction l with
  | nil => exact fun _ h => h.resolve_left List.not_mem_nil
  | cons q l ih =>
    intro d h
    have hrest := ih (d.peerSay q kind (args d))
    rw [hargs d q] at hrest
    refine hrest ?_
    by_cases hpq : p = q
    · exact .inr (hpq ▸ d.peerSay_last p kind (args d))
    · rw [Dev.peerSay_keepsLast _ hpq]
      exact h.imp_left fun hmem => (List.mem_cons.1 hmem).resolve_left hpq

/-- A message whose operands no message changes is the last one sent on every link that is up. -/
theorem Dev.tellPeers_last {d : Dev} {p : Fin 3} (hup : d.peerUp p.val = true) (kind : Nat) {args : Dev → List Nat}
    (hargs : ∀ e q, args (e.peerSay q kind (args e)) = args e) :
    ((d.tellPeers kind args).peer p.val).sent.getLast? = some (controlMsg kind (args d)) :=
  Dev.sayAll_last hargs _ d (.inl (List.mem_filter.2 ⟨List.mem_range.2 p.isLt, hup⟩))

/-! ### HEARTBEAT, and TIME from the root (R349) -/

theorem Dev.setGang_core (d : Dev) (r : FieldRow) (v : Nat) : (d.setGang r v).core = d.core := rfl

theorem Dev.refreshRoot_core (d : Dev) : d.refreshRoot.core = d.core := ite_both (P := fun e : Dev => e.core = d.core) rfl (d.setGang_core _ _)

theorem Dev.heartbeat_tells (d : Dev) : d.heartbeat = (d.tellPeers 1 fun _ => []).refreshRoot := rfl

/-- The operands of TIME: the reading in whole nanoseconds, and its fraction. -/
def Dev.timeArgs (d : Dev) : List Nat := [d.now, d.reading % 2 ^ 32]

theorem Dev.sendGangTime_root {d : Dev} (hroot : d.isRoot = true) (hgang : d.core.lehr.gangSzM1 ≠ 0) :
    d.sendGangTime = d.tellPeers 4 Dev.timeArgs := if_pos ⟨hroot, hgang⟩

theorem answers_heartbeat {s : State} (hcalm : s.calm = true) (p : Fin 3) : Answers .heartbeat s fun t =>
    s.begin.peerUp p.val = true → (t.begin.peer p.val).sent.getLast? = some (controlMsg 1 []) := by
  have hcore := (s.begin.tellPeers 1 fun _ => []).refreshRoot_core
  refine answers_calm (run_heartbeat s) ?_ fun hup => ?_
  · show (s.begin.tellPeers 1 fun _ => []).refreshRoot.core.fault.raised = []
    rw [hcore, (s.begin.tellPeers_step 1 _).fault]
    exact State.calm_iff.1 hcalm
  · rw [State.commit_peer, Dev.heartbeat_tells, Dev.peer_of_peers (congrArg Core.peers hcore)]
    exact Dev.tellPeers_last hup 1 fun _ _ => rfl

theorem answers_peerTimeSend {s : State} (hcalm : s.calm = true) (hroot : s.begin.isRoot = true) (hgang : s.begin.core.lehr.gangSzM1 ≠ 0)
    (p : Fin 3) : Answers .peerTimeSend s fun t =>
      s.begin.peerUp p.val = true → (t.begin.peer p.val).sent.getLast? = some (controlMsg 4 s.begin.timeArgs) := by
  have hsend := Dev.sendGangTime_root hroot hgang
  refine answers_calm (run_peerTimeSend s) ?_ ?_ <;> simp only [hsend]
  · exact (congrArg FaultSt.raised (s.begin.tellPeers_step 4 _).fault).trans (State.calm_iff.1 hcalm)
  · exact fun hup => Dev.tellPeers_last hup 4 fun _ _ => rfl

/-! ### TIME from the root (R349) -/

/-- The offset of this device's reading from the root's, in nanoseconds. -/
def Dev.rootOffset (d : Dev) (p sentNs sentFrac : Nat) : Int :=
  ((d.reading : Int) - ((sentNs * 2 ^ 32 + sentFrac + (d.peer p).delay * 2 ^ 32 / 10 : Nat) : Int)) / 2 ^ 32

/-- An offset as PR_TIME_OFS holds it. -/
def offsetField (ofs : Int) : Nat := toTwos 32 (max (-(2 ^ 31 - 1)) (min (2 ^ 31 - 1) ofs))

theorem Dev.gangTime_corrects {d : Dev} {p : Nat} (hup : d.peerUp p = true) (hroot : d.get .peer p fPR_STAT_PARTNER = d.get .peer 0 fPR_GANG_ROOT)
    (hself : d.isRoot = false) (hrun : d.gafRuns 0 = true) (ns frac : Nat) : d.gangTime p ns frac =
      (d.set .peer p fPR_TIME_OFS_NS (offsetField (d.rootOffset p ns frac))).servo (d.rootOffset p ns frac) :=
  if_neg (by simp [hup, hroot, hself, hrun])

end Sys2Proof.Machine
end

section
namespace Sys2Proof.Machine

/-! ## A link comes up (R342) -/

/-- An IDENT tells the partner's number and its size strap. -/
def Dev.linkNamed (d : Dev) (p member sizeM1 : Nat) : Dev := (d.set .peer p fPR_STAT_PARTNER member).set .peer p fPR_STAT_PSIZE_M1 sizeM1

/-- A port at the start of a link: nothing is sent, taken or kept, and every channel has its credits. -/
def PeerPort.linked (x : PeerPort) (serial delay : Nat) : PeerPort :=
  { x with serial := serial, txSeq := 0, rxSeq := 0, gap := false, nakSeq := none, naks := 0, kept := [], delay := delay,
           credits := PeerPort.rest.credits }

/-- A port that has trained: its link is up, with every lane in lock. -/
def Dev.linkTrained (d : Dev) (p serial polarity delay : Nat) : Dev :=
  ((((d.setPeer p ((d.peer p).linked serial delay)).set .peer p fPR_STAT_STATE 2).set .peer p fPR_STAT_POL_INV polarity).set
    .peer p fPR_STAT_LOCKED 255).set .peer p fPR_DELAY_DELAY delay

/-- A member that was marked failed is so no longer. -/
def Dev.memberBack (d : Dev) (member : Nat) : Dev :=
  if (d.get .peer 0 fPR_GANG_FAILED).testBit member then d.setGang fPR_GANG_FAILED (d.get .peer 0 fPR_GANG_FAILED - 2 ^ member) else d

/-- The level of the link's fault source ends, and its event source asserts. -/
def Dev.linkTold (d : Dev) (p : Nat) : Dev := (d.endLevel (1796 + p)).linkEvt p 0

/-- What an IDENT of the right partner brings about before the root is chosen anew and the port sends. -/
def Dev.linkUp (d : Dev) (p member sizeM1 serial polarity delay : Nat) : Dev :=
  (((d.linkNamed p member sizeM1).linkTrained p serial polarity delay).memberBack member).linkTold p

/-- The IDENT of another partner, or of another port, than R340 names. -/
def Dev.miswired (d : Dev) (p member sizeM1 : Nat) : Dev :=
  ((d.linkNamed p member sizeM1).set .peer p fPR_STAT_STATE 4).linkEvt p 3

/-- The partner that R340 names at a port. -/
def Dev.rightPartner (d : Dev) (p member sizeM1 port : Nat) : Prop :=
  sizeM1 = d.core.lehr.gangSzM1 ∧ member = d.partner p ∧ member ≤ d.core.lehr.gangSzM1 ∧ port = 2 - p

section
variable {d : Dev} {p member sizeM1 port : Nat} (hgang : d.core.lehr.gangSzM1 ≠ 0) (hcfg : d.get .peer p fPR_CFG_EN ≠ 0)
  (hen : d.enabled (0x38 + p) = true) (hdown : d.get .peer p fPR_STAT_STATE ≠ 2) (hheld : 29 + p ∉ d.core.fault.heldDown)
include hgang hcfg hen hdown hheld

theorem Dev.peerIdent_right (h : d.rightPartner p member sizeM1 port) (serial polarity delay : Nat) :
    d.peerIdent p member sizeM1 port serial polarity delay = (d.linkUp p member sizeM1 serial polarity delay).refreshRoot.peerPump p := by
  unfold Dev.peerIdent
  rw [if_neg (by simp [hgang, hcfg, hen, hdown, hheld])]
  exact if_pos h

theorem Dev.peerIdent_wrong (h : ¬ d.rightPartner p member sizeM1 port) (serial polarity delay : Nat) :
    d.peerIdent p member sizeM1 port serial polarity delay = d.miswired p member sizeM1 := by
  unfold Dev.peerIdent
  rw [if_neg (by simp [hgang, hcfg, hen, hdown, hheld])]
  exact if_neg h

end

theorem Dev.memberBack_core (d : Dev) (member : Nat) : (d.memberBack member).core = d.core := by
  unfold Dev.memberBack
  split
  · exact d.setGang_core _ _
  · rfl

theorem Dev.get_memberBack_link (d : Dev) (p : Fin 3) {q : FieldRow} (hq : q ∈ linkFields) (member : Nat) :
    (d.memberBack member).get .peer p.val q = d.get .peer p.val q := by
  unfold Dev.memberBack
  split
  · exact d.get_setGang_link p hq rfl _
  · rfl

theorem Dev.get_endLevel (d : Dev) (src : Nat) (k : PageKind) (i : Nat) (r : FieldRow) (n : Nat) : (d.endLevel src).get k i r n = d.get k i r n := rfl

theorem Dev.linkTold_peer (d : Dev) (p q : Nat) : (d.linkTold p).peer q = d.peer q := Dev.linkEvt_peer _ p 0 q

theorem Dev.memberBack_peer (d : Dev) (member q : Nat) : (d.memberBack member).peer q = d.peer q :=
  Dev.peer_of_peers (congrArg Core.peers (d.memberBack_core member)) q

theorem Dev.linkTrained_peer (d : Dev) (p serial polarity delay : Nat) : (d.linkTrained p serial polarity delay).peer p = (d.peer p).linked serial delay :=
  d.setPeer_peer p _

theorem Dev.linkNamed_peer (d : Dev) (p member sizeM1 q : Nat) : (d.linkNamed p member sizeM1).peer q = d.peer q := rfl

theorem Dev.linkUp_peer (d : Dev) (p member sizeM1 serial polarity delay : Nat) :
    (d.linkUp p member sizeM1 serial polarity delay).peer p = (d.peer p).linked serial delay := by
  rw [Dev.linkUp, Dev.linkTold_peer, Dev.memberBack_peer, Dev.linkTrained_peer, Dev.linkNamed_peer]

theorem Dev.get_linkTold {d : Dev} (hstill : d.core.lehr.entering = []) (p : Fin 3) {q : FieldRow} (hq : q ∈ linkFields) :
    (d.linkTold p.val).get .peer p.val q = d.get .peer p.val q :=
  (Dev.get_linkEvt (d := d.endLevel (1796 + p.val)) hstill p 0 hq).trans (d.get_endLevel _ _ _ _ _)

/-- The fields of a link that is up are those that training left. -/
theorem Dev.get_linkUp {d : Dev} (hstill : d.core.lehr.entering = []) (p : Fin 3) {q : FieldRow} (hq : q ∈ linkFields)
    (member sizeM1 serial polarity delay : Nat) : (d.linkUp p.val member sizeM1 serial polarity delay).get .peer p.val q =
      ((d.linkNamed p.val member sizeM1).linkTrained p.val serial polarity delay).get .peer p.val q :=
  (Dev.get_linkTold (by rw [Dev.memberBack_core]; exact hstill) p hq).trans (Dev.get_memberBack_link _ p hq member)

theorem Dev.linkTrained_state (d : Dev) (p : Fin 3) (serial polarity delay : Nat) :
    (d.linkTrained p.val serial polarity delay).get .peer p.val fPR_STAT_STATE = 2 := by
  unfold Dev.linkTrained
  rw [Dev.get_setLink_apart _ p (by decide) (by decide), Dev.get_setLink_apart _ p (by decide) (by decide),
    Dev.get_setLink_apart _ p (by decide) (by decide), Dev.get_setLink_own _ p (by decide)]
  rfl

theorem Dev.linkTrained_partner (d : Dev) (p : Fin 3) (serial polarity delay : Nat) :
    (d.linkTrained p.val serial polarity delay).get .peer p.val fPR_STAT_PARTNER = d.get .peer p.val fPR_STAT_PARTNER := by
  unfold Dev.linkTrained
  rw [Dev.get_setLink_apart _ p (by decide) (by decide), Dev.get_setLink_apart _ p (by decide) (by decide),
    Dev.get_setLink_apart _ p (by decide) (by decide), Dev.get_setLink_apart _ p (by decide) (by decide)]
  rfl

theorem Dev.linkNamed_partner (d : Dev) (p : Fin 3) (member : Fin 4) (sizeM1 : Nat) :
    (d.linkNamed p.val member.val sizeM1).get .peer p.val fPR_STAT_PARTNER = member.val :=
  (Dev.get_setLink_apart _ p (by decide) (by decide) _).trans ((d.get_setLink_own p (by decide) _).trans (Nat.mod_eq_of_lt member.isLt))

theorem Dev.miswired_step (d : Dev) (p : Fin 3) (member sizeM1 : Nat) : Dev.PortStep d (d.miswired p.val member sizeM1) :=
  (((Dev.PortStep.set d _ _ _ _ _).trans (.set _ _ _ _ _ _)).trans (.set _ _ _ _ _ _)).trans (Dev.linkEvt_step _ p 3)

theorem Dev.miswired_state {d : Dev} (hstill : d.core.lehr.entering = []) (p : Fin 3) (member sizeM1 : Nat) :
    (d.miswired p.val member sizeM1).get .peer p.val fPR_STAT_STATE = 4 := by
  rw [Dev.miswired, Dev.get_linkEvt (by exact hstill) p 3 (by decide), Dev.get_setLink_own _ p (by decide)]
  rfl

theorem Dev.miswired_partner {d : Dev} (hstill : d.core.lehr.entering = []) (p : Fin 3) (member : Fin 4) (sizeM1 : Nat) :
    (d.miswired p.val member.val sizeM1).get .peer p.val fPR_STAT_PARTNER = member.val := by
  rw [Dev.miswired, Dev.get_linkEvt (by exact hstill) p 3 (by decide), Dev.get_setLink_apart _ p (by decide) (by decide), Dev.linkNamed_partner]

/-! ## Flits (R343, R344) -/

/-- The flit in order is taken: the next is expected, what it acknowledges is let go, and the credits it returns are added. -/
def Dev.flitTaken (d : Dev) (p : Nat) (f : List Byte) : Dev :=
  (d.setPeer p { d.peer p with rxSeq := ((d.peer p).rxSeq + 1) % 4096, gap := false }).peerAck p (fieldLe f 4 2 % 4096) (fieldLe f 6 1) (fieldLe f 7 1)

/-- A NAK names the flit expected, and is counted. -/
def Dev.nakSent (d : Dev) (p : Nat) : Dev :=
  (((d.setPeer p { d.peer p with gap := true }).bump .peer p fPR_ERR_CNT_NAKS).statBit .peer p 5).peerSay p 2 [(d.peer p).rxSeq]

section
variable {d : Dev} {p : Nat} {f : List Byte} (hup : d.peerUp p = true) (hlen : f.length = 256)
include hup hlen

theorem Dev.peerFlit_inOrder (hcrc : crc32c (f.take 252) = fieldLe f 252 4) (hseq : fieldLe f 2 2 % 4096 = (d.peer p).rxSeq) :
    d.peerFlit p f = (if fieldLe f 0 1 = 1 then
      ((d.flitTaken p f).peerPayload p (fieldLe f 1 1 % 4) ((f.drop 8).take 244)).peerSay p 3 [fieldLe f 1 1 % 4, 1] else d.flitTaken p f).peerPump p := by
  unfold Dev.peerFlit
  rw [if_neg (by simp [hup, hlen])]
  dsimp only
  rw [if_neg (not_not_intro hcrc), if_neg (not_not_intro hseq)]
  rfl

theorem Dev.peerFlit_asksAgain (hbad : crc32c (f.take 252) ≠ fieldLe f 252 4 ∨ fieldLe f 2 2 % 4096 ≠ (d.peer p).rxSeq)
    (hgap : (d.peer p).gap = false) : d.peerFlit p f = d.nakSent p := by
  unfold Dev.peerFlit
  rw [if_neg (by simp [hup, hlen])]
  dsimp only
  rw [if_neg (show ¬ (d.peer p).gap = true by simp [hgap])]
  by_cases hcrc : crc32c (f.take 252) = fieldLe f 252 4
  · rw [if_neg (not_not_intro hcrc), if_pos (hbad.resolve_left (not_not_intro hcrc))]
    rfl
  · rw [if_pos hcrc]
    rfl

end

theorem Dev.flitTaken_peer (d : Dev) (p : Nat) (f : List Byte) : ∃ credits, (d.flitTaken p f).peer p =
    { d.peer p with
      rxSeq := ((d.peer p).rxSeq + 1) % 4096, gap := false, credits := credits
      kept := (d.peer p).kept.filter fun k => decide (2048 ≤ (fieldLe f 4 2 % 4096 + 4096 - k.seq) % 4096) } := by
  unfold Dev.flitTaken Dev.peerAck
  simp only [Dev.setPeer_peer]
  exact ⟨_, rfl⟩

theorem Dev.nakSent_step (d : Dev) (p : Nat) : Dev.PortStep d (d.nakSent p) :=
  (((Dev.PortStep.setPeer d _ _).trans (.bump _ _ _ _ _ _)).trans (.statBit _ _ _ _)).trans (Dev.peerSay_step _ _ _ _)

/-- Besides what it sent, the port has only the gap marked. -/
theorem Dev.nakSent_peer (d : Dev) (p : Nat) : ∃ sent, (d.nakSent p).peer p = { d.peer p with gap := true, sent := sent } := by
  have hgap := d.setPeer_peer p { d.peer p with gap := true }
  obtain ⟨sent, hsay⟩ := (((d.setPeer p { d.peer p with gap := true }).bump .peer p fPR_ERR_CNT_NAKS).statBit .peer p 5).peerSay_rest p 2 [(d.peer p).rxSeq]
  exact ⟨sent, hsay.trans (congrArg (fun x : PeerPort => { x with sent := sent }) hgap)⟩

theorem Dev.nakSent_naks (d : Dev) (p : Fin 3) :
    (d.nakSent p.val).get .peer p.val fPR_ERR_CNT_NAKS = min (d.get .peer p.val fPR_ERR_CNT_NAKS + 1) (2 ^ 16 - 1) :=
  (Dev.get_statBit_apart _ .peer p.val 5 (by decide)).trans (Dev.get_bumpLink_own _ p (by decide))

/-! ## A link that is lost (R343) -/

/-- A port whose link is lost: what it kept waits to be sent again. -/
def PeerPort.unlinked (x : PeerPort) : PeerPort :=
  { x with gap := false, nakSeq := none, naks := 0, txq := (x.kept.map fun k => (k.channel, k.payload)) ++ x.txq, kept := [], offered := none }

/-- A lost link retrains; the loss is counted and told. -/
def Dev.linkDropped (d : Dev) (p : Nat) : Dev :=
  ((((d.setPeer p (d.peer p).unlinked).set .peer p fPR_STAT_STATE 3).set .peer p fPR_STAT_LOCKED 0).bump .peer p fPR_ERR_CNT_LOSSES).linkEvt p 1

/-- The reads served to a partner end. -/
def Dev.servedNoMore (d : Dev) (p : Nat) : Dev := { d with core := { d.core with served := d.core.served.filter fun v => v.peer ≠ p } }

/-- What the loss of a link does where no exchange runs and no stream reads from the partner. -/
def Dev.linkGone (d : Dev) (p : Nat) : Dev := ((d.linkDropped p).raiseLevel (1796 + p) (0x900 + p)).servedNoMore p

/-- The decode streams that read from the partner of a port. -/
def Dev.readersFrom (d : Dev) (p : Nat) : List (Nat × DecStream) := d.core.decs.filter fun e => decide (e.2.par.source = 1 ∧ e.2.par.srcId = p)

theorem Dev.Signals.exchange {d d' : Dev} (h : Dev.Signals d d') : d'.core.exchange = d.core.exchange := by
  obtain ⟨_, _, _, e⟩ := h.core
  rw [e]

theorem Dev.peerLost_alone {d : Dev} {p : Nat} (hup : d.get .peer p fPR_STAT_STATE = 2) (hex : d.core.exchange = none) (hreads : d.readersFrom p = []) :
    d.peerLost p = d.linkGone p := by
  have hreaders : ((d.linkDropped p).raiseLevel (1796 + p) (0x900 + p)).readersFrom p = [] :=
    (congrArg (List.filter _) (Dev.linkEvt_signals _ p 1).decs).trans hreads
  have hexchange : (d.linkGone p).core.exchange = none := (Dev.linkEvt_signals _ p 1).exchange.trans hex
  unfold Dev.peerLost
  rw [if_neg (not_not_intro hup)]
  simp only [Dev.linkGone, Dev.servedNoMore, Dev.linkDropped, Dev.linkEvt, PeerPort.unlinked, Dev.readersFrom] at hreaders hexchange ⊢
  rw [hreaders, List.foldl_nil, hexchange]

theorem Dev.linkDropped_peer (d : Dev) (p : Nat) : (d.linkDropped p).peer p = (d.peer p).unlinked :=
  (Dev.linkEvt_peer _ p 1 p).trans (d.setPeer_peer p _)

theorem Dev.get_linkGone (d : Dev) (p : Nat) (k : PageKind) (i : Nat) (r : FieldRow) (n : Nat) : (d.linkGone p).get k i r n = (d.linkDropped p).get k i r n := rfl

theorem Dev.linkGone_peer (d : Dev) (p : Nat) : (d.linkGone p).peer p = (d.peer p).unlinked := d.linkDropped_peer p

theorem Dev.linkGone_served (d : Dev) (p : Nat) : ∀ v ∈ (d.linkGone p).core.served, v.peer ≠ p := fun _ hv =>
  of_decide_eq_true (List.mem_filter.1 hv).2

section
variable {d : Dev} (p : Fin 3) (hstill : d.core.lehr.entering = [])
include hstill

theorem Dev.get_linkGone_link {q : FieldRow} (hq : q ∈ linkFields) : (d.linkGone p.val).get .peer p.val q =
    ((((d.setPeer p.val (d.peer p.val).unlinked).set .peer p.val fPR_STAT_STATE 3).set .peer p.val fPR_STAT_LOCKED 0).bump
      .peer p.val fPR_ERR_CNT_LOSSES).get .peer p.val q := by
  rw [Dev.get_linkGone, Dev.linkDropped, Dev.get_linkEvt (by exact hstill) p 1 hq]

theorem Dev.linkGone_state : (d.linkGone p.val).get .peer p.val fPR_STAT_STATE = 3 := by
  rw [Dev.get_linkGone_link p hstill (by decide), Dev.get_bumpLink_apart _ p (by decide) (by decide),
    Dev.get_setLink_apart _ p (by decide) (by decide), Dev.get_setLink_own _ p (by decide)]
  rfl

theorem Dev.linkGone_locked : (d.linkGone p.val).get .peer p.val fPR_STAT_LOCKED = 0 := by
  rw [Dev.get_linkGone_link p hstill (by decide), Dev.get_bumpLink_apart _ p (by decide) (by decide), Dev.get_setLink_own _ p (by decide)]
  rfl

theorem Dev.linkGone_losses :
    (d.linkGone p.val).get .peer p.val fPR_ERR_CNT_LOSSES = min (d.get .peer p.val fPR_ERR_CNT_LOSSES + 1) (2 ^ 16 - 1) := by
  rw [Dev.get_linkGone_link p hstill (by decide), Dev.get_bumpLink_own _ p (by decide),
    Dev.get_setLink_apart _ p (by decide) (by decide), Dev.get_setLink_apart _ p (by decide) (by decide)]
  rfl

end

/-! ## NAKs (R343) -/

/-- The NAKs of one sequence in a row, with the one that comes. -/
def PeerPort.naksOf (x : PeerPort) (seq : Nat) : Nat := if x.nakSeq = some seq then x.naks + 1 else 1

/-- A NAK is counted. -/
def Dev.nakCounted (d : Dev) (p seq : Nat) : Dev := d.setPeer p { d.peer p with nakSeq := some seq, naks := (d.peer p).naksOf seq }

/-- The bytes that a port has sent. -/
def Dev.sentBytes (d : Dev) (p n : Nat) : Dev := d.bump64 .peer p fPR_TX_LO_BYTES_LO fPR_TX_HI_BYTES_HI n

theorem Dev.sentBytes_step (d : Dev) (p n : Nat) : Dev.PortStep d (d.sentBytes p n) := (Dev.PortStep.set d _ _ _ _ _).trans (.set _ _ _ _ _ _)

section
variable {d : Dev} {p seq : Nat} (hup : d.peerUp p = true)
include hup

theorem Dev.peerNak_resends (hfew : (d.peer p).naksOf seq < 8) : ∃ n, d.peerNak p seq = (d.nakCounted p seq).sentBytes p n := by
  unfold Dev.peerNak
  rw [if_neg (by simp [hup])]
  exact ⟨_, if_neg (Nat.not_le.2 hfew)⟩

theorem Dev.peerNak_loses (hmany : 8 ≤ (d.peer p).naksOf seq) : d.peerNak p seq = (d.nakCounted p seq).peerLost p := by
  unfold Dev.peerNak
  rw [if_neg (by simp [hup])]
  exact if_pos hmany

end

theorem Dev.nakCounted_peer (d : Dev) (p seq : Nat) :
    (d.nakCounted p seq).peer p = { d.peer p with nakSeq := some seq, naks := (d.peer p).naksOf seq } := d.setPeer_peer p _

/-- Fewer than eight NAKs of one sequence: the kept flits go out again, and are kept. -/
theorem answers_peerNak_few {s : State} {p : Fin 3} {seq : BitVec 12} (hcalm : s.calm = true) (hup : s.begin.peerUp p.val = true)
    (hfew : (s.begin.peer p.val).naksOf seq.toNat < 8) : Answers (.peerNak p seq) s fun t =>
      (t.begin.peer p.val).nakSeq = some seq.toNat ∧ (t.begin.peer p.val).naks = (s.begin.peer p.val).naksOf seq.toNat ∧
        (t.begin.peer p.val).kept = (s.begin.peer p.val).kept := by
  obtain ⟨n, hsent⟩ := Dev.peerNak_resends hup hfew
  have hpeer : (s.begin.peerNak p.val seq.toNat).peer p.val = _ := (congrArg (fun e : Dev => e.peer p.val) hsent).trans (s.begin.nakCounted_peer p.val seq.toNat)
  refine answers_calm (run_peerNak p seq s) ?_ ?_
  · rw [hsent]
    exact State.calm_iff.1 hcalm
  · rw [State.commit_peer, hpeer]
    exact ⟨rfl, rfl, rfl⟩

/-- The eighth NAK of one sequence loses the link. -/
theorem exec_peerNak_eighth {s : State} {p : Fin 3} {seq : BitVec 12} (hup : s.begin.peerUp p.val = true)
    (hmany : 8 ≤ (s.begin.peer p.val).naksOf seq.toNat) (hex : s.begin.core.exchange = none) (hreads : s.begin.readersFrom p.val = []) :
    exec (.peerNak p seq) s = .next (s.commit (((s.begin.nakCounted p.val seq.toNat).linkGone p.val).settle 64)) :=
  exec_effect (run_peerNak p seq s) ((Dev.peerNak_loses hup hmany).trans
    (Dev.peerLost_alone (d := s.begin.nakCounted p.val seq.toNat) (Dev.peerUp_iff.1 hup) hex hreads))

/-! ## Peer links -/

/-- Settles O51: each happening is one change of its link, told and counted on the port's page. Where the port sends or the collector acts
afterwards, what a clause says holds of the device as that change leaves it. -/
theorem peerLinksCarryFlitsAndTime : Obligations.PeerLinksCarryFlitsAndTime := by
  intro s p member sizeM1 port serial pol delay flit seq ns frac hcalm hstill d x sz st right n
  have hraised := State.calm_iff.1 hcalm
  refine ⟨fun hgang hcfg hen hdown hheld => ⟨fun hright hquiet => ?_, fun hwrong => ?_⟩, fun hup hlen => ⟨fun hcrc hseq hquiet => ?_, fun hbad hgap => ?_⟩,
    fun hup => ⟨answers_peerNak_few hcalm hup, fun hmany hex hreads => ?_⟩, fun hup hex hreads => ?_, answers_heartbeat hcalm p,
    fun hroot hgang => answers_peerTimeSend hcalm hroot hgang p, fun hup hroot hself hrun hquiet => ?_⟩
  · have hident := Dev.peerIdent_right hgang hcfg hen hdown (by simpa using hheld) hright serial.toNat pol.toNat delay.toNat
    have hpeer := d.linkUp_peer p.val member.val sizeM1.val serial.toNat pol.toNat delay.toNat
    have hget := fun q hq => Dev.get_linkUp (q := q) hstill p hq member.val sizeM1.val serial.toNat pol.toNat delay.toNat
    refine answers_calm (run_peerIdent p member sizeM1 port serial pol delay s) (State.calmFor_iff.1 hquiet) ⟨_, congrArg s.commit hident, ?_, ?_, ?_⟩
    · rw [hget _ (by decide), Dev.linkTrained_state]
    · rw [hget _ (by decide), Dev.linkTrained_partner, Dev.linkNamed_partner]
    · rw [hpeer]
      exact ⟨rfl, rfl, rfl, rfl⟩
  · have hident := Dev.peerIdent_wrong hgang hcfg hen hdown (by simpa using hheld) hwrong serial.toNat pol.toNat delay.toNat
    refine answers_portStep (run_peerIdent p member sizeM1 port serial pol delay s) hident hcalm hstill (Dev.miswired_step _ p _ _) fun hget => ?_
    rw [hget, hget]
    exact ⟨Dev.miswired_state hstill p _ _, Dev.miswired_partner hstill p _ _⟩
  · obtain ⟨credits, hpeer⟩ := d.flitTaken_peer p.val flit
    refine answers_calm (run_peerDataFlit p flit s) (State.calmFor_iff.1 hquiet)
      ⟨d.flitTaken p.val flit, ?_, ?_, ?_, congrArg s.commit (Dev.peerFlit_inOrder hup hlen hcrc hseq)⟩ <;> rw [hpeer]
  · obtain ⟨sent, hpeer⟩ := d.nakSent_peer p.val
    refine answers_portStep (run_peerDataFlit p flit s) (Dev.peerFlit_asksAgain hup hlen hbad hgap) hcalm hstill (d.nakSent_step p.val) fun hget => ?_
    rw [hget, State.commit_peer]
    refine ⟨?_, ?_, Dev.peerSay_last _ _ _ _, d.nakSent_naks p⟩ <;> rw [hpeer]
  · refine ⟨_, exec_peerNak_eighth hup hmany hex hreads, _, rfl, Dev.linkGone_state p hstill, ?_, ?_, Dev.linkGone_losses p hstill⟩ <;>
      rw [Dev.linkGone_peer] <;> rfl
  · refine ⟨_, exec_effect (run_peerLinkLost p s) (Dev.peerLost_alone hup hex hreads), _, rfl, Dev.linkGone_state p hstill, Dev.linkGone_locked p hstill, ?_,
      Dev.linkGone_losses p hstill, d.linkGone_served p.val⟩
    rw [Dev.linkGone_peer]
    rfl
  · have htime := Dev.gangTime_corrects hup hroot hself hrun ns.toNat frac.toNat
    exact answers_calm (run_peerTime p ns frac s) (State.calmFor_iff.1 hquiet)
      ⟨_, congrArg s.commit htime, rfl, d.get_setLink_own p (by decide) _⟩

end Sys2Proof.Machine
end

section
namespace Sys2Proof.Machine

/-! ## The step, its queue and the reset state -/

/-- Settles O1: the front command is taken off the queue, and runs on the state with the rest of it. -/
theorem stepRunsFrontCommand : Obligations.StepRunsFrontCommand := fun _ _ _ => rfl

/-- Settles O3: whatever a command does ends in a commit, which keeps the queue. -/
theorem everyCommandAnswersAndKeepsQueue : Obligations.EveryCommandAnswersAndKeepsQueue := by
  intro c s
  obtain ⟨d, hd⟩ := exec_commit c s
  exact ⟨_, hd, s.commit_pending d⟩

/-- Settles O4: every table of the reset state is empty. -/
theorem resetMeetsInvariant : Obligations.ResetMeetsInvariant := rfl

/-! ## JTAG (R409) -/

/-- JTAG after an instruction is loaded: EXTEST and CLAMP drive the pins and HIGHZ floats them while SYS_RESET_N is low. -/
def Jtag.loaded (j : Jtag) (ir : JtagIr) (low : Bool) : Jtag :=
  { j with
    ir := ir
    dr := if ir = .idcode then jtagId else j.dr
    drivesPins := low && decide (ir = .extest ∨ ir = .clamp)
    floatsPins := low && decide (ir = .highz) }

/-- A command that changes JTAG alone answers the state with JTAG changed. -/
theorem exec_jtag {c : Instr} {s : State} {f : Dev → Dev} {j : Jtag} (he : exec c s = s.run f) (hcalm : s.calm = true)
    (hf : f s.begin = { s.begin with core := { s.core with jtag := j } }) : exec c s = .next (s.withCore { s.core with jtag := j }) := by
  rw [exec_calm he (by rw [hf]; exact State.calm_iff.1 hcalm), hf, State.commit_begin]

/-- A command that loads an instruction. -/
theorem exec_jtagLoad {c : Instr} {s : State} {ir : JtagIr} (he : exec c s = s.run fun d => d.jtagLoad ir) (hcalm : s.calm = true) :
    exec c s = .next (s.withCore { s.core with jtag := s.core.jtag.loaded ir s.core.lehr.pinLow }) := exec_jtag he hcalm rfl

/-- Settles O7: an instruction other than EXTEST, CLAMP and HIGHZ leaves the pins to the block. -/
theorem jtagInstructionsLoad : Obligations.JtagInstructionsLoad := by
  intro s b hcalm
  refine ⟨(exec_jtagLoad (run_bypass s) hcalm).trans ?_, (exec_jtagLoad (run_idcode s) hcalm).trans ?_,
    (exec_jtagLoad (run_samplePreload none s) hcalm).trans ?_,
    (exec_jtag (j := { s.core.jtag.loaded .samplePreload s.core.lehr.pinLow with bsr := b }) (run_samplePreload (some b) s) hcalm rfl).trans ?_,
    (exec_jtagLoad (run_extest s) hcalm).trans ?_, (exec_jtagLoad (run_clamp s) hcalm).trans ?_, (exec_jtagLoad (run_highz s) hcalm).trans ?_⟩ <;>
    simp [Jtag.loaded, jtagId]

end Sys2Proof.Machine
end
section
namespace Sys2Proof.Machine

/-! ## The registers of a domain (Table 20.12) -/

/-- A row covers the offset of each register of its array, -/
theorem FieldRow.covers_within {r : FieldRow} {n : Nat} (hs : 0 < r.stride) (hn : n < r.count) : r.covers (r.off + r.stride * n) = true := by
  have hsub : r.off + r.stride * n - r.off = r.stride * n := by omega
  simp only [FieldRow.covers, decide_eq_true_eq, hsub, Nat.mul_mod_right, Nat.mul_div_cancel_left n hs]
  exact ⟨by omega, trivial, hn⟩

/-- and none before its first or past its last. -/
theorem FieldRow.covers_outside {r : FieldRow} {off : Nat} (hs : 0 < r.stride) (h : off < r.off ∨ r.off + r.stride * r.count ≤ off) :
    r.covers off = false := by
  simp only [FieldRow.covers, decide_eq_false_iff_not]
  rintro ⟨hlo, _, hhi⟩
  have := (Nat.div_lt_iff_lt_mul hs).1 hhi
  rw [Nat.mul_comm] at this
  omega

/-- The fields of LP_DOMn, and those of LP_REFn. -/
def domFields : List FieldRow := [fLP_DOM_REQ, fLP_DOM_STATE, fLP_DOM_BUSY, fLP_DOM_TWAKE, fLP_DOM_IDLE_US]
def refFields : List FieldRow := [fLP_REF_REFUSALS, fLP_REF_REFUSER]

theorem lehrPowerFields_split : kindFields .lehrPower = lehrPowerFields.take 13 ++ domFields ++ refFields := rfl

theorem regFields_dom {n : Nat} (h1 : 1 ≤ n) (hn : n < 202) : regFields .lehrPower (0x400 + 4 * n) = domFields := by
  have hfront : (lehrPowerFields.take 13).filter (·.covers (0x400 + 4 * n)) = [] :=
    List.filter_eq_nil_iff.2 fun r hr => by
      have hr' : 0 < r.stride ∧ r.off + r.stride * r.count ≤ 0x400 := (by decide : ∀ r ∈ lehrPowerFields.take 13, 0 < r.stride ∧ r.off + r.stride * r.count ≤ 0x400) r hr
      rw [FieldRow.covers_outside hr'.1 (.inr (by omega))]
      decide
  have hdom : domFields.filter (·.covers (0x400 + 4 * n)) = domFields :=
    List.filter_eq_self.2 fun r hr => by
      obtain ⟨hoff, hstride, hcount⟩ := (by decide : ∀ r ∈ domFields, r.off = 0x400 ∧ r.stride = 4 ∧ r.count = 202) r hr
      have := FieldRow.covers_within (r := r) (n := n) (by omega) (by omega)
      rwa [hoff, hstride] at this
  have href : refFields.filter (·.covers (0x400 + 4 * n)) = [] :=
    List.filter_eq_nil_iff.2 fun r hr => by
      obtain ⟨hoff, hstride⟩ := (by decide : ∀ r ∈ refFields, r.off = 0xC00 ∧ 0 < r.stride) r hr
      rw [FieldRow.covers_outside hstride (.inl (by omega))]
      decide
  unfold regFields
  rw [if_neg (by omega), if_neg (by omega), lehrPowerFields_split, List.filter_append, List.filter_append, hfront, hdom, href]
  rfl

theorem regFields_ref {n : Nat} (h1 : 1 ≤ n) (hn : n < 202) : regFields .lehrPower (0xC00 + 4 * n) = refFields := by
  have hfront : (lehrPowerFields.take 13 ++ domFields).filter (·.covers (0xC00 + 4 * n)) = [] :=
    List.filter_eq_nil_iff.2 fun r hr => by
      obtain ⟨hstride, hend⟩ := (by decide : ∀ r ∈ lehrPowerFields.take 13 ++ domFields, 0 < r.stride ∧ r.off + r.stride * r.count ≤ 0xC00) r hr
      rw [FieldRow.covers_outside hstride (.inr (by omega))]
      decide
  have href : refFields.filter (·.covers (0xC00 + 4 * n)) = refFields :=
    List.filter_eq_self.2 fun r hr => by
      obtain ⟨hoff, hstride, hcount⟩ := (by decide : ∀ r ∈ refFields, r.off = 0xC00 ∧ r.stride = 4 ∧ r.count = 202) r hr
      have := FieldRow.covers_within (r := r) (n := n) (by omega) (by omega)
      rwa [hoff, hstride] at this
  unfold regFields
  rw [if_neg (by omega), if_neg (by omega), lehrPowerFields_split, List.filter_append, hfront, href]
  rfl

/-- Where the registers of domain `n` stand. -/
theorem fieldAddr_dom {r : FieldRow} (hr : r ∈ domFields) (n : Nat) : fieldAddr .lehrPower 0 r n = 0x1400 + 4 * n := by
  obtain ⟨hoff, hstride⟩ := (by decide : ∀ r ∈ domFields, r.off = 0x400 ∧ r.stride = 4) r hr
  simp only [fieldAddr, PageKind.page, hoff, hstride]

theorem fieldAddr_ref {r : FieldRow} (hr : r ∈ refFields) (n : Nat) : fieldAddr .lehrPower 0 r n = 0x1C00 + 4 * n := by
  obtain ⟨hoff, hstride⟩ := (by decide : ∀ r ∈ refFields, r.off = 0xC00 ∧ r.stride = 4) r hr
  simp only [fieldAddr, PageKind.page, hoff, hstride]

theorem wrMask_lehrPower {off : Nat} (h : off < 4096) : wrMask (0x1000 + off) = rowsMask (regFields .lehrPower off) := by
  have hpage : (0x1000 + off) / 4096 = 1 := by omega
  have hoff : (0x1000 + off) % 4096 = off := by omega
  have hinfo : pageInfo 1 = some ⟨.lehrPower, 2, 0, 1, 1, 0⟩ := by decide
  simp only [wrMask, hpage, hoff, hinfo]

/-- The fields of a domain may change, but for the always-on domain. -/
theorem domFields_ok {r : FieldRow} (hr : r ∈ domFields) {n : Nat} (h1 : 1 ≤ n) (hn : n < 202) : fieldOk .lehrPower 0 r n = true := by
  have hmask : wrMask (fieldAddr .lehrPower 0 r n) = rowsMask domFields := by
    rw [fieldAddr_dom hr, show 0x1400 + 4 * n = 0x1000 + (0x400 + 4 * n) by omega, wrMask_lehrPower (by omega), regFields_dom h1 hn]
  have hrow := (by decide : ∀ r ∈ domFields, rowsMask domFields &&& r.mask = r.mask ∧ r.lo + r.width ≤ 32) r hr
  simp [fieldOk, hmask, hrow]

theorem refFields_ok {r : FieldRow} (hr : r ∈ refFields) {n : Nat} (h1 : 1 ≤ n) (hn : n < 202) : fieldOk .lehrPower 0 r n = true := by
  have hmask : wrMask (fieldAddr .lehrPower 0 r n) = rowsMask refFields := by
    rw [fieldAddr_ref hr, show 0x1C00 + 4 * n = 0x1000 + (0xC00 + 4 * n) by omega, wrMask_lehrPower (by omega), regFields_ref h1 hn]
  have hrow := (by decide : ∀ r ∈ refFields, rowsMask refFields &&& r.mask = r.mask ∧ r.lo + r.width ≤ 32) r hr
  simp [fieldOk, hmask, hrow]

end Sys2Proof.Machine
end

section
namespace Sys2Proof.Machine

/-! ## Fields beside status bits, and counters -/

/-- A status bit stands in a header register, apart from every field of the page's own. -/
theorem Dev.get_statBit (d : Dev) (k : PageKind) (i b : Nat) {r : FieldRow} (h : 0x40 ≤ r.off) (n : Nat) :
    (d.statBit k i b).get k i r n = d.get k i r n := by
  refine congrArg r.ext (d.reg_setReg_other ?_ _)
  unfold fieldAddr
  omega

/-- Every domain but the always-on one and the spine stands where its LP_DOMn says. -/
theorem Dev.domState_of {d : Dev} {n : Nat} (h0 : n ≠ 0) (hspine : n ≠ 0xC9) : d.domState n = d.get .lehrPower 0 fLP_DOM_STATE n :=
  if_neg fun h => h.elim h0 hspine

/-! ## A boot that finds no valid slot (R390) -/

/-- A domain that a boot without a valid slot switches off; the always-on domain and the host port stay. -/
def Dev.domOff (d : Dev) (n : Nat) : Dev := if n = 0 ∨ n = 0xC4 then d else d.set .lehrPower 0 fLP_DOM_STATE 2 n

theorem Dev.domOff_core (d : Dev) (n : Nat) : (d.domOff n).core = d.core :=
  ite_both (P := fun x : Dev => x.core = d.core) rfl rfl

theorem Dev.domOff_touches (d : Dev) {n : Nat} (hn : n < 0xC9) : Dev.Touches [1] d (d.domOff n) :=
  .ite (.refl _ d) (.set _ _ _ _ _ _ (by rw [fieldAddr_dom (r := fLP_DOM_STATE) (by decide)]; simp only [List.mem_singleton]; omega))

/-- A domain switched off reads 2, -/
theorem Dev.domOff_off (d : Dev) {n : Nat} (h1 : 1 ≤ n) (hn : n < 0xC9) (hhost : n ≠ 0xC4) : (d.domOff n).get .lehrPower 0 fLP_DOM_STATE n = 2 := by
  unfold Dev.domOff
  rw [if_neg (by omega)]
  exact d.get_set_fits _ _ _ _ _ (domFields_ok (by decide) h1 (by omega)) (by decide)

/-- and every other domain what it read before. -/
theorem Dev.domOff_other (d : Dev) {n m : Nat} (h : n ≠ m) : (d.domOff m).get .lehrPower 0 fLP_DOM_STATE n = d.get .lehrPower 0 fLP_DOM_STATE n :=
  ite_both (P := fun x : Dev => x.get .lehrPower 0 fLP_DOM_STATE n = d.get .lehrPower 0 fLP_DOM_STATE n) rfl
    (d.get_set_reg _ _ _ _ _ _ _ _ _ (by rw [fieldAddr_dom (by decide), fieldAddr_dom (by decide)]; omega))

/-- The host port stays on. -/
theorem Dev.domOff_hostport (d : Dev) (m : Nat) : (d.domOff m).get .lehrPower 0 fLP_DOM_STATE 0xC4 = d.get .lehrPower 0 fLP_DOM_STATE 0xC4 := by
  by_cases h : 0xC4 = m
  · subst h
    rfl
  · exact d.domOff_other h

theorem Dev.domsOff_core (l : List Nat) (d : Dev) : (l.foldl Dev.domOff d).core = d.core :=
  List.foldlRecOn (motive := fun e : Dev => e.core = d.core) l Dev.domOff rfl fun e he n _ => (e.domOff_core n).trans he

/-- The device before its domains are switched off: CF_BOOT.SLOT shows 2, and boot stands still. -/
def Dev.slotless (d : Dev) : Dev := (d.set .config 0 fCF_BOOT_SLOT 2).modBoot fun b => { b with phase := .noSlot, recs := [], image := [] }

theorem Dev.noSlot_eq (d : Dev) : d.noSlot = (List.range 0xC9).foldl Dev.domOff d.slotless := rfl

theorem Dev.noSlot_core (d : Dev) : d.noSlot.core = d.slotless.core := Dev.domsOff_core _ _

theorem Dev.noSlot_touches (d : Dev) : Dev.Touches [1, 3] d d.noSlot := by
  have hboot : Dev.Touches [1, 3] d d.slotless :=
    (Dev.Touches.set d _ _ _ _ _ (by decide)).trans (.ofCore rfl rfl rfl)
  exact hboot.trans (.foldl _ _ (fun e n hn => (e.domOff_touches (List.mem_range.1 hn)).mono (by decide)) _)

theorem Dev.noSlot_slot (d : Dev) : d.noSlot.get .config 0 fCF_BOOT_SLOT = 2 := by
  have hoff : Dev.Touches [1] d.slotless d.noSlot := .foldl _ _ (fun e n hn => e.domOff_touches (List.mem_range.1 hn)) _
  rw [hoff.get _ _ _ _ (by decide)]
  exact d.get_set_fits .config 0 fCF_BOOT_SLOT 2 0 (by decide) (by decide)

theorem Dev.noSlot_off (d : Dev) {n : Nat} (h1 : 1 ≤ n) (hn : n < 0xC9) (hhost : n ≠ 0xC4) : d.noSlot.get .lehrPower 0 fLP_DOM_STATE n = 2 := by
  rw [Dev.noSlot_eq]
  exact foldl_visits_once (key := id) (before := fun _ => True) (after := fun e : Dev => e.get .lehrPower 0 fLP_DOM_STATE n = 2) (by simpa using List.nodup_range) (List.mem_range.2 hn) (fun _ _ _ _ _ => trivial)
    (fun e _ => e.domOff_off h1 hn hhost) (fun e m _ hne he => (e.domOff_other (Ne.symm hne)).trans he) trivial

theorem Dev.noSlot_hostport (d : Dev) : d.noSlot.get .lehrPower 0 fLP_DOM_STATE 0xC4 = d.get .lehrPower 0 fLP_DOM_STATE 0xC4 := by
  have hslot : d.slotless.get .lehrPower 0 fLP_DOM_STATE 0xC4 = d.get .lehrPower 0 fLP_DOM_STATE 0xC4 := d.get_set_reg _ _ _ _ _ _ _ _ _ (by decide)
  rw [Dev.noSlot_eq]
  exact List.foldlRecOn (motive := fun e : Dev => e.get .lehrPower 0 fLP_DOM_STATE 0xC4 = d.get .lehrPower 0 fLP_DOM_STATE 0xC4) _ Dev.domOff hslot
    fun e he m _ => (e.domOff_hostport m).trans he

/-- The verdicts on both headers stand in CF_BOOT. -/
def Dev.verdictsShown (d : Dev) (va vb : Nat) : Dev := (d.showVerdict 0 va).showVerdict 1 vb

theorem Dev.verdictsShown_core (d : Dev) (va vb : Nat) : (d.verdictsShown va vb).core = d.core := rfl

theorem Dev.verdictsShown_touches (d : Dev) (va vb : Nat) : Dev.Touches [3] d (d.verdictsShown va vb) :=
  (Dev.Touches.set d _ _ _ _ _ (by decide)).trans (.set _ _ _ _ _ _ (by decide))

section
variable {d : Dev} (hphase : d.core.boot.phase = .image)
include hphase

/-- Two headers that are not valid leave the device without a slot. -/
theorem Dev.imageLoaded_noSlot (ha : headerVerdict (d.flashBytes 0 4096) ≠ 0) (hb : headerVerdict (d.flashBytes 0x2000000 4096) ≠ 0) :
    d.imageLoaded = (d.verdictsShown (headerVerdict (d.flashBytes 0 4096)) (headerVerdict (d.flashBytes 0x2000000 4096))).noSlot := by
  unfold Dev.imageLoaded
  rw [if_neg (by simp [hphase])]
  exact if_pos ⟨ha, hb⟩

end

/-- Without a valid slot BAR0 answers, on the boot pages alone. -/
theorem Dev.bootGate_noSlot {d : Dev} (h : d.core.boot.phase = .noSlot) : d.barLive = true ∧ d.bootGate = true := by
  simp [Dev.barLive, Dev.bootGate, h]

theorem bootPage_iff (page : Nat) : bootPage page = true ↔ page ∈ [0, 1, 2, 3, 0xC] := by
  simp only [bootPage, Bool.or_eq_true, decide_eq_true_eq, List.mem_cons, List.not_mem_nil, or_false]
  omega

theorem Dev.readReg_gated {d : Dev} {a : Nat} (hgate : d.bootGate = true) (hpage : bootPage (a / 4096) = false) : d.readReg a = 0 := by
  unfold Dev.readReg
  rw [if_pos]
  rw [show a / 4 * 4 / 4096 = a / 4096 by omega]
  exact ⟨hgate, by simp [hpage]⟩

/-- Settles O57: both verdicts are shown, and what is left of boot is `noSlot`. -/
theorem noValidSlotStaysInBoot : Obligations.NoValidSlotStaysInBoot := by
  intro s n a hcalm hphase hhost ha hb
  obtain ⟨x, hx⟩ : ∃ x, x = s.begin.verdictsShown (headerVerdict (s.begin.flashBytes 0 4096)) (headerVerdict (s.begin.flashBytes 0x2000000 4096)) := ⟨_, rfl⟩
  have heff : s.begin.imageLoaded = x.noSlot := hx ▸ Dev.imageLoaded_noSlot hphase ha hb
  have hcore : x.core = s.core := hx ▸ rfl
  have hshown : Dev.Touches [3] s.begin x := hx ▸ Dev.verdictsShown_touches _ _ _
  have htouch : Dev.Touches [1, 3] s.begin x.noSlot := (hshown.mono (by decide)).trans x.noSlot_touches
  have hboot : (s.commit x.noSlot).core.boot.phase = .noSlot := by
    rw [State.commit_core, Dev.noSlot_core]
    rfl
  have hover : Dev.Over s x.noSlot := htouch.keeps s (Dev.Over.begin s)
  obtain ⟨hlive, hgate⟩ := Dev.bootGate_noSlot (d := (s.commit x.noSlot).begin) (by rw [State.begin_core]; exact hboot)
  refine answers_calm (run_bootImageLoaded s) ?_ ?_ <;> simp only [heff]
  · rw [Dev.noSlot_core]
    exact (congrArg (fun c : Core => c.fault.raised) hcore).trans (State.calm_iff.1 hcalm)
  · refine ⟨hboot, htouch.commit (Dev.Over.begin s) _ _ _ _ (by decide), ?_, ?_, ?_, hlive, ?_, ?_⟩
    · rw [State.commit_get hover, Dev.noSlot_slot]
    · rintro (rfl | rfl | rfl)
      · rfl
      · rw [Dev.domState_of (by decide) (by decide), State.commit_get hover, Dev.noSlot_hostport,
          hshown.get _ _ _ _ (by decide), ← Dev.domState_of (by decide) (by decide)]
        exact hhost
      · rfl
    · intro h1 h2 h3
      rw [Dev.domState_of (by omega) (by omega), State.commit_get hover, Dev.noSlot_off _ h1 (by omega) h3]
    · intro hpage
      rw [(bootPage_iff _).2 hpage]
      exact Bool.and_false _
    · exact fun hpage => Dev.readReg_gated hgate (Bool.eq_false_iff.2 fun h => hpage ((bootPage_iff _).1 h))

end Sys2Proof.Machine
end

section
namespace Sys2Proof.Machine

/-! ## A boot from slot A (R386) -/

theorem Dev.flashBytes_core {d e : Dev} (h : d.core.flash = e.core.flash) (a n : Nat) : d.flashBytes a n = e.flashBytes a n := by
  simp only [Dev.flashBytes, h]

section
variable {d : Dev} {ha hb body : List Byte} (hphase : d.core.boot.phase = .image) (hha : ha = d.flashBytes 0 4096)
  (hhb : hb = d.flashBytes 0x2000000 4096) (hbody : body = d.flashBytes 0x1000 (fieldLe ha 16 4)) (hva : headerVerdict ha = 0)
  (hvb : headerVerdict hb ≠ 0)
include hphase hha hhb hbody hva hvb

/-- With the header of slot A alone valid its body is judged: it is loaded, or no slot is left. -/
theorem Dev.imageLoaded_slotA : d.imageLoaded = if bodyVerdict ha body = 0 then ((d.verdictsShown 0 (headerVerdict hb)).loadImage 0 ha body).startRecs
    else ((d.verdictsShown 0 (headerVerdict hb)).showVerdict 0 (bodyVerdict ha body)).noSlot := by
  have hslot : (d.verdictsShown 0 (headerVerdict hb)).slotBody 0 ha = body := hbody ▸ Dev.flashBytes_core rfl _ _
  have hzero : slotBase 0 = 0 := rfl
  have hone : slotBase 1 = 0x2000000 := rfl
  unfold Dev.imageLoaded
  rw [if_neg (by simp [hphase]), hzero, hone, ← hha, ← hhb]
  simp only [hva]
  rw [Dev.verdictsShown] at hslot
  simp only [hvb, hslot, ne_eq, not_true_eq_false, false_and, if_false, if_true, not_false_eq_true, Nat.sub_zero, Nat.one_ne_zero, Dev.verdictsShown]

end

theorem Dev.keyIn_core (d : Dev) (bank : Nat) : (d.keyIn bank).core = d.core := by
  unfold Dev.keyIn
  split <;> rfl

theorem Dev.firmwareIn_core (d : Dev) (c ver : Nat) : (d.firmwareIn c ver).core = d.core := rfl

/-- The register records of an image (R387). -/
def imageRecs (h body : List Byte) : List CfgRec := match sectionBytes h body 1 with
  | some x => parseRecs (x.length / 16) x
  | none => []

/-- What an image that is loaded leaves behind the registers: its stage key, its allow list and its records. -/
theorem Dev.loadImage_core (d : Dev) (slot : Nat) (h body : List Byte) : ∃ (allow : List Nat) (ver : Nat), (d.loadImage slot h body).core =
    { d.core with
      stageKey := sectionBytes h body 4
      allow := allow
      boot := { d.core.boot with phase := .records, recs := imageRecs h body, image := imageRecs h body, fwVer := ver } } := by
  have hkeys : ∀ e : Dev, ((List.range 32).foldl (fun (e : Dev) b => e.keyIn b) e).core = e.core := fun e =>
    List.foldlRecOn (motive := fun x : Dev => x.core = e.core) _ _ rfl fun x hx b _ => (x.keyIn_core b).trans hx
  have hfw : ∀ (e : Dev) (ver : Nat), ((List.range 8).foldl (fun (e : Dev) c => e.firmwareIn c ver) e).core = e.core := fun e ver =>
    List.foldlRecOn (motive := fun x : Dev => x.core = e.core) _ _ rfl fun x hx c _ => (x.firmwareIn_core c ver).trans hx
  unfold Dev.loadImage Dev.modBoot
  dsimp only
  rw [hfw, hkeys]
  exact ⟨_, _, rfl⟩

/-! ## The end of the records (R387) -/

/-- A channel begins to train (Table 20.10 step 5). -/
def Dev.trainStart (d : Dev) (c : Nat) : Dev := d.set .mem c fMEM_STAT_STATE 1

/-- Boot in its training phase, with no record left. -/
def Dev.recsEnded (d : Dev) : Dev := d.modBoot fun b => { b with phase := .training, recs := [] }

theorem Dev.recsDone_eq (d : Dev) : d.recsDone = (List.range 10).foldl Dev.trainStart d.recsEnded := rfl

theorem Dev.recsDone_core (d : Dev) : d.recsDone.core = d.recsEnded.core :=
  List.foldlRecOn (motive := fun x : Dev => x.core = d.recsEnded.core) _ Dev.trainStart rfl fun _ hx _ _ => hx

theorem memState_ok : ∀ c : Fin 10, fieldOk .mem c.val fMEM_STAT_STATE 0 = true := by decide

theorem fieldAddr_memState (c : Nat) : fieldAddr .mem c fMEM_STAT_STATE 0 = (0x40 + c) * 4096 + 0x40 := by
  simp only [fieldAddr, PageKind.page, fMEM_STAT_STATE, Nat.mul_zero, Nat.add_zero]

theorem Dev.trainStart_same (d : Dev) (c : Fin 10) : (d.trainStart c.val).get .mem c.val fMEM_STAT_STATE = 1 :=
  d.get_set_fits .mem c.val fMEM_STAT_STATE 1 0 (memState_ok c) (by decide)

theorem Dev.trainStart_other (d : Dev) {c k : Nat} (h : c ≠ k) : (d.trainStart k).get .mem c fMEM_STAT_STATE = d.get .mem c fMEM_STAT_STATE :=
  d.get_set_reg _ _ _ _ _ _ _ _ _ (by rw [fieldAddr_memState, fieldAddr_memState]; omega)

/-- Every channel trains. -/
theorem Dev.recsDone_trains (d : Dev) (c : Fin 10) : d.recsDone.get .mem c.val fMEM_STAT_STATE = 1 := by
  rw [Dev.recsDone_eq]
  exact foldl_visits_once (key := id) (before := fun _ => True) (after := fun e : Dev => e.get .mem c.val fMEM_STAT_STATE = 1)
    (by simpa using List.nodup_range) (List.mem_range.2 c.isLt) (fun _ _ _ _ _ => trivial) (fun e _ => e.trainStart_same c)
    (fun e k _ hne he => (e.trainStart_other (Ne.symm hne)).trans he) trivial

/-- Training writes the pages of the channels alone. -/
theorem Dev.recsDone_touches (d : Dev) : Dev.Touches ((List.range 10).map (0x40 + ·)) d d.recsDone := by
  refine Dev.Touches.trans (b := d.recsEnded) (.ofCore rfl rfl rfl) (.foldl Dev.trainStart _ (fun e c hc => .set _ _ _ _ _ _ ?_) _)
  rw [fieldAddr_memState, show ((0x40 + c) * 4096 + 0x40) / 4096 = 0x40 + c by omega]
  exact List.mem_map_of_mem hc

/-- The last record's wait ends: it is counted, and the records have ended. -/
theorem Dev.recWaitEnd_last {d : Dev} {r : CfgRec} (hphase : d.core.boot.phase = .records) (hrecs : d.core.boot.recs = [r]) :
    d.recWaitEnd = (d.countRec (r.op ≠ 2 || d.recHolds r)).recsDone := by
  unfold Dev.recWaitEnd
  rw [if_neg (by simp [hphase]), hrecs]
  rfl

theorem recCounters_ok : ∀ r ∈ [fCF_RECS_APPLIED, fCF_RECS_REJECTED], fieldOk .config 0 r 0 = true := by decide

/-- A record that is not carried out is counted as rejected, another as applied. -/
theorem Dev.countRec_rejected (d : Dev) : (d.countRec false).get .config 0 fCF_RECS_REJECTED = min (d.get .config 0 fCF_RECS_REJECTED + 1) (2 ^ 16 - 1) :=
  d.get_bump_same _ _ _ _ _ (recCounters_ok _ (by decide))
theorem Dev.countRec_applied (d : Dev) : (d.countRec true).get .config 0 fCF_RECS_APPLIED = min (d.get .config 0 fCF_RECS_APPLIED + 1) (2 ^ 16 - 1) :=
  d.get_bump_same _ _ _ _ _ (recCounters_ok _ (by decide))

/-- Settles O58: a valid body is loaded and its records run; the last record's end is `recsDone`. -/
theorem imageIsLoadedAndRecordsEnd : Obligations.ImageIsLoadedAndRecordsEnd := by
  intro s r c hcalm
  refine ⟨fun hphase hva hvb => ?_, fun hphase hrecs => ?_⟩
  · have heff := Dev.imageLoaded_slotA (d := s.begin) hphase rfl rfl rfl hva hvb
    obtain ⟨ha, hha⟩ : ∃ ha, ha = s.begin.flashBytes 0 4096 := ⟨_, rfl⟩
    obtain ⟨hb, hhb⟩ : ∃ hb, hb = s.begin.flashBytes 0x2000000 4096 := ⟨_, rfl⟩
    obtain ⟨body, hbytes⟩ : ∃ body, body = s.begin.flashBytes 0x1000 (fieldLe ha 16 4) := ⟨_, rfl⟩
    simp only [← hha, ← hhb, ← hbytes] at hva hvb ⊢
    have heff := Dev.imageLoaded_slotA (d := s.begin) hphase hha hhb hbytes hva hvb
    by_cases hbody : bodyVerdict ha body = 0
    · rw [if_pos hbody] at heff
      obtain ⟨allow, ver, hcore⟩ := (s.begin.verdictsShown 0 (headerVerdict hb)).loadImage_core 0 ha body
      refine ⟨_, exec_effect (run_bootImageLoaded s) heff, fun h => absurd hbody h, fun _ => ⟨_, rfl, ?_⟩⟩
      rw [hcore]
      exact ⟨rfl, rfl, rfl, rfl⟩
    · rw [if_neg hbody] at heff
      refine answers_calm (run_bootImageLoaded s) ?_ ?_ <;> simp only [heff]
      · rw [Dev.noSlot_core]
        exact State.calm_iff.1 hcalm
      · refine ⟨fun _ => ?_, fun h => absurd h hbody⟩
        rw [State.commit_core, Dev.noSlot_core]
        exact ⟨rfl, rfl⟩
  · obtain ⟨x, hx⟩ : ∃ x, x = s.begin.countRec (r.op ≠ 2 || s.begin.recHolds r) := ⟨_, rfl⟩
    have heff : s.begin.recWaitEnd = x.recsDone := hx ▸ Dev.recWaitEnd_last hphase hrecs
    have hover : Dev.Over s x := hx ▸ (Dev.Over.begin s).bump _ _ _ _ _
    have hcore : x.core = s.core := hx ▸ rfl
    refine answers_calm (run_configRecordWaitEnd s) ?_ ?_ <;> simp only [heff]
    · rw [Dev.recsDone_core]
      exact (congrArg (fun k : Core => k.fault.raised) hcore).trans (State.calm_iff.1 hcalm)
    · rw [State.commit_core, Dev.recsDone_core, State.commit_get (x.recsDone_touches.keeps s hover), x.recsDone_trains]
      refine ⟨rfl, rfl, rfl, fun hop hholds => ?_, fun hop => ?_⟩
      · rw [x.recsDone_touches.commit hover _ _ _ _ (by decide), hx]
        simp only [hop, hholds, ne_eq, not_true_eq_false, decide_false, Bool.or_false]
        exact s.begin.countRec_rejected
      · rw [x.recsDone_touches.commit hover _ _ _ _ (by decide), hx]
        simp only [ne_eq, hop, not_false_eq_true, decide_true, Bool.true_or]
        exact s.begin.countRec_applied

end Sys2Proof.Machine
end

section
namespace Sys2Proof.Machine

/-! ## What a reset of the device leaves (Tables 20.7 and 20.8a) -/

theorem rstCause_ok : ∀ r ∈ [fLS_RST_CAUSE_LAST, fLS_RST_CAUSE_BOOTS], fieldOk .lehrSupply 0 r 0 = true := by decide

theorem RstKind.code_lt (k : RstKind) : k.code < 2 ^ 4 := by cases k <;> decide

/-- LS_RST_CAUSE.LAST names the reset. -/
theorem Dev.deviceReset_cause (d : Dev) (k : RstKind) : (d.deviceReset k).get .lehrSupply 0 fLS_RST_CAUSE_LAST = k.code :=
  Dev.get_set_fits _ .lehrSupply 0 fLS_RST_CAUSE_LAST k.code 0 (rstCause_ok _ (by decide)) k.code_lt

section
variable {s : State} {d e : Dev} {k : RstKind} (ho : Dev.Over s d) (hregs : e.regs = (d.deviceReset k).regs) (hdram : e.dram = (d.deviceReset k).dram)
  (hhost : e.hostMem = (d.deviceReset k).hostMem)
include ho hregs hdram hhost

theorem Dev.Over.ofReset : Dev.Over s e := (ho.deviceReset k).of_eq hregs (by rw [hdram]) (by rw [hhost])

/-- After a command that ends in a reset and changes besides only what lies behind the registers, each register is cleared in the classes
that the reset clears, -/
theorem State.commit_resetReg {a : Nat} (hkeep : k = .host → a ≠ 0xC040) (hcause : a ≠ 0x2070) :
    (s.commit e).begin.reg a = (d.clearReg k.clears a).reg a := by
  rw [State.commit_reg (ho.ofReset hregs hdram hhost), ← d.deviceReset_reg k a hkeep hcause]
  simp only [Dev.reg, hregs]

/-- DRAM reads as unwritten, -/
theorem State.commit_resetDram (b : Nat) : (s.commit e).begin.dramByte b = memDefault b := by
  rw [State.commit_dramByte (ho.ofReset hregs hdram hhost), ← d.deviceReset_dram k b]
  simp only [Dev.dramByte, hdram]

/-- and the cause is named. -/
theorem State.commit_resetCause : (s.commit e).begin.get .lehrSupply 0 fLS_RST_CAUSE_LAST = k.code := by
  rw [State.commit_get (ho.ofReset hregs hdram hhost), Dev.get_of_regs hregs, Dev.deviceReset_cause]

end

/-! ## The resets (R379, R382, R383) -/

/-- A supply reset drops the enables, and the sequence waits to start again. -/
theorem Dev.supplyFails_resets {d : Dev} {r : Nat} (h2 : r ≠ 2) (hphase : d.core.boot.phase ≠ .railFail) (hgood : r ∈ d.core.lehr.seq.good) :
    ∃ good, d.supplyFails r = (d.deviceReset .supply).modSeq fun q => { q with good := good, waiting := true } := by
  unfold Dev.supplyFails
  rw [if_neg (by simp [h2, hphase, hgood])]
  exact ⟨_, rfl⟩

theorem answers_supplyReset {s : State} {rail : Fin 8} (h2 : rail.val ≠ 2) (hphase : s.core.boot.phase ≠ .railFail)
    (hgood : rail.val ∈ s.core.lehr.seq.good) (a b : Nat) : Answers (.supplyReset rail) s fun t =>
      (a ≠ 0x2070 → t.begin.reg a = (s.begin.clearReg [.cfg, .ctl, .sts, .cnt, .lck] a).reg a) ∧ t.begin.dramByte b = memDefault b ∧
      t.core.flash = s.core.flash ∧ t.begin.get .lehrSupply 0 fLS_RST_CAUSE_LAST = 2 ∧ t.core.boot.phase = .sequencing ∧
      t.core.lehr.seq.waiting = true ∧ t.core.slots = [] ∧ t.core.fault.recs = [] := by
  obtain ⟨good, heff⟩ := Dev.supplyFails_resets (d := s.begin) h2 hphase hgood
  have hcore := s.begin.deviceReset_core .supply
  refine answers_calm (run_supplyReset rail s) ?_ ?_ <;> simp only [heff]
  · simp only [Dev.modSeq, Dev.modLehr, hcore]
    rfl
  · refine ⟨fun ha => State.commit_resetReg (Dev.Over.begin s) rfl rfl rfl (fun h => by cases h) ha, State.commit_resetDram (Dev.Over.begin s) rfl rfl rfl b, ?_,
      State.commit_resetCause (Dev.Over.begin s) rfl rfl rfl, ?_⟩ <;> simp only [State.commit_core, Dev.modSeq, Dev.modLehr, hcore, true_and]
    · rfl
    · exact ⟨rfl, rfl, rfl⟩

theorem answers_powerOnReset (s : State) (gid sz : Fin 4) (a b : Nat) : Answers (.powerOnReset gid sz) s fun t =>
      (a ≠ 0x2070 → t.begin.reg a = (s.begin.clearReg [.cfg, .ctl, .sts, .cnt, .lck, .ao] a).reg a) ∧ t.begin.dramByte b = memDefault b ∧
      t.core.flash = s.core.flash ∧ t.begin.get .lehrSupply 0 fLS_RST_CAUSE_LAST = 1 ∧ t.core.boot.phase = .sequencing ∧
      t.core.lehr.gangId = gid.val ∧ t.core.lehr.gangSzM1 = sz.val ∧ t.core.jtag = Jtag.rest := by
  have hcore := s.begin.deviceReset_core .powerOn
  refine answers_calm (run_powerOnReset gid sz s) ?_ ?_ <;> simp only [Dev.powerOn]
  · simp only [Dev.modLehr, hcore]
    rfl
  · refine ⟨fun ha => State.commit_resetReg (Dev.Over.begin s) rfl rfl rfl (fun h => by cases h) ha, State.commit_resetDram (Dev.Over.begin s) rfl rfl rfl b, ?_,
      State.commit_resetCause (Dev.Over.begin s) rfl rfl rfl, ?_⟩ <;> simp only [State.commit_core, Dev.modLehr, hcore, and_true]
    · rfl
    · rfl

/-- SYS_RESET_N that falls after the sequence resets the device, and holds it. -/
theorem Dev.pinLow_resets {d : Dev} (hseq : d.core.boot.phase ≠ .sequencing) (hfail : d.core.boot.phase ≠ .railFail) :
    d.pinLow = ((d.deviceReset .pin).modLehr fun l => { l with pinLow := true }).modBoot fun b => { b with phase := .inReset } := by
  unfold Dev.pinLow
  exact if_neg fun h => h.elim hseq hfail

theorem answers_pinReset {s : State} (hseq : s.core.boot.phase ≠ .sequencing) (hfail : s.core.boot.phase ≠ .railFail) (a b : Nat) :
    Answers .pinReset s fun t =>
      (a ≠ 0x2070 → t.begin.reg a = (s.begin.clearReg [.cfg, .ctl, .sts, .cnt, .lck] a).reg a) ∧ t.begin.dramByte b = memDefault b ∧
      t.core.flash = s.core.flash ∧ t.begin.get .lehrSupply 0 fLS_RST_CAUSE_LAST = 3 ∧ t.core.boot.phase = .inReset ∧
      t.core.lehr.pinLow = true ∧ t.core.time.refPresent = s.core.time.refPresent := by
  have heff := Dev.pinLow_resets (d := s.begin) hseq hfail
  have hcore := s.begin.deviceReset_core .pin
  refine answers_calm (run_pinReset s) ?_ ?_ <;> simp only [heff]
  · simp only [Dev.modBoot, Dev.modLehr, hcore]
    rfl
  · refine ⟨fun ha => State.commit_resetReg (Dev.Over.begin s) rfl rfl rfl (fun h => by cases h) ha, State.commit_resetDram (Dev.Over.begin s) rfl rfl rfl b, ?_,
      State.commit_resetCause (Dev.Over.begin s) rfl rfl rfl, ?_⟩ <;> simp only [State.commit_core, Dev.modBoot, Dev.modLehr, hcore, true_and]
    · rfl
    · rfl

/-! ## Boot begins (R389) -/

/-- A boot that begins is counted. -/
theorem Dev.bootStart_boots (d : Dev) (host : Bool) :
    (d.bootStart host).get .lehrSupply 0 fLS_RST_CAUSE_BOOTS = min (d.get .lehrSupply 0 fLS_RST_CAUSE_BOOTS + 1) (2 ^ 16 - 1) :=
  d.get_bump_same .lehrSupply 0 fLS_RST_CAUSE_BOOTS 1 0 (rstCause_ok _ (by decide))

theorem Dev.bootStart_cause (d : Dev) (host : Bool) :
    (d.bootStart host).get .lehrSupply 0 fLS_RST_CAUSE_LAST = d.get .lehrSupply 0 fLS_RST_CAUSE_LAST :=
  d.get_set_beside .lehrSupply 0 fLS_RST_CAUSE_BOOTS fLS_RST_CAUSE_LAST _ 0 rfl (by decide) (rstCause_ok _ (by decide))

theorem Dev.bootStart_reg (d : Dev) (host : Bool) {a : Nat} (ha : a ≠ 0x2070) : (d.bootStart host).reg a = d.reg a := d.reg_setReg_other ha _

theorem Dev.Over.bootStart {s : State} {d : Dev} (h : Dev.Over s d) (host : Bool) : Dev.Over s (d.bootStart host) :=
  (h.bump .lehrSupply 0 fLS_RST_CAUSE_BOOTS 1 0).of_eq rfl rfl rfl

/-- SYS_RESET_N that rises ends the reset. -/
theorem Dev.pinRelease_boots {d : Dev} (h : d.core.boot.phase = .inReset) :
    d.pinRelease = ((d.modLehr fun l => { l with pinLow := false }).jtagRelease).bootStart false := by
  unfold Dev.pinRelease
  exact if_pos h

theorem answers_pinResetRelease {s : State} (hcalm : s.calm = true) (hphase : s.core.boot.phase = .inReset) : Answers .pinResetRelease s fun t =>
      t.core.boot.phase = .image ∧ t.core.lehr.pinLow = false ∧
      t.begin.get .lehrSupply 0 fLS_RST_CAUSE_BOOTS = min (s.begin.get .lehrSupply 0 fLS_RST_CAUSE_BOOTS + 1) (2 ^ 16 - 1) := by
  have heff := Dev.pinRelease_boots (d := s.begin) hphase
  obtain ⟨x, hx⟩ : ∃ x, x = (s.begin.modLehr fun l => { l with pinLow := false }).jtagRelease := ⟨_, rfl⟩
  rw [← hx] at heff
  have hover : Dev.Over s x := hx ▸ (Dev.Over.begin s).of_eq rfl rfl rfl
  have hboots : x.get .lehrSupply 0 fLS_RST_CAUSE_BOOTS = s.begin.get .lehrSupply 0 fLS_RST_CAUSE_BOOTS := hx ▸ rfl
  refine answers_calm (run_pinResetRelease s) ?_ ?_ <;> simp only [heff]
  · rw [hx]
    exact State.calm_iff.1 hcalm
  · refine ⟨rfl, ?_, ?_⟩
    · rw [hx]
      rfl
    · rw [State.commit_get (hover.bootStart false), Dev.bootStart_boots, hboots]

/-! ## A host reset (R382, R394) -/

/-- The place of Lehr's second page in the block base table. -/
def lehrSupplyInfo : PageInfo := ⟨.lehrSupply, 3, 0, 2, 1, 0⟩

theorem pageInfo_lehrSupply : pageInfo 2 = some lehrSupplyInfo := by decide

/-- LS_RST_REQ is written through a guarded pair. -/
theorem rstReq_guarded : (regFields .lehrSupply 0x06C).isEmpty = false ∧ guardedAt .lehrSupply 0x06C = true ∧
    (regFields .lehrSupply (0x06C + 0x800)).isEmpty = true := by decide

/-- The device after a value stands in LS_RST_REQ. -/
def Dev.rstReqStored (d : Dev) (v : Word) : Dev := d.store .lehrSupply 0x06C (hdrAddr 2 0x06C) v

theorem Dev.rstReqStored_reg (d : Dev) (v : Word) {a : Nat} (ha : a ≠ 0x206C) : (d.rstReqStored v).reg a = d.reg a :=
  d.reg_setReg_other ha _

theorem Dev.busPair_rstReq {s : State} (ho : s.opens 2 = true) (mst : Nat) (v : Word) :
    s.begin.busPair mst 0x206C v = ((s.begin.rstReqStored v).resetRequest v).expirePend 2 := by
  obtain ⟨hfields, hguard, hcomp⟩ := rstReq_guarded
  exact Dev.busPair_open (off := 0x06C) ho pageInfo_lehrSupply (by decide) (by decide) (by decide) hfields hguard hcomp mst v

/-- REQ 1 with KIND 1 resets the device and boots it. -/
theorem Dev.resetRequest_host (d : Dev) (v : Word) :
    d.resetRequest (fLS_RST_REQ_KIND.ins (fLS_RST_REQ_REQ.ins v 1) 1) = (d.deviceReset .host).bootStart true := by
  unfold Dev.resetRequest
  refine if_pos ⟨?_, FieldRow.ext_ins_same _ (by decide) _ _⟩
  rw [FieldRow.ext_ins_other _ _ (by decide)]
  exact FieldRow.ext_ins_same _ (by decide) _ _

/-- The host port's link state stays as it is. -/
theorem Dev.deviceReset_link (d : Dev) : (d.deviceReset .host).reg 0xC040 = d.reg 0xC040 := by
  refine (Dev.reg_setReg_other _ (by decide) _).trans ?_
  refine List.foldlRecOn (motive := fun e : Dev => e.reg 0xC040 = d.reg 0xC040) _ _ rfl fun e he a _ => ?_
  unfold Dev.resetReg
  by_cases h : a = 0xC040
  · rw [if_pos ⟨rfl, h⟩]
    exact he
  · rw [if_neg fun g => h g.2]
    exact (e.clearReg_other _ (Ne.symm h)).trans he

theorem answers_hostReset {s : State} (ho : s.opens 2 = true) (mst : Fin 4096) (v : Word) (a b : Nat) : Answers (.hostReset mst v) s fun t =>
      (a ∉ [0x2070, 0x206C, 0xC040] → t.begin.reg a = (s.begin.clearReg [.cfg, .ctl, .sts, .cnt, .lck] a).reg a) ∧ t.begin.dramByte b = memDefault b ∧
      t.core.flash = s.core.flash ∧ t.begin.get .lehrSupply 0 fLS_RST_CAUSE_LAST = 4 ∧ t.core.boot = ⟨.image, [], [], true, 0⟩ ∧
      t.begin.reg 0xC040 = s.begin.reg 0xC040 := by
  obtain ⟨x, hx⟩ : ∃ x, x = s.begin.rstReqStored (fLS_RST_REQ_KIND.ins (fLS_RST_REQ_REQ.ins v 1) 1) := ⟨_, rfl⟩
  have hkept : ∀ a, a ≠ 0x206C → x.reg a = s.begin.reg a := fun a ha => hx ▸ Dev.rstReqStored_reg _ _ ha
  have hxcore : x.core = s.core := hx ▸ rfl
  have hover : Dev.Over s x := hx ▸ (Dev.Over.begin s).store _ _ _ _
  have hcore := x.deviceReset_core .host
  have hreset : Dev.Over s ((x.deviceReset .host).bootStart true) := (hover.deviceReset .host).bootStart true
  have heff : s.begin.busPair mst.val 0x206C (fLS_RST_REQ_KIND.ins (fLS_RST_REQ_REQ.ins v 1) 1) = (x.deviceReset .host).bootStart true := by
    rw [Dev.busPair_rstReq ho, ← hx, Dev.resetRequest_host, Dev.expirePend_none]
    simp only [Dev.bootStart, Dev.bump_core, hcore]
    rfl
  refine answers_calm (run_hostReset mst v s) ?_ ?_ <;> simp only [heff]
  · simp only [Dev.bootStart, Dev.bump_core, hcore]
    rfl
  · refine ⟨fun ha => ?_, ?_, ?_, ?_, rfl, ?_⟩
    · simp only [List.mem_cons, List.not_mem_nil, or_false, not_or] at ha
      obtain ⟨hcause, hreq, hlink⟩ := ha
      rw [State.commit_reg hreset, Dev.bootStart_reg _ _ hcause, Dev.deviceReset_reg _ _ _ (fun _ => hlink) hcause]
      exact Dev.clearReg_same _ _ (hkept a hreq)
    · rw [State.commit_dramByte hreset]
      exact x.deviceReset_dram .host b
    · simp only [State.commit_core, Dev.bootStart, Dev.bump_core, hcore, hxcore]
      rfl
    · rw [State.commit_get hreset, Dev.bootStart_cause, Dev.deviceReset_cause]
      rfl
    · rw [State.commit_reg hreset, Dev.bootStart_reg _ _ (by decide), Dev.deviceReset_link, hkept _ (by decide)]

/-- Settles O56, one lemma for each reset and one for the release of the pin. -/
theorem resetsClearByClass : Obligations.ResetsClearByClass := fun s mst v _ gid sz a b =>
  ⟨fun h2 hphase hgood => answers_supplyReset h2 hphase hgood a b, answers_powerOnReset s gid sz a b,
    fun hseq hfail => answers_pinReset hseq hfail a b, answers_pinResetRelease, fun ho => answers_hostReset ho mst v a b⟩

end Sys2Proof.Machine
end

section
namespace Sys2Proof.Machine

/-! ## A flash command starts, or is refused (R391) -/

/-- The configuration page's place in the block base table. -/
def configInfo : PageInfo := ⟨.config, 4, 0, 3, 1, 0xC9⟩

theorem pageInfo_config : pageInfo 3 = some configInfo := by decide

/-- CF_FCMD is written through a guarded pair. -/
theorem fcmd_guarded : (regFields .config 0x054).isEmpty = false ∧ guardedAt .config 0x054 = true ∧
    (regFields .config (0x054 + 0x800)).isEmpty = true := by decide

theorem flashStat_ok : ∀ r ∈ [fCF_FSTAT_BUSY, fCF_FSTAT_ERR, fCF_FSTAT_ERR_CODE], fieldOk .config 0 r 0 = true := by decide

/-- The device after a value stands in CF_FCMD. -/
def Dev.fcmdStored (d : Dev) (v : Word) : Dev := d.store .config 0x054 (hdrAddr 3 0x054) v

/-- CF_FCMD is another register than any field at another place. -/
theorem Dev.fcmdStored_get (d : Dev) (v : Word) {k : PageKind} {r : FieldRow} (h : fieldAddr k 0 r 0 ≠ 0x3054) :
    (d.fcmdStored v).get k 0 r = d.get k 0 r :=
  congrArg r.ext (d.reg_setReg_other h _)

theorem Dev.fcmdStored_frozen (d : Dev) (v : Word) : (d.fcmdStored v).frozen = d.frozen := by
  unfold Dev.frozen
  rw [Dev.fcmdStored_get _ _ (by decide)]

theorem Dev.fcmdStored_keyPage (d : Dev) (v : Word) (page : Nat) : (d.fcmdStored v).keyPage page = d.keyPage page := by
  simp only [Dev.keyPage, Dev.flashBytes, show (d.fcmdStored v).core = d.core from d.setReg_core _ _]

theorem Dev.busPair_fcmd {s : State} (ho : s.opens 3 = true) (mst : Nat) (v : Word) :
    s.begin.busPair mst 0x3054 v = ((s.begin.fcmdStored v).flashCommand v).expirePend 3 := by
  obtain ⟨hfields, hguard, hcomp⟩ := fcmd_guarded
  exact Dev.busPair_open (off := 0x054) ho pageInfo_config (by decide) (by decide) (by decide) hfields hguard hcomp mst v

/-- A flash command runs on the page addressed. -/
def Dev.flashStarted (d : Dev) (op : Nat) : Dev :=
  let e := ((d.set .config 0 fCF_FSTAT_ERR 0).set .config 0 fCF_FSTAT_ERR_CODE 0).set .config 0 fCF_FSTAT_BUSY 1
  { e with core := { e.core with flashCmd := some (op, d.get .config 0 fCF_FADDR_PAGE) } }

theorem Dev.Beside.flashStarted (d : Dev) (op : Nat) : Dev.Beside d (d.flashStarted op) := ⟨rfl, rfl, rfl, rfl⟩
theorem Dev.Beside.flashRefuse (d : Dev) (code : Nat) : Dev.Beside d (d.flashRefuse code) := ⟨rfl, rfl, rfl, rfl⟩

theorem Dev.Over.flashStarted {s : State} {d : Dev} (h : Dev.Over s d) (op : Nat) : Dev.Over s (d.flashStarted op) :=
  (((h.set _ _ _ _ _).set _ _ _ _ _).set _ _ _ _ _).of_eq rfl rfl rfl

theorem Dev.flashStarted_core (d : Dev) (op : Nat) :
    (d.flashStarted op).core = { d.core with flashCmd := some (op, d.get .config 0 fCF_FADDR_PAGE) } := rfl

theorem Dev.Over.fcmdStored {s : State} {d : Dev} (h : Dev.Over s d) (v : Word) : Dev.Over s (d.fcmdStored v) := h.store _ _ _ _

theorem Dev.flashStarted_stat (d : Dev) (op : Nat) :
    (d.flashStarted op).get .config 0 fCF_FSTAT_BUSY = 1 ∧ (d.flashStarted op).get .config 0 fCF_FSTAT_ERR = 0 :=
  ⟨Dev.get_set_fits _ .config 0 fCF_FSTAT_BUSY 1 0 (flashStat_ok _ (by decide)) (by decide),
    (Dev.get_set_beside _ .config 0 fCF_FSTAT_BUSY fCF_FSTAT_ERR 1 0 rfl (by decide) (flashStat_ok _ (by decide))).trans
      ((Dev.get_set_beside _ .config 0 fCF_FSTAT_ERR_CODE fCF_FSTAT_ERR 0 0 rfl (by decide) (flashStat_ok _ (by decide))).trans
        (Dev.get_set_fits d .config 0 fCF_FSTAT_ERR 0 0 (flashStat_ok _ (by decide)) (by decide)))⟩

theorem Dev.flashRefuse_stat (d : Dev) {code : Nat} (h : code < 8) :
    (d.flashRefuse code).get .config 0 fCF_FSTAT_ERR = 1 ∧ (d.flashRefuse code).get .config 0 fCF_FSTAT_ERR_CODE = code :=
  ⟨(Dev.get_set_beside _ .config 0 fCF_FSTAT_ERR_CODE fCF_FSTAT_ERR code 0 rfl (by decide) (flashStat_ok _ (by decide))).trans
      (Dev.get_set_fits d .config 0 fCF_FSTAT_ERR 1 0 (flashStat_ok _ (by decide)) (by decide)),
    Dev.get_set_fits _ .config 0 fCF_FSTAT_ERR_CODE code 0 (flashStat_ok _ (by decide)) h⟩

/-- The page addressed lies in the slot that runs. -/
def Dev.onRunningSlot (d : Dev) : Prop :=
  d.get .config 0 fCF_BOOT_SLOT < 2 ∧ d.get .config 0 fCF_FADDR_PAGE / 0x20000 = d.get .config 0 fCF_BOOT_SLOT

section
variable {d : Dev} {v : Word} {op : Nat} (hgo : fCF_FCMD_GO.ext v = 1) (hop : fCF_FCMD_OP.ext v = op) (hrange : 1 ≤ op ∧ op ≤ 3) (hidle : d.core.flashCmd = none)
include hgo hop hrange hidle

theorem Dev.flashCommand_starts (hfree : op ≠ 1 → ¬ d.onRunningSlot) (hthawed : d.frozen = false)
    (hkey : op = 1 → d.keyPage (d.get .config 0 fCF_FADDR_PAGE) = false) : d.flashCommand v = d.flashStarted op := by
  unfold Dev.flashCommand
  simp only [hgo, hop, hidle]
  rw [if_neg (by decide), if_neg (by omega), if_neg fun h => hfree h.1 h.2, if_neg (by rw [hthawed]; simp), if_neg fun h => by simp [hkey h.1] at h]
  rfl

theorem Dev.flashCommand_refused (hchanges : op ≠ 1) (hrun : d.onRunningSlot) : d.flashCommand v = d.flashRefuse 1 := by
  unfold Dev.flashCommand
  simp only [hgo, hop, hidle]
  rw [if_neg (by decide), if_neg (by omega), if_pos ⟨hchanges, hrun⟩]

end

section
variable {c : Instr} {s : State} {mst op : Nat} {v : Word} (he : exec c s = s.run fun d => d.busPair mst 0x3054 v) (ho : s.opens 3 = true)
  (hgo : fCF_FCMD_GO.ext v = 1) (hop : fCF_FCMD_OP.ext v = op) (hrange : 1 ≤ op ∧ op ≤ 3) (hidle : s.core.flashCmd = none)
include he ho hgo hop hrange hidle

theorem answers_flashStarts (hfree : op ≠ 1 → ¬ s.begin.onRunningSlot) (hkey : op = 1 → s.begin.keyPage (s.begin.get .config 0 fCF_FADDR_PAGE) = false) :
    Answers c s fun t => t.core.flashCmd = some (op, s.begin.get .config 0 fCF_FADDR_PAGE) ∧ t.begin.get .config 0 fCF_FSTAT_BUSY = 1 ∧
      t.begin.get .config 0 fCF_FSTAT_ERR = 0 ∧ t.core.flash = s.core.flash := by
  have hpage := s.begin.fcmdStored_get v (k := .config) (r := fCF_FADDR_PAGE) (by decide)
  have hslot := s.begin.fcmdStored_get v (k := .config) (r := fCF_BOOT_SLOT) (by decide)
  have hstart : (s.begin.fcmdStored v).flashCommand v = (s.begin.fcmdStored v).flashStarted op := by
    refine Dev.flashCommand_starts hgo hop hrange hidle ?_ ((s.begin.fcmdStored_frozen v).trans (State.opens_elim ho).thawed) ?_
    · unfold Dev.onRunningSlot
      rw [hpage, hslot]
      exact hfree
    · rw [hpage, Dev.fcmdStored_keyPage]
      exact hkey
  obtain ⟨hbusy, herr⟩ := (s.begin.fcmdStored v).flashStarted_stat op
  have hover := ((Dev.Over.begin s).fcmdStored v).flashStarted op
  refine answers_written he ho ((Dev.busPair_fcmd ho mst v).trans (congrArg (Dev.expirePend · 3) hstart))
    ((Dev.Beside.store _ _ _ _ v).trans (Dev.Beside.flashStarted _ op)) ⟨?_, ?_, ?_, rfl⟩
  · rw [State.commit_core, Dev.flashStarted_core, hpage]
  · rw [State.commit_get hover]
    exact hbusy
  · rw [State.commit_get hover]
    exact herr

theorem answers_flashRefused (hchanges : op ≠ 1) (hrun : s.begin.onRunningSlot) : Answers c s fun t =>
    t.core.flashCmd = none ∧ t.begin.get .config 0 fCF_FSTAT_ERR = 1 ∧ t.begin.get .config 0 fCF_FSTAT_ERR_CODE = 1 ∧ t.core.flash = s.core.flash := by
  have hrefuse : (s.begin.fcmdStored v).flashCommand v = (s.begin.fcmdStored v).flashRefuse 1 := by
    refine Dev.flashCommand_refused hgo hop hrange hidle hchanges ?_
    unfold Dev.onRunningSlot
    rw [s.begin.fcmdStored_get v (by decide), s.begin.fcmdStored_get v (by decide)]
    exact hrun
  obtain ⟨herr, hcode⟩ := (s.begin.fcmdStored v).flashRefuse_stat (code := 1) (by decide)
  have hover : Dev.Over s ((s.begin.fcmdStored v).flashRefuse 1) := (((Dev.Over.begin s).fcmdStored v).set _ _ _ _ _).set _ _ _ _ _
  refine answers_written he ho ((Dev.busPair_fcmd ho mst v).trans (congrArg (Dev.expirePend · 3) hrefuse))
    ((Dev.Beside.store _ _ _ _ v).trans (Dev.Beside.flashRefuse _ 1)) ⟨hidle, ?_, ?_, rfl⟩
  · rw [State.commit_get hover]
    exact herr
  · rw [State.commit_get hover]
    exact hcode

end

/-! ## A flash command completes (R391) -/

/-- A byte of the flash. -/
def flashByte (f : List Host.Cell) (k : Nat) : Byte := Sparse.get flashDefault f k

/-- The command is over, and its unit is no longer busy. -/
def Dev.flashIdle (d : Dev) : Dev := { d.set .config 0 fCF_FSTAT_BUSY 0 with core := { d.core with flashCmd := none } }

theorem Dev.flashIdle_core (d : Dev) : d.flashIdle.core = { d.core with flashCmd := none } := rfl
theorem Dev.Over.flashIdle {s : State} {d : Dev} (h : Dev.Over s d) : Dev.Over s d.flashIdle := (h.set _ _ _ _ _).of_eq rfl rfl rfl

/-- CF_BUF stands behind the status of the flash commands. -/
theorem Dev.flashIdle_reg (d : Dev) {a : Nat} (h : a ≠ 0x3058) : d.flashIdle.reg a = d.reg a :=
  d.reg_setReg_other h _

theorem Dev.flashIdle_buffer (d : Dev) : d.flashIdle.flashBuffer = d.flashBuffer := by
  have hword (n : Nat) : d.flashIdle.reg (0x3400 + 4 * n) = d.reg (0x3400 + 4 * n) := d.flashIdle_reg (by omega)
  simp only [Dev.flashBuffer, hword]

/-- A page read fills one word of CF_BUF. -/
def Dev.bufferWord (a : Nat) (d : Dev) (n : Nat) : Dev := d.setReg (0x3400 + 4 * n) (BitVec.ofNat 32 (ofLe (d.flashBytes (a + 4 * n) 4)))

/-- A program writes one byte of the flash. -/
def Dev.programByte (a : Nat) (buf : List Byte) (d : Dev) (i : Nat) : Dev :=
  d.setFlash (a + i) (programmed (flashByte d.core.flash (a + i)) (buf.getD i 0))

/-- An erase drops each byte of a block of 64 KiB. -/
def Dev.eraseBlock (d : Dev) (b : Nat) : Dev :=
  { d with core := { d.core with flash := d.core.flash.filter fun p => !decide (p.1 / 65536 = b) } }

theorem Dev.flashDone_read {d : Dev} {page : Nat} (h : d.core.flashCmd = some (1, page)) :
    d.flashDone false = ((List.range 64).foldl (Dev.bufferWord (page * 256)) d.flashIdle).statBit .config 0 1 := by
  unfold Dev.flashDone
  rw [h]
  rfl

theorem Dev.flashDone_program {d : Dev} {page : Nat} (h : d.core.flashCmd = some (2, page)) :
    d.flashDone false = ((List.range 256).foldl (Dev.programByte (page * 256) d.flashIdle.flashBuffer) d.flashIdle).statBit .config 0 1 := by
  unfold Dev.flashDone
  rw [h]
  rfl

theorem Dev.flashDone_erase {d : Dev} {page : Nat} (h : d.core.flashCmd = some (3, page)) :
    d.flashDone false = (d.flashIdle.eraseBlock (page * 256 / 65536)).statBit .config 0 1 := by
  unfold Dev.flashDone
  rw [h]
  rfl

theorem Dev.Over.statBit {s : State} {d : Dev} (h : Dev.Over s d) (k : PageKind) (i b : Nat) : Dev.Over s (d.statBit k i b) := h.stat _ _

/-- A page read leaves the core alone, -/
theorem Dev.readPage_core (a : Nat) (l : List Nat) (d : Dev) : (l.foldl (Dev.bufferWord a) d).core = d.core :=
  List.foldlRecOn (motive := fun e : Dev => e.core = d.core) l _ rfl fun _ he _ _ => he

theorem Dev.readPage_over {s : State} (a : Nat) (l : List Nat) {d : Dev} (h : Dev.Over s d) : Dev.Over s (l.foldl (Dev.bufferWord a) d) :=
  List.foldlRecOn (motive := Dev.Over s) l _ h fun _ he _ _ => he.setReg _ _

/-- CF_BUF holds whole words. -/
theorem bufferWord_whole : ∀ n < 64, wrMask (0x3400 + 4 * n) = BitVec.allOnes 32 := by decide

/-- and each word of CF_BUF holds its bytes of the flash. -/
theorem Dev.readPage_word (a : Nat) (d : Dev) {n : Nat} (hn : n < 64) :
    ((List.range 64).foldl (Dev.bufferWord a) d).reg (0x3400 + 4 * n) = BitVec.ofNat 32 (ofLe (d.flashBytes (a + 4 * n) 4)) := by
  refine (foldl_visits_once (step := Dev.bufferWord a) (key := id) (before := fun e : Dev => e.core = d.core)
    (after := fun e : Dev => e.core = d.core ∧ e.reg (0x3400 + 4 * n) = BitVec.ofNat 32 (ofLe (d.flashBytes (a + 4 * n) 4)))
    (by rw [List.map_id]; exact List.nodup_range) (List.mem_range.2 hn) (fun _ _ _ _ h => h) (fun e he => ⟨he, ?_⟩) (fun e k _ hk ⟨hcore, hreg⟩ => ⟨hcore, ?_⟩) rfl).2
  · unfold Dev.bufferWord
    rw [Dev.reg_setReg_same, regVal, bufferWord_whole n hn]
    simp only [Dev.flashBytes, he, BitVec.and_allOnes, BitVec.not_allOnes, BitVec.and_zero, BitVec.or_zero]
  · have hne : n ≠ k := fun h => hk h.symm
    exact (Dev.reg_setReg_other _ (by omega) _).trans hreg

/-- A program changes the flash alone, -/
theorem Dev.program_core (a : Nat) (buf : List Byte) (l : List Nat) (d : Dev) :
    ∃ f, (l.foldl (Dev.programByte a buf) d).core = { d.core with flash := f } :=
  List.foldlRecOn (motive := fun e : Dev => ∃ f, e.core = { d.core with flash := f }) l _ ⟨_, rfl⟩ fun e ⟨_, he⟩ i _ =>
    ⟨_, congrArg (fun c : Core => { c with flash := Sparse.set flashDefault e.core.flash (a + i) (programmed (flashByte e.core.flash (a + i)) (buf.getD i 0)) }) he⟩

theorem Dev.programByte_other (a : Nat) (buf : List Byte) (d : Dev) {i k : Nat} (h : k ≠ a + i) :
    flashByte (d.programByte a buf i).core.flash k = flashByte d.core.flash k := Sparse.get_set_other _ _ h _

/-- programs each byte of its page once, and no other byte. -/
theorem Dev.program_flash (a : Nat) (buf : List Byte) (d : Dev) (k : Nat) :
    flashByte ((List.range 256).foldl (Dev.programByte a buf) d).core.flash k =
      if a ≤ k ∧ k < a + 256 then programmed (flashByte d.core.flash k) (buf.getD (k - a) 0) else flashByte d.core.flash k := by
  by_cases h : a ≤ k ∧ k < a + 256
  · obtain ⟨i, rfl⟩ := Nat.exists_eq_add_of_le h.1
    rw [if_pos h, Nat.add_sub_cancel_left]
    refine foldl_visits_once (step := Dev.programByte a buf) (key := id) (b := i) (before := fun e : Dev => flashByte e.core.flash (a + i) = flashByte d.core.flash (a + i))
      (after := fun e : Dev => flashByte e.core.flash (a + i) = programmed (flashByte d.core.flash (a + i)) (buf.getD i 0))
      (by rw [List.map_id]; exact List.nodup_range) (List.mem_range.2 (by omega)) (fun e j _ hj he => ?_) (fun e he => ?_) (fun e j _ hj he => ?_) rfl
    · exact (e.programByte_other a buf fun g => hj (Nat.add_left_cancel g).symm).trans he
    · rw [← he]
      exact Sparse.get_set_same _ _ _ _
    · exact (e.programByte_other a buf fun g => hj (Nat.add_left_cancel g).symm).trans he
  · rw [if_neg h]
    refine List.foldlRecOn (motive := fun e : Dev => flashByte e.core.flash k = flashByte d.core.flash k) _ _ rfl fun e he i hi => ?_
    have := List.mem_range.1 hi
    exact (e.programByte_other a buf (by omega)).trans he

/-- A byte of the flash that an erase drops reads as erased, the others as before. -/
theorem flashByte_filter (f : List Host.Cell) (b k : Nat) :
    flashByte (f.filter fun p => !decide (p.1 / 65536 = b)) k = if k / 65536 = b then 0xFF else flashByte f k := by
  induction f with
  | nil => exact (ite_self (c := k / 65536 = b) (0xFF : Byte)).symm
  | cons p f ih =>
    obtain ⟨j, x⟩ := p
    unfold flashByte at ih ⊢
    by_cases hj : j = k
    · subst hj
      by_cases hb : j / 65536 = b <;> simp [hb, ih, Sparse.get]
    · by_cases hb : j / 65536 = b <;> simp [hb, ih, Sparse.get, hj]

section
variable {s : State} {page : Nat} (hcalm : s.calm = true)
include hcalm

theorem answers_flashRead (h : s.core.flashCmd = some (1, page)) {n : Nat} (hn : n < 64) : Answers (.flashCommandDone false) s fun t =>
    t.core.flashCmd = none ∧ t.begin.reg (0x3400 + 4 * n) = BitVec.ofNat 32 (ofLe (s.begin.flashBytes (page * 256 + 4 * n) 4)) ∧ t.core.flash = s.core.flash := by
  have heff := Dev.flashDone_read (d := s.begin) h
  have hcore := Dev.readPage_core (page * 256) (List.range 64) s.begin.flashIdle
  rw [Dev.flashIdle_core] at hcore
  refine answers_calm (run_flashCommandDone false s) ?_ ?_ <;> simp only [heff]
  · rw [Dev.statBit_core, hcore]
    exact State.calm_iff.1 hcalm
  · refine ⟨?_, ?_, ?_⟩
    · rw [State.commit_core, Dev.statBit_core, hcore]
    · have hover := (Dev.readPage_over (page * 256) (List.range 64) (Dev.Over.begin s).flashIdle).statBit .config 0 1
      rw [State.commit_reg hover]
      exact (Dev.reg_setReg_other _ (by change 0x3400 + 4 * n ≠ 0x300C; omega) _).trans (Dev.readPage_word _ _ hn)
    · rw [State.commit_core, Dev.statBit_core, hcore]
      rfl

theorem answers_flashProgram (h : s.core.flashCmd = some (2, page)) (a : Nat) : Answers (.flashCommandDone false) s fun t =>
    t.core.flashCmd = none ∧ flashByte t.core.flash a =
      if page * 256 ≤ a ∧ a < page * 256 + 256 then programmed (flashByte s.core.flash a) (s.begin.flashBuffer.getD (a - page * 256) 0) else flashByte s.core.flash a := by
  have heff := Dev.flashDone_program (d := s.begin) h
  obtain ⟨f, hcore⟩ := Dev.program_core (page * 256) s.begin.flashIdle.flashBuffer (List.range 256) s.begin.flashIdle
  rw [Dev.flashIdle_core] at hcore
  refine answers_calm (run_flashCommandDone false s) ?_ ?_ <;> simp only [heff]
  · rw [Dev.statBit_core, hcore]
    exact State.calm_iff.1 hcalm
  · rw [State.commit_core, Dev.statBit_core]
    refine ⟨by rw [hcore], ?_⟩
    rw [Dev.program_flash, Dev.flashIdle_buffer]
    rfl

theorem answers_flashErase (h : s.core.flashCmd = some (3, page)) (a : Nat) : Answers (.flashCommandDone false) s fun t =>
    t.core.flashCmd = none ∧ flashByte t.core.flash a = if a / 65536 = page * 256 / 65536 then 0xFF else flashByte s.core.flash a := by
  have heff := Dev.flashDone_erase (d := s.begin) h
  refine answers_calm (run_flashCommandDone false s) ?_ ?_ <;> simp only [heff]
  · exact State.calm_iff.1 hcalm
  · exact ⟨rfl, flashByte_filter s.core.flash _ a⟩

end

end Sys2Proof.Machine
end

section
namespace Sys2Proof.Machine

/-! ## Board tests (R408) -/

/-- What is written to DEV_TEST to start a test of a kind on a unit. -/
def testWord (k i l : Nat) : Word := BitVec.ofNat 32 (2 ^ 31 + k * 2 ^ 24 + i * 2 ^ 16 + l * 2 ^ 8)

theorem testWord_fields {k : Nat} (hk : k < 5) (i : Fin 32) (l : Fin 4) : fDEV_TEST_GO.ext (testWord k i.val l.val) = 1 ∧
    fDEV_TEST_KIND.ext (testWord k i.val l.val) = k ∧ fDEV_TEST_INDEX.ext (testWord k i.val l.val) = i.val ∧
    fDEV_TEST_LOOP.ext (testWord k i.val l.val) = l.val := by
  have hi := i.isLt
  have hl := l.isLt
  have hword : (testWord k i.val l.val).toNat = 2 ^ 31 + k * 2 ^ 24 + i.val * 2 ^ 16 + l.val * 2 ^ 8 := by
    rw [testWord, BitVec.toNat_ofNat, Nat.mod_eq_of_lt (by omega)]
  simp only [FieldRow.ext, BitVec.toNat_ushiftRight, hword, Nat.shiftRight_eq_div_pow, FieldRow.width, fDEV_TEST_GO, fDEV_TEST_KIND, fDEV_TEST_INDEX, fDEV_TEST_LOOP]
  omega

/-- DEV_TEST is written through a guarded pair. -/
theorem devTest_guarded : (regFields .device 0x080).isEmpty = false ∧ guardedAt .device 0x080 = true ∧
    (regFields .device (0x080 + 0x800)).isEmpty = true := by decide

/-- The states of the domains stand on another page than the device's. -/
theorem Dev.Touches.domState {d d' : Dev} (h : Dev.Touches [0] d d') (n : Nat) : d'.domState n = d.domState n := by
  have hpage : fieldAddr .lehrPower 0 fLP_DOM_STATE n = 0x1400 + 4 * n := fieldAddr_dom (by decide) n
  unfold Dev.domState
  rw [h.get _ _ _ _ (by rw [hpage, List.mem_singleton]; omega)]

/-- A test that may start runs, and its write takes effect. -/
theorem Dev.testStart_runs {d : Dev} {v : Word} {k i l : Nat} (hfields : fDEV_TEST_GO.ext v = 1 ∧ fDEV_TEST_KIND.ext v = k ∧
    fDEV_TEST_INDEX.ext v = i ∧ fDEV_TEST_LOOP.ext v = l) (hmode : d.modeShown = 11) (hfree : d.core.test = none) (hunit : i < testUnits k)
    (hon : d.domState (pageDom (testPage k i)) ≠ 2) :
    (d.testStart v).2 = true ∧ (d.testStart v).1.core.test = some ⟨k, i, if l = 1 then 1 else 0⟩ := by
  obtain ⟨hgo, hkind, hindex, hloop⟩ := hfields
  have hkept : Dev.Touches [0] d ((d.set .device 0 fDEV_TEST_STAT_DONE 0).set .device 0 fDEV_TEST_STAT_PASS 0) :=
    (Dev.Touches.set _ _ _ _ _ _ (by decide)).trans (Dev.Touches.set _ _ _ _ _ _ (by decide))
  unfold Dev.testStart
  rw [hgo, hkind, hindex, hloop, if_neg (by decide), if_neg (by simp [hmode, hfree, hunit])]
  dsimp only
  rw [hkept.domState, if_neg hon]
  exact ⟨rfl, rfl⟩

/-- The half of a guarded pair that waits is no part of a test. -/
theorem Dev.expirePend_test (d : Dev) (page : Nat) : (d.expirePend page).core.test = d.core.test := by
  unfold Dev.expirePend
  split
  · refine ite_both (P := fun e : Dev => e.core.test = d.core.test) ?_ rfl
    unfold Dev.dropPend
    split <;> rfl
  · rfl

/-- A pair on DEV_TEST of an open device page stores its value where the test takes effect. -/
theorem Dev.busPair_devTest {s : State} {v : Word} (ho : s.opens 0 = true) (htakes : (s.begin.testStart v).2 = true) (mst : Nat) :
    s.begin.busPair mst 0x80 v = ((s.begin.testStart v).1.store .device 0x080 (hdrAddr 0 0x080) v).expirePend 0 := by
  obtain ⟨hfields, hguard, hcomp⟩ := devTest_guarded
  have hact : (s.begin.writeAct mst deviceInfo.ofKind 0 0x080 v).1 =
      if (s.begin.testStart v).2 = true then (s.begin.testStart v).1.store .device 0x080 (hdrAddr 0 0x080) v else (s.begin.testStart v).1 := rfl
  have hpair := Dev.busPair_open (off := 0x080) ho pageInfo_device (by decide) (by decide) (by decide) hfields hguard hcomp mst v
  rw [hact, if_pos htakes] at hpair
  exact hpair

/-- A pair on DEV_TEST starts its test. -/
theorem answers_testStarts {c : Instr} {s : State} {mst k i l : Nat} {v : Word} (he : exec c s = s.run fun d => d.busPair mst 0x80 v) (ho : s.opens 0 = true)
    (hfields : fDEV_TEST_GO.ext v = 1 ∧ fDEV_TEST_KIND.ext v = k ∧ fDEV_TEST_INDEX.ext v = i ∧ fDEV_TEST_LOOP.ext v = l) (hmode : s.begin.modeShown = 11)
    (hfree : s.core.test = none) (hunit : i < testUnits k) (hon : s.begin.domState (pageDom (testPage k i)) ≠ 2)
    (hcalm : s.calmFor (fun d => d.busPair mst 0x80 v) = true) : Answers c s fun t => t.core.test = some ⟨k, i, if l = 1 then 1 else 0⟩ := by
  obtain ⟨htakes, htest⟩ := Dev.testStart_runs hfields hmode hfree hunit hon
  refine answers_calm he (List.isEmpty_iff.1 hcalm) ?_
  rw [State.commit_core, Dev.busPair_devTest ho htakes, Dev.expirePend_test]
  exact htest

/-! ## A board test ends -/

theorem testResult_ok : ∀ r ∈ [fDEV_TEST_STAT_BUSY, fDEV_TEST_STAT_DONE, fDEV_TEST_STAT_PASS, fDEV_TEST_STAT_ERRORS, fDEV_TEST_MASK_FAILED],
    fieldOk .device 0 r 0 = true := by decide

/-- The result of a test. -/
def Dev.testResult (d : Dev) (pass errors failed : Nat) : Dev :=
  ((((d.set .device 0 fDEV_TEST_STAT_BUSY 0).set .device 0 fDEV_TEST_STAT_DONE 1).set .device 0 fDEV_TEST_STAT_PASS pass).set .device 0 fDEV_TEST_STAT_ERRORS
    errors).set .device 0 fDEV_TEST_MASK_FAILED failed

theorem Dev.Over.testResult {s : State} {d : Dev} (h : Dev.Over s d) (pass errors failed : Nat) : Dev.Over s (d.testResult pass errors failed) :=
  ((((h.set _ _ _ _ _).set _ _ _ _ _).set _ _ _ _ _).set _ _ _ _ _).set _ _ _ _ _

/-- Each field of the result reads what it was set to: the fields written after it are others. -/
theorem Dev.testResult_fields (d : Dev) {pass errors failed : Nat} (hpass : pass < 2) (herrors : errors < 2 ^ 16) (hfailed : failed < 2 ^ 32) :
    let e := d.testResult pass errors failed
    e.get .device 0 fDEV_TEST_STAT_BUSY = 0 ∧ e.get .device 0 fDEV_TEST_STAT_DONE = 1 ∧ e.get .device 0 fDEV_TEST_STAT_PASS = pass ∧
      e.get .device 0 fDEV_TEST_STAT_ERRORS = errors ∧ e.get .device 0 fDEV_TEST_MASK_FAILED = failed := by
  have hset (d : Dev) (r : FieldRow) (v : Nat) := fun hr hv => Dev.get_set_fits d .device 0 r v 0 (testResult_ok r hr) hv
  have hkept (d : Dev) (r q : FieldRow) (v : Nat) := fun hq h => Dev.get_set_apart d .device 0 (r := r) (testResult_ok q hq) h v
  unfold Dev.testResult
  refine ⟨?_, ?_, ?_, ?_, ?_⟩
  · rw [hkept _ _ _ _ (by decide) (by decide), hkept _ _ _ _ (by decide) (by decide), hkept _ _ _ _ (by decide) (by decide),
      hkept _ _ _ _ (by decide) (by decide), hset _ _ _ (by decide) (by decide)]
  · rw [hkept _ _ _ _ (by decide) (by decide), hkept _ _ _ _ (by decide) (by decide), hkept _ _ _ _ (by decide) (by decide),
      hset _ _ _ (by decide) (by decide)]
  · rw [hkept _ _ _ _ (by decide) (by decide), hkept _ _ _ _ (by decide) (by decide), hset _ _ _ (by decide) hpass]
  · rw [hkept _ _ _ _ (by decide) (by decide), hset _ _ _ (by decide) herrors]
  · rw [hset _ _ _ (by decide) hfailed]

/-- A test that is no line test leaves its result. -/
theorem Dev.testDone_leaves {d : Dev} {b : BoardTest} (hrun : d.core.test = some b) (hkind : b.kind ≠ 4) (errors : Nat) (failed : Word) :
    d.testDone errors failed = ({ d with core := { d.core with test := none } } : Dev).testResult (if errors = 0 ∧ failed = 0 then 1 else 0)
      (min errors 0xFFFF) failed.toNat := by
  unfold Dev.testDone
  rw [hrun]
  exact if_neg hkind

theorem answers_testDone {s : State} {b : BoardTest} (hcalm : s.calm = true) (hrun : s.core.test = some b) (hkind : b.kind ≠ 4) (errors : Nat) (failed : Word) :
    Answers (.testDone errors failed) s fun t =>
      t.core.test = none ∧ t.begin.get .device 0 fDEV_TEST_STAT_BUSY = 0 ∧ t.begin.get .device 0 fDEV_TEST_STAT_DONE = 1 ∧
      t.begin.get .device 0 fDEV_TEST_STAT_PASS = (if errors = 0 ∧ failed = 0 then 1 else 0) ∧
      t.begin.get .device 0 fDEV_TEST_STAT_ERRORS = min errors 0xFFFF ∧ t.begin.get .device 0 fDEV_TEST_MASK_FAILED = failed.toNat := by
  have heff := Dev.testDone_leaves (d := s.begin) hrun hkind errors failed
  have hpass : (if errors = 0 ∧ failed = 0 then 1 else 0) < 2 := ite_both (P := (· < 2)) (by decide) (by decide)
  have hover : Dev.Over s ({ s.begin with core := { s.begin.core with test := none } } : Dev) := (Dev.Over.begin s).of_eq rfl rfl rfl
  refine answers_calm (run_testDone errors failed s) ?_ ?_ <;> simp only [heff]
  · exact State.calm_iff.1 hcalm
  · simp only [State.commit_get (hover.testResult _ _ _)]
    exact ⟨rfl, Dev.testResult_fields _ hpass (by omega) failed.isLt⟩

/-- Settles O59: a program or an erase that completes changes the flash byte by byte, and only a line test changes anything beside its result. -/
theorem flashAndBoardTests : Obligations.FlashAndBoardTests := by
  intro s mst idx loop page a n errors failed b hcalm
  refine ⟨fun ho hidle => ⟨fun hkey => ?_, fun hfree => ⟨?_, ?_⟩, fun hrun => ⟨?_, ?_⟩⟩, fun h hn => answers_flashRead hcalm h hn,
    fun h => answers_flashProgram hcalm h a, fun h => answers_flashErase hcalm h a, fun ho hmode hfree => ?_, fun hrun hkind => answers_testDone hcalm hrun hkind errors failed⟩
  · exact answers_flashStarts (op := 1) (run_flashReadPage mst s) ho (by decide) (by decide) (by decide) hidle (fun h => absurd rfl h) fun _ => hkey
  · exact answers_flashStarts (op := 2) (run_flashProgram mst s) ho (by decide) (by decide) (by decide) hidle (fun _ => hfree) fun h => absurd h (by decide)
  · exact answers_flashStarts (op := 3) (run_flashErase mst s) ho (by decide) (by decide) (by decide) hidle (fun _ => hfree) fun h => absurd h (by decide)
  · exact answers_flashRefused (op := 2) (run_flashProgram mst s) ho (by decide) (by decide) (by decide) hidle (by decide) hrun
  · exact answers_flashRefused (op := 3) (run_flashErase mst s) ho (by decide) (by decide) (by decide) hidle (by decide) hrun
  · have htest {c : Instr} {k : Nat} (he : exec c s = s.run fun d => d.busPair mst.val 0x80 (testWord k idx.val loop.val)) (hk : k < 5) :
        idx.val < testUnits k ∧ s.begin.domState (pageDom (testPage k idx.val)) ≠ 2 ∧
          s.calmFor (fun d => d.busPair mst.val 0x80 (testWord k idx.val loop.val)) = true →
        Answers c s fun t => t.core.test = some ⟨k, idx.val, if loop.val = 1 then 1 else 0⟩ :=
      fun ⟨hunit, hon, hquiet⟩ => answers_testStarts he ho (testWord_fields hk idx loop) hmode hfree hunit hon hquiet
    exact ⟨htest (run_testGatherBank mst idx loop s) (by decide), htest (run_testMagPort mst idx loop s) (by decide),
      htest (run_testPeerPort mst idx loop s) (by decide), htest (run_testNetPort mst idx loop s) (by decide),
      htest (run_testDdr5Channel mst idx loop s) (by decide)⟩

end Sys2Proof.Machine
end

section
namespace Sys2Proof.Machine

/-! ## The fields of the supplies (Tables 20.4 and 20.6) -/

/-- The fields that a dip writes but for those of its rail. -/
def dipFields : List FieldRow := [fLS_DIP_CNT_DIPS, fLS_LAST_DIP_RAIL, fLS_LAST_DIP_FROZEN, fLS_LAST_DIP_US]

theorem dipFields_ok : ∀ q ∈ dipFields, fieldOk .lehrSupply 0 q 0 = true := by decide
theorem rail_ok : ∀ r : Fin 8, ∀ q ∈ [fLS_RAIL_MV, fLS_RAIL_WARN], fieldOk .lehrSupply 0 q r.val = true := by decide

/-- A rail's register is none of the dips'. -/
theorem rail_apart : ∀ r : Fin 8, ∀ q ∈ [fLS_RAIL_MV, fLS_RAIL_WARN], ∀ p ∈ dipFields,
    fieldAddr .lehrSupply 0 q r.val ≠ fieldAddr .lehrSupply 0 p 0 := by decide

section
variable (d : Dev) {r q : FieldRow} (v : Nat)

theorem Dev.get_setDip_apart (hq : q ∈ dipFields) (h : r.apart q = true) : (d.set .lehrSupply 0 r v).get .lehrSupply 0 q = d.get .lehrSupply 0 q :=
  d.get_set_apart .lehrSupply 0 (dipFields_ok q hq) h v

theorem Dev.get_setDip_rail (rail : Fin 8) (hr : r ∈ dipFields) (hq : q ∈ [fLS_RAIL_MV, fLS_RAIL_WARN]) :
    (d.set .lehrSupply 0 r v).get .lehrSupply 0 q rail.val = d.get .lehrSupply 0 q rail.val :=
  d.get_set_reg .lehrSupply .lehrSupply 0 0 r q v 0 rail.val (rail_apart rail q hq r hr)

theorem Dev.get_setRail_dip (rail : Fin 8) (hr : r ∈ [fLS_RAIL_MV, fLS_RAIL_WARN]) (hq : q ∈ dipFields) :
    (d.set .lehrSupply 0 r v rail.val).get .lehrSupply 0 q = d.get .lehrSupply 0 q :=
  d.get_set_reg .lehrSupply .lehrSupply 0 0 r q v rail.val 0 (rail_apart rail r hr q hq).symm

end

/-- A rail's voltage and its warning. -/
def Dev.railShown (d : Dev) (r mv warn : Nat) : Dev := (d.set .lehrSupply 0 fLS_RAIL_MV mv r).set .lehrSupply 0 fLS_RAIL_WARN warn r

theorem Dev.railShown_fields (d : Dev) (rail : Fin 8) {mv warn : Nat} (hmv : mv < 2 ^ 16) (hwarn : warn < 2) :
    (d.railShown rail.val mv warn).get .lehrSupply 0 fLS_RAIL_MV rail.val = mv ∧ (d.railShown rail.val mv warn).get .lehrSupply 0 fLS_RAIL_WARN rail.val = warn :=
  ⟨(Dev.get_set_beside _ .lehrSupply 0 fLS_RAIL_WARN fLS_RAIL_MV warn rail.val rfl (by decide) (rail_ok rail _ (by decide))).trans
      (Dev.get_set_fits d .lehrSupply 0 fLS_RAIL_MV mv rail.val (rail_ok rail _ (by decide)) hmv),
    Dev.get_set_fits _ .lehrSupply 0 fLS_RAIL_WARN warn rail.val (rail_ok rail _ (by decide)) hwarn⟩

theorem Dev.get_railShown_dip (d : Dev) (rail : Fin 8) (mv warn : Nat) {q : FieldRow} (hq : q ∈ dipFields) :
    (d.railShown rail.val mv warn).get .lehrSupply 0 q = d.get .lehrSupply 0 q :=
  (Dev.get_setRail_dip _ _ rail (by decide) hq).trans (Dev.get_setRail_dip _ _ rail (by decide) hq)

theorem Dev.Over.railShown {s : State} {d : Dev} (h : Dev.Over s d) (r mv warn : Nat) : Dev.Over s (d.railShown r mv warn) :=
  (h.set _ _ _ _ _).set _ _ _ _ _

/-! ## A dip (R380, R381) -/

/-- A rail dips, and configuration writes freeze. -/
def Dev.dipFrozen (d : Dev) (r mv : Nat) : Dev :=
  ((d.railShown r mv 1).modLehr fun l => { l with dips := l.dips ++ [(r, d.free)], lastDip := some d.free }).set .lehrSupply 0 fLS_LAST_DIP_FROZEN 1

/-- What a dip leaves before its source and its event are raised. -/
def Dev.dipMarked (d : Dev) (r mv : Nat) : Dev :=
  ((((d.dipFrozen r mv).bump .lehrSupply 0 fLS_DIP_CNT_DIPS).set .lehrSupply 0 fLS_LAST_DIP_RAIL r).statBit .lehrSupply 0 0).markSupply

/-- Its source and its event are raised. -/
def Dev.dipTold (d : Dev) (r mv : Nat) : Dev := ((d.dipMarked r mv).raiseLevel (2043 + r) 0xC00).assertEvt 117

/-- The second dip within 10 ms is counted. -/
def Dev.dipEscalates (d : Dev) : Dev := (d.bump .lehrSupply 0 fLS_DIP_CNT_ESCALATIONS).statBit .lehrSupply 0 1

/-- A field of a dipped rail, or of the dips, past the status bit and the marks of the pictures. -/
theorem Dev.get_marked (d : Dev) {q : FieldRow} (h : 0x40 ≤ q.off) (n : Nat) :
    ((d.statBit .lehrSupply 0 0).markSupply).get .lehrSupply 0 q n = d.get .lehrSupply 0 q n := d.get_statBit .lehrSupply 0 0 h n

theorem Dev.dipMarked_fields (d : Dev) (rail : Fin 8) {mv : Nat} (hmv : mv < 2 ^ 16) :
    let e := d.dipMarked rail.val mv
    e.get .lehrSupply 0 fLS_LAST_DIP_FROZEN = 1 ∧ e.get .lehrSupply 0 fLS_RAIL_WARN rail.val = 1 ∧ e.get .lehrSupply 0 fLS_RAIL_MV rail.val = mv ∧
      e.get .lehrSupply 0 fLS_LAST_DIP_RAIL = rail.val ∧
      e.get .lehrSupply 0 fLS_DIP_CNT_DIPS = min (d.get .lehrSupply 0 fLS_DIP_CNT_DIPS + 1) (2 ^ 16 - 1) := by
  obtain ⟨hmvShown, hwarnShown⟩ := d.railShown_fields rail hmv (warn := 1) (by decide)
  have hrail (q : FieldRow) (hq : q ∈ [fLS_RAIL_MV, fLS_RAIL_WARN]) (hoff : 0x40 ≤ q.off) :
      (d.dipMarked rail.val mv).get .lehrSupply 0 q rail.val = (d.railShown rail.val mv 1).get .lehrSupply 0 q rail.val :=
    (Dev.get_marked _ hoff _).trans ((Dev.get_setDip_rail _ _ rail (by decide) hq).trans
      ((Dev.get_setDip_rail _ _ rail (by decide) hq).trans (Dev.get_setDip_rail _ _ rail (by decide) hq)))
  refine ⟨?_, (hrail _ (by decide) (by decide)).trans hwarnShown, (hrail _ (by decide) (by decide)).trans hmvShown, ?_, ?_⟩
  · exact (Dev.get_marked _ (by decide) _).trans ((Dev.get_setDip_apart _ _ (by decide) (by decide)).trans
      ((Dev.get_setDip_apart _ _ (by decide) (by decide)).trans (Dev.get_set_fits _ .lehrSupply 0 fLS_LAST_DIP_FROZEN 1 0 (dipFields_ok _ (by decide)) (by decide))))
  · exact (Dev.get_marked _ (by decide) _).trans (Dev.get_set_fits _ .lehrSupply 0 fLS_LAST_DIP_RAIL rail.val 0 (dipFields_ok _ (by decide)) rail.isLt)
  · have hbefore : (d.dipFrozen rail.val mv).get .lehrSupply 0 fLS_DIP_CNT_DIPS = d.get .lehrSupply 0 fLS_DIP_CNT_DIPS :=
      (Dev.get_setDip_apart _ _ (by decide) (by decide)).trans (d.get_railShown_dip rail mv 1 (by decide))
    refine (Dev.get_marked _ (by decide) _).trans ((Dev.get_setDip_apart _ _ (by decide) (by decide)).trans ?_)
    rw [Dev.get_bump_same _ _ _ _ 1 0 (dipFields_ok _ (by decide)), hbefore]
    rfl

/-- A dip writes the supplies' page alone, -/
theorem Dev.dipMarked_touches (d : Dev) (rail : Fin 8) (mv : Nat) : Dev.Touches [2] d (d.dipMarked rail.val mv) := by
  have hshown : Dev.Touches [2] d (d.railShown rail.val mv 1) :=
    (Dev.Touches.set _ _ _ _ _ _ ((by decide : ∀ r : Fin 8, fieldAddr .lehrSupply 0 fLS_RAIL_MV r.val / 4096 ∈ [2]) rail)).trans
      (Dev.Touches.set _ _ _ _ _ _ ((by decide : ∀ r : Fin 8, fieldAddr .lehrSupply 0 fLS_RAIL_WARN r.val / 4096 ∈ [2]) rail))
  have hfrozen : Dev.Touches [2] d (d.dipFrozen rail.val mv) := hshown.trans
    (Dev.Touches.trans (b := (d.railShown rail.val mv 1).modLehr fun l => { l with dips := l.dips ++ [(rail.val, d.free)], lastDip := some d.free })
      (.ofCore rfl rfl rfl) (.set _ _ _ _ _ _ (by decide)))
  have hcount : Dev.Touches [2] (d.dipFrozen rail.val mv)
      ((((d.dipFrozen rail.val mv).bump .lehrSupply 0 fLS_DIP_CNT_DIPS).set .lehrSupply 0 fLS_LAST_DIP_RAIL rail.val).statBit .lehrSupply 0 0) :=
    ((Dev.Touches.bump _ _ _ _ _ _ (by decide)).trans (.set _ _ _ _ _ _ (by decide))).trans (.statBit _ _ _ _ (by decide))
  exact (hfrozen.trans hcount).trans (.ofCore rfl rfl rfl)

/-- and while no domain enters a low-power state its event leaves the base mode as it was. -/
theorem Dev.dipTold_base (d : Dev) (rail : Fin 8) (mv : Nat) (h : d.core.lehr.entering = []) : (d.dipTold rail.val mv).dipEscalates.base = d.base := by
  have hraise : Dev.Touches [1, 2, 0xB] (d.dipMarked rail.val mv) ((d.dipMarked rail.val mv).raiseLevel (2043 + rail.val) 0xC00) := .ofCore rfl rfl rfl
  have htell := Dev.assertEvt_tells (ps := [1, 2, 0xB]) (by decide) (by decide) ((d.dipMarked rail.val mv).raiseLevel (2043 + rail.val) 0xC00) 117 (by decide) h
  have hcount : Dev.Touches [1, 2, 0xB] (d.dipTold rail.val mv) (d.dipTold rail.val mv).dipEscalates :=
    (Dev.Touches.bump _ _ _ _ _ _ (by decide)).trans (.statBit _ _ _ 1 (by decide))
  exact ((((d.dipMarked_touches rail mv).mono (by decide)).trans hraise).trans (htell.touches.trans hcount)).get .device 0 fDEV_MODE_BASE 0 (by decide)

/-- The second of two dips within 10 ms. -/
def Dev.dipAgain (d : Dev) : Bool := d.core.lehr.lastDip.any fun t => d.free - t ≤ 10000000

theorem Dev.railDips_told {d : Dev} {rail : Fin 8} {mv : Nat} (hwarn : 10 * mv < railWarn rail.val) (hreset : railReset rail.val ≤ 10 * mv)
    (hfirst : (d.core.lehr.dips.any fun p => p.1 = rail.val) = false) (h : d.dipAgain = false ∨ d.base ≠ 0 ∧ d.core.lehr.entering = []) :
    d.railDips rail.val mv = if d.dipAgain then (d.dipTold rail.val mv).dipEscalates.enterHold 2 else d.dipTold rail.val mv := by
  have hdip : d.dip rail.val mv = if d.dipAgain then
      (if (d.dipTold rail.val mv).dipEscalates.base = 0 then ((d.dipTold rail.val mv).dipEscalates, true) else ((d.dipTold rail.val mv).dipEscalates.enterHold 2, false))
      else (d.dipTold rail.val mv, false) := by
    unfold Dev.dip
    rw [if_neg (by simp only [hfirst, Bool.false_eq_true, or_false]; omega)]
    rfl
  unfold Dev.railDips
  rw [hdip]
  by_cases hagain : d.dipAgain = true
  · obtain ⟨hbase, hent⟩ := h.resolve_left (by rw [hagain]; decide)
    rw [if_pos hagain, if_pos hagain, d.dipTold_base rail mv hent, if_neg hbase]
    rfl
  · rw [if_neg hagain, if_neg hagain]
    rfl

/-! ## A recovery, and the freeze -/

/-- A rail that is back shows it, and how long it was away. -/
def Dev.dipRecovered (d : Dev) (r mv t : Nat) : Dev :=
  ((((d.railShown r mv 0).set .lehrSupply 0 fLS_LAST_DIP_RAIL r).set .lehrSupply 0 fLS_LAST_DIP_US (min 65535 ((d.free - t) / 1000))).modLehr
    fun l => { l with dips := l.dips.filter fun p => p.1 ≠ r }).endLevel (2043 + r)

theorem Dev.dipOver_recovered {d : Dev} {r mv t : Nat} (h : d.core.lehr.dips.find? (fun p => p.1 = r) = some (r, t)) (hwarn : railWarn r ≤ 10 * mv) :
    d.dipOver r mv = d.dipRecovered r mv t := by
  unfold Dev.dipOver
  rw [h]
  dsimp only
  rw [if_neg (by omega)]
  rfl

theorem Dev.Over.dipRecovered {s : State} {d : Dev} (h : Dev.Over s d) (r mv t : Nat) : Dev.Over s (d.dipRecovered r mv t) :=
  (((h.railShown r mv 0).set _ _ _ _ _).set _ _ _ _ _).of_eq rfl rfl rfl

theorem Dev.dipRecovered_fields (d : Dev) (rail : Fin 8) {mv : Nat} (hmv : mv < 2 ^ 16) (t : Nat) :
    let e := d.dipRecovered rail.val mv t
    e.get .lehrSupply 0 fLS_RAIL_WARN rail.val = 0 ∧ e.get .lehrSupply 0 fLS_RAIL_MV rail.val = mv ∧
      e.get .lehrSupply 0 fLS_LAST_DIP_US = min 65535 ((d.free - t) / 1000) := by
  obtain ⟨hmvShown, hwarnShown⟩ := d.railShown_fields rail hmv (warn := 0) (by decide)
  have hrail (q : FieldRow) (hq : q ∈ [fLS_RAIL_MV, fLS_RAIL_WARN]) :
      (d.dipRecovered rail.val mv t).get .lehrSupply 0 q rail.val = (d.railShown rail.val mv 0).get .lehrSupply 0 q rail.val :=
    (Dev.get_setDip_rail _ _ rail (by decide) hq).trans (Dev.get_setDip_rail _ _ rail (by decide) hq)
  have hus : min 65535 ((d.free - t) / 1000) < 2 ^ 16 := by omega
  exact ⟨(hrail _ (by decide)).trans hwarnShown, (hrail _ (by decide)).trans hmvShown,
    Dev.get_set_fits _ .lehrSupply 0 fLS_LAST_DIP_US _ 0 (dipFields_ok _ (by decide)) hus⟩

section
variable {s : State} (hcalm : s.calm = true)
include hcalm

theorem answers_dipRecovery {rail : Fin 8} {mv : BitVec 16} {t0 : Nat} (hdip : s.core.lehr.dips.find? (fun p => p.1 = rail.val) = some (rail.val, t0))
    (hwarn : railWarn rail.val ≤ 10 * mv.toNat) : Answers (.dipRecovery rail mv) s fun t =>
      t.begin.get .lehrSupply 0 fLS_RAIL_WARN rail.val = 0 ∧ t.begin.get .lehrSupply 0 fLS_RAIL_MV rail.val = mv.toNat ∧
      t.begin.get .lehrSupply 0 fLS_LAST_DIP_US = min 65535 ((s.begin.free - t0) / 1000) ∧
      t.core.lehr.dips = s.core.lehr.dips.filter (fun p => p.1 ≠ rail.val) ∧ (t.begin.frec (2043 + rail.val)).level = false := by
  have heff := Dev.dipOver_recovered (d := s.begin) hdip hwarn
  obtain ⟨hwarnShown, hmvShown, hus⟩ := s.begin.dipRecovered_fields rail mv.isLt t0
  have hover := (Dev.Over.begin s).dipRecovered rail.val mv.toNat t0
  refine answers_calm (run_dipRecovery rail mv s) ?_ ?_ <;> simp only [heff]
  · exact State.calm_iff.1 hcalm
  · simp only [State.commit_get hover]
    exact ⟨hwarnShown, hmvShown, hus, rfl, congrArg FaultRec.level (Dev.setFrec_frec _ _ _)⟩

theorem answers_freezeLift (hdips : s.core.lehr.dips = []) (hfrozen : s.begin.frozen = true) : Answers .freezeLift s fun t => t.begin.frozen = false := by
  have heff : s.begin.freezeLifts = s.begin.set .lehrSupply 0 fLS_LAST_DIP_FROZEN 0 := if_pos ⟨List.isEmpty_iff.2 hdips, hfrozen⟩
  refine answers_calm (run_freezeLift s) ?_ ?_ <;> simp only [heff]
  · exact State.calm_iff.1 hcalm
  · unfold Dev.frozen
    rw [State.commit_get ((Dev.Over.begin s).set _ _ _ _ _), Dev.get_set_fits _ .lehrSupply 0 fLS_LAST_DIP_FROZEN 0 0 (dipFields_ok _ (by decide)) (by decide)]
    rfl

end

end Sys2Proof.Machine
end

section
namespace Sys2Proof.Machine

/-! ## The power-up sequencer (R378, Table 20.5) -/

/-- The sequencer when a rail has risen. -/
def Sequencer.risen (q : Sequencer) (r : Nat) : Sequencer :=
  ({ q with good := if q.good.contains r then q.good else q.good ++ [r] } : Sequencer).advance

/-- The sequencer of a device. -/
def Dev.withSeq (d : Dev) (q : Sequencer) : Dev := d.modSeq fun _ => q

section
variable {d : Dev} {r : Nat} (hphase : d.core.boot.phase = .sequencing)
include hphase

theorem Dev.railGood_rises (hdriven : d.core.lehr.seq.driven r = true) (hfail : d.core.lehr.seq.lehrFail = false) :
    d.railGood r = let e := d.withSeq (d.core.lehr.seq.risen r)
      if (d.core.lehr.seq.risen r).en2 ∧ (d.core.lehr.seq.risen r).good.contains 6 then
        if d.core.lehr.pinLow then e.refBack.modBoot fun b => { b with phase := .inReset } else e.refBack.bootStart false
      else e := by
  unfold Dev.railGood
  dsimp only
  rw [if_neg (by simp [hphase, hdriven, hfail])]
  rfl

theorem Dev.railTimeout_drops (hdriven : d.core.lehr.seq.driven r = true) (h2 : r ≠ 2) (h7 : r ≠ 7) (hlow : r ∉ d.core.lehr.seq.good) :
    d.railTimeout r = (d.withSeq { d.core.lehr.seq.drop with fails := d.core.lehr.seq.fails + 1 }).statBit .lehrSupply 0 2 := by
  unfold Dev.railTimeout
  dsimp only
  rw [if_neg (by simp [hphase, hdriven, standbyRail, h2, h7, hlow])]
  rfl

theorem Dev.seqRetry_again (hwait : d.core.lehr.seq.waiting = true) (hfew : d.core.lehr.seq.fails < 3) :
    d.seqRetry = d.withSeq ({ d.core.lehr.seq with waiting := false } : Sequencer).advance := by
  unfold Dev.seqRetry
  rw [if_neg (by simp [hwait, hphase]), if_neg (by omega)]
  rfl

theorem Dev.seqRetry_fails (hwait : d.core.lehr.seq.waiting = true) (hmany : 3 ≤ d.core.lehr.seq.fails) :
    d.seqRetry = (d.withSeq { d.core.lehr.seq with lehrFail := true, waiting := false }).modBoot fun b => { b with phase := .railFail } := by
  unfold Dev.seqRetry
  rw [if_neg (by simp [hwait, hphase]), if_pos hmany]
  rfl

end

/-- The reference that is back writes the time page alone. -/
theorem Dev.refBack_touches (d : Dev) : Dev.Touches [8] d d.refBack :=
  (Dev.Touches.trans (a := d) (ps := [8]) (b := d.modTime fun t => { t with refPresent := true }) (.ofCore rfl rfl rfl) (.set _ .time 0 fTM_STAT_VALID 1 0 (by decide))).trans
    (.ofCore rfl rfl rfl)

section
variable {s : State} {rail : Fin 8} (hcalm : s.calm = true) (hphase : s.core.boot.phase = .sequencing)
include hcalm hphase

theorem answers_railRises (hdriven : s.core.lehr.seq.driven rail.val = true) (hfail : s.core.lehr.seq.lehrFail = false)
    (hlast : ¬ ((s.core.lehr.seq.risen rail.val).en2 = true ∧ 6 ∈ (s.core.lehr.seq.risen rail.val).good)) :
    Answers (.seqRailGood rail) s fun t => t.core.lehr.seq = s.core.lehr.seq.risen rail.val ∧ t.core.boot = s.core.boot := by
  have heff : s.begin.railGood rail.val = s.begin.withSeq (s.core.lehr.seq.risen rail.val) := by
    refine (Dev.railGood_rises hphase hdriven hfail).trans (if_neg ?_)
    rw [List.contains_iff_mem]
    exact hlast
  refine answers_calm (run_seqRailGood rail s) ?_ ?_ <;> simp only [heff]
  · exact State.calm_iff.1 hcalm
  · exact ⟨rfl, rfl⟩

theorem answers_lastRailRises (hdriven : s.core.lehr.seq.driven rail.val = true) (hfail : s.core.lehr.seq.lehrFail = false)
    (hen2 : (s.core.lehr.seq.risen rail.val).en2 = true) (hlast : 6 ∈ (s.core.lehr.seq.risen rail.val).good) (hpin : s.core.lehr.pinLow = false) :
    Answers (.seqRailGood rail) s fun t => t.core.lehr.seq = s.core.lehr.seq.risen rail.val ∧ t.core.boot = ⟨.image, [], [], false, 0⟩ ∧
      t.begin.get .lehrSupply 0 fLS_RST_CAUSE_BOOTS = min (s.begin.get .lehrSupply 0 fLS_RST_CAUSE_BOOTS + 1) (2 ^ 16 - 1) := by
  obtain ⟨x, hx⟩ : ∃ x, x = s.begin.withSeq (s.core.lehr.seq.risen rail.val) := ⟨_, rfl⟩
  have heff : s.begin.railGood rail.val = x.refBack.bootStart false := by
    rw [hx]
    refine (Dev.railGood_rises hphase hdriven hfail).trans ((if_pos ⟨hen2, List.contains_iff_mem.2 hlast⟩).trans (if_neg ?_))
    rw [show s.begin.core.lehr.pinLow = false from hpin]
    decide
  have hover : Dev.Over s x := hx ▸ (Dev.Over.begin s).of_eq rfl rfl rfl
  have hboots : x.get .lehrSupply 0 fLS_RST_CAUSE_BOOTS = s.begin.get .lehrSupply 0 fLS_RST_CAUSE_BOOTS := hx ▸ rfl
  have hseq : x.core.lehr.seq = s.core.lehr.seq.risen rail.val := hx ▸ rfl
  have hraised : x.core.fault.raised = s.core.fault.raised := hx ▸ rfl
  refine answers_calm (run_seqRailGood rail s) ?_ ?_ <;> simp only [heff]
  · exact hraised.trans (State.calm_iff.1 hcalm)
  · refine ⟨hseq, rfl, ?_⟩
    rw [State.commit_get ((x.refBack_touches.keeps s hover).bootStart false), Dev.bootStart_boots, x.refBack_touches.get _ _ _ _ (by decide), hboots]

theorem answers_railTimeout (hdriven : s.core.lehr.seq.driven rail.val = true) (h2 : rail.val ≠ 2) (h7 : rail.val ≠ 7) (hlow : rail.val ∉ s.core.lehr.seq.good) :
    Answers (.seqRailTimeout rail) s fun t =>
      t.core.lehr.seq = { s.core.lehr.seq.drop with fails := s.core.lehr.seq.fails + 1 } := by
  have heff := Dev.railTimeout_drops (d := s.begin) hphase hdriven h2 h7 hlow
  refine answers_calm (run_seqRailTimeout rail s) ?_ ?_ <;> simp only [heff]
  · exact State.calm_iff.1 hcalm
  · rfl

theorem answers_seqRetries (hwait : s.core.lehr.seq.waiting = true) (hfew : s.core.lehr.seq.fails < 3) :
    Answers .seqRetry s fun t => t.core.lehr.seq = ({ s.core.lehr.seq with waiting := false } : Sequencer).advance := by
  have heff := Dev.seqRetry_again (d := s.begin) hphase hwait hfew
  refine answers_calm (run_seqRetry s) ?_ ?_ <;> simp only [heff]
  · exact State.calm_iff.1 hcalm
  · rfl

theorem answers_seqFails (hwait : s.core.lehr.seq.waiting = true) (hmany : 3 ≤ s.core.lehr.seq.fails) :
    Answers .seqRetry s fun t => t.core.lehr.seq.lehrFail = true ∧ t.core.boot.phase = .railFail := by
  have heff := Dev.seqRetry_fails (d := s.begin) hphase hwait hmany
  refine answers_calm (run_seqRetry s) ?_ ?_ <;> simp only [heff]
  · exact State.calm_iff.1 hcalm
  · exact ⟨rfl, rfl⟩

end

/-- Settles O55: the device that a dip marks is `dipMarked`, and the sequencer that a rail raises is `risen`. -/
theorem suppliesDipAndSequence : Obligations.SuppliesDipAndSequence := by
  intro s rail mv t0 hcalm
  refine ⟨fun hwarn hreset hfirst hagain => ?_, fun hdip hwarn => answers_dipRecovery hcalm hdip hwarn, fun hdips hfrozen => answers_freezeLift hcalm hdips hfrozen,
    fun hphase hdriven => ⟨fun hfail => ⟨fun hlast => answers_railRises hcalm hphase hdriven hfail hlast,
      fun hen2 hlast hpin => answers_lastRailRises hcalm hphase hdriven hfail hen2 hlast hpin⟩, fun h2 h7 hlow => answers_railTimeout hcalm hphase hdriven h2 h7 hlow⟩,
    fun hphase hwait => ⟨fun hfew => answers_seqRetries hcalm hphase hwait hfew, fun hmany => answers_seqFails hcalm hphase hwait hmany⟩⟩
  obtain ⟨hfrozen, hwarned, hmv, hrail, hdips⟩ := s.begin.dipMarked_fields rail mv.isLt
  have heff := Dev.railDips_told (d := s.begin) hwarn hreset hfirst hagain
  exact ⟨_, exec_effect (run_dip rail mv s) heff, s.begin.dipMarked rail.val mv.toNat, rfl, hfrozen, hwarned, hmv, hrail, hdips, rfl, rfl, rfl⟩

end Sys2Proof.Machine
end

section
namespace Sys2Proof.Machine

/-! ## Fault records in the next state -/

theorem State.commit_frec (s : State) (d : Dev) (src : Nat) : (s.commit d).begin.frec src = d.frec src := rfl

theorem Dev.frec_of_recs {d e : Dev} (h : e.core.fault.recs = d.core.fault.recs) (src : Nat) : e.frec src = d.frec src := by
  simp only [Dev.frec, h]

/-- What holds of a source at rest and of each source of the table holds of every source. -/
theorem tget_of_forall {α : Type} {P : α → Prop} {r : α} (hrest : P r) {m : List (Nat × α)} (h : ∀ p ∈ m, P p.2) (k : Nat) : P (tget r m k) := by
  unfold tget
  induction m with
  | nil => exact hrest
  | cons p m ih =>
    simp only [Sparse.get]
    exact ite_both (h p List.mem_cons_self) (ih fun q hq => h q (List.mem_cons_of_mem _ hq))

/-- An entry that is not the one at rest stands in the table. -/
theorem mem_of_tget_ne {α : Type} {r : α} {m : List (Nat × α)} {k : Nat} (h : tget r m k ≠ r) : (k, tget r m k) ∈ m := by
  unfold tget at h ⊢
  induction m with
  | nil => exact absurd rfl h
  | cons p m ih =>
    obtain ⟨a, v⟩ := p
    simp only [Sparse.get] at h ⊢
    by_cases ha : a = k
    · rw [if_pos ha, ha]
      exact List.mem_cons_self
    · rw [if_neg ha] at h ⊢
      exact List.mem_cons_of_mem _ (ih h)

/-! ## One event is taken (R357, R359) -/

/-- An event that is taken without a reaction, and raises none, is all that the collector does. -/
theorem Dev.settle_taken {d x : Dev} {e : FaultEvent} (hraised : d.core.fault.raised = [e])
    (htake : (d.modFault fun f => { f with raised := [] }).takeEvent e = (x, 0)) (hx : x.core.fault.raised = []) (hsrc : ¬ (1734 ≤ e.src ∧ e.src < 1750)) (n : Nat) :
    d.settle (n + 1) = x := by
  have hlone : ([e].filter fun y => y.path || !([e].any fun o => o.path && decide (o.src = y.src))) = [e] := by
    cases he : e.path <;> simp [he]
  have hcollect : d.collect = x := by
    unfold Dev.collect
    simp only [hraised, hlone, List.foldl_cons, List.foldl_nil, List.nil_append, htake]
    exact Dev.reactAll_none x e hsrc
  rw [Dev.settle, hraised]
  exact (if_neg Bool.false_ne_true).trans (by rw [hcollect, Dev.settle_calm n hx])

/-- The packet that an event may bring. -/
def Dev.packed (d : Dev) (e : FaultEvent) (x : Dev) (severe : Bool) (mask : Nat) : Dev :=
  if d.fullCapture e.src then x.putPacket e.src false severe e.path (d.eventWords e) mask (x.frec e.src).count else x

/-- A packet leaves the sources alone. -/
theorem Dev.packed_fault (d : Dev) (e : FaultEvent) (x : Dev) (severe : Bool) (mask : Nat) :
    (∀ src, (d.packed e x severe mask).frec src = x.frec src) ∧ (d.packed e x severe mask).core.fault.raised = x.core.fault.raised := by
  unfold Dev.packed
  split
  · obtain ⟨hrecs, hraised, -⟩ := x.putPacket_fault e.src false severe e.path (d.eventWords e) mask (x.frec e.src).count
    exact ⟨Dev.frec_of_recs hrecs, hraised⟩
  · exact ⟨fun _ => rfl, rfl⟩

/-- The record of a source whose event is counted: whether its rails are equal is the event's word. -/
structure FaultRec.Counts (r : FaultRec) (rails : Bool) (q : FaultRec) : Prop where
  state : q.state = r.state
  path : q.path = r.path
  total : q.total = min (r.total + 1) (2 ^ 32 - 1)
  railsEq : q.railsEq = rails

/-- One more event of a source in the window of its class. -/
def Dev.windowed (d : Dev) (cls : Nat) (q : FaultRec) : FaultRec :=
  let old := if q.count = 0 ∨ d.fcW cls ≤ d.free - q.winStart then 0 else q.count
  { q with count := min (old + 1) 255, winStart := if old = 0 then d.free else q.winStart }

section
variable {d : Dev} {e : FaultEvent} {i : SrcInfo} (hi : srcInfo e.src = some i) (hwindows : d.core.fault.windows = [])
include hi hwindows

/-- An event outside of every window is counted; what follows depends on whether it is a path fault and on the state of its source. -/
theorem Dev.takeEvent_counts (hrails : e.path = true ∨ (d.frec e.src).railsEq = false) :
    ∃ q r, FaultRec.Counts (d.frec e.src) e.path q ∧ r.path = q.path ∧ r.total = q.total ∧ 1 ≤ r.count ∧ d.takeEvent e =
      let x := d.setFrec e.src q
      let y := x.setFrec e.src r
      if e.path then
        if q.state then (d.packed e (x.setFrec e.src { q with path := true }) false 0, 0)
        else (d.packed e (x.enterFault e.src true (x.fcSevere i.cls)) true (x.fcSevere i.cls), x.fcSevere i.cls)
      else if q.state then (d.packed e x false 0, 0)
      else if y.fcN i.cls ≤ r.count then (d.packed e (y.enterFault e.src false (y.fcSevere i.cls)) true (y.fcSevere i.cls), y.fcSevere i.cls)
      else (d.packed e y false (y.get .fault0 0 fFC_REACT_MINOR i.cls), y.get .fault0 0 fFC_REACT_MINOR i.cls) := by
  have hhold : ¬ ((!e.path) = true ∧ d.railsHold e.src = true) := by
    rintro ⟨hpath, hhold⟩
    rcases hrails with h | h
    · simp [h] at hpath
    · simp [Dev.railsHold, h] at hhold
  have hquar : d.quarantined i.block = false := by simp [Dev.quarantined, hwindows]
  unfold Dev.takeEvent
  simp only [hi, hquar, if_neg hhold, Dev.setFrec_frec, Bool.false_eq_true, if_false]
  generalize hq : (if (d.fullCapture e.src && !(d.frec e.src).captured) = true then _ else _ : FaultRec) = q
  refine ⟨q, (d.setFrec e.src q).windowed i.cls q, ?_, rfl, rfl, Nat.le_min.2 ⟨Nat.le_add_left 1 _, by decide⟩, by simp only [Dev.packed, Dev.windowed, Dev.setFrec_frec]⟩
  rw [← hq]
  exact ite_both (P := FaultRec.Counts (d.frec e.src) e.path) ⟨rfl, rfl, rfl, rfl⟩ ⟨rfl, rfl, rfl, rfl⟩

/-- With a threshold of 1 and no reaction, one event of a source at rest puts it into fault state. -/
theorem Dev.takeEvent_enters (hpath : e.path = false) (hstate : (d.frec e.src).state = false) (hrails : (d.frec e.src).railsEq = false)
    (hn : d.fcN i.cls = 1) (hmask : d.fcSevere i.cls = 0) :
    ∃ x, d.takeEvent e = (x, 0) ∧ x.core.fault.raised = d.core.fault.raised ∧ (x.frec e.src).state = true ∧ (x.frec e.src).path = (d.frec e.src).path ∧
      (x.frec e.src).total = min ((d.frec e.src).total + 1) (2 ^ 32 - 1) := by
  obtain ⟨q, r, ⟨hqstate, hqpath, hqtotal, -⟩, hrpath, hrtotal, hcount, htake⟩ := Dev.takeEvent_counts hi hwindows (.inr hrails)
  rw [hstate] at hqstate
  have hn' : ((d.setFrec e.src q).setFrec e.src r).fcN i.cls = 1 := hn
  have hmask' : ((d.setFrec e.src q).setFrec e.src r).fcSevere i.cls = 0 := hmask
  dsimp only at htake
  rw [hn', hmask', if_neg (by rw [hpath]; exact Bool.false_ne_true), if_neg (by rw [hqstate]; exact Bool.false_ne_true), if_pos hcount] at htake
  obtain ⟨hfrec, hraised⟩ := d.packed_fault e (((d.setFrec e.src q).setFrec e.src r).enterFault e.src false 0) true 0
  have hentered : (((d.setFrec e.src q).setFrec e.src r).enterFault e.src false 0).frec e.src =
      { r with state := true, path := false || r.path, react := 0 } :=
    (Dev.setFrec_frec _ _ _).trans (by rw [Dev.setFrec_frec])
  refine ⟨_, htake, hraised, ?_, ?_, ?_⟩ <;> rw [hfrec, hentered]
  · exact (Bool.false_or _).trans (hrpath.trans hqpath)
  · exact hrtotal.trans hqtotal

/-- A path fault of a source that is in fault state marks it. -/
theorem Dev.takeEvent_marks (hpath : e.path = true) (hstate : (d.frec e.src).state = true) :
    ∃ x, d.takeEvent e = (x, 0) ∧ x.core.fault.raised = d.core.fault.raised ∧ (x.frec e.src).state = true ∧ (x.frec e.src).path = true ∧
      (x.frec e.src).railsEq = true ∧ (x.frec e.src).total = min ((d.frec e.src).total + 1) (2 ^ 32 - 1) := by
  obtain ⟨q, _, ⟨hqstate, -, hqtotal, hqrails⟩, -, -, -, htake⟩ := Dev.takeEvent_counts hi hwindows (.inl hpath)
  rw [hstate] at hqstate
  dsimp only at htake
  rw [if_pos hpath, if_pos hqstate] at htake
  obtain ⟨hfrec, hraised⟩ := d.packed_fault e ((d.setFrec e.src q).setFrec e.src { q with path := true }) false 0
  refine ⟨_, htake, hraised, ?_, ?_, ?_, ?_⟩ <;> rw [hfrec, Dev.setFrec_frec]
  · exact hqstate
  · exact hqrails.trans hpath
  · exact hqtotal

end

/-! ## An event, and a path fault -/

/-- A source whose cause is a level holds it when it raises its event. -/
def Dev.levelNoted (d : Dev) (src : Nat) : Dev :=
  if ((srcInfo src).map (·.level)).getD false then d.setFrec src { d.frec src with level := true } else d

/-- The rest of its record stands, -/
theorem Dev.levelNoted_frec (d : Dev) (src : Nat) : ((d.levelNoted src).frec src).state = (d.frec src).state ∧ ((d.levelNoted src).frec src).path = (d.frec src).path ∧
    ((d.levelNoted src).frec src).railsEq = (d.frec src).railsEq ∧ ((d.levelNoted src).frec src).total = (d.frec src).total := by
  unfold Dev.levelNoted
  split
  · rw [Dev.setFrec_frec]
    exact ⟨rfl, rfl, rfl, rfl⟩
  · exact ⟨rfl, rfl, rfl, rfl⟩

/-- and so do the events, the windows and the registers. -/
theorem Dev.levelNoted_fault (d : Dev) (src : Nat) : (d.levelNoted src).core.fault.raised = d.core.fault.raised ∧
    (d.levelNoted src).core.fault.windows = d.core.fault.windows ∧ (d.levelNoted src).regs = d.regs := by
  unfold Dev.levelNoted
  split <;> exact ⟨rfl, rfl, rfl⟩

/-- The event that a command raises. -/
def eventOf (src : Fin 2053) (mst : Fin 4096) (acc : Fin 16) (det : BitVec 16) (addr : Nat) : FaultEvent :=
  ⟨src.val, mst.val, acc.val, det.toNat, addr, false⟩

section
variable {s : State} {src : Fin 2053} {mst : Fin 4096} {acc : Fin 16} {det : BitVec 16} {addr : Nat}

theorem exec_faultSourceEvent (hi : (srcInfo src.val).isSome = true) : exec (.faultSourceEvent src mst acc det addr) s =
    s.run fun d => (d.levelNoted src.val).raise src.val mst.val acc.val det.toNat addr := by
  rw [run_faultSourceEvent]
  refine congrArg s.run (funext fun d => if_neg fun h => ?_)
  rw [Option.isNone_iff_eq_none] at h
  rw [h.2] at hi
  cases hi

theorem Dev.eventRaised (hcalm : s.core.fault.raised = []) :
    ((s.begin.levelNoted src.val).raise src.val mst.val acc.val det.toNat addr).core.fault.raised = [eventOf src mst acc det addr] :=
  congrArg (· ++ [eventOf src mst acc det addr]) ((s.begin.levelNoted_fault src.val).1.trans hcalm)

theorem answers_knownEvent (hk : s.knows src.val = true) : Answers (.faultSourceEvent src mst acc det addr) s fun t =>
    (t.begin.frec src.val).state = true ∧ (t.begin.frec src.val).total = min ((s.begin.frec src.val).total + 1) (2 ^ 32 - 1) := by
  obtain ⟨hcalm, hi, hstate, hrails, -, -⟩ := State.knows_elim hk
  obtain ⟨hlstate, -, hlrails, hltotal⟩ := s.begin.levelNoted_frec src.val
  exact answers_known (e := eventOf src mst acc det addr) (exec_faultSourceEvent hi) hk rfl (Dev.eventRaised hcalm) (s.begin.levelNoted_fault src.val).2.1
    (hlstate.trans hstate) (hlrails.trans hrails) fun d _ hd htotal => ⟨hd, htotal.trans (congrArg (fun n => min (n + 1) (2 ^ 32 - 1)) hltotal)⟩

theorem answers_severeEvent {i : SrcInfo} (hcalm : s.calm = true) (hi : srcInfo src.val = some i) (hwindows : s.core.fault.windows = [])
    (hstate : (s.begin.frec src.val).state = false) (hrails : (s.begin.frec src.val).railsEq = false) (hn : s.begin.fcN i.cls = 1)
    (hmask : s.begin.fcSevere i.cls = 0) (hsrc : ¬ (1734 ≤ src.val ∧ src.val < 1750)) : Answers (.faultSourceEvent src mst acc det addr) s fun t =>
      (t.begin.frec src.val).state = true ∧ (t.begin.frec src.val).path = (s.begin.frec src.val).path ∧
      (t.begin.frec src.val).total = min ((s.begin.frec src.val).total + 1) (2 ^ 32 - 1) := by
  obtain ⟨d, hd⟩ : ∃ d, d = (s.begin.levelNoted src.val).raise src.val mst.val acc.val det.toNat addr := ⟨_, rfl⟩
  obtain ⟨z, hz⟩ : ∃ z, z = d.modFault fun f => { f with raised := [] } := ⟨_, rfl⟩
  obtain ⟨hlstate, hlpath, hlrails, hltotal⟩ := s.begin.levelNoted_frec src.val
  obtain ⟨-, hwin, hregs⟩ := s.begin.levelNoted_fault src.val
  have hnoted : z.frec src.val = (s.begin.levelNoted src.val).frec src.val := by rw [hz, hd]; rfl
  rw [← hnoted] at hlstate hlpath hlrails hltotal
  have hzregs : z.regs = s.begin.regs := by rw [hz, hd]; exact hregs
  have hget (r : FieldRow) (n : Nat) : z.get .fault0 0 r n = s.begin.get .fault0 0 r n := Dev.get_of_regs hzregs ..
  obtain ⟨x, htake, hx, hst, hpath, htotal⟩ := Dev.takeEvent_enters (d := z) (e := eventOf src mst acc det addr) hi (by rw [hz, hd]; exact hwin.trans hwindows) rfl
    (hlstate.trans hstate) (hlrails.trans hrails) (by simpa only [Dev.fcN, hget] using hn) (by simpa only [Dev.fcSevere, hget] using hmask)
  have hsettle := Dev.settle_taken (d := d) (by rw [hd]; exact Dev.eventRaised (State.calm_iff.1 hcalm)) (hz ▸ htake) (hx.trans (hz ▸ rfl)) hsrc 63
  have hexec := exec_effect (exec_faultSourceEvent (mst := mst) (acc := acc) (det := det) (addr := addr) (s := s) (by rw [hi]; rfl)) hd.symm
  rw [hsettle] at hexec
  exact ⟨_, hexec, hst, hpath.trans hlpath, htotal.trans (congrArg (fun n => min (n + 1) (2 ^ 32 - 1)) hltotal)⟩

theorem answers_pathFault {i : SrcInfo} (hcalm : s.calm = true) (hi : srcInfo src.val = some i) (hwindows : s.core.fault.windows = [])
    (hstate : (s.begin.frec src.val).state = true) (hsrc : ¬ (1734 ≤ src.val ∧ src.val < 1750)) : Answers (.pathFault src) s fun t =>
      (t.begin.frec src.val).state = true ∧ (t.begin.frec src.val).path = true ∧ (t.begin.frec src.val).railsEq = true ∧
      (t.begin.frec src.val).total = min ((s.begin.frec src.val).total + 1) (2 ^ 32 - 1) := by
  have heff : (if (srcInfo src.val).isNone then s.begin else s.begin.raisePath src.val) = s.begin.raisePath src.val := if_neg (by rw [hi]; exact Bool.false_ne_true)
  have hraised : (s.begin.raisePath src.val).core.fault.raised = [⟨src.val, 0xC00, 0, 0, 0, true⟩] :=
    congrArg (· ++ [(⟨src.val, 0xC00, 0, 0, 0, true⟩ : FaultEvent)]) (State.calm_iff.1 hcalm)
  obtain ⟨x, htake, hx, hmarked⟩ := Dev.takeEvent_marks (d := (s.begin.raisePath src.val).modFault fun f => { f with raised := [] })
    (e := ⟨src.val, 0xC00, 0, 0, 0, true⟩) hi hwindows rfl hstate
  have hexec := exec_effect (run_pathFault src s) heff
  rw [Dev.settle_taken hraised htake hx hsrc 63] at hexec
  exact ⟨_, hexec, hmarked⟩

end

/-! ## A quarantine window closes (R364) -/

/-- A window that covers no recorded source closes, and nothing else happens. -/
theorem Dev.windowClose_alone {d : Dev} {w : QuarWin} (hw : d.core.fault.windows.find? (·.resetDone) = some w)
    (hrecs : ∀ p ∈ d.core.fault.recs, (d.windowBlocks w).contains (srcBlock p.1) = false) :
    d.windowClose = d.modFault fun f => { f with windows := f.windows.erase w } := by
  unfold Dev.windowClose
  rw [hw]
  refine List.foldlRecOn (motive := fun e : Dev => e = d.modFault fun f => { f with windows := f.windows.erase w }) _ _ rfl fun e he src hsrc => ?_
  obtain ⟨p, hp, rfl⟩ := List.mem_map.1 ((List.mergeSort_perm _ _).mem_iff.1 hsrc)
  rw [hrecs p hp]
  exact he

theorem answers_quarantineClose {s : State} {w : QuarWin} (hcalm : s.calm = true) (hw : s.core.fault.windows.find? (·.resetDone) = some w)
    (hrecs : ∀ p ∈ s.core.fault.recs, (s.begin.windowBlocks w).contains (srcBlock p.1) = false) : Answers .quarantineClose s fun t =>
      t.core.fault.windows = s.core.fault.windows.erase w ∧ t.core.fault.recs = s.core.fault.recs := by
  have heff := Dev.windowClose_alone (d := s.begin) hw hrecs
  refine answers_calm (run_quarantineClose s) ?_ ?_ <;> simp only [heff]
  · exact State.calm_iff.1 hcalm
  · exact ⟨rfl, rfl⟩

end Sys2Proof.Machine
end

section
namespace Sys2Proof.Machine

/-! ## A source is cleared (R365) -/

/-- What a clear leaves of a source's record where no cause holds. -/
def FaultRec.cleared (r : FaultRec) : FaultRec := { FaultRec.rest with total := r.total, winStart := r.winStart }

/-- No cause of the source holds. -/
def FaultRec.Ceased (r : FaultRec) : Prop := r.level = false ∧ r.railsEq = false

theorem Dev.clearSource_ceased {d : Dev} {src : Nat} {i : SrcInfo} (hi : srcInfo src = some i) (h : (d.frec src).Ceased) :
    d.clearSource src = d.setFrec src (d.frec src).cleared := by
  obtain ⟨hlevel, hrails⟩ := h
  have hhold : d.railsHold src = false := by simp [Dev.railsHold, hrails]
  have hlvl : d.levelHolds src = false := by simp [Dev.levelHolds, hlevel]
  unfold Dev.clearSource
  rw [hi]
  dsimp only
  rw [hhold, hlvl]
  exact if_neg fun h => h.2.elim Bool.false_ne_true Bool.false_ne_true

/-- While no cause holds, a clear is a change of the source's record, or none where the source does not exist. -/
theorem Dev.clearSource_changes {d : Dev} {src : Nat} (h : (d.frec src).Ceased) : d.clearSource src = d ∨ d.clearSource src = d.setFrec src (d.frec src).cleared := by
  cases hi : srcInfo src with
  | none => exact .inl (by rw [Dev.clearSource, hi])
  | some i => exact .inr (Dev.clearSource_ceased hi h)

/-- Sources whose causes have ceased stay so, -/
theorem Dev.clearSource_keeps {d : Dev} (h : ∀ n, (d.frec n).Ceased) (src n : Nat) : ((d.clearSource src).frec n).Ceased := by
  rcases Dev.clearSource_changes (h src) with hd | hd <;> rw [hd]
  · exact h n
  · by_cases hn : n = src
    · rw [hn, Dev.setFrec_frec]
      exact ⟨rfl, rfl⟩
    · rw [Dev.setFrec_frec_other _ hn]
      exact h n

/-- and a clear of theirs raises no event and leaves the host port alone. -/
theorem Dev.clearSource_calm {d : Dev} {src : Nat} (h : (d.frec src).Ceased) :
    (d.clearSource src).core.fault.raised = d.core.fault.raised ∧ (d.clearSource src).core.host = d.core.host := by
  rcases Dev.clearSource_changes h with hd | hd <;> rw [hd] <;> exact ⟨rfl, rfl⟩

theorem Dev.clearAll_calm (l : List Nat) {d : Dev} (h : ∀ n, (d.frec n).Ceased) :
    (l.foldl (fun (d : Dev) s => d.clearSource s) d).core.fault.raised = d.core.fault.raised ∧
      (l.foldl (fun (d : Dev) s => d.clearSource s) d).core.host = d.core.host := by
  induction l generalizing d with
  | nil => exact ⟨rfl, rfl⟩
  | cons src l ih =>
    obtain ⟨hraised, hhost⟩ := ih (Dev.clearSource_keeps h src)
    obtain ⟨hraised', hhost'⟩ := Dev.clearSource_calm (h src)
    exact ⟨hraised.trans hraised', hhost.trans hhost'⟩

/-- A walk over sources clears those that it meets. -/
theorem Dev.clearAll_frec {n : Nat} {i : SrcInfo} (hi : srcInfo n = some i) (l : List Nat) {d : Dev} (h : ∀ n, (d.frec n).Ceased) :
    (l.foldl (fun (d : Dev) s => d.clearSource s) d).frec n = if n ∈ l then (d.frec n).cleared else d.frec n := by
  induction l generalizing d with
  | nil => rfl
  | cons src l ih =>
    refine (ih (Dev.clearSource_keeps h src)).trans ?_
    by_cases hn : n = src
    · subst hn
      rw [Dev.clearSource_ceased hi (h n), Dev.setFrec_frec, if_pos (List.mem_cons_self (a := n))]
      exact ite_self (c := n ∈ l) (d.frec n).cleared
    · have hother : (d.clearSource src).frec n = d.frec n := by
        rcases Dev.clearSource_changes (h src) with hd | hd <;> rw [hd]
        exact Dev.setFrec_frec_other _ hn _
      simp only [hother, List.mem_cons, hn, false_or]

/-! ## Writes of FC_CLR -/

/-- The places of the collector's first and last page in the block base table. -/
def fault0Info : PageInfo := ⟨.fault0, 5, 0, 4, 4, 0xC9⟩
def fault3Info : PageInfo := ⟨.fault3, 5, 3, 4, 4, 0xC9⟩

theorem pageInfo_fault0 : pageInfo 4 = some fault0Info := by decide
theorem pageInfo_fault3 : pageInfo 7 = some fault3Info := by decide

/-- FC_CLR is written without a complement. -/
theorem fcClr_open : (regFields .fault0 0x040).isEmpty = false ∧ guardedAt .fault0 0x040 = false ∧
    (hasAcc .fault0 0x040 .rw || hasAcc .fault0 0x040 .wo) = true := by decide

theorem Dev.busWrite_fcClr {s : State} (ho : s.opens 4 = true) (mst : Nat) (v : Word) :
    s.begin.busWrite mst 0x4040 v = (s.begin.fcClear v).expirePend 4 := by
  obtain ⟨hfields, hguard, hacc⟩ := fcClr_open
  exact Dev.busWrite_open (off := 0x040) ho pageInfo_fault0 (by decide) (by decide) hfields hguard (by decide) hacc mst v

/-- A clear that raises no event and leaves the host port alone is all that the write does. -/
theorem answers_fcClear {c : Instr} {s : State} {mst : Nat} {v : Word} {d : Dev} {P : State → Prop} (he : exec c s = s.run fun d => d.busWrite mst 0x4040 v)
    (ho : s.opens 4 = true) (hclear : s.begin.fcClear v = d) (hcalm : d.core.fault.raised = s.core.fault.raised ∧ d.core.host = s.core.host)
    (hP : P (s.commit d)) : Answers c s P := by
  have o := State.opens_elim ho
  obtain ⟨hraised, hhost⟩ := hcalm
  have heff := Dev.busWrite_fcClr ho mst v
  rw [hclear, Dev.expirePend_none ((congrArg HostPort.guards hhost).trans o.noPair)] at heff
  refine answers_calm he ?_ ?_ <;> simp only [heff]
  · exact hraised.trans o.calm
  · exact hP

/-- FC_CLR.SOURCE of a value below 4096, with ALL 0. -/
theorem fcClr_source (k : Fin 4096) : (BitVec.ofNat 32 k.val).getLsbD 31 = false ∧ bitsNat (BitVec.ofNat 32 k.val) 11 0 = k.val := by
  have hk := k.isLt
  have hnat : (BitVec.ofNat 32 k.val).toNat = k.val := by rw [BitVec.toNat_ofNat, Nat.mod_eq_of_lt (by omega)]
  constructor
  · rw [← BitVec.testBit_toNat, hnat]
    exact Nat.testBit_lt_two_pow (by omega)
  · rw [bitsNat, BitVec.toNat_ushiftRight, hnat]
    exact Nat.mod_eq_of_lt (by omega)

theorem answers_fcClr {s : State} (ho : s.opens 4 = true) (mst k : Fin 4096) {i : SrcInfo} (hi : srcInfo k.val = some i)
    (h : (s.begin.frec k.val).Ceased) : Answers (.fcClr mst k) s fun t =>
      t.begin.frec k.val = { FaultRec.rest with total := (s.begin.frec k.val).total, winStart := (s.begin.frec k.val).winStart } := by
  obtain ⟨hall, hsource⟩ := fcClr_source k
  refine answers_fcClear (run_fcClr mst k s) ho (d := s.begin.setFrec k.val (s.begin.frec k.val).cleared) ?_ ⟨rfl, rfl⟩ ?_
  · unfold Dev.fcClear
    rw [hall, hsource, if_neg Bool.false_ne_true]
    exact Dev.clearSource_ceased hi h
  · rw [State.commit_frec, Dev.setFrec_frec]
    rfl

/-- The sources in fault state, in their order. -/
def Dev.faulted (d : Dev) : List Nat := ((d.core.fault.recs.filter fun p => p.2.state).map (·.1)).mergeSort (· ≤ ·)

theorem Dev.mem_faulted {d : Dev} {n : Nat} (h : (d.frec n).state = true) : n ∈ d.faulted := by
  have hrest : d.frec n ≠ FaultRec.rest := fun g => by
    rw [g] at h
    cases h
  exact (List.mergeSort_perm _ _).mem_iff.2 (List.mem_map.2 ⟨_, List.mem_filter.2 ⟨mem_of_tget_ne hrest, h⟩, rfl⟩)

theorem answers_fcClrAll {s : State} (ho : s.opens 4 = true) (mst : Fin 4096) {n : Nat} {i : SrcInfo} (hi : srcInfo n = some i)
    (h : ∀ p ∈ s.core.fault.recs, p.2.level = false ∧ p.2.railsEq = false) : Answers (.fcClrAll mst) s fun t =>
      (t.begin.frec n).state = false ∧ (t.begin.frec n).total = (s.begin.frec n).total := by
  have hceased (n : Nat) : (s.begin.frec n).Ceased := tget_of_forall (P := FaultRec.Ceased) ⟨rfl, rfl⟩ h n
  refine answers_fcClear (run_fcClrAll mst s) ho (d := s.begin.faulted.foldl (fun (d : Dev) s => d.clearSource s) s.begin) (if_pos (by decide))
    (Dev.clearAll_calm _ hceased) ?_
  rw [State.commit_frec, Dev.clearAll_frec hi _ hceased]
  by_cases hn : n ∈ s.begin.faulted
  · rw [if_pos hn]
    exact ⟨rfl, rfl⟩
  · rw [if_neg hn]
    exact ⟨Bool.eq_false_iff.2 fun hst => hn (Dev.mem_faulted hst), rfl⟩

/-! ## Writes of FC_RESTORE (R366) -/

/-- FC_RESTORE is written through a guarded pair. -/
theorem fcRestore_guarded : (regFields .fault3 0x074).isEmpty = false ∧ guardedAt .fault3 0x074 = true ∧
    (regFields .fault3 (0x074 + 0x800)).isEmpty = true := by decide

/-- The device after a value stands in FC_RESTORE. -/
def Dev.restoreStored (d : Dev) (v : Word) : Dev := d.store .fault3 0x074 (hdrAddr 7 0x074) v

theorem Dev.restoreStored_get (d : Dev) (v : Word) {r : FieldRow} (h : fieldAddr .fault3 0 r 0 ≠ 0x7074) :
    (d.restoreStored v).get .fault3 0 r = d.get .fault3 0 r :=
  congrArg r.ext (d.reg_setReg_other h _)

theorem Dev.busPair_fcRestore {s : State} (ho : s.opens 7 = true) (mst : Nat) (v : Word) :
    s.begin.busPair mst (fieldAddr .fault3 0 fFC_RESTORE_REQ 0) v = ((s.begin.restoreStored v).fcRestore v).expirePend 7 := by
  obtain ⟨hfields, hguard, hcomp⟩ := fcRestore_guarded
  exact Dev.busPair_open (off := 0x074) ho pageInfo_fault3 (by decide) (by decide) (by decide) hfields hguard hcomp mst v

/-- A restore of the element is under way. -/
def Dev.restoring (d : Dev) (b : Nat) : Dev :=
  d.modFault fun f => { f with restoring := if f.restoring.contains b then f.restoring else f.restoring ++ [b] }

theorem Dev.mem_restoring (d : Dev) (b : Nat) : b ∈ (d.restoring b).core.fault.restoring := by
  change b ∈ if d.core.fault.restoring.contains b = true then d.core.fault.restoring else d.core.fault.restoring ++ [b]
  by_cases h : d.core.fault.restoring.contains b = true
  · rw [if_pos h]
    exact List.contains_iff_mem.1 h
  · rw [if_neg h]
    exact List.mem_append_right _ List.mem_cons_self

section
variable {d : Dev} {v : Word} (hreq : v.getLsbD 31 = true)
include hreq

theorem Dev.fcRestore_unknown (hb : restoreElem (bitsNat v 10 8) (bitsNat v 7 0) = none) : d.fcRestore v = d.bump .fault3 0 fFC_RESTORE_CNT_REFUSED := by
  unfold Dev.fcRestore
  rw [hreq, hb]
  rfl

theorem Dev.fcRestore_accepts {b : Nat} (hb : restoreElem (bitsNat v 10 8) (bitsNat v 7 0) = some b) (hsound : d.elemFaulty b = false)
    (hquad : 183 ≤ b → (d.get .fault3 0 fFC_WD_OTHER_QUAD).testBit (b - 183) = true) :
    d.fcRestore v = if 183 ≤ b then d.restoring b else (d.restoring b).askReset b false := by
  have hok : ¬ (d.elemFaulty b = true ∨ 183 ≤ b ∧ (!(d.get .fault3 0 fFC_WD_OTHER_QUAD).testBit (b - 183)) = true) := by
    rw [hsound]
    exact fun h => h.elim Bool.false_ne_true fun ⟨hb, h⟩ => by simp [hquad hb] at h
  unfold Dev.fcRestore
  rw [hreq, hb]
  exact if_neg hok

end

section
variable {s : State} {v : Word} (ho : s.opens 7 = true) (hreq : v.getLsbD 31 = true)
include ho hreq

theorem answers_restoreRefused (mst : Fin 4096) (hb : restoreElem (bitsNat v 10 8) (bitsNat v 7 0) = none) : Answers (.fcRestore mst v) s fun t =>
    t.begin.get .fault3 0 fFC_RESTORE_CNT_REFUSED = min (s.begin.get .fault3 0 fFC_RESTORE_CNT_REFUSED + 1) (2 ^ 16 - 1) := by
  refine answers_written (run_fcRestore mst v s) ho ((Dev.busPair_fcRestore ho mst.val v).trans (congrArg (Dev.expirePend · 7) (Dev.fcRestore_unknown hreq hb)))
    ((Dev.Beside.store _ _ _ _ v).trans (Dev.Beside.bump _ _ _ _ _ _)) ?_
  have hover : Dev.Over s (s.begin.restoreStored v) := (Dev.Over.begin s).store _ _ _ _
  rw [State.commit_get (hover.bump _ _ _ _ _), Dev.get_bump_same _ _ _ _ 1 0 (by decide), Dev.restoreStored_get _ _ (by decide)]
  rfl

variable {b : Nat} (hb : restoreElem (bitsNat v 10 8) (bitsNat v 7 0) = some b) (hsound : s.begin.elemFaulty b = false)
include hb hsound

theorem answers_restoreBlock (mst : Fin 4096) (hblock : b < 183) : Answers (.fcRestore mst v) s fun t =>
    ∃ e : Dev, t = s.commit (((e.askReset b false).expirePend 7).settle 64) ∧ b ∈ e.core.fault.restoring ∧ e.core.fault.recs = s.core.fault.recs := by
  have haccept : (s.begin.restoreStored v).fcRestore v = ((s.begin.restoreStored v).restoring b).askReset b false :=
    (Dev.fcRestore_accepts (d := s.begin.restoreStored v) hreq hb hsound fun h => absurd h (by omega)).trans (if_neg (by omega))
  exact ⟨_, exec_effect (run_fcRestore mst v s) ((Dev.busPair_fcRestore ho mst.val v).trans (congrArg (Dev.expirePend · 7) haccept)), (s.begin.restoreStored v).restoring b, rfl,
    Dev.mem_restoring _ b, rfl⟩

theorem answers_restoreQuadrant (mst : Fin 4096) (hquad : 183 ≤ b) (hoff : (s.begin.get .fault3 0 fFC_WD_OTHER_QUAD).testBit (b - 183) = true) :
    Answers (.fcRestore mst v) s fun t => b ∈ t.core.fault.restoring := by
  have o := State.opens_elim ho
  have haccept : (s.begin.restoreStored v).fcRestore v = (s.begin.restoreStored v).restoring b :=
    (Dev.fcRestore_accepts (d := s.begin.restoreStored v) hreq hb hsound fun _ => by rw [Dev.restoreStored_get _ _ (by decide)]; exact hoff).trans (if_pos hquad)
  have heff := Dev.busPair_fcRestore ho mst.val v
  rw [haccept, Dev.expirePend_none o.noPair] at heff
  refine answers_calm (run_fcRestore mst v s) ?_ ?_ <;> simp only [heff]
  · exact o.calm
  · exact Dev.mem_restoring _ b

end

/-- Settles O53: where the collector reacts to nothing, an event is counted and its source marked, and a clear leaves the counts. -/
theorem faultsAreTakenClearedAndRestored : Obligations.FaultsAreTakenClearedAndRestored := by
  intro s src k mst acc det addr v i b w hcalm
  refine ⟨answers_knownEvent, fun hi hwindows hstate hrails hn hmask hsrc => answers_severeEvent hcalm hi hwindows hstate hrails hn hmask hsrc,
    fun hi hwindows hstate hsrc => answers_pathFault hcalm hi hwindows hstate hsrc, fun hw hrecs => answers_quarantineClose hcalm hw hrecs,
    fun ho => ⟨fun hi hlevel hrails => answers_fcClr ho mst k hi ⟨hlevel, hrails⟩, fun hceased hi => answers_fcClrAll ho mst hi hceased⟩,
    fun ho hreq => ⟨fun hb hsound => ⟨fun hblock => answers_restoreBlock ho hreq hb hsound mst hblock,
      fun hquad hoff => answers_restoreQuadrant ho hreq hb hsound mst hquad hoff⟩, fun hb => answers_restoreRefused ho hreq mst hb⟩⟩

end Sys2Proof.Machine
end

section
namespace Sys2Proof.Machine

/-! ## Requests for a state (R374) -/

/-- The place of Lehr's first page in the block base table. -/
def lehrPowerInfo : PageInfo := ⟨.lehrPower, 2, 0, 1, 1, 0⟩

theorem pageInfo_lehrPower : pageInfo 1 = some lehrPowerInfo := by decide

/-- LP_DOMn of a domain but the always-on one is written without a complement. -/
theorem domReg_open {n : Nat} (h1 : 1 ≤ n) (hn : n < 202) : (regFields .lehrPower (0x400 + 4 * n)).isEmpty = false ∧
    guardedAt .lehrPower (0x400 + 4 * n) = false ∧ (hasAcc .lehrPower (0x400 + 4 * n) .rw || hasAcc .lehrPower (0x400 + 4 * n) .wo) = true := by
  simp only [guardedAt, hasAcc, regFields_dom h1 hn]
  exact ⟨by decide, Bool.and_eq_false_iff.2 (.inr (by decide)), by decide⟩

/-- The device with the fields that a write of LP_DOMn carries in place. -/
def Dev.domWritten (d : Dev) (n req idle twake : Nat) : Dev :=
  ((d.set .lehrPower 0 fLP_DOM_REQ req n).set .lehrPower 0 fLP_DOM_IDLE_US idle n).set .lehrPower 0 fLP_DOM_TWAKE twake n

theorem Dev.Over.domWritten {s : State} {d : Dev} (h : Dev.Over s d) (n req idle twake : Nat) : Dev.Over s (d.domWritten n req idle twake) :=
  ((h.set _ _ _ _ _).set _ _ _ _ _).set _ _ _ _ _

theorem Dev.writeDomain_writes (d : Dev) {n : Nat} (h1 : 1 ≤ n) (v : Word) : d.writeDomain n v true =
    (d.domWritten n (fLP_DOM_REQ.ext v) (fLP_DOM_IDLE_US.ext v) (fLP_DOM_TWAKE.ext v)).powerRequest n (fLP_DOM_REQ.ext v) := by
  unfold Dev.writeDomain
  rw [if_neg (by omega)]
  rfl

/-- The word that a request writes to LP_DOMn. -/
def domWord (req : Fin 4) (idle : BitVec 16) (twake : Nat) : Word := fLP_DOM_TWAKE.ins (fLP_DOM_REQ.ins (idle.setWidth 32) req.val) twake

theorem domWord_fields (req : Fin 4) (idle : BitVec 16) {twake : Nat} (ht : twake < 2) : fLP_DOM_REQ.ext (domWord req idle twake) = req.val ∧
    fLP_DOM_IDLE_US.ext (domWord req idle twake) = idle.toNat ∧ fLP_DOM_TWAKE.ext (domWord req idle twake) = twake := by
  unfold domWord
  refine ⟨?_, ?_, ?_⟩
  · rw [FieldRow.ext_ins_other _ _ (by decide), FieldRow.ext_ins_same _ (by decide)]
    exact Nat.mod_eq_of_lt req.isLt
  · rw [FieldRow.ext_ins_other _ _ (by decide), FieldRow.ext_ins_other _ _ (by decide)]
    change ((idle.setWidth 32) >>> 0).toNat % 2 ^ 16 = idle.toNat
    rw [BitVec.ushiftRight_zero, BitVec.toNat_setWidth]
    omega
  · rw [FieldRow.ext_ins_same _ (by decide)]
    exact Nat.mod_eq_of_lt ht

theorem Dev.busWrite_dom {s : State} (ho : s.opens 1 = true) {n : Nat} (h1 : 1 ≤ n) (hn : n < 202) (mst : Nat) (v : Word) :
    s.begin.busWrite mst (fieldAddr .lehrPower 0 fLP_DOM_REQ n) v = (s.begin.writeDomain n v true).expirePend 1 := by
  obtain ⟨hfields, hguard, hacc⟩ := domReg_open h1 hn
  have haddr : fieldAddr .lehrPower 0 fLP_DOM_REQ n = 1 * 4096 + (0x400 + 4 * n) := (fieldAddr_dom (by decide) n).trans (by omega)
  rw [haddr, Dev.busWrite_open ho pageInfo_lehrPower (by omega) (by omega) hfields hguard (by omega) hacc]
  refine congrArg (Dev.expirePend · 1) ?_
  have hindex : (0x400 + 4 * n - 0x400) / 4 = n := by omega
  unfold Dev.writeAct
  dsimp only
  rw [if_neg (by omega), if_neg (by omega), if_neg (by omega)]
  change (if (!true) = true then _ else if 0x400 + 4 * n = 0x040 then _ else if 0x400 + 4 * n = 0x04C then _ else _ : Dev × Bool).1 = _
  rw [if_neg (by decide), if_neg (by omega), if_neg (by omega), hindex]

section
variable {d : Dev} {n target code : Nat} (hstate : d.domState n = 0) (htarget : target = 1 ∨ target = 2) (hstays : d.enteringOf n = none)
include hstate htarget hstays

theorem Dev.requestEntry_begins (hjudge : d.judgeEntry n target = none) (hidle : d.domIdle n = true) : d.requestEntry n target = d.beginEntry n target := by
  unfold Dev.requestEntry
  rw [if_neg (by rw [hstate, hstays]; simp; omega), hjudge]
  exact if_pos ⟨hstate, hidle⟩

theorem Dev.requestEntry_refused (hjudge : d.judgeEntry n target = some code) : d.requestEntry n target = d.refuseEntry n code := by
  unfold Dev.requestEntry
  rw [if_neg (by rw [hstate, hstays]; simp; omega), hjudge]

end

theorem Dev.refuseEntry_refuser (d : Dev) {n : Nat} (h1 : 1 ≤ n) (hn : n < 202) (code : Nat) :
    (d.refuseEntry n code).get .lehrPower 0 fLP_REF_REFUSER n = code % 2 ^ 16 :=
  Dev.get_set_same _ .lehrPower 0 fLP_REF_REFUSER code n (refFields_ok (by decide) h1 hn)

theorem Dev.Over.refuseEntry {s : State} {d : Dev} (h : Dev.Over s d) (n code : Nat) : Dev.Over s (d.refuseEntry n code) :=
  (h.bump _ _ _ _ _).set _ _ _ _ _

section
variable {s : State} {mst : Fin 4096} {dom : Fin 202} {req : Fin 4} {idle : BitVec 16} {code : Nat} {S : Dev} (ho : s.opens 1 = true) (h1 : 1 ≤ dom.val)
  (hreq : req.val = 1 ∨ req.val = 2) (hS : S = s.begin.domWritten dom.val req.val idle.toNat (s.begin.get .lehrPower 0 fLP_DOM_TWAKE dom.val))
  (hstate : S.domState dom.val = 0) (hstays : S.enteringOf dom.val = none)
include ho h1 hreq hS

/-- A write of LP_DOMn with REQ 1 or 2 is a request for that state. -/
theorem exec_powerRequest : exec (.powerRequest mst dom req idle) s = s.run fun _ => (S.requestEntry dom.val req.val).expirePend 1 := by
  obtain ⟨hreqField, hidleField, htwakeField⟩ := domWord_fields req idle (twake := s.begin.get .lehrPower 0 fLP_DOM_TWAKE dom.val) (FieldRow.ext_lt _ _)
  have heff : s.begin.busWrite mst.val (fieldAddr .lehrPower 0 fLP_DOM_REQ dom.val) (domWord req idle (s.begin.get .lehrPower 0 fLP_DOM_TWAKE dom.val)) =
      (S.requestEntry dom.val req.val).expirePend 1 := by
    rw [Dev.busWrite_dom ho h1 dom.isLt, Dev.writeDomain_writes _ h1, hreqField, hidleField, htwakeField, ← hS]
    exact congrArg (Dev.expirePend · 1) (if_pos hreq)
  exact exec_effect (run_powerRequest mst dom req idle s) heff

include hstate hstays

theorem answers_requestBegins (hjudge : S.judgeEntry dom.val req.val = none) (hidle : S.domIdle dom.val = true) : Answers (.powerRequest mst dom req idle) s fun t =>
    t = s.commit (S.beginEntry dom.val req.val) ∧ t.core.lehr.entering = S.core.lehr.entering ++ [⟨dom.val, req.val, false, s.begin.free, none⟩] := by
  have hbegins := congrArg (Dev.expirePend · 1) (Dev.requestEntry_begins hstate hreq hstays hjudge hidle)
  have hbeside : Dev.Beside s.begin (S.beginEntry dom.val req.val) := by rw [hS]; exact ⟨rfl, rfl, rfl, rfl⟩
  have hfree : S.free = s.begin.free := by rw [hS]; rfl
  exact answers_written (exec_powerRequest ho h1 hreq hS) ho hbegins hbeside ⟨rfl, by rw [← hfree]; rfl⟩

theorem answers_requestRefused (hjudge : S.judgeEntry dom.val req.val = some code) : Answers (.powerRequest mst dom req idle) s fun t =>
    t = s.commit (S.refuseEntry dom.val code) ∧ t.begin.get .lehrPower 0 fLP_REF_REFUSER dom.val = code % 2 ^ 16 := by
  have hrefused := congrArg (Dev.expirePend · 1) (Dev.requestEntry_refused hstate hreq hstays hjudge)
  have hbeside : Dev.Beside s.begin (S.refuseEntry dom.val code) := by rw [hS]; exact ⟨rfl, rfl, rfl, rfl⟩
  have hover : Dev.Over s (S.refuseEntry dom.val code) := by rw [hS]; exact ((Dev.Over.begin s).domWritten _ _ _ _).refuseEntry _ _
  refine answers_written (exec_powerRequest ho h1 hreq hS) ho hrefused hbeside ⟨rfl, ?_⟩
  rw [State.commit_get hover, Dev.refuseEntry_refuser _ h1 dom.isLt]

end

/-! ## The idle timer -/

section
variable {s : State} {dom : Fin 202} (hcalm : s.calm = true) (h0 : dom.val ≠ 0) (hspine : dom.val ≠ 0xC9) (hstate : s.begin.domState dom.val = 0)
  (hstays : s.begin.enteringOf dom.val = none) (hreq : s.begin.get .lehrPower 0 fLP_DOM_REQ dom.val = 0)
  (htimer : s.begin.get .lehrPower 0 fLP_DOM_IDLE_US dom.val ≠ 0)
include h0 hspine hstate hreq htimer

/-- The timer of a domain that is on, and of which no state is asked, asks for retention. -/
theorem Dev.idleExpiry_requests : s.begin.idleExpiry dom.val = s.begin.requestEntry dom.val 1 := by
  unfold Dev.idleExpiry
  rw [if_neg (by rw [hstate]; omega)]
  dsimp only
  rw [hreq, if_neg (by decide), if_pos htimer]

include hcalm hstays

theorem answers_idleBegins (hjudge : s.begin.judgeEntry dom.val 1 = none) (hidle : s.begin.domIdle dom.val = true) : Answers (.idleTimerExpiry dom) s fun t =>
    t = s.commit (s.begin.beginEntry dom.val 1) ∧ t.core.lehr.entering = s.core.lehr.entering ++ [⟨dom.val, 1, false, s.begin.free, none⟩] := by
  have heff := (Dev.idleExpiry_requests h0 hspine hstate hreq htimer).trans (Dev.requestEntry_begins hstate (.inl rfl) hstays hjudge hidle)
  refine answers_calm (run_idleTimerExpiry dom s) ?_ ?_ <;> simp only [heff]
  · exact State.calm_iff.1 hcalm
  · exact ⟨trivial, rfl⟩

theorem answers_idleRefused {code : Nat} (hjudge : s.begin.judgeEntry dom.val 1 = some code) : Answers (.idleTimerExpiry dom) s fun t =>
    t.begin.get .lehrPower 0 fLP_REF_REFUSER dom.val = code % 2 ^ 16 := by
  have heff := (Dev.idleExpiry_requests h0 hspine hstate hreq htimer).trans (Dev.requestEntry_refused hstate (.inl rfl) hstays hjudge)
  refine answers_calm (run_idleTimerExpiry dom s) ?_ ?_ <;> simp only [heff]
  · exact State.calm_iff.1 hcalm
  · rw [State.commit_get ((Dev.Over.begin s).refuseEntry _ _), Dev.refuseEntry_refuser _ (Nat.one_le_iff_ne_zero.2 h0) dom.isLt]

end

end Sys2Proof.Machine
end

section
namespace Sys2Proof.Machine

/-! ## Entries that end, wakes and returns (R373, R375, R376) -/

theorem Dev.refreshAsleep_touches (d : Dev) : Dev.Touches [0xB] d d.refreshAsleep := .set _ _ _ _ _ _ (by decide)

/-- The state of a domain stands on Lehr's page, apart from EVT_ASLEEP. -/
theorem Dev.get_refreshAsleep_dom (d : Dev) {n : Nat} (hn : n < 202) :
    d.refreshAsleep.get .lehrPower 0 fLP_DOM_STATE n = d.get .lehrPower 0 fLP_DOM_STATE n := by
  have haddr : fieldAddr .lehrPower 0 fLP_DOM_STATE n = 0x1400 + 4 * n := fieldAddr_dom (by decide) n
  refine d.refreshAsleep_touches.get _ _ _ _ ?_
  rw [haddr, List.mem_singleton]
  omega

/-- An entry that nothing wakes ends in its state. -/
def Dev.entered (d : Dev) (n state : Nat) : Dev :=
  (d.set .lehrPower 0 fLP_DOM_STATE state n).modLehr fun l => { l with entering := l.entering.filter (·.dom ≠ n) }

theorem Dev.entryDone_alone {d : Dev} {n : Nat} {m : DomMove} (hm : d.enteringOf n = some m) (hretained : m.toState = 1) (hwake : m.wake = none)
    (hgroup : d.core.lehr.groupMembers = []) : d.entryDone n = (d.entered n 1).refreshAsleep := by
  have hfound : d.core.lehr.entering.find? (fun x => x.dom = n) = some m := hm
  have hdom : m.dom = n := by simpa using List.find?_some hfound
  have henter : d.enterState m = d.entered n 1 := by
    unfold Dev.enterState
    rw [hwake, hretained, hdom]
    rfl
  unfold Dev.entryDone
  rw [hm]
  dsimp only
  rw [hgroup, henter]
  rfl

/-- Of the moves of the other domains none is this domain's. -/
theorem find?_filter_dom (l : List DomMove) (n : Nat) : ((l.filter fun m => m.dom ≠ n).find? fun m => m.dom = n) = none := by
  simp [List.find?_eq_none]

/-- A domain that returns from retention, and has no page, is on. -/
def Dev.returned (d : Dev) (n : Nat) : Dev :=
  (d.modLehr fun l => { l with exiting := l.exiting.filter fun x => x.dom ≠ n }).set .lehrPower 0 fLP_DOM_STATE 0 n

theorem Dev.domainBack_alone {d : Dev} {n : Nat} {m : DomMove} (hm : d.core.lehr.exiting.find? (fun x => x.dom = n) = some m) (hpage : domPage n = none) :
    d.domainBack n = (d.returned n).refreshAsleep := by
  unfold Dev.domainBack
  rw [hm]
  dsimp only
  rw [hpage]
  rfl

section
variable {s : State} {dom : Fin 202} {m : DomMove} (hcalm : s.calm = true) (h1 : 1 ≤ dom.val)
include hcalm h1

theorem answers_domainEntryDone (hm : s.begin.enteringOf dom.val = some m) (hretained : m.toState = 1) (hwake : m.wake = none)
    (hgroup : s.core.lehr.groupMembers = []) : Answers (.domainEntryDone dom) s fun t =>
      t.begin.get .lehrPower 0 fLP_DOM_STATE dom.val = 1 ∧ t.begin.enteringOf dom.val = none := by
  have heff := Dev.entryDone_alone hm hretained hwake hgroup
  have hover : Dev.Over s (s.begin.entered dom.val 1) := ((Dev.Over.begin s).set _ _ _ _ _).of_eq rfl rfl rfl
  refine answers_calm (run_domainEntryDone dom s) ?_ ?_ <;> simp only [heff]
  · exact State.calm_iff.1 hcalm
  · refine ⟨?_, find?_filter_dom _ _⟩
    rw [State.commit_get (Dev.refreshAsleep_touches _ |>.keeps s hover), Dev.get_refreshAsleep_dom _ dom.isLt]
    exact Dev.get_set_fits _ .lehrPower 0 fLP_DOM_STATE 1 dom.val (domFields_ok (by decide) h1 dom.isLt) (by decide)

theorem answers_domainExitDone (hm : s.core.lehr.exiting.find? (fun x => x.dom = dom.val) = some m) (hpage : domPage dom.val = none) :
    Answers (.domainExitDone dom) s fun t =>
      t.begin.get .lehrPower 0 fLP_DOM_STATE dom.val = 0 ∧ t.core.lehr.exiting = s.core.lehr.exiting.filter (fun x => x.dom ≠ dom.val) := by
  have heff := Dev.domainBack_alone (d := s.begin) hm hpage
  have hover : Dev.Over s (s.begin.returned dom.val) :=
    Dev.Over.set (d := s.begin.modLehr fun l => { l with exiting := l.exiting.filter fun x => x.dom ≠ dom.val }) ((Dev.Over.begin s).of_eq rfl rfl rfl) _ _ _ _ _
  refine answers_calm (run_domainExitDone dom s) ?_ ?_ <;> simp only [heff]
  · exact State.calm_iff.1 hcalm
  · refine ⟨?_, rfl⟩
    rw [State.commit_get (Dev.refreshAsleep_touches _ |>.keeps s hover), Dev.get_refreshAsleep_dom _ dom.isLt]
    exact Dev.get_set_fits _ .lehrPower 0 fLP_DOM_STATE 0 dom.val (domFields_ok (by decide) h1 dom.isLt) (by decide)

end

/-! ## Wakes (R375) -/

/-- The fields of Lehr's page before its domains. -/
def lehrFields : List FieldRow := [fLP_CLSTAT_RESULT, fLP_CLSTAT_REFUSER, fLP_TIMER_EN, fLP_WAKE_CNT_WAKES, fLP_LAST_WAKE_SOURCE, fLP_LAST_WAKE_DOMAIN]

theorem lehrFields_ok : ∀ q ∈ lehrFields, fieldOk .lehrPower 0 q 0 = true := by decide

section
variable (d : Dev) {r q : FieldRow} (v : Nat)

theorem Dev.get_setLehr_own (hq : q ∈ lehrFields) (hv : v < 2 ^ q.width) : (d.set .lehrPower 0 q v).get .lehrPower 0 q = v :=
  d.get_set_fits .lehrPower 0 q v 0 (lehrFields_ok q hq) hv

theorem Dev.get_setLehr_apart (hq : q ∈ lehrFields) (h : r.apart q = true) : (d.set .lehrPower 0 r v).get .lehrPower 0 q = d.get .lehrPower 0 q :=
  d.get_set_apart .lehrPower 0 (lehrFields_ok q hq) h v

end

/-- A domain begins its exit, and the wake is counted. -/
def Dev.exitBegun (d : Dev) (n src : Nat) : Dev :=
  (((d.modLehr fun l => { l with exiting := l.exiting ++ [⟨n, 0, d.domState n = 2, d.free, none⟩] }).bump .lehrPower 0 fLP_WAKE_CNT_WAKES).set .lehrPower 0
    fLP_LAST_WAKE_SOURCE src).set .lehrPower 0 fLP_LAST_WAKE_DOMAIN n

theorem Dev.wakeBy_exits {d : Dev} {n src : Nat} (hset : d.wakeSet n src = [n]) (hsleeps : d.domState n ≠ 0) (hstays : d.enteringOf n = none)
    (hfirst : (d.core.lehr.exiting.any fun x => x.dom = n) = false) : d.wakeBy n src = (d.exitBegun n src).assertEvt 118 := by
  have hone : d.wakeOne n src = d.exitBegun n src := by
    unfold Dev.wakeOne
    rw [hstays]
    exact if_neg fun h => h.elim hsleeps fun g => by rw [hfirst] at g; cases g
  unfold Dev.wakeBy
  rw [hset, List.foldl_cons, List.foldl_nil, Dev.wakeDom, if_neg fun h => hsleeps h.1, hone]

theorem Dev.exitBegun_fields (d : Dev) {n src : Nat} (hn : n < 256) (hsrc : src < 256) :
    (d.exitBegun n src).get .lehrPower 0 fLP_LAST_WAKE_SOURCE = src ∧ (d.exitBegun n src).get .lehrPower 0 fLP_LAST_WAKE_DOMAIN = n ∧
      (d.exitBegun n src).get .lehrPower 0 fLP_WAKE_CNT_WAKES = min (d.get .lehrPower 0 fLP_WAKE_CNT_WAKES + 1) (2 ^ 16 - 1) :=
  ⟨(Dev.get_setLehr_apart _ _ (by decide) (by decide)).trans (Dev.get_setLehr_own _ _ (by decide) hsrc), Dev.get_setLehr_own _ _ (by decide) hn,
    (Dev.get_setLehr_apart _ _ (by decide) (by decide)).trans ((Dev.get_setLehr_apart _ _ (by decide) (by decide)).trans
      (Dev.get_bump_same _ .lehrPower 0 fLP_WAKE_CNT_WAKES 1 0 (lehrFields_ok _ (by decide))))⟩

theorem answers_domainWake {s : State} {dom : Fin 202} {src : Fin 9} (hcalm : s.calm = true) (hsrc : src.val = 2 ∨ src.val = 4 ∨ src.val = 8)
    (hsleeps : s.begin.domState dom.val ≠ 0) (hstays : s.begin.enteringOf dom.val = none) (hfirst : (s.core.lehr.exiting.any fun x => x.dom = dom.val) = false) :
    Answers (.domainWake dom src) s fun t => t = s.commit ((s.begin.exitBegun dom.val src.val).assertEvt 118) := by
  have hset : s.begin.wakeSet dom.val src.val = [dom.val] := by
    rcases hsrc with h | h | h <;> rw [h] <;> rfl
  have heff := Dev.wakeBy_exits hset hsleeps hstays hfirst
  refine answers_calm (run_domainWake dom src s) ?_ ?_ <;> simp only [heff]
  rw [(Dev.assertEvt_signals _ 118).fault]
  exact State.calm_iff.1 hcalm

/-! ## The Lehr timer (R375) -/

/-- LP_TIMER and LP_CLREQ are written through guarded pairs. -/
theorem lpTimer_guarded : (regFields .lehrPower 0x04C).isEmpty = false ∧ guardedAt .lehrPower 0x04C = true ∧
    (regFields .lehrPower (0x04C + 0x800)).isEmpty = true := by decide
theorem lpClreq_guarded : (regFields .lehrPower 0x040).isEmpty = false ∧ guardedAt .lehrPower 0x040 = true ∧
    (regFields .lehrPower (0x040 + 0x800)).isEmpty = true := by decide

theorem answers_lpTimerArm {s : State} (ho : s.opens 1 = true) (mst : Fin 4096) (v : Word) : Answers (.lpTimerArm mst v) s fun t =>
    t.core.lehr.timer = (if v.getLsbD 31 then some (bitsNat v 30 0) else none) := by
  obtain ⟨hfields, hguard, hcomp⟩ := lpTimer_guarded
  have heff : s.begin.busPair mst.val 0x104C v = ((s.begin.store .lehrPower 0x04C (hdrAddr 1 0x04C) v).timerArm v).expirePend 1 :=
    Dev.busPair_open (off := 0x04C) ho pageInfo_lehrPower (by decide) (by decide) (by decide) hfields hguard hcomp mst.val v
  exact answers_written (run_lpTimerArm mst v s) ho heff ⟨rfl, rfl, rfl, rfl⟩ rfl

/-- A timer that fired is over. -/
def Dev.timerOver (d : Dev) : Dev := ((d.modLehr fun l => { l with timer := none }).set .lehrPower 0 fLP_TIMER_EN 0).statBit .lehrPower 0 2

theorem Dev.timerFires_armed {d : Dev} (h : d.core.lehr.timer.isSome = true) : d.timerFires = (d.timerOver.assertEvt 118).wakeBy 0 6 := by
  obtain ⟨us, hus⟩ := Option.isSome_iff_exists.1 h
  unfold Dev.timerFires
  rw [hus]
  rfl

theorem Dev.timerOver_fields (d : Dev) : d.timerOver.get .lehrPower 0 fLP_TIMER_EN = 0 ∧
    d.timerOver.get .lehrPower 0 fLP_CLSTAT_RESULT = d.get .lehrPower 0 fLP_CLSTAT_RESULT :=
  ⟨(Dev.get_statBit _ _ _ _ (by decide) _).trans (Dev.get_setLehr_own _ _ (by decide) (by decide)),
    (Dev.get_statBit _ _ _ _ (by decide) _).trans (Dev.get_setLehr_apart _ _ (by decide) (by decide))⟩

theorem answers_lpTimerExpiry {s : State} (hcalm : s.calm = true) (h : s.core.lehr.timer.isSome = true) : Answers .lpTimerExpiry s fun t =>
    t = s.commit ((s.begin.timerOver.assertEvt 118).wakeBy 0 6) := by
  have heff := Dev.timerFires_armed (d := s.begin) h
  refine answers_calm (run_lpTimerExpiry s) ?_ ?_ <;> simp only [heff]
  rw [(Dev.wakeBy_signals _ 0 6).fault, (Dev.assertEvt_signals _ 118).fault]
  exact State.calm_iff.1 hcalm

/-! ## Groups (R377) -/

/-- The members of a group differ. -/
theorem groupOf_nodup {kind i : Nat} (hk : kind < 4) (hi : i < 16) : (groupOf kind i).Nodup :=
  (by decide : ∀ kind < 4, ∀ i < 16, (groupOf kind i).Nodup) kind hk i hi

/-- One member of a group begins its entry, unless it has begun already. -/
def Dev.memberBegins (d : Dev) (m : Nat) : Dev := if (d.enteringOf m).isSome then d else d.beginEntry m 1

theorem Dev.enteringOf_beginEntry_other {d : Dev} {m k : Nat} (h : m ≠ k) (hk : d.enteringOf k = none) (target : Nat) :
    (d.beginEntry m target).enteringOf k = none := by
  change (d.core.lehr.entering ++ [(⟨m, target, false, d.free, none⟩ : DomMove)]).find? (fun x : DomMove => x.dom = k) = none
  rw [List.find?_append, show d.core.lehr.entering.find? (fun x => x.dom = k) = none from hk]
  simp [h]

/-- Distinct domains that stay begin their entries together. -/
theorem Dev.membersBegin (l : List Nat) (hl : l.Nodup) : ∀ d : Dev, (∀ k ∈ l, d.enteringOf k = none) →
    l.foldl Dev.memberBegins d = d.modLehr fun h => { h with entering := h.entering ++ l.map fun k => ⟨k, 1, false, d.free, none⟩ } := by
  induction l with
  | nil =>
    intro d _
    simp [Dev.modLehr]
  | cons m l ih =>
    intro d hd
    obtain ⟨hm, hl⟩ := List.nodup_cons.1 hl
    have hbegins : d.memberBegins m = d.beginEntry m 1 := if_neg (by rw [hd m List.mem_cons_self]; exact Bool.false_ne_true)
    rw [List.foldl_cons, hbegins, ih hl _ fun k hk => Dev.enteringOf_beginEntry_other (fun h : m = k => hm (h.symm ▸ hk)) (hd k (List.mem_cons_of_mem _ hk)) 1]
    simp [Dev.modLehr, Dev.beginEntry, Dev.free]

/-- A group that is refused whole. -/
def Dev.groupRefused (d : Dev) (ms : List Nat) (r : Nat) : Dev :=
  ((((ms.foldl (fun (d : Dev) m => d.refuseEntry m r) d).set .lehrPower 0 fLP_CLSTAT_RESULT 2).set .lehrPower 0 fLP_CLSTAT_REFUSER r).bump .lehrPower 0
    fLP_CLCNT_ROLLED_BACK).statBit .lehrPower 0 1

/-- A group that enters together. -/
def Dev.groupBegun (d : Dev) (on : List Nat) : Dev :=
  ((on.foldl Dev.memberBegins d).modLehr fun l => { l with groupMembers := on }).set .lehrPower 0 fLP_CLSTAT_RESULT 3

section
variable {d : Dev} {v : Word} {ms : List Nat} (hgo : v.getLsbD 31 = true) (hfree : d.core.lehr.groupMembers = [])
  (hms : groupOf (bitsNat v 17 16) (bitsNat v 3 0) = ms) (hsome : ms ≠ [])
include hgo hfree hms hsome

theorem Dev.groupRequest_refused {r : Nat} (hr : ms.find? d.memberRefuses = some r) : d.groupRequest v = d.groupRefused ms r := by
  unfold Dev.groupRequest
  rw [hgo, hfree, hms]
  dsimp only
  rw [hr, if_neg (by decide), if_neg (by decide), if_neg fun h => hsome (List.isEmpty_iff.1 h)]
  rfl

theorem Dev.groupRequest_begins {on : List Nat} (hr : ms.find? d.memberRefuses = none) (hon : ms.filter (fun k => d.domState k = 0) = on) (hany : on ≠ []) :
    d.groupRequest v = d.groupBegun on := by
  unfold Dev.groupRequest
  rw [hgo, hfree, hms]
  dsimp only
  rw [hr, hon, if_neg (by decide), if_neg (by decide), if_neg fun h => hsome (List.isEmpty_iff.1 h)]
  exact if_neg fun h => hany (List.isEmpty_iff.1 h)

end

theorem Dev.groupRefused_core (d : Dev) (ms : List Nat) (r : Nat) : (d.groupRefused ms r).core = d.core := by
  simp only [Dev.groupRefused, Dev.statBit_core, Dev.bump_core, Dev.set_core]
  exact Dev.refuseAll_core ms r d

theorem Dev.Over.groupRefused {s : State} {d : Dev} (h : Dev.Over s d) (ms : List Nat) (r : Nat) : Dev.Over s (d.groupRefused ms r) :=
  ((((List.foldlRecOn (motive := Dev.Over s) ms _ h fun _ he m _ => he.refuseEntry m r).set _ _ _ _ _).set _ _ _ _ _).bump _ _ _ _ _).stat _ _

theorem Dev.groupRefused_fields (d : Dev) (ms : List Nat) (r : Nat) : (d.groupRefused ms r).get .lehrPower 0 fLP_CLSTAT_RESULT = 2 ∧
    (d.groupRefused ms r).get .lehrPower 0 fLP_CLSTAT_REFUSER = r % 2 ^ 16 :=
  ⟨(Dev.get_statBit _ _ _ _ (by decide) _).trans ((Dev.get_setLehr_apart _ _ (by decide) (by decide)).trans
      ((Dev.get_setLehr_apart _ _ (by decide) (by decide)).trans (Dev.get_setLehr_own _ _ (by decide) (by decide)))),
    (Dev.get_statBit _ _ _ _ (by decide) _).trans ((Dev.get_setLehr_apart _ _ (by decide) (by decide)).trans
      (Dev.get_set_same _ .lehrPower 0 fLP_CLSTAT_REFUSER r 0 (lehrFields_ok _ (by decide))))⟩

/-- The device after a value stands in LP_CLREQ. -/
def Dev.clreqStored (d : Dev) (v : Word) : Dev := d.store .lehrPower 0x40 0x1040 v

theorem Dev.busPair_clreq {s : State} (ho : s.opens 1 = true) (mst : Nat) (v : Word) :
    s.begin.busPair mst 0x1040 v = ((s.begin.clreqStored v).groupRequest v).expirePend 1 := by
  obtain ⟨hfields, hguard, hcomp⟩ := lpClreq_guarded
  exact Dev.busPair_open (off := 0x040) ho pageInfo_lehrPower (by decide) (by decide) (by decide) hfields hguard hcomp mst v

theorem Dev.Over.clreqStored {s : State} {d : Dev} (h : Dev.Over s d) (v : Word) : Dev.Over s (d.clreqStored v) := h.store _ _ _ _

section
variable {s : State} {v : Word} {ms : List Nat} (ho : s.opens 1 = true) (hgo : v.getLsbD 31 = true) (hfree : s.core.lehr.groupMembers = [])
  (hms : groupOf (bitsNat v 17 16) (bitsNat v 3 0) = ms) (hsome : ms ≠ [])
include ho hgo hfree hms hsome

theorem answers_groupRefused (mst : Fin 4096) {code : Nat} (hr : ms.find? (s.begin.clreqStored v).memberRefuses = some code) : Answers (.lpClreq mst v) s fun t =>
    t.core.lehr.entering = s.core.lehr.entering ∧ t.begin.get .lehrPower 0 fLP_CLSTAT_RESULT = 2 ∧
      t.begin.get .lehrPower 0 fLP_CLSTAT_REFUSER = code % 2 ^ 16 := by
  have hrefused := Dev.groupRequest_refused (d := s.begin.clreqStored v) hgo hfree hms hsome hr
  have hcore := (s.begin.clreqStored v).groupRefused_core ms code
  have hover := ((Dev.Over.begin s).clreqStored v).groupRefused ms code
  obtain ⟨hresult, hrefuser⟩ := (s.begin.clreqStored v).groupRefused_fields ms code
  refine answers_written (run_lpClreq mst v s) ho ((Dev.busPair_clreq ho mst.val v).trans (congrArg (Dev.expirePend · 1) hrefused))
    ⟨congrArg Core.slots hcore, congrArg Core.host hcore, congrArg Core.fault hcore, congrArg Core.take hcore⟩ ⟨?_, ?_, ?_⟩
  · rw [State.commit_core, hcore]
    rfl
  · rw [State.commit_get hover, hresult]
  · rw [State.commit_get hover, hrefuser]

theorem answers_groupBegins (mst : Fin 4096) {on : List Nat} (hr : ms.find? (s.begin.clreqStored v).memberRefuses = none)
    (hon : ms.filter (fun k => (s.begin.clreqStored v).domState k = 0) = on) (hany : on ≠ []) (hstay : ∀ k ∈ on, (s.begin.clreqStored v).enteringOf k = none) :
    Answers (.lpClreq mst v) s fun t => t.core.lehr.groupMembers = on ∧
      t.core.lehr.entering = s.core.lehr.entering ++ on.map (fun k => ⟨k, 1, false, s.begin.free, none⟩) ∧ t.begin.get .lehrPower 0 fLP_CLSTAT_RESULT = 3 := by
  have hnodup : on.Nodup := by
    rw [← hon, ← hms]
    exact (groupOf_nodup (Nat.mod_lt _ (by decide)) (Nat.mod_lt _ (by decide))).filter _
  have hbegun := Dev.groupRequest_begins (d := s.begin.clreqStored v) hgo hfree hms hsome hr hon hany
  rw [Dev.groupBegun, Dev.membersBegin on hnodup _ hstay] at hbegun
  have hover : Dev.Over s ((s.begin.clreqStored v).modLehr fun h => { h with entering := h.entering ++ on.map fun k => ⟨k, 1, false, s.begin.free, none⟩ }) :=
    ((Dev.Over.begin s).clreqStored v).of_eq rfl rfl rfl
  refine answers_written (run_lpClreq mst v s) ho ((Dev.busPair_clreq ho mst.val v).trans (congrArg (Dev.expirePend · 1) hbegun)) ⟨rfl, rfl, rfl, rfl⟩ ⟨rfl, rfl, ?_⟩
  refine (State.commit_get (Dev.Over.set (hover.of_eq rfl rfl rfl) _ _ _ _ _) _ _ _ _).trans (Dev.get_setLehr_own _ _ (by decide) (by decide))

end

/-- Settles O54: each request, entry, wake, return, group and timer is one lemma; what sleeps is known by its LP_DOMn. -/
theorem powerDomainsSleepAndWake : Obligations.PowerDomainsSleepAndWake := by
  intro s mst dom req idle src v code m hcalm
  refine ⟨fun ho h1 hreq hstate hstays => ⟨fun hjudge hidle => answers_requestBegins ho h1 hreq rfl hstate hstays hjudge hidle,
      fun hjudge => answers_requestRefused ho h1 hreq rfl hstate hstays hjudge⟩,
    fun h0 hspine hstate hstays hreq htimer => ⟨fun hjudge hidle => answers_idleBegins hcalm h0 hspine hstate hstays hreq htimer hjudge hidle,
      fun hjudge => answers_idleRefused hcalm h0 hspine hstate hstays hreq htimer hjudge⟩,
    fun h1 hm hretained hwake hgroup => answers_domainEntryDone hcalm h1 hm hretained hwake hgroup, fun hsrc hsleeps hstays hfirst => ?_,
    fun h1 hm _ hpage => answers_domainExitDone hcalm h1 hm hpage,
    fun ho hgo hfree hsome => ⟨fun hr hany hstay => answers_groupBegins ho hgo hfree rfl hsome mst hr rfl hany hstay,
      fun hr => answers_groupRefused ho hgo hfree rfl hsome mst hr⟩,
    fun ho => answers_lpTimerArm ho mst v, fun htimer => ?_⟩
  · obtain ⟨t, hexec, ht⟩ := answers_domainWake hcalm hsrc hsleeps hstays hfirst
    have hn := dom.isLt
    have hs := src.isLt
    exact ⟨t, hexec, _, ht, rfl, s.begin.exitBegun_fields (by omega) (by omega)⟩
  · obtain ⟨t, hexec, ht⟩ := answers_lpTimerExpiry hcalm htimer
    exact ⟨t, hexec, _, ht, rfl, s.begin.timerOver_fields⟩

end Sys2Proof.Machine
end
